-- ==== Sys2Proof/Word.lean ====
section
/-! DEFINITION. The word types of the model and their plainest arithmetic. -/

namespace Sys2Proof

/-- One byte, the unit every memory of the part is numbered in (spec/00_scope.md R6, little-endian). -/
abbrev Byte := BitVec 8

/-- A 32-bit register word (spec/00_scope.md R7). -/
abbrev Word := BitVec 32

/-- A 64-bit word: addresses, doorbells, list entries. -/
abbrev DWord := BitVec 64

/-- Sum of two counts, held at `2^bits - 1` once it reaches it: the part's saturating counters. -/
def satAdd (bits a b : Nat) : Nat := min (a + b) (2 ^ bits - 1)

end Sys2Proof
end

