-- ==== Sys2Proof/Machine/Tab.lean ====
section
/-! DEFINITION. Sparse tables: (number, value) pairs in one canonical form, numbers strictly rising and no entry equal to
what an unlisted number reads as. Memories, register files and tables of contexts, regions and pages are held so. -/

namespace Sys2Proof

/-- A sparse table from numbers to values. -/
abbrev Tab (α : Type) := List (Nat × α)

/-- The entry at a number; an unlisted number reads as `d` gives it. -/
def Tab.get (d : Nat → α) : Tab α → Nat → α
  | [], k => d k
  | (i, v) :: t, k => if i = k then v else Tab.get d t k

/-- The table without a number. -/
def Tab.del (k : Nat) : Tab α → Tab α
  | [] => []
  | (i, v) :: t => if i = k then Tab.del k t else (i, v) :: Tab.del k t

/-- An entry placed before the first higher number. -/
def Tab.ins (k : Nat) (v : α) : Tab α → Tab α
  | [] => [(k, v)]
  | (i, w) :: t => if k < i then (k, v) :: (i, w) :: t else (i, w) :: Tab.ins k v t

/-- A write: the old entry goes, and the new one stays only where it differs from what an unlisted number reads as. -/
def Tab.put [DecidableEq α] (d : Nat → α) (k : Nat) (v : α) (t : Tab α) : Tab α :=
  if v = d k then Tab.del k t else Tab.ins k v (Tab.del k t)

/-- A change of one entry. -/
def Tab.upd [DecidableEq α] (d : Nat → α) (k : Nat) (f : α → α) (t : Tab α) : Tab α := Tab.put d k (f (Tab.get d t k)) t

/-- The canonical form: numbers strictly rising, no entry at its default. -/
def Tab.wf [DecidableEq α] (d : Nat → α) : Tab α → Bool
  | [] => true
  | [(i, v)] => decide (v ≠ d i)
  | (i, v) :: (j, w) :: t => decide (v ≠ d i) && decide (i < j) && Tab.wf d ((j, w) :: t)

/-- The numbers listed. -/
def Tab.keys (t : Tab α) : List Nat := t.map (·.1)

/-- A memory of bytes. What nothing has written reads as zero (log entry 3). -/
abbrev Mem := Tab Byte

/-- What an unlisted byte reads as. -/
def memZero : Nat → Byte := fun _ => 0#8

/-- One byte of a memory. -/
def Mem.rd (m : Mem) (a : Nat) : Byte := Tab.get memZero m a

/-- One byte written. -/
def Mem.wr (a : Nat) (b : Byte) (m : Mem) : Mem := Tab.put memZero a b m

/-- `n` bytes from an address on. -/
def Mem.rdN (m : Mem) (a n : Nat) : List Byte := (List.range n).map fun i => m.rd (a + i)

/-- Bytes written from an address on. -/
def Mem.wrN (a : Nat) : List Byte → Mem → Mem
  | [], m => m
  | b :: bs, m => Mem.wrN (a + 1) bs (Mem.wr a b m)

/-- A range set to zero: its entries go. -/
def Mem.zero (a n : Nat) (m : Mem) : Mem := m.filter fun p => p.1 < a || a + n ≤ p.1

/-- The canonical form of a memory. -/
def Memory.wf (m : Mem) : Bool := Tab.wf memZero m

/-- A little-endian number of `n` bytes. -/
def Mem.rdNat (m : Mem) (a : Nat) : Nat → Nat
  | 0 => 0
  | n + 1 => (m.rd a).toNat + 256 * Mem.rdNat m (a + 1) n

end Sys2Proof
end

