-- ==== Sys2Proof/Types.lean ====
section
/-! DEFINITION. The names of the part's units and formats, and the operand types of the commands. -/

namespace Sys2Proof

/-- The eleven number formats and INT32, by the codes of Table 4-3 (spec/02_number_formats.md R29, spec/04_bittings.md R82). -/
inductive Fmt where
  | fp32 | bf16 | fp16 | e4m3 | e5m2 | e3m2 | e2m1 | int8 | uint8 | int4 | uint4 | int32
deriving DecidableEq, Repr

/-- An exact value a float or integer code stands for: a signed dyadic number, an infinity or NaN.
A zero keeps its sign (R35). -/
inductive FVal where
  | nan
  | inf (neg : Bool)
  | fin (neg : Bool) (man : Nat) (exp : Int)
deriving DecidableEq, Repr

/-- The pairing classes of Table 2-1 (R29, R30). -/
inductive PairClass where
  | wideFloat | narrowFloat | integer
deriving DecidableEq, Repr

/-- The operand modes of a tumbler, Table 3-1 (spec/03_tumbler_and_cylinder.md R54). -/
inductive OpMode where
  | narrow | standard | wide
deriving DecidableEq, Repr

/-- The line kinds of a checksum verdict, coded as CYL_TILE_ERR.line_kind (Table 3-8). -/
inductive LineKind where
  | row | column | corner
deriving DecidableEq, Repr

/-- The four functions of Table 3-6 (R78). -/
inductive VecFun where
  | exp2 | exp | recip | rsqrt
deriving DecidableEq, Repr

/-- The exactly rounded lane operations of R53 and R76. -/
inductive VecOp where
  | add | mul | fma | lt | le | eq | min | max
deriving DecidableEq, Repr

/-- The cross-lane reductions of R77. -/
inductive RedOp where
  | sum | max | min
deriving DecidableEq, Repr

/-- One pin: its accumulator and, inside a group, the exact group sum so far (R42, R45); how often it saturated or overflowed
(R47, R65), and whether it lost non-zero bits in a right shift (R65). -/
structure Pin where
  acc : Word := 0
  grp : Option FVal := none
  sats : Nat := 0
  lost : Bool := false
deriving DecidableEq, Repr

/-- A checksum cell: `c` and `m` of R64 for float tiles, the exact sum of R63 for integer tiles. -/
structure ChkCell where
  c : Word := 0
  m : Word := 0
  x : FVal := .fin false 0 0
deriving DecidableEq, Repr

/-- What a tile computes: the two operand formats, zero points and group lengths (0 unscaled), and its reduction length. -/
structure TileCfg where
  fa : Fmt
  fw : Fmt
  zpa : Nat := 0
  zpw : Nat := 0
  ga : Nat := 0
  gw : Nat := 0
  k : Nat
deriving DecidableEq, Repr

/-- A tile in the array: slices taken, pins row by row, the first group's scale exponents of rows and columns (R46), and
the checksum row, column and corner cells (R62; in narrow mode the upper half's cells follow the lower half's). -/
structure Tile where
  cfg : TileCfg
  done : Nat
  pins : List (List Pin)
  e0r : List Int
  e0c : List Int
  rowCells : List ChkCell
  colCells : List ChkCell
  corner : List ChkCell
  emin : Option Int
deriving DecidableEq, Repr

/-- The operands of one slice: one activation code and scale code per output row, one weight code and scale code per
column (R55). -/
structure SliceIn where
  a : List Nat
  sa : List Nat
  w : List Nat
  sw : List Nat
deriving DecidableEq, Repr

/-- A failing line of a verdict (Table 3-8). -/
structure LineRef where
  kind : LineKind
  line : Nat
deriving DecidableEq, Repr

/-- A drained tile in its buffers: the values row by row, the row and column exponents of an integer tile, and the
contexts' view of it. -/
structure Drained where
  cfg : TileCfg
  rows : List (List Word)
  e0r : List Int
  e0c : List Int
deriving DecidableEq, Repr

/-- A window slice entry's operand (Table 8-3). -/
structure WinOp where
  half : Nat
  oBase : Nat
  stride : Nat
  dilation : Nat
  kx0 : Nat
  nKx : Nat
  padLo : Nat
  padHi : Nat
  rows : Nat
  allPad : Bool
  last : Bool
deriving DecidableEq, Repr

/-- A window fill entry's operand (Table 8-4). -/
structure FillOp where
  line : Nat
  half : Nat
  chan : Nat
  seg : Nat
  tumbler : Nat
  tensorId : Nat
  last : Bool
deriving DecidableEq, Repr

/-- Vector window operations (Table 8-7). -/
inductive PoolOp where
  | max | avg (countPad : Bool) | dw
deriving DecidableEq, Repr

/-- A row's state (R200): running maximum, sum, partial output, and whether it is a NaN row (Table 9-3). -/
structure AttnRow where
  m : Word := 0xFF800000#32
  l : Word := 0#32
  o : List Word := []
  nan : Bool := false
  idle : Bool := false           -- the last block was masked throughout: it changes nothing (R200)
deriving DecidableEq, Repr

/-- A softmax block entry's operand (Table 9-2). -/
structure SoftOp where
  c : Word
  causal : Bool
  windowEn : Bool
  window : Nat
  bitmaskEn : Bool
  first : Bool
  last : Bool
  bitmask : Nat
deriving DecidableEq, Repr

/-- The mode of a compress pass (R166). -/
inductive KwMode where
  | coded | raw | auto
deriving DecidableEq, Repr

/-- Running clip statistics of one converted tensor (R113, R114). -/
structure ClipStat where
  elements : Nat := 0
  clipped : Nat := 0
  worst : Nat := 0
  worstGroup : Nat := 0
  groupsOver : Nat := 0
  subst : Nat := 0
  groups : Nat := 0
deriving DecidableEq, Repr

/-- A memory a plan slot can name: a cylinder's scratchpad, a ward store, stacked memory (spec/06_memory_tiers.md), or host
memory in an address space: 0 is the Master key function's own, `p + 1` that of PASID `p`. -/
inductive MemSel where
  | sp (cyl : Fin 128) | ws (ward : Fin 16) | stack | host (space : Nat)
deriving DecidableEq, Repr

/-- A place in a memory. -/
structure Ref where
  mem : MemSel
  addr : Nat
deriving DecidableEq, Repr

/-- One instance of a resource of Table 1-6, with a slot list of its own (spec/04_bittings.md R84, Table 4-4). -/
inductive Resource where
  | bank (cyl : Fin 128) (bank : Fin 24)
  | tumbler (n : Fin 512)
  | vec (cyl : Fin 128)
  | ring (ward : Fin 16)
  | lane (ward : Fin 16) (l : Fin 4)
  | wsPort (ward : Fin 16) (bank : Fin 16)
  | chan (ward : Fin 16) (ch : Fin 64)
deriving DecidableEq, Repr

/-- Elements of a tensor as a slot takes them: element `i` of the slot is element `first + i * step` of packed storage at
`at` (a `step` other than 1 is a transposed or gathered reading, R70, R188). `keyway` names a coded weight tensor's
address a0 when the elements come through an expander (R158, R160). -/
structure ElemSrc where
  ref : Ref
  fmt : Fmt
  zp : Nat := 0
  first : Nat := 0
  step : Nat := 1
  keyway : Bool := false
deriving DecidableEq, Repr

/-- Scales of consecutive lines of a tensor: scale blocks from `base` of tensor `tensorId`, groups of length `g` along
dims[0] = `d0`, `rest` lines in all (R105, R106). Line `i` of a slot at reduction index `k` has group
`(line + i) * groups-per-line + k / g`. -/
structure ScaleSrc where
  base : Ref
  tensorId : Nat
  g : Nat
  d0 : Nat
  rest : Nat
  line : Nat
  k : Nat
deriving DecidableEq, Repr

/-- Where a slice's scale codes come from: none (unscaled), a scale stream, or the P′ scales a softmax block found (R201). -/
inductive ScaleIn where
  | unscaled
  | stream (s : ScaleSrc)
  | probs (half : Fin 2)
deriving DecidableEq, Repr

/-- What a tile's accumulators start at (R41): zero, FP32 rows in memory, or the rows' partial outputs of R200. -/
inductive TileInit where
  | zero
  | mem (r : Ref)
  | attn (row0 col0 : Nat)
deriving DecidableEq, Repr

/-- The opening of a tile by its first slice: what it computes, its initial values, its output rows' batch members (none
where the plan maps no rows to contexts, R68), and its guarded source ranges as (place, bytes) (R66). -/
structure TileOpen where
  cfg : TileCfg
  init : TileInit := .zero
  members : Option (List Nat) := none
  guard : List (Ref × Nat) := []
deriving DecidableEq, Repr

/-- A piece of values reaching a converter or a register: a run of a drained row, a run of a vector register, or elements
in memory. `last` is set on the last plan slot that reads the drain buffer (R58). -/
inductive Piece where
  | drain (t : Fin 4) (buf : Fin 2) (row col n : Nat) (last : Bool)
  | vreg (v : Fin 32) (lane n : Nat)
  | elems (e : ElemSrc) (n : Nat) (s : Option ScaleSrc)
deriving DecidableEq, Repr

/-- The tensor a conversion writes (Table 4-3's fields that a converter uses). -/
structure DstTensor where
  tensorId : Nat
  fmt : Fmt
  zp : Nat := 0
  group : Nat := 0
  infOk : Bool := false
  firstPass : Bool := false
  widen : Bool := false
  base : Ref
  scaleBase : Ref
  groups : Nat := 0
deriving DecidableEq, Repr

/-- A memory move (R12, R70, R141, R150, R188 to R190): elements copied as they are; a feature map encoded or decoded at
`n` bits; space-to-channel or channel-to-space regrouping of a `c` × `w` × `h` source, interleaved or planar, with factor `b`.
Elements beyond the source are centred zeros. -/
inductive MoveOp where
  | copy (n dstStep : Nat)
  | zeros (n dstStep : Nat)
  | fmcEnc (n d0 d1 rest : Nat)
  | fmcDec (n d0 d1 rest : Nat)
  | s2c (b c w h : Nat) (planar : Bool)
  | c2s (b c w h wOut hOut : Nat) (planar : Bool)
deriving DecidableEq, Repr

/-- What a firing slot does. The spec names the operations of a list entry and leaves their codes and most operand layouts
to Bardebex (Table 4-6), so a slot's work comes with the command in these terms; log entry 12. -/
inductive SlotWork where
  | pass
  | slice (tile : Option TileOpen) (a : ElemSrc) (sa : ScaleIn) (w : ElemSrc) (sw : ScaleIn)
  | winFill (op : FillOp)
  | winSlice (tile : Option TileOpen) (fmt : Fmt) (zp : Nat) (op : WinOp) (kxi chan : Nat) (sa : ScaleIn) (w : ElemSrc)
      (sw : ScaleIn)
  | convert (src : List Piece) (dst : DstTensor) (firstElem groupNo : Nat) (last : Bool)
  | vload (v : Fin 32) (src : List Piece)
  | vstore (v : Fin 32) (n : Nat) (dst : Ref)
  | vop (op : VecOp) (d a b c : Fin 32) (k : Option (Fin 8)) (setK : Option (Fin 8))
  | vfun (f : VecFun) (d a : Fin 32) (k : Option (Fin 8))
  | vred (op : RedOp) (d : Fin 32) (srcs : List (Fin 32)) (k : Option (Fin 8))
  | pool (op : PoolOp) (d : Fin 32) (lanes full : Nat) (start : Option (Fin 32)) (px : List (ElemSrc × Option ScaleSrc))
      (w : List ElemSrc)
  | move (op : MoveOp) (src : ElemSrc) (dst : Ref) (dstFirst : Nat)
  | softmax (op : SoftOp) (t : Fin 4) (buf : Fin 2) (row0 keys : Nat) (keyPos : Nat) (queryPos : List Nat)
      (bits : Option Ref) (vFmt : Fmt) (dims : Nat) (dst : Ref) (lastRead : Bool)
  | attnTake (t : Fin 4) (buf : Fin 2) (row0 col0 : Nat) (lastRead : Bool)
  | softFinish (row0 rows : Nat) (out stats : Ref)
  | attnBack (keys dims : Nat) (t dP dO o ml pOut dSOut : Ref) (allowed : List Bool)
  | fetch (region : Option (Fin 8192)) (addr lines : Nat) (kwBlockAt : Option (Nat × Fmt))
  | kvRow (ctx : Fin 3072) (stream : Nat) (key value : Ref)
  | kvPage (ctx : Fin 3072) (stream : Nat) (key value : Ref)
  | kvRead (ctx : Fin 3072) (stream index : Nat) (uncorrectable : Bool)
  | tier3Read (member : Nat) (outBuf : Bool) (off n : Nat) (dst : Ref)
  | tier3Bad (members : List Nat) (n : Nat) (dst : Ref)
  | tier3Write (member : Nat) (off : Nat) (src : Ref) (n : Nat)
  | collective (id : Nat) (contrib : List (List Byte)) (src dst : Ref)
  | camRecv (sensor : Fin 16) (member tensorId : Nat) (dst hdr : Ref) (last : Bool)
deriving DecidableEq, Repr

/-- Memory errors met while a slot fires (R74, R126, R129): corrected words, and uncorrectable words in on-chip memory with
the batch members whose live data they hold; and a full expander queue
of the ward on a channel (R170, R172), which holds the slot. -/
inductive EccEvent where
  | spCorrected (cyl : Fin 128)
  | wsCorrected (ward : Fin 16)
  | hbmCorrected (ch : Fin 64)
  | spUncorrectable (cyl : Fin 128) (off : Nat) (members : List Nat)
  | wsUncorrectable (ward : Fin 16) (off : Nat) (members : List Nat)
  | expanderFull (ch : Fin 64)
deriving DecidableEq, Repr

/-- The always-on and the core supply, each with a monitor (spec/18_reset.md R388). -/
inductive Supply where
  | alwaysOn | core
deriving DecidableEq, Repr

/-- What a host link reset is (R388): hot reset, link down, PERST#. -/
inductive LinkEvent where
  | hotReset | linkDown | perst
deriving DecidableEq, Repr

/-- The islands a reset, a clock or a report names (island codes of spec/18_reset.md). -/
inductive Island where
  | cyl (c : Fin 128) | ward (w : Fin 16) | warden | mc (s : Fin 2) | latch | sysRef | fuse | hostLink
deriving DecidableEq, Repr

/-- Sources of a firmware image (R411). -/
inductive ImgSource where
  | psram | host | sdio
deriving DecidableEq, Repr

/-- An audio ring of Table 15-12: the wake stream, the two capture rings, the wake records. -/
inductive ARing where
  | stream | capture0 | capture1 | wake
deriving DecidableEq, Repr

end Sys2Proof
end

