-- ==== Sys2Proof/Machine/PartsWarden.lean ====
section
/-! DEFINITION. Pieces of State that the Warden, the wards and the cylinders hold: bittings and their lists
(spec/04_bittings.md), tumblers and cylinders (spec/03_tumbler_and_cylinder.md), wards, regions and pages
(spec/06_memory_tiers.md, spec/09_attention.md), the Keyring (spec/10_keyring.md), Frame Lanes (spec/11_frame_lane.md),
the host interface (spec/12_host_interface.md) and the error log (spec/20_faults.md). -/

namespace Sys2Proof

/-! ## Bittings -/

/-- A list entry (Table 4-6). -/
structure Entry where
  op : Nat
  kind : Nat
  rep : Nat
  waitA : Nat
  waitB : Nat
  signal : Nat
  relA : Bool
  relB : Bool
  layerFirst : Bool
  commitLast : Bool
  operand : Nat
deriving DecidableEq, Repr

/-- A token declaration (Table 4-5). -/
structure TokenDecl where
  token : Nat
  depth : Nat
  consumers : Nat
  prodWard : Nat
  prodKind : Nat
  crossing : Bool
deriving DecidableEq, Repr

/-- A tensor descriptor (Table 4-3). -/
structure TensorDesc where
  id : Nat
  fmtCode : Nat
  group : Nat
  zp : Nat
  qflags : Nat
  tier : Nat
  owner : Nat
  base : Nat
  dims : List Nat
  strides : List Nat
  scaleBase : Nat
deriving DecidableEq, Repr

/-- A carried range (R96), with the memory its tensor lies in. -/
structure Carried where
  tensorId : Nat
  a : Ref
  b : Ref
  size : Nat
  member : Nat
  kvSlot : Option (Nat × Nat × Nat × Nat)   -- a page buffer slot: layer, KV group, row width W, list bytes (R207)
deriving DecidableEq, Repr

/-- A weight object the plan reads (WEIGHT_OBJECTS, Table 4-2). -/
structure WeightObj where
  region : Nat
  off : Nat
  size : Nat
  owner : Nat
  keywayRaw : Bool
  tensorId : Nat
deriving DecidableEq, Repr

/-- A chain collective (Table 14-5). -/
structure Collective where
  id : Nat
  kind : Nat
  minGen : Nat
  src : Nat
  dst : Nat
  bytes : Nat
  root : Nat
  route : Nat
  wait : Nat
  signal : Nat
deriving DecidableEq, Repr

/-- Facts about a container's lists and of sections whose layout the spec leaves to Bardebex (the list directory, CARRIED,
ROW_MAP, WEIGHT_OBJECTS, the operation codes): they come with the copy of the container (log entry 12). -/
structure ContainerAux where
  dir : List (Resource × Nat × Nat)            -- resource, offset in the container, entries
  carried : List Carried
  rowMembers : List Nat                        -- member of each activation row (ROW_MAP)
  weights : List WeightObj
  pairs : List (Nat × Nat)                     -- tensor ids paired on a tumbler (R30)
  converted : List Nat                         -- tensor ids some slot converts (R108)
  transposed : List Nat                        -- tensor ids read through a transpose unit (R71)
  windowed : List Nat                          -- tensor ids read in window mode (R185)
  portNames : List (Resource × List Resource)  -- per port list, the client each entry names (R89)
  portUses : List (Resource × List Resource)   -- per client list, the ports it uses in order (R89)
  writesCommitted : Bool                       -- a slot writes a committed version (R95)
  writesPages : Bool                           -- a slot writes a pool page or page buffer slot (R218)
  wholeUnits : Bool                            -- coded units are read whole, in order (R173)
  shapeRules : Bool                            -- window, fill, regroup, pooling, halo and rate entries keep R184 to R196
  maskIds : List Nat                           -- bitmask tensor ids of softmax entries (R199)
  rowWidths : List Nat                         -- row widths W of its streams (R205)
  laneIn : Option (Ref × Nat) := none          -- input buffer 0 of a lane plan and its bytes; buffer k follows at k times that (R256)
  laneOut : Option (Ref × Nat) := none         -- result buffer 0 of a lane plan and its bytes, likewise (R258)
deriving DecidableEq, Repr

/-- A bitting as the plan area holds it (R80 to R86). -/
structure Bitting where
  size : Nat
  crc : Nat
  version : Nat
  modelKey : Nat
  layerGroup : Nat
  batchClass : Nat
  minPlevel : Nat
  mask : Nat
  steppingMin : Nat
  minChainGen : Nat
  chainUnits : Nat
  flags : Nat
  rowsMin : Nat
  rowsMax : Nat
  stepBound : Nat
  loadChannels : Nat
  compiler : Nat
  tensors : List TensorDesc
  tokens : List TokenDecl
  lists : List (Resource × List Entry)
  collectives : List Collective
  aux : ContainerAux
deriving DecidableEq, Repr

/-- A plan record: one stored container under a role, and the contexts that bind it (R90, R119, Table 12-13). -/
structure Plan where
  valid : Bool := false
  bitting : Option Bitting := none
  bytes : List Byte := []
  addr : Nat := 0              -- offset in the plan area
  container : Nat := 0
  size : Nat := 0
  crc : Nat := 0
  pasid : Nat := 0
  role : Nat := 0
  base : Nat := 0
  bindSeq : Nat := 0
  contexts : List Nat := []
  faultDetail : Nat := 0
deriving DecidableEq, Repr

/-! ## Plan instances -/

/-- Where a list stands: the entry, its firings still to come, the open loops as (first body entry, body length,
iterations left), and whether it has fired its last slot (R23, R85). -/
structure ListPos where
  idx : Nat := 0
  left : Nat := 0
  loops : List (Nat × Nat × Nat) := []
  ended : Bool := false
  cause : Nat := 0        -- wait cause of its last blocked attempt (Table 4-9 order; 0 none)
deriving DecidableEq, Repr

/-- A token's counts (R86, R87): buffers filled and freed since the start, releases outstanding of each occupied buffer
oldest first, and the buffers each consuming slot has released. -/
structure TokenSt where
  token : Nat
  depth : Nat
  consumers : Nat
  filled : Nat := 0
  freed : Nat := 0
  out : List Nat := []
  reads : List (Resource × Nat × Nat) := []
deriving DecidableEq, Repr

/-- A batch member of an instance. -/
structure Member where
  ctx : Nat
  berth : Nat
  rows : Nat
  pos0 : Nat               -- first position of the member in the step
  recompute : Bool
  status : Nat := 0        -- fault status of this step, 0 none (R101)
  detail : Nat := 0
  replayed : Bool := false
  noCommit : Bool := false -- an uncorrectable page keeps it from committing (Table 9-7)
deriving DecidableEq, Repr

/-- What kind of run an instance is. -/
inductive InstKind where
  | plan | companion | lane (l : Fin 4) (slot : Nat)
deriving DecidableEq, Repr

/-- A tensor's conversion so far in a run, with its closing and verdict (R113, R116). -/
structure TensorRun where
  stat : ClipStat := {}
  closed : Bool := false
  misfit : Bool := false
  assisted : Bool := false
  firstPass : Bool := false
  widen : Bool := false
deriving DecidableEq, Repr

/-- A running plan instance (R91, R98, R102). -/
structure Inst where
  live : Bool := false
  kind : InstKind := .plan
  mask : Nat := 0
  handle : Nat := 0
  members : List Member := []
  step : Nat := 0
  round : Nat := 0
  loadedWards : List Nat := []
  lists : List (Resource × ListPos) := []
  tokens : List TokenSt := []
  doneCyls : List Nat := []
  readyWards : List Nat := []
  staged : Bool := false
  cost : Nat := 0
  tensors : List (Nat × TensorRun) := []
  widenTensor : Option Nat := none   -- a misfit of a WIDEN tensor awaits its bundle (Table 5-9)
  stopped : Bool := false            -- stopped for a widening
  widened : Bool := false
  noCompanion : Bool := false
  reExec : Bool := false
  heldRegions : List Nat := []       -- regions a slot of the instance waits on
  h3Asked : List (Nat × Nat) := []          -- tensor, group asked of host software under H3
  h3Scales : List (Nat × Nat × Nat) := []   -- tensor, group, scale byte returned by host software (R111)
  newPages : List (Nat × Nat × Nat) := []   -- context, stream, page reserved and written this step (R97)
  reserved : List (Nat × Nat) := []         -- context, page reserved for the step (R211)
  newRows : List (Nat × Nat × Nat) := []    -- context, stream, rows of the slot after the step (R208)
  weightWait : Bool := false                -- WEIGHT_LATE or WEIGHT_HOLD counted during the step (Table 11-2)
  replayHeld : Bool := false                -- the step took a replay pass
  throttled : Bool := false                 -- the cap was slower than min_plevel during the step
  chained : Bool := false                   -- runs on several units as one instance (R317)
  hold : Bool := false                      -- a chained instance that START has not let leave its boundary
  chainGo : Bool := false                   -- GO has come
  readyFrom : List Nat := []                -- at address 0: units whose READY has come
deriving DecidableEq, Repr

/-! ## Protection -/

/-- A host-memory window of a tenant (Table 19-9): its base, the last 4 KiB page in it, and whether it is enabled. -/
structure Window where
  base : Nat := 0
  limit : Nat := 0
  enable : Bool := false
deriving DecidableEq, Repr

/-- A tenant slot (spec/19_security.md R414, Table 19-8). -/
structure Tenant where
  pasid : Nat := 0
  valid : Bool := false
  publish : Bool := false
  solo : Bool := false
  quota : Nat := 0
  windows : Tab Window := []
deriving DecidableEq, Repr

/-- The protection set-up (R414, R415): the slots as written, the slots in force, and the wards that have not reached a
boundary since the last change. -/
structure Protection where
  written : Tab Tenant := []
  force : Tab Tenant := []
  pending : List Nat := []
  gen : Nat := 0
deriving DecidableEq, Repr

/-! ## Tumblers, cylinders and wards -/

/-- A drain buffer (R58): empty, awaiting its verdict or replay, or released to its readers. -/
inductive BufSt where
  | empty | held (d : Drained) | ready (d : Drained)
deriving DecidableEq, Repr

/-- The activity ramp of a tumbler (R60, R61): at rest, or its columns on. A ramp is one command, so no state lies between
(log entry 16). -/
inductive Ramp where
  | rest | on
deriving DecidableEq, Repr

/-- A tile that failed its verdict and waits for its replay (R67): how it started, the slices it took, the buffer that is
held, its rows' members and guarded sources, and whether CYL_TILE_ERR records it. -/
structure Failed where
  start : Tile
  slices : List SliceIn
  buf : Nat
  members : Option (List Nat)
  guard : List (Ref × Nat)
  recorded : Bool
deriving DecidableEq, Repr

/-- A tumbler: its tile, the slices the tile took (the guarded sources a replay reads again, R66), its drain buffers and
the one the next tile takes, its ramp, its failed tiles oldest first, and its window buffer lines by half × 128 + channel × 4 +
segment (R184). -/
structure Tum where
  tile : Option Tile := none
  start : Option Tile := none
  slices : List SliceIn := []
  members : Option (List Nat) := none
  guard : List (Ref × Nat) := []
  buf0 : BufSt := .empty
  buf1 : BufSt := .empty
  next : Nat := 0
  swapWait : Bool := false
  ramp : Ramp := .rest
  failed : List Failed := []
  window : Tab (List Byte) := []
deriving DecidableEq, Repr

/-- A cylinder: vector registers by register × 256 + lane, lane masks, attention row states, and P′ scales by row × 2 + group
(R76, R200, R201). -/
structure Cyl where
  vregs : Tab Word := []
  masks : Tab (BitVec 256) := []
  rows : Tab AttnRow := []
  probScales : Tab Nat := []
deriving DecidableEq, Repr

/-- A berth set hosted on wards (R226, R227): its model and mask, and the occupant of each berth, with the tenant that
last held it (R244). -/
structure BerthSet where
  model : Nat
  mask : Nat
  berths : List (Option Nat × Option Nat)
deriving DecidableEq, Repr

/-- A ward (R99, R230, Table 22-3): the replay holds it queues, whether its resources are stopped, the list set its caches
hold, its rounds, and the tenants whose data its memories hold. -/
structure Ward where
  holds : List Nat := []            -- tumblers whose replay holds arrived, oldest first; the first one's pass runs (R69)
  loaded : Option Nat := none       -- plan handle in the slot caches (R94)
  roundDone : Bool := false         -- finished a round of the present step (R230)
  tenants : List Nat := []          -- tenants resident since the last zeroing (R244)
  level : Nat := 5
  fencePending : Bool := false
  powered : Bool := true
  lane : Option Nat := none
  openUnits : List (Nat × Nat × Nat) := []  -- channel, open unit, next line (R174)
  h3 : Bool := false                -- mode of hinge H3 since its last step boundary (R295)
  prot : Tab Tenant := []           -- protection set-up since its last step boundary (R415)
  protGen : Nat := 0                -- PROT_GEN of that set-up
  thresh : Word := 0x10000148#32    -- CLIP_THRESH since its last step boundary (R115)
deriving DecidableEq, Repr

/-! ## Stacked memory -/

/-- Region states (Table 6-4). -/
inductive RegionSt where
  | free | loading | sealed | held | poisoned
deriving DecidableEq, Repr

/-- A weight region (R132, R137, R144): its record, the granules loaded so far, the refetch list with attempts made, and
the descriptor that loads it. -/
structure Region where
  st : RegionSt := .free
  base : Nat := 0
  size : Nat := 0
  golden : Nat := 0
  pasid : Nat := 0
  owner : Nat := 0
  openOnly : Bool := false
  ctx : Option Nat := none
  loaded : Nat := 0
  refetch : List (Nat × Nat × Nat) := []    -- granule, attempts made, channel of the withheld line
  source : Option (Nat × Nat) := none       -- source host software named under H5: address, PASID
  assisted : Bool := false
  written : Bool := false                   -- granule written, verify read outstanding
deriving DecidableEq, Repr

/-- Page states (Table 9-6). -/
inductive PageSt where
  | free (tag : Option Nat) | scrub | reserved (ctx : Nat) (tag : Option Nat) | owned (ctx : Nat)
deriving DecidableEq, Repr

/-- A pool page and the order in which it was freed (R210, R211). -/
structure Page where
  st : PageSt := .scrub
  freed : Nat := 0
deriving DecidableEq, Repr

/-! ## The Keyring -/

/-- Context states (Table 10-2). -/
inductive CtxState where
  | free | bound | residentRunning | residentBlocked | swappedRunnable | swappedBlocked | faulted
deriving DecidableEq, Repr

/-- Cause codes (Table 10-3). -/
inductive CtxCause where
  | none | noWork | pageWait | serviceWait | tearing | torn
deriving DecidableEq, Repr

/-- A context table entry as read at bind or recovery (Table 12-3). -/
structure CtxEntry where
  ok : Bool := false
  sqBase : Nat := 0
  cqBase : Nat := 0
  histBase : Nat := 0
  sqOrder : Nat := 4
  cqOrder : Nat := 4
  histOrder : Nat := 10
  vector : Nat := 0
  modCount : Nat := 0
  modHoldoff : Nat := 0
deriving DecidableEq, Repr

/-- A descriptor as read from the submission ring (Table 12-5); `protErr` marks one whose number or doorbell was wrong and
which is not performed (R268, R270), with the error log's index. -/
structure Desc where
  seq : Nat
  bytes : List Byte
  protErr : Option Nat := none
  stamp : Nat := 0             -- its place in the order of acceptance across all contexts (R166)
deriving DecidableEq, Repr

/-- A stream of keys and values (R205): committed pages and fill, and its slot's place (R207). -/
structure Stream where
  layer : Nat
  kvGroup : Nat
  width : Nat
  pages : List Nat := []
  fill : Nat := 0
  slot : Option Carried := none
deriving DecidableEq, Repr

/-- Progress of a context's running RUN (R275, R280). -/
structure RunProg where
  seq : Nat
  group : Nat
  done : Nat := 0            -- positions of the group committed
  startLen : Nat
  status : Nat := 0
  detail : Nat := 0
  widened : Bool := false
  replayed : Bool := false
  recompute : Bool := false  -- its sequence's recompute runs first
deriving DecidableEq, Repr

/-- A Keyring entry (Table 10-1) with its rings (R268 to R271), journal line (Table 12-12) and sequence. -/
structure Ctx where
  state : CtxState := .free
  cause : CtxCause := .none
  tenant : Nat := 0
  slot : Option Nat := none                     -- tenant slot it is bound to (R414)
  weight : Nat := 0x100
  noDrop : Bool := false
  nextShare : Option (Nat × Bool) := none
  vt : Nat := 0
  version : Bool := false
  kvLimit : Nat := 0
  seqLen : Nat := 0
  berth : Option (Nat × Nat × Nat) := none      -- model_key, ward mask, member
  cursor : Nat := 0
  imageSlot : Nat := 0
  imageValid : Bool := false
  imageCommit : Nat := 0
  lastCommit : Nat := 0
  charged : Nat := 0
  restoreGuard : Bool := false
  cutIn : Bool := false
  evict : Bool := false
  parkOrder : Nat := 0
  pageWaits : Nat := 0
  lastDrop : Option Nat := none
  unbindPending : Bool := false
  entry : CtxEntry := {}
  sqSeq : Nat := 0
  cqSeq : Nat := 0
  accepted : Nat := 0
  issued : Nat := 0                             -- highest number whose journal write is issued (R271)
  completed : Nat := 0
  written : Nat := 0                            -- highest completion record written
  incarnation : Nat := 0
  reading : List Desc := []                     -- descriptors the issued journal write covers
  queue : List Desc := []                       -- accepted descriptors not completed, oldest first
  laneStops : List Nat := []                    -- LANE_STOP numbers taken at acceptance (R273)
  run : Option RunProg := none
  busy : Bool := false                          -- the oldest descriptor has started and waits for its end
  pendingFault : Option (Nat × Nat) := none     -- status and log index due before its next step
  faultDetail : Nat := 0
  reExec : Bool := false
  streams : List Stream := []
  irqArmed : Bool := false
  irqCount : Nat := 0
  chainRecompute : Bool := false                -- R319
  dbErr : Option Nat := none                    -- error log index of an SQ_DB too far ahead (R270)
  sqKept : Option Nat := none                   -- SQ_DB written while recovery is needed (R292)
  cqKept : Option Nat := none
  needCq : Bool := false                        -- acceptance waits for CQ_DB after a recovery (Table 12-18, order 8)
  rebound : Bool := false
  pendingDrop : Option Nat := none              -- a drop notice's kv_limit, due at the next boundary (R221)
  pendingResync : Bool := false                 -- R319, due at the next boundary
deriving DecidableEq, Repr

/-- A switch under way (Table 10-4). -/
structure Switch where
  ctx : Nat
  mask : Nat
  model : Nat
  displaced : List Nat
  atListPoint : Bool
  saving : List Nat := []      -- displaced contexts whose saves are under way
  restoring : Bool := false
  zeroWait : Bool := false     -- a berth awaits H9's answer before its zeroing
  started : Bool := false
  go : Bool := true            -- hinge H8 has answered or does not ask
deriving DecidableEq, Repr

/-- An instance the Keyring is to build (R232, R233, R236): its hosted set and round, and, under H1, the handle and members
host software named. -/
structure Job where
  model : Nat
  mask : Nat
  round : Nat
  given : Option (Nat × List Nat) := none
deriving DecidableEq, Repr

/-- The instance under build (R233): its job, the bitting chosen, every member with its rows, the members whose pages are not
yet reserved, and those with their reserved pages. -/
structure Build where
  job : Job
  handle : Nat
  cut : List (Nat × Nat)
  todo : List (Nat × Nat)
  got : List (Nat × Nat × List Nat) := []
deriving DecidableEq, Repr

/-- The Keyring's own state (R230 to R242). -/
structure Keyring where
  step : Nat := 0              -- 0: no step yet (R230)
  vmin : Nat := 0              -- V of R238
  listed : Bool := false       -- the list of the present step gave an instance
  rounds : List (Nat × Nat) := []   -- lead ward, round number of the present step
  sets : List BerthSet := []
  switches : List Switch := []
  parkNext : Nat := 1
  event : Bool := false        -- an event of R230 came since the last list point
  h1Wait : Bool := false
  h2Wait : Option (Nat × Nat) := none   -- the requester host software is asked about, and its rows
  jobs : List Job := []        -- instances still to build in the present list
  build : Option Build := none
deriving DecidableEq, Repr

/-! ## Commits, lanes, rings and the error log -/

/-- What a commit does to one member once it is live. -/
structure CommitMember where
  ctx : Nat
  flags : Nat
  status : Nat
  detail : Nat
  seq : Nat
  cursor : Nat
  positions : Nat
deriving DecidableEq, Repr

/-- A commit record on its way (Table 12-16): its lead ward or lane, its lines in the log, and how far it has come. -/
structure Commit where
  sealNo : Nat
  inst : Inst
  step : Nat
  round : Nat
  kind : Nat
  members : List CommitMember
  line : Nat
  lines : Nat
  live : Bool
deriving DecidableEq, Repr

/-- The commit log (R282, R283). -/
structure CommitLog where
  nextSeal : Nat := 1
  nextLine : Nat := 0
  pipe : List Commit := []
deriving DecidableEq, Repr

/-- Lane states, coded as LANE_STATUS.state (Table 11-7). -/
inductive LaneSt where
  | idle | reserved | running | stopping
deriving DecidableEq, Repr

/-- A staged lane step that has not committed (R258). -/
structure LaneStep where
  slot : Nat
  inst : Inst
  cause : Nat
deriving DecidableEq, Repr

/-- A lane record on its way to the result ring, in slot order (R260): not `ready` until its step commits or aborts. -/
structure LaneRec where
  slot : Nat
  kind : Nat
  status : Nat
  cause : Nat
  run : Nat
  ready : Bool
deriving DecidableEq, Repr

/-- A Frame Lane (R251 to R262). -/
structure Lane where
  st : LaneSt := .idle
  saving : Bool := false
  unreserve : Bool := false
  ward : Nat := 0                    -- the ward set aside
  ctxNo : Nat := 0                   -- the context it serves
  badInput : List (Nat × Nat) := []  -- slots whose input fetch was refused, with the error log index (R134)
  handle : Nat := 0
  startSeq : Nat := 0
  bufOrder : Nat := 0
  input : Nat := 0
  result : Nat := 0
  inStride : Nat := 0
  outStride : Nat := 0
  level : Nat := 0
  tick : Nat := 0
  nextSlot : Nat := 0
  cur : Option Nat := none           -- slot of the step that has not reached its ready point
  staged : List LaneStep := []
  inputReady : List Nat := []        -- slots whose input stands ready (R256)
  miss : Option (Nat × Nat × Nat) := none   -- first slot, run, cause of the open run of missed slots
  lastCommitted : Option Nat := none
  recs : List LaneRec := []
  dropped : Nat := 0
  head : Nat := 0
  phase : Bool := true
  resync : Bool := false
  listsLoaded : Bool := false        -- the lists of its bitting are loaded (R252)
deriving DecidableEq, Repr

/-- A compress pass accepted (R165, R166). -/
structure KwJob where
  ctx : Nat
  seq : Nat
  stamp : Nat := 0
  tables : List (Nat × List Nat) := []      -- block tables settled under H4, by block
  ended : Bool := false                     -- a returned table failed R158
deriving DecidableEq, Repr

/-- The compress engine. -/
structure KwEngine where
  running : Option KwJob := none
  queue : List KwJob := []
  passes : Nat := 0
  assisted : Bool := false
deriving DecidableEq, Repr

/-- The error log (R434, R437): the next index, the window's records by slot, the indices due for the mirror, and the
mirror ring's place. -/
structure ErrLog where
  next : Nat := 1
  window : Tab (List Byte) := []
  due : List Nat := []
  lost : Nat := 0
  head : Nat := 0
deriving DecidableEq, Repr

/-- A ring the part writes in host memory: the next place and the phase of the present pass. -/
structure RingPos where
  head : Nat := 0
  phase : Bool := true
deriving DecidableEq, Repr

/-! ## Strikes and counters -/

/-- A held snapshot (Table 21-1, Table 21-2): flags, hop ordinal, origin, source, in-flight counts, body, and every counter
of the island as it stood (R458). -/
structure Snap where
  flags : Nat := 0
  hop : Nat := 0
  origin : Nat := 0
  source : Nat := 0
  inFlight : Nat := 0
  body : List Byte := []
  ctrs : Tab Nat := []
deriving DecidableEq, Repr

/-- The strike logic (spec/21_observation.md R447 to R456, R459). -/
structure Strike where
  armed : Bool := true
  busy : Bool := false
  complete : Bool := false
  source : Nat := 0
  origin : Nat := 0
  expect : List Nat := []        -- islands powered when the strike fired that have not reported
  snaps : Tab Snap := []
  fired : Nat := 0
  missed : Nat := 0
  errIndex : Nat := 0
  compFired : List Nat := []     -- comparators that fired and wait for a write of THRESHi_SEL
  outHigh : Bool := false
deriving DecidableEq, Repr

/-- What the reset controller keeps of fences and suspects through a warm reset (R390, R438, R446). -/
structure FenceSt where
  fenced : Nat := 0             -- bit w: ward w fenced
  clock : Nat := 0              -- bit w: fenced for its clock
  suspect : Tab Nat := []       -- suspect_count by cylinder
  details : Tab Nat := []       -- error log index of each ward's 0x42 record
deriving DecidableEq, Repr

/-! ## The Laniza chain (spec/14_laniza_chain.md) -/

/-- Chain control frames, as the spec names them (R312, R317, R318, R319, R221), and the wake pattern. Their layout is the
chain's own; what they carry is here in the model's terms (log entry 12). -/
inductive LzFrame where
  | quiesce
  | quiesced
  | walk (pos floorMax maxMin : Nat) (addrs : List Nat)
  | walkEnd (units floorMax maxMin : Nat) (addrs : List Nat)
  | confirm (units : Nat) (ring : Bool) (gen : Nat) (addrs : List Nat) (failed : Bool)
  | rewalk
  | membership (model mask group : Nat) (members : List (Nat × Nat × Nat))
  | start (mask : Nat)
  | ready (unit mask : Nat)
  | go (mask : Nat)
  | dropNotice (ctx kvLimit : Nat)
  | resync (ctxs : List Nat)
  | wake
deriving DecidableEq, Repr

/-- How far a walk has come on this unit (Table 14-2): none; running chained steps to their end; passed QUIESCE on; waiting
for host software under H7; WALK passed on. -/
inductive LzPhase where
  | idle | quiescing | quiet | asking | walking
deriving DecidableEq, Repr

/-- What a unit keeps of the chain beside its registers. -/
structure Laniza where
  headOut : Bool := false                 -- a head because its UP port stayed down (R311)
  reached : Bool := false                 -- a WALK has reached the unit since its release
  phase : LzPhase := .idle
  restQuiet : Bool := false               -- at the head: QUIESCED has returned
  floorMax : Nat := 0
  maxMin : Nat := 0
  addrs : List Nat := []                  -- addresses taken so far, by position
  host : Bool := false                    -- this unit's address came from host software
  failUp : Nat := 0                       -- frames failed in a row at the UP port (R308)
  failDown : Nat := 0
  needWalk : Bool := false                -- no chained instance until a walk completes (R318)
  resyncDue : Bool := false               -- RESYNC to be sent after the next walk (R319)
  sent : List (Nat × LzFrame) := []       -- frames sent by port (0 UP, 1 DOWN), oldest first
deriving DecidableEq, Repr

/-! ## Hinge requests -/

/-- A request a unit makes of host software under a host-assisted hinge (spec/13_hinges.md): the hinge, what the requester
keeps to recognise the answer, and the record's data. -/
structure HingeReq where
  hinge : Nat
  args : List Nat
  data : List Byte := []
  ctx : Nat := 0xFFFF          -- the context concerned, or 0xFFFF
  step : Nat := 0              -- step number and round; zero where no step applies
deriving DecidableEq, Repr

/-- The service ring (R296 to R300): the next request number, the requests posted and not settled, answers taken and not
yet acted on, the number of the last answer read, and requests that timed out. -/
structure Svc where
  nextReq : Nat := 1
  out : List (Nat × HingeReq) := []
  answers : List (Nat × HingeReq × List Byte) := []
  lastAns : Nat := 0
  timedOut : List Nat := []
deriving DecidableEq, Repr

end Sys2Proof
end

