-- ==== Sys2Proof/Syntax.lean ====
section
/-! DEFINITION. The commands of the block: one constructor for each row of spec/opcode_table.json, with the row's operands.
What the block reads from host memory while a command takes effect (descriptors, context entries, containers, golden
copies) it reads from the host memory image of State; what comes from outside at the moment of the command (pins, link
outcomes, sensor data, physical upsets) is an operand. -/

namespace Sys2Proof

/-- The commands (spec/opcode_table.json). -/
inductive Instr where
  /-- POWER_ON (R481): The always-on supply rises through its threshold, every enable is driven low and power-up of the switched rails begins. -/
  | powerOn (chainHead : Bool)
  /-- RAIL_POWER_GOOD (R481): A PG input becomes good and the reset controller asserts the next enables of the power-up order. -/
  | railPowerGood (r : Fin 8)
  /-- RAIL_GOOD_TIMEOUT (R481): A PG input is not good within 20 ms of its enable, so every enable is deasserted in reverse order before a 100 ms wait. -/
  | railGoodTimeout (r : Fin 8)
  /-- RAIL_RETRY_WAIT_END (R481): The 100 ms wait after a failed power-up ends and the sequence restarts at order 3. -/
  | railRetryWaitEnd
  /-- BROWN_OUT (R388): An armed supply monitor sees the always-on or core supply below its threshold for 1 us or more, causing a power-on class reset. -/
  | brownOut (sup : Supply)
  /-- RESET_N_ASSERTED (R391): RESET_N is held low from outside for 10 us or longer while the part is not driving it, causing a warm reset. -/
  | resetNAsserted (us : Nat)
  /-- WATCHDOG_EXPIRY (R398): The 100 ms watchdog period expires without renewal and raises a warm reset. -/
  | watchdogExpiry
  /-- RESET_CTL_WARM (R405): A write of RESET_CTL.warm requests a warm reset, and a write of RESET_CTL.reload with it clears instruction memory for a new image. -/
  | resetCtlWarm (reload : Bool) (byFirmware : Bool)
  /-- FUNCTION_LEVEL_RESET (R388): A Function Level Reset of PF0 is taken as a software warm reset, and as a retry in Latch mode. -/
  | functionLevelReset
  /-- HOST_LINK_RESET (R388): A PCIe hot reset, a link down outside Latch mode, or a PERST# assertion while awake or in S1 or S2 causes a warm reset. -/
  | hostLinkReset (ev : LinkEvent)
  /-- DEBUG_RESET_REQUEST (R388): A debug reset request of device or block scope is taken, or is refused and logged in confidential mode. -/
  | debugResetRequest (viaBar4 : Bool) (target : Option (Fin 144))
  /-- CLOCK_FAILURE (R396): A released island's clock leaves 10 % of its target for 4 windows or stops, causing a reset of the class Table 18-1 gives. -/
  | clockFailure (isl : Island)
  /-- LOCK_UP (R397): A no-progress detector's count reaches NOPROG_CTL.limit and raises a block or warm reset. -/
  | lockUp (isl : Island)
  /-- STRETCH_END (R392): The reset stretch of at least 200 us ends, RESET_N is released, and release of blocks begins in the order of Table 18-3. -/
  | stretchEnd
  /-- CLOCK_GOOD (R394): An island's clock-good detector passes and the island is released at its turn in the release order. -/
  | clockGood (isl : Island) (ok : Bool)
  /-- CLOCK_HOLD_TIMEOUT (R394): A block's clock-good detector has not passed within 2 ms of its turn, so the block is held in reset with the outcome of Table 18-4. -/
  | clockHoldTimeout (isl : Island)
  /-- RESET_FORCE (R395): A write to RESET_FORCE releases the named held blocks with unstable clocks, or is refused in confidential mode. -/
  | resetForce (mask : Word)
  /-- BLOCK_RESET_GO (R399): A write of BLOCK_RESET.go queues a block reset of the target and sends an idle request to it and its plan instance. -/
  | blockResetGo (v : Word)
  /-- BLOCK_IDLE (R399): The block under reset reaches idle, so its knuckles are clamped and it is held in reset for 20 us. -/
  | blockIdle
  /-- BLOCK_IDLE_TIMEOUT (R399): BLOCK_RESET.timeout passes before the block is idle, and the block is reset anyway with timed_out set. -/
  | blockIdleTimeout
  /-- BLOCK_RESET_HOLD_END (R399): The 20 us hold of a block reset ends and the block awaits release on clock-good before its instances re-execute. -/
  | blockResetHoldEnd
  /-- BOOT_CTL_GO (R404): A write of BOOT_CTL.go in stage 1 makes the boot ROM fetch the image named by BOOT_IMG. -/
  | bootCtlGo
  /-- BOOT_IMAGE_RECEIVED (R411): The first image source to complete is verified by size, key slot, key hash, RSA-PSS signature and version, then installed or discarded. -/
  | bootImageReceived (src : ImgSource)
  /-- FWL_START (R474): A write of FWL_CTL.start with a granule count opens a firmware load over SDIO function 1 in stage 1. -/
  | fwlStart (n : Nat)
  /-- FWL_DATA (R474): Image bytes written to FWL_DATA while ready reads 1 are taken as the next granule, and the last one completes the SDIO image source. -/
  | fwlData (bytes : List Byte)
  /-- FWL_ABORT (R474): A write of FWL_CTL.abort discards the SDIO firmware load. -/
  | fwlAbort
  /-- LATCH_RETRY (R443): A LATCH_CTL.retry or F1_CTL.retry write in Latch mode causes a warm reset with latch_run set to latch_after minus 1. -/
  | latchRetry (viaSdio : Bool)
  /-- SQ_DB (R270): A 64-bit write of SQ_DB announces descriptors up to sq_seq, is ignored at or below accepted, or faults the context when too far ahead. -/
  | sqDb (ctx : Fin 3072) (v : DWord) (bytes : Nat)
  /-- CQ_DB (R270): A 64-bit write of CQ_DB frees completion places up to cq_seq, is ignored when out of range, and resumes acceptance after recovery. -/
  | cqDb (ctx : Fin 3072) (v : DWord) (bytes : Nat)
  /-- IRQ_ARM (R289): A write of IRQ_ARM.arm arms the context's completion vector under hinge H10 in hardware mode. -/
  | irqArm (ctx : Fin 3072) (v : DWord) (bytes : Nat)
  /-- DESCRIPTOR_READ (R271): The part reads up to 16 eligible descriptors, checks each seq field and writes the accept journal line for the last of them. -/
  | descriptorRead (ctx : Fin 3072) (refused : Bool)
  /-- ACCEPT_READBACK (R271): The read-back of the journal line returns and the descriptors it covers become accepted. -/
  | acceptReadback (ctx : Fin 3072)
  /-- RUN (R275): A RUN descriptor advances the context's cursor through its layer groups over its new positions, after checking bittings and history length. -/
  | run (ctx : Fin 3072)
  /-- BIND (R91): A BIND descriptor copies a bitting container into the plan area and validates it as ordinary, companion or recompute bitting. -/
  | bind (ctx : Fin 3072) (refused : Bool)
  /-- UNBIND (R272): An UNBIND descriptor releases a binding and any companion of it. -/
  | unbind (ctx : Fin 3072)
  /-- LOAD (R277): A LOAD descriptor opens, loads from the golden copy, or seals a weight region. -/
  | load (ctx : Fin 3072)
  /-- FREE (R138): A FREE descriptor returns a weight region to FREE, waits while it is HELD, or is refused. -/
  | free (ctx : Fin 3072)
  /-- COMPRESS (R165): A COMPRESS descriptor queues a Keyway compress pass of a raw tensor. -/
  | compress (ctx : Fin 3072)
  /-- LANE_START (R252): A LANE_START descriptor starts a reserved Frame Lane on its pinned bitting, or is refused with CTX_FAULT_PLAN. -/
  | laneStart (ctx : Fin 3072)
  /-- LANE_STOP (R252): A LANE_STOP descriptor, effective at acceptance, stops the lane at the commit of its last started step. -/
  | laneStop (ctx : Fin 3072)
  /-- END_SEQ (R272): An END_SEQ descriptor frees the sequence's pages and sets kv_limit, the sequence length and len_done to 0. -/
  | endSeq (ctx : Fin 3072)
  /-- UNKNOWN_OPCODE (R272): A descriptor with an opcode not in Table 12-6 is refused with CTX_FAULT_PLAN as a failed set-up descriptor. -/
  | unknownOpcode (ctx : Fin 3072)
  /-- BIND_COPY_DONE (R90): The copy of a container into the plan area under a load-engine fence completes and bind validation decides whether the bitting is bound. -/
  | bindCopyDone (ctx : Fin 3072) (aux : ContainerAux)
  /-- LIST_POINT (R232): Once every scheduled ward has finished a round of step S, or an enabling event arrives, the Keyring settles switches and builds the work list of the next step. -/
  | listPoint
  /-- ROUND_BUILD (R231): A ward set reaching its boundary before the next list point gets a further round of the step built from its residents. -/
  | roundBuild (w : Fin 16)
  /-- PLAN_LOAD_END (R94): The loading of a new bitting's lists into a ward's slot caches completes and the instance's slots may fire. -/
  | planLoadEnd (w : Fin 16) (cycles : Nat) (bad : Option (Nat × Nat))
  /-- SLOT_FIRE (R23): A plan slot fires at the first cycle of its island where its input tokens hold filled buffers and its output token has a free buffer. -/
  | slotFire (lead : Fin 16) (r : Resource) (work : SlotWork) (ecc : List EccEvent)
  /-- TIER3_READ_TIMEOUT (R134): A host-link read for a tier-3 tensor times out or completes with UR or CA, so its buffer fills with zeros and the served contexts get CTX_FAULT_PROTECTION at commit. -/
  | tier3ReadTimeout (lead : Fin 16) (r : Resource) (members : List Nat) (dst : Ref) (n : Nat)
  /-- RAMP_UP (R60): A tumbler starting from rest switches its columns on two per cycle over 32 cycles before the first real slice enters. -/
  | rampUp (t : Fin 512)
  /-- RAMP_DOWN (R60): After four cycles without a slice the tumbler switches its columns off over 32 cycles. -/
  | rampDown (t : Fin 512)
  /-- RAMP_RESUME (R61): A slice becoming available during a ramp-down stops it and ramps the switched-off columns back on. -/
  | rampResume (t : Fin 512) (m : Fin 33)
  /-- TILE_SWAP (R58): A tile's final values pass to the shadows once a drain buffer is free, then drain and reach their checksum verdict. -/
  | tileSwap (t : Fin 512) (upset : List (Nat × Word))
  /-- REPLAY_HOLD_ARRIVAL (R67): A replay hold from a failed tile reaches the ward ring, which stops every ward resource and starts the single replay pass. -/
  | replayHoldArrival (t : Fin 512)
  /-- REPLAY_VERDICT (R67): The replayed tile's verdict replaces the held buffer on a pass, or on a fail marks the cylinder suspect and faults its contexts, then the hold is released. -/
  | replayVerdict (t : Fin 512) (upset : List (Nat × Word))
  /-- DONE_BUNDLE (R98): A cylinder's done bundle reaches its ward ring, which sends ready to the Warden once all eight have arrived and every write is acknowledged. -/
  | doneBundle (cyl : Fin 128) (cycles : Nat)
  /-- READY_BUNDLE (R98): Ready bundles from every ward of a set have reached the Warden, which stages the new Keyring state. -/
  | readyBundle (w : Fin 16)
  /-- COMMIT_RECORD_WRITE (R283): The member lines and header of a commit record are written to the commit log once it has room. -/
  | commitRecordWrite (w : Fin 16)
  /-- COMMIT_POINT (R98): The read of the commit record header returns, the staged state becomes live, completion records are written and the wards enter their boundary. -/
  | commitPoint
  /-- COMMIT_RETIRE (R283): The read of the last completion line written returns and the commit record's lines may be reused. -/
  | commitRetire
  /-- IRQ_HOLDOFF_EXPIRY (R289): mod_holdoff passes since the first counted record of an armed vector, so the message is sent and the vector disarmed. -/
  | irqHoldoffExpiry (ctx : Fin 3072)
  /-- MISFIT_BUNDLE (R120): A misfit of a WIDEN tensor reaches the Warden, which stops every ward of the set without commit, or treats it as EVENT when no companion is bound. -/
  | misfitBundle (w : Fin 16)
  /-- COMPANION_START (R120): Once every ward of the set has stopped, the companion instance starts in the same step from the same committed versions. -/
  | companionStart (w : Fin 16)
  /-- SWITCH (R242): At a boundary the part saves the displaced contexts, zeroes where tenants change, restores the incoming context and loads its lists. -/
  | switch (ctx : Fin 3072)
  /-- SAVE_COMPLETE (R243): The last write of a context image is acknowledged and the image becomes the newest. -/
  | saveComplete (ctx : Fin 3072) (cycles : Nat) (bad : Option EccEvent)
  /-- RESTORE_COMPLETE (R242): A context's newest image has been read into its berth and the context becomes resident with restore_guard set. -/
  | restoreComplete (ctx : Fin 3072) (cycles : Nat) (uncorrectable : Bool)
  /-- TEARDOWN_DONE (R247): A faulted context's pages, berth, images and bindings have been released and its cause becomes TORN. -/
  | teardownDone (ctx : Fin 3072)
  /-- CTX_CMD_RELEASE (R247): A CTX_CMD release returns a TORN context to FREE, and is ignored before TORN. -/
  | ctxCmdRelease
  /-- CTX_CMD_EVICT (R250): A CTX_CMD evict marks the selected resident for saving at its set's next boundary. -/
  | ctxCmdEvict
  /-- CTX_BIND_BIND (R414): A CTX_BIND write with op bind binds a FREE context to a valid tenant slot, or sets PROT_STATUS.cfg_err. -/
  | ctxBindBind (v : Word)
  /-- CTX_BIND_UNBIND (R248): A CTX_BIND write with op unbind releases a context from its tenant at its next boundary, tearing down outstanding work. -/
  | ctxBindUnbind (v : Word)
  /-- LANE_RESERVE (R251): Setting LANE_CTL.reserve sets a ward aside as a lane and marks its residents for saving, or sets LANE_STATUS.cfg_err. -/
  | laneReserve (l : Fin 4) (v : Word)
  /-- LANE_RESERVED (R251): The lane ward has reached its boundary and every resident is saved, so the lane enters RESERVED. -/
  | laneReserved (l : Fin 4)
  /-- LANE_UNRESERVE (R252): Clearing LANE_CTL.reserve stops a running lane and returns the ward to the scheduled wards at the next list point. -/
  | laneUnreserve (l : Fin 4)
  /-- LANE_TICK (R256): Every period ring cycles the lane raises tick k and starts step k when its four start conditions hold, otherwise misses the slot. -/
  | laneTick (l : Fin 4)
  /-- RECOVER (R287): A write of HOST_CTL.recover while recovery is needed starts recovery: commit log replay, region reload, plan copy and Keyring rebuild. -/
  | recover
  /-- RECOVERY_COMPLETE (R287): Recovery orders 3 to 6 have ended, the step number resumes and recovery_needed clears. -/
  | recoveryComplete (aux : List (Nat × ContainerAux)) (bad : List (Nat × Nat))
  /-- PLEVEL_CAP_WRITE (R290): A write to PLEVEL_CTL changes the cap, lowering every faster island within 10 us or raising islands in stagger. -/
  | plevelCapWrite (v : Word)
  /-- THROTTLE_N_ASSERT (R290): THROTTLE_N is asserted and the cap in force becomes the slower of cap and throttle_level within 10 us. -/
  | throttleNAssert
  /-- THROTTLE_N_DEASSERT (R290): THROTTLE_N is deasserted and the cap in force returns to PLEVEL_CTL.cap, raising islands under R371. -/
  | throttleNDeassert
  /-- THERMAL_LEVEL_STEP (R373): Each 1 ms an island above limit lowers its thermal level one step, or raises it once hyst degrees below limit. -/
  | thermalLevelStep (isl : Island) (temp : Int)
  /-- THERMAL_ALERT (R373): An island reaches the alert temperature, setting THERM_STATUS.alert, asserting THERM_ALERT_N and raising its message. -/
  | thermalAlert (isl : Island) (temp : Int)
  /-- LOAD_ENGINE_READ (R137): A golden-copy transfer for a load arrives and the load engine writes its granules and check-tail CRCs. -/
  | loadEngineRead (region : Fin 8192)
  /-- REGION_SEAL (R137): Every write of a load and its check tail is acknowledged and the region becomes SEALED. -/
  | regionSeal (region : Fin 8192)
  /-- LOAD_TIMEOUT (R137): The golden copy is not read within REFETCH_CTL.timeout or the host refuses it, so the region returns to FREE and the LOAD fails. -/
  | loadTimeout (region : Fin 8192) (refused : Bool)
  /-- HOLD_BEGIN (R144): The error bundle of an uncorrectable weight line reaches the Warden, which puts the region in HELD and queues the granule for refetch. -/
  | holdBegin (region : Fin 8192) (granule : Nat) (channel : Fin 64) (lead : Option (Fin 16))
  /-- REFETCH_GRANULE_ARRIVAL (R144): A refetched granule arrives, is checked against its check-tail CRC and is written on all 64 channels. -/
  | refetchGranuleArrival (region : Fin 8192) (tailOk : Bool) (refused : Bool)
  /-- REFETCH_VERIFY (R144): The verify read of a refetched granule completes, filling withheld lines and returning the region to SEALED when the list is empty. -/
  | refetchVerify (region : Fin 8192) (clean : Bool)
  /-- REFETCH_TIMEOUT (R147): A refetch transfer exceeds REFETCH_CTL.timeout and the attempt fails. -/
  | refetchTimeout (region : Fin 8192)
  /-- CXL_MEM_WRITE (R136): A host CXL.mem write is accepted only into a LOADING host-written region, otherwise completed without effect and logged. -/
  | cxlMemWrite (addr : Nat) (bytes : List Byte) (pasid : Nat)
  /-- CXL_MEM_READ (R424): A host CXL.mem read is served from a SEALED or LOADING region when permitted, otherwise returns zeros and is logged. -/
  | cxlMemRead (addr : Nat) (n : Nat) (pasid : Nat)
  /-- SCRUB_START (R423): The scrub engine begins zeroing a range passing between tenants, or pool pages while untagged FREE pages are below low_water. -/
  | scrubStart (unit : Nat)
  /-- SCRUB_UNIT_DONE (R421): Every write of a scrubbed 64 KiB unit is acknowledged and the unit becomes usable, a scrubbed page becoming FREE untagged. -/
  | scrubUnitDone
  /-- AREA_REGISTER_WRITE (R154): A write to a memory area base or size takes effect only when the area is empty and fits, otherwise sets MEM_STATUS.cfg_err. -/
  | areaRegisterWrite (off : Nat) (v : Word)
  /-- COMPRESS_PASS_START (R166): The compress engine, when idle and enabled, starts the oldest accepted compress pass. -/
  | compressPassStart
  /-- COMPRESS_PASS_DONE (R168): A compress pass writes its coded or raw output and its report, and its descriptor completes. -/
  | compressPassDone (refused : Bool)
  /-- SVC_REQUEST_POST (R297): A hinge request is posted into the service ring once a slot is free, with its data slot and optional message. -/
  | svcRequestPost
  /-- SVC_DB_WRITE (R298): A write of SVC_DB.ans makes the part read answers in number order up to the value written. -/
  | svcDbWrite (v : Word)
  /-- H1_ANSWER (R236): An H1 answer supplies instances that the part checks and builds, or asks hardware to build the list. -/
  | h1Answer (num : Nat)
  /-- H2_ANSWER (R217): An H2 answer names victims that the part checks and drops in order, or parks the requester. -/
  | h2Answer (num : Nat)
  /-- H3_ANSWER (R111): An H3 answer supplies the scale bytes of a first-pass block, or asks for hardware scales. -/
  | h3Answer (num : Nat)
  /-- H4_ANSWER (R167): An H4 answer supplies a Keyway table for a block, ending the pass if the table is invalid. -/
  | h4Answer (num : Nat)
  /-- H5_ANSWER (R147): An H5 answer names the source of a refetch granule or orders the region poisoned. -/
  | h5Answer (num : Nat)
  /-- H6_ANSWER (R339): An H6 verdict decides whether a wake candidate proceeds to stage 3 or is rejected. -/
  | h6Answer (num : Nat)
  /-- H7_ANSWER (R314): An H7 answer assigns the unit's chain address, or asks for the walked position. -/
  | h7Answer (num : Nat)
  /-- H8_ANSWER (R245): An H8 answer lets a switch go or defers it. -/
  | h8Answer (num : Nat)
  /-- H9_ANSWER (R302): An H9 answer scrubs a range now or defers it. -/
  | h9Answer (num : Nat)
  /-- HINGE_TIMEOUT (R300): A hinge request's timeout expires and its requester takes the timeout outcome of Table 13-5. -/
  | hingeTimeout (num : Nat)
  /-- SVC_ENABLE_CLEAR (R305): Clearing SVC_CTL.enable gives every outstanding request its timeout outcome at once. -/
  | svcEnableClear
  /-- HINGE_CTL_WRITE (R295): A write of HINGE_CTL swings hinges, each changing mode at its point of effect. -/
  | hingeCtlWrite (v : Word)
  /-- LANIZA_PORT_CHANGE (R312): A Laniza port trains, retrains or goes down, starting a walk. -/
  | lanizaPortChange (p : Fin 2) (st : Fin 4)
  /-- HEAD_UP_TIMEOUT (R311): A unit without CHAIN_HEAD finds its UP port still down 100 ms after release and becomes a head. -/
  | headUpTimeout
  /-- NO_HEAD_TIMEOUT (R311): No WALK reaches a non-head unit within 200 ms, so it sets no_head and stays without a valid address. -/
  | noHeadTimeout
  /-- LANIZA_REWALK (R312): A write of LANIZA_CTL.rewalk starts a walk, or is ignored during one. -/
  | lanizaRewalk
  /-- QUIESCE (R312): A QUIESCE frame makes a unit end its running chained steps and pass QUIESCE on, the last unit returning QUIESCED. -/
  | quiesce
  /-- QUIESCED (R312): A QUIESCED frame returns upstream and lets the head send WALK. -/
  | quiesced
  /-- WALK (R312): A WALK frame gives a unit its position and generation bounds, which it updates and passes on. -/
  | walk (pos : Fin 17) (floorMax : Nat) (maxMin : Nat) (addrs : List Nat)
  /-- WALK_END (R312): An END frame carries the unit count and generation bounds back to the head, which computes the operating generation. -/
  | walkEnd (units : Fin 17) (floorMax : Nat) (maxMin : Nat) (addrs : List Nat)
  /-- CONFIRM (R312): A CONFIRM frame sets each unit's address, ring flag and operating generation, or a failed walk clears them. -/
  | confirm (units : Fin 17) (ring : Bool) (gen : Nat) (addrs : List Nat) (failed : Bool) (viaUp : Bool)
  /-- CHAIN_MEMBERSHIP (R235): Membership of a chained instance from the unit at address 0 is taken at a unit's boundary. -/
  | chainMembership (h : Fin 4096) (members : List (Nat × Nat × Nat))
  /-- CHAIN_START (R317): A START frame from address 0 lets every unit's sets leave their boundary for a chained instance. -/
  | chainStart (lead : Fin 16) (faulted : List Nat) (parked : List Nat)
  /-- CHAIN_READY (R317): A READY frame reaches address 0, which sends GO once READY has come from every unit. -/
  | chainReady (lead : Fin 16) (unit : Fin 16)
  /-- CHAIN_GO (R317): A GO frame lets a unit perform its commit orders 3 to 5 with its own host. -/
  | chainGo (lead : Fin 16)
  /-- CHAIN_GO_TIMEOUT (R318): GO has not come within down_timeout of READY, so the chained instance is cut short without status. -/
  | chainGoTimeout (w : Fin 16)
  /-- CHAIN_DROP_NOTICE (R221): A drop notice makes every unit free its pages of a sequence at and above the new kv_limit at its next boundary. -/
  | chainDropNotice (ctx : Fin 3072) (kvLimit : Nat)
  /-- CHAIN_RESYNC (R319): A RESYNC notice makes every unit zero kv_limit of the named chained sequences and recompute them together. -/
  | chainResync (ctxs : List Nat)
  /-- LANIZA_SEND_WAKE (R322): A write of LANIZA_CTL.send_wake sends the wake pattern on each port whose neighbour is in low-power idle. -/
  | lanizaSendWake (upIdle : Bool) (downIdle : Bool)
  /-- HASP_MUTE_WRITE (R345): A write of HASP_CTL.mute mutes the part, or clears mute unless MUTE_N is asserted. -/
  | haspMuteWrite (v : Word)
  /-- MUTE_N_ASSERT (R344): MUTE_N is asserted, setting mute, stopping microphone clocks and power, and lighting MUTE_LED within 10 us. -/
  | muteNAssert
  /-- MUTE_N_DEASSERT (R347): MUTE_N is deasserted, setting pin_changed and acting as a wake source without clearing mute. -/
  | muteNDeassert
  /-- DECIMATOR_SETTLE_END (R327): settle_ms after a group's clock starts, its decimators stop delivering zeros. -/
  | decimatorSettleEnd (g : Fin 2)
  /-- WAKE_FRAME (R333): Each 160-sample frame stage 0 judges voice-likeness and stage 1 scores the open candidate's frames. -/
  | wakeFrame (pairs : List (Nat × Nat)) (g0 : List (List Nat)) (g1 : List (List Nat)) (voice : Bool) (scores : List (Nat × Nat))
  /-- KW_WINDOW_EXPIRY (R334): The stage 1 window ends without a pass and the candidate is rejected and counted in KW_REJECT. -/
  | kwWindowExpiry
  /-- VERIFY_SCORE (R336): The stage 2 verifier score arrives, is compared with the threshold, and ward 0 is switched off. -/
  | verifyScore (score : Word)
  /-- VERIFY_BUDGET_EXPIRY (R336): No verifier score arrives within the budget, rejecting the candidate with outcome 4. -/
  | verifyBudgetExpiry
  /-- VERIFIER_GRANULE_FAIL (R336): A verifier weight granule fails its CRC-32C, rejecting the candidate with outcome 5 and setting image_bad. -/
  | verifierGranuleFail
  /-- AUDIO_BLOCK_FULL (R341): A wake-stream or capture block fills and is written to its host ring. -/
  | audioBlockFull (r : ARing)
  /-- STREAM_START (R341): A ring _CTL start write starts a wake or capture stream, delivering the spool first, or is refused when SDIO streams. -/
  | streamStart (r : ARing) (v : Word)
  /-- STREAM_STOP (R341): A ring _CTL stop write writes out the partial block and stops the stream. -/
  | streamStop (r : ARing) (v : Word)
  /-- VERIFY_LOAD (R337): A write of VERIFY_CTL.load copies the verifier image into PSRAM, writes its check tail and validates it. -/
  | verifyLoad (aux : ContainerAux) (refused : Bool)
  /-- PDM_GRP_WRITE (R326): A write to PDM_GRPg configures and enables a group, or is ignored with cfg_err when its decimation is out of range or the group runs. -/
  | pdmGrpWrite (g : Fin 2) (v : Word)
  /-- CSI_FRAME_START (R354): A frame start packet advances the logical sensor's frame number and claims the frame if a CAM_RECV entry waits. -/
  | csiFrameStart (port : Fin 4) (vc : Fin 16)
  /-- CSI_LONG_PACKET (R355): A line packet is cropped, CRC-checked with replacement on failure, queued through the pipeline, or discarded on overflow. -/
  | csiLongPacket (port : Fin 4) (vc : Fin 16) (dt : Nat) (payload : List Byte) (crcOk : Bool) (full : Bool)
  /-- CSI_FRAME_END (R355): A frame end packet closes the frame, fills missing rows, writes its statistics record and frame header. -/
  | csiFrameEnd (port : Fin 4) (vc : Fin 16) (late : List Nat)
  /-- CSI_HEADER_ERROR (R351): A packet header is corrected or discarded, or a packet of unmapped type or channel is discarded and counted. -/
  | csiHeaderError (port : Fin 4) (corrected : Bool)
  /-- CAM_FRAME_TIMEOUT (R355): No frame end arrives within frame_timeout of the last packet and the frame is closed as short. -/
  | camFrameTimeout (s : Fin 16) (late : List Nat)
  /-- CAM_RECV_TIMEOUT (R363): No frame of the sensor starts within frame_timeout of a waiting CAM_RECV entry, which receives zero lines flagged absent. -/
  | camRecvTimeout (s : Fin 16)
  /-- CAM_LS_ENABLE (R352): Enabling a logical sensor maps it to a port and channel, or is refused with CAM_STATUS.cfg_err. -/
  | camLsEnable (s : Fin 16) (v : Word)
  /-- I3C_CMD (R366): A write of I3C_CMD queues a command, held until frame start when at_fs is set. -/
  | i3cCmd (port : Fin 4) (v : Word)
  /-- I3C_CMD_DONE (R366): An I3C command completes on the bus, or a NACK or bus error flushes the command FIFO and sets err. -/
  | i3cCmdDone (port : Fin 4) (ok : Bool) (data : List Byte)
  /-- I3C_IBI (R365): An in-band interrupt is received with up to four payload bytes and flagged. -/
  | i3cIbi (port : Fin 4) (addr : Nat) (payload : List Byte)
  /-- I3C_HOT_JOIN (R365): A Hot-Join is received and flagged for host software. -/
  | i3cHotJoin (port : Fin 4)
  /-- SLEEP_GO (R378): A write of SLEEP_CTL.go begins entry to the target sleep state, stopping acceptance and polling every block, or is not permitted. -/
  | sleepGo (v : Word)
  /-- SLEEP_ENTRY_PROCEED (R379): Once every block is ready, residents are saved, the sleep image written, stacks set, knuckles clamped and domains switched off. -/
  | sleepEntryProceed
  /-- SLEEP_ENTRY_TIMEOUT (R379): A delay outlasts SLEEP_CTL.timeout and the entry is abandoned with result 3. -/
  | sleepEntryTimeout
  /-- WAKE_SOURCE (R384): An enabled wake source is detected, recorded in LAST_WAKE, and starts the wake sequence or aborts an entry before clamping. -/
  | wakeSource (src : Fin 8)
  /-- WAKE_COMPLETE (R385): Islands are powered and released, clamps released, lost SRAM zeroed and the link back in L0, so state reads 0 and acceptance resumes. -/
  | wakeComplete (imgBad : Bool)
  /-- RETENTION_SUPPLY_LOSS (R377): The retention supply leaves its range during S2, so every retention bank is zeroed on exit and ret_lost set. -/
  | retentionSupplyLoss
  /-- CONF_MODE_SET (R425): A write of 1 to CONF_MODE.enable detaches debug and closes every item of Table 19-2 within 64 Warden cycles. -/
  | confModeSet (v : Word)
  /-- PROT_LOCK (R431): Setting PROT_CTL.lock makes every RWL field read only until a warm reset. -/
  | protLock
  /-- PROTECTION_WRITE (R416): A tenant or window write changes the protection set-up from each ward's next boundary, or is ignored with cfg_err. -/
  | protectionWrite (off : Nat) (v : Word)
  /-- ATTEST_GO (R426): A write of ATTEST_CTL.go, once pending clears, samples the state for an attestation report. -/
  | attestGo
  /-- ATTEST_DONE (R427): The signed attestation report is written to the buffer and done is set. -/
  | attestDone
  /-- ERR_MIRROR_COPY (R437): A due error record is copied to the mirror ring once it has room, raising a message for scope 2 or above. -/
  | errMirrorCopy
  /-- STRIKE_FIRE (R447): A write of STRIKE_CTL.fire makes the Warden latch its snapshot and send strike markers. -/
  | strikeFire
  /-- STRIKE_ARM (R448): A write of STRIKE_CTL.arm discards held snapshots and sets armed. -/
  | strikeArm
  /-- STRIKE_IN_EDGE (R447): A rising edge on STRIKE_IN after at least 1 us low fires a strike when enabled and armed. -/
  | strikeInEdge (us : Nat)
  /-- THRESHOLD_STRIKE (R459): A counter reaches its comparator value from below and its island fires a strike once. -/
  | thresholdStrike (i : Fin 4)
  /-- STRIKE_MARKER (R449): The first strike marker reaching an island makes it latch its snapshot, record its hop ordinal and send markers on. -/
  | strikeMarker (isl : Island) (hop : Nat)
  /-- STRIKE_DONE_BUNDLE (R451): A latched island's done bundle reaches the Warden, which sets complete once every powered island has reported. -/
  | strikeDoneBundle (isl : Island) (inFlight : Nat)
  /-- STRIKE_OUT_PULSE_END (R453): The 1 us pulse on STRIKE_OUT after a strike ends. -/
  | strikeOutPulseEnd
  /-- THRESH_SEL_WRITE (R459): A write of THRESHi_SEL names a counter and re-enables the comparator. -/
  | threshSelWrite (i : Fin 4) (v : Word)
  /-- LATCHED_LO_READ (R465): A read of the _LO half of a latched pair copies the _HI half into the block's latch. -/
  | latchedLoRead (off : Nat)
  /-- REGISTER_WRITE (R464): A write to a register without a row of its own takes effect in delivery order, at once or at the point its chapter names. -/
  | registerWrite (off : Nat) (v : Word) (be : Fin 16)
  /-- MBX_STATUS (R473): A mailbox STATUS request returns the identity, latch, power, wake, hasp and thermal registers. -/
  | mbxStatus (bytes : List Byte)
  /-- MBX_MUTE (R473): A mailbox MUTE request mutes or unmutes the part, refusing an unmute while MUTE_N is asserted. -/
  | mbxMute (bytes : List Byte)
  /-- MBX_RETRY (R443): A mailbox RETRY request acts as LATCH_CTL.retry, or is refused outside Latch mode. -/
  | mbxRetry (bytes : List Byte)
  /-- MBX_READ_REG (R473): A mailbox READ_REG request returns a register of the identity, power, or audio and hasp block. -/
  | mbxReadReg (bytes : List Byte)
  /-- MBX_WRITE_REG (R473): A mailbox WRITE_REG request writes a register of the audio and hasp block or WAKE_EN. -/
  | mbxWriteReg (bytes : List Byte)
  /-- MBX_UNKNOWN_COMMAND (R473): A mailbox request with an unknown command is answered with status 1. -/
  | mbxUnknownCommand (bytes : List Byte)
  /-- F2_START (R476): A write of F2_CTL.start starts the wake stream over SDIO, or is refused while the STREAM ring runs. -/
  | f2Start
  /-- F2_STOP (R475): A write of F2_CTL.stop writes out the partial block and stops the SDIO wake stream. -/
  | f2Stop
  /-- F2_RECORD_READ (R475): A 32-byte read of F2_RECORD returns and removes the oldest wake record. -/
  | f2RecordRead
  /-- F2_AUDIO_READ (R475): A 4,096-byte read of F2_AUDIO returns and removes the oldest buffered audio block. -/
  | f2AudioRead
  /-- LANIZA_FRAME_CRC_FAIL (R308): A Laniza frame that fails its CRC is sent again from the sender's retry buffer and counted in LZ_RETRY, and the 64th consecutive failure takes the port down. -/
  | lanizaFrameCrcFail (p : Fin 2)
  /-- AUD_CLK_STOP (R488): AUD_CLK stops while a PDM group runs, so the group's clocks are held low and its path counts as disabled. -/
  | audClkStop
  /-- AUD_CLK_RETURN (R488): AUD_CLK returns, the group's path resumes its sample counter and its next block carries the gap flag. -/
  | audClkReturn
  /-- HOST_LINK_UP (R441): The host link finishes training, so wake records waiting in the Latch FIFO can be copied to the wake ring and the link answers configuration requests. -/
  | hostLinkUp
  /-- LANE_INPUT_FETCH_DONE (R258): The lane mover's fetch of slot k's input from host memory completes, and input buffer k mod 4 stands ready for condition 3 of R256. -/
  | laneInputFetchDone (l : Fin 4) (slot : Nat) (refused : Bool) (path : List Byte)
deriving DecidableEq, Repr

end Sys2Proof
end

