-- ==== Sys2Proof/Machine/Formats.lean ====
section
/-! DEFINITION. The number formats of spec/02_number_formats.md: layouts, special values, element storage, exact values,
rounding to nearest with ties to even, and the conversions of Tables 2-3 and 2-6. -/

namespace Sys2Proof

/-- Field layout of a float format (Table 2-2): mantissa bits, bias, and the magnitude code of the largest finite value. -/
structure FLayout where
  width : Nat
  mbits : Nat
  bias : Nat
  maxMag : Nat
  hasInf : Bool
  hasNan : Bool
  canonNan : Nat
deriving DecidableEq, Repr

/-- Tables 2-2 and 2-3. `none` for the integer formats. -/
def floatLayout : Fmt → Option FLayout
  | .fp32 => some ⟨32, 23, 127, 0x7F7FFFFF, true, true, 0x7FC00000⟩
  | .bf16 => some ⟨16, 7, 127, 0x7F7F, true, true, 0x7FC0⟩
  | .fp16 => some ⟨16, 10, 15, 0x7BFF, true, true, 0x7E00⟩
  | .e5m2 => some ⟨8, 2, 15, 0x7B, true, true, 0x7E⟩
  | .e4m3 => some ⟨8, 3, 7, 0x7E, false, true, 0x7F⟩
  | .e3m2 => some ⟨6, 2, 3, 0x1F, false, false, 0⟩
  | .e2m1 => some ⟨4, 1, 1, 0x7, false, false, 0⟩
  | _ => none

/-- Width of a format's code in bits (Table 2-1; INT32 in accumulators only). -/
def fmtBits : Fmt → Nat
  | .fp32 | .int32 => 32
  | .bf16 | .fp16 => 16
  | .e4m3 | .e5m2 | .int8 | .uint8 => 8
  | .e3m2 => 6
  | .e2m1 | .int4 | .uint4 => 4

/-- Table 2-1's pairing class; FP32 and INT32 have none. -/
def pairClass : Fmt → Option PairClass
  | .bf16 | .fp16 => some .wideFloat
  | .e4m3 | .e5m2 | .e3m2 | .e2m1 => some .narrowFloat
  | .int8 | .uint8 | .int4 | .uint4 => some .integer
  | .fp32 | .int32 => none

/-- R30: both operands of a tumbler operation belong to one pairing class. -/
def pairOk (a b : Fmt) : Bool :=
  match pairClass a, pairClass b with
  | some x, some y => x == y
  | _, _ => false

/-- Formats with "Yes" in the Block scale column of Table 2-1 (R39). -/
def blockScaled (f : Fmt) : Bool :=
  match pairClass f with
  | some .narrowFloat | some .integer => true
  | _ => false

/-- Formats with a zero point (R37). -/
def hasZeroPoint : Fmt → Bool
  | .uint8 | .uint4 => true
  | _ => false

/-- R54, Table 3-1: the operand pair selects the mode. -/
def opMode (a b : Fmt) : OpMode :=
  if fmtBits a = 16 ∨ fmtBits b = 16 then .wide
  else if fmtBits a = 4 ∧ fmtBits b = 4 then .narrow
  else .standard

/-- Output rows of a tile in each mode (Table 3-1). -/
def modeRows : OpMode → Nat
  | .narrow => 128 | .standard => 64 | .wide => 32

/-- Table 4-3's format codes (R82). -/
def fmtOfCode : Nat → Option Fmt
  | 0 => some .fp32 | 1 => some .bf16 | 2 => some .fp16 | 3 => some .e4m3 | 4 => some .e5m2 | 5 => some .e3m2
  | 6 => some .e2m1 | 7 => some .int8 | 8 => some .uint8 | 9 => some .int4 | 10 => some .uint4 | 11 => some .int32
  | _ => none

/-- The code of a format in Table 4-3. -/
def fmtCode (f : Fmt) : Nat := ((List.range 16).find? fun c => fmtOfCode c == some f).getD 0

/-- Lengths a group code of Table 4-3 stands for; 0 is unscaled (R39, R489). -/
def groupLen : Nat → Nat
  | 1 => 32 | 2 => 64 | 3 => 128 | _ => 0

/-- Number of significant bits of a magnitude. -/
def bitLen (m : Nat) : Nat := if m = 0 then 0 else Nat.log2 m + 1

/-- `m` shifted right by `n`, to nearest with ties to even (R48). -/
def rneShift (m n : Nat) : Nat :=
  let q := m >>> n
  let r := m % 2 ^ n
  let half := 2 ^ n / 2
  if n = 0 then m
  else if r > half ∨ (r = half ∧ q % 2 = 1) then q + 1 else q

/-- `m * 2^e` rounded to an integer, to nearest with ties to even, as a magnitude. -/
def rneInt (m : Nat) (e : Int) : Nat :=
  if 0 ≤ e then m <<< e.toNat else rneShift m (-e).toNat

/-- The magnitude code, unbounded above, of `m * 2^e` rounded to nearest even in a layout: subnormals kept (R35), the
exponent field free to run past the format (R48's unbounded exponent). -/
def magCode (l : FLayout) (m : Nat) (e : Int) : Nat :=
  let qmin : Int := 1 - (l.bias : Int) - (l.mbits : Int)
  let lead : Int := e + (bitLen m : Int) - 1
  let q : Int := max (lead - (l.mbits : Int)) qmin
  if m = 0 then 0
  else (q - qmin).toNat * 2 ^ l.mbits + rneInt m (e - q)

/-- Value of a magnitude code below any special codes. -/
def magVal (l : FLayout) (c : Nat) : Nat × Int :=
  let ef := c / 2 ^ l.mbits
  let mf := c % 2 ^ l.mbits
  if ef = 0 then (mf, 1 - (l.bias : Int) - (l.mbits : Int))
  else (2 ^ l.mbits + mf, (ef : Int) - (l.bias : Int) - (l.mbits : Int))

/-- The exact value of a float code (R32, R33). -/
def floatVal (l : FLayout) (code : Nat) : FVal :=
  let mag := code % 2 ^ (l.width - 1)
  let neg := code / 2 ^ (l.width - 1) % 2 == 1
  if mag > l.maxMag then
    if l.hasInf ∧ mag = l.maxMag + 1 then .inf neg else .nan
  else
    let v := magVal l mag
    .fin neg v.1 v.2

/-- Two's complement reading of the low `w` bits. -/
def sext (w : Nat) (code : Nat) : Int :=
  let c := code % 2 ^ w
  if c < 2 ^ (w - 1) then (c : Int) else (c : Int) - 2 ^ w

/-- An integer as an exact value. -/
def FVal.ofInt (i : Int) : FVal := .fin (decide (i < 0)) i.natAbs 0

/-- The centred integer operand of a code: `q - zp` for unsigned formats, `q` sign-extended otherwise (R36, R37). -/
def centred (f : Fmt) (zp code : Nat) : Int :=
  match f with
  | .uint8 => (code % 256 : Nat) - (zp : Int)
  | .uint4 => (code % 16 : Nat) - (zp : Int)
  | .int8 => sext 8 code
  | .int4 => sext 4 code
  | _ => sext 32 code

/-- The exact value of an element before its block scale. -/
def elemVal (f : Fmt) (zp code : Nat) : FVal :=
  match floatLayout f with
  | some l => floatVal l code
  | none => FVal.ofInt (centred f zp code)

/-- An exact value times a power of two. -/
def FVal.scale (v : FVal) (k : Int) : FVal :=
  match v with
  | .fin n m e => .fin n m (e + k)
  | w => w

/-- R38: the exponent of an E8M0 scale; 0xFF is read as 0xFE. -/
def scaleExp (s : Nat) : Int := (min (s % 256) 0xFE : Nat) - 127

/-- R38: a supplied 0xFF is a substitution, and is counted. -/
def scaleSubst (s : Nat) : Bool := s % 256 == 0xFF

/-- What a conversion gives: the code, whether a finite value overflowed, an infinity was saturated, and a NaN became zero. -/
structure Conv where
  code : Nat
  overflow : Bool := false
  satInf : Bool := false
  nanZero : Bool := false
deriving DecidableEq, Repr

/-- R112: the element counts as clipped. -/
def Conv.clipped (c : Conv) : Bool := c.overflow || c.satInf

/-- The sign placed above a magnitude code. -/
def signMag (l : FLayout) (neg : Bool) (mag : Nat) : Nat := if neg then 2 ^ (l.width - 1) + mag else mag

/-- Table 2-6 for a float destination. FP32 follows IEEE 754; BF16, FP16 and E5M2 saturate unless `infOk`;
E4M3, E3M2 and E2M1 saturate always (R49). -/
def toFloat (f : Fmt) (l : FLayout) (infOk : Bool) (v : FVal) : Conv :=
  let ieee := f == .fp32 || (l.hasInf && infOk)
  match v with
  | .nan => if l.hasNan then { code := l.canonNan } else { code := 0, nanZero := true }
  | .inf n =>
    if ieee then { code := signMag l n (l.maxMag + 1) }
    else { code := signMag l n l.maxMag, satInf := true }
  | .fin n m e =>
    let c := magCode l m e
    if c > l.maxMag then
      { code := signMag l n (if ieee then l.maxMag + 1 else l.maxMag), overflow := true }
    else { code := signMag l n c }

/-- Least and greatest code value of an integer format (Table 2-4). -/
def intRange : Fmt → Int × Int
  | .int8 => (-128, 127) | .uint8 => (0, 255) | .int4 => (-8, 7) | .uint4 => (0, 15)
  | _ => (-2147483648, 2147483647)

/-- The code bits of an integer value. -/
def intCode (f : Fmt) (i : Int) : Nat := (i % (2 ^ fmtBits f : Nat)).toNat

/-- A value rounded to an integer, to nearest with ties to even. -/
def roundInt (neg : Bool) (m : Nat) (e : Int) : Int :=
  let r := rneInt m e
  if neg then -(r : Int) else r

/-- Table 2-6 for an integer destination: round, add the zero point, saturate (R49, R50). -/
def toInt (f : Fmt) (zp : Nat) (v : FVal) : Conv :=
  let z : Int := if hasZeroPoint f then zp else 0
  let lo := (intRange f).1
  let hi := (intRange f).2
  match v with
  | .nan => { code := intCode f z, nanZero := true }
  | .inf n => { code := intCode f (if n then lo else hi), satInf := true }
  | .fin n m e =>
    let i := roundInt n m e + z
    if i < lo then { code := intCode f lo, overflow := true }
    else if i > hi then { code := intCode f hi, overflow := true }
    else { code := intCode f i }

/-- R48 to R50: the conversion of an exact value into a format with scale code `s` (127 for a format or tensor without one). -/
def convert (f : Fmt) (infOk : Bool) (zp s : Nat) (v : FVal) : Conv :=
  let x := v.scale (-(scaleExp s))
  match floatLayout f with
  | some l => toFloat f l infOk x
  | none => toInt f zp x

/-- R31: the code of element `i` of packed storage, read through a byte function. -/
def packedGet (f : Fmt) (rd : Nat → Byte) (base i : Nat) : Nat :=
  match fmtBits f with
  | 32 => (rd (base + 4*i)).toNat + (rd (base + 4*i + 1)).toNat * 256 + (rd (base + 4*i + 2)).toNat * 65536
            + (rd (base + 4*i + 3)).toNat * 16777216
  | 16 => (rd (base + 2*i)).toNat + (rd (base + 2*i + 1)).toNat * 256
  | 8 => (rd (base + i)).toNat
  | 6 =>
    let b := base + 3 * (i / 4)
    let w := (rd b).toNat + (rd (b + 1)).toNat * 256 + (rd (b + 2)).toNat * 65536
    w / 2 ^ (6 * (i % 4)) % 64
  | _ => (rd (base + i / 2)).toNat / 16 ^ (i % 2) % 16

/-- Byte `k` of a number, little-endian. -/
def byteOf (n k : Nat) : Byte := BitVec.ofNat 8 (n / 256 ^ k)

/-- `n` little-endian bytes of a number. -/
def leBytes (n v : Nat) : List Byte := (List.range n).map (byteOf v)

/-- The number little-endian bytes spell. -/
def leNat : List Byte → Nat
  | [] => 0
  | b :: bs => b.toNat + 256 * leNat bs

/-- R31: the bytes a list of codes packs into, padded with zero elements to whole storage groups. -/
def packCodes (f : Fmt) (cs : List Nat) : List Byte :=
  let bits := fmtBits f
  let total := (cs.zipIdx.map fun p => p.1 % 2 ^ bits * 2 ^ (bits * p.2)).sum
  let nbytes :=
    if bits = 6 then 3 * ((cs.length + 3) / 4)
    else if bits = 4 then (cs.length + 1) / 2
    else cs.length * (bits / 8)
  leBytes nbytes total

/-- Bytes that `n` elements of a format take, padding included (R31). -/
def packedBytes (f : Fmt) (n : Nat) : Nat :=
  let bits := fmtBits f
  if bits = 6 then 3 * ((n + 3) / 4)
  else if bits = 4 then (n + 1) / 2
  else n * (bits / 8)

end Sys2Proof
end

