-- ==== Sys2Proof/Machine/Hash.lean ====
section
/-! DEFINITION. The check codes the spec names: CRC-32 (R80) and CRC-32C (R132), both reflected with initial and final value
0xFFFF_FFFF; SHA-512 (FIPS 180-4) and the check of an RSASSA-PSS signature (RFC 8017), which spec/19_security.md R411, R427
and R428 name. -/

namespace Sys2Proof

/-- One bit of a reflected CRC. -/
def crcBit (poly c : Word) : Word := if c.getLsbD 0 then (c >>> 1) ^^^ poly else c >>> 1

/-- One byte of a reflected CRC. -/
def crcByte (poly c : Word) (b : Byte) : Word :=
  let x := c ^^^ (b.setWidth 32)
  (crcBit poly ∘ crcBit poly ∘ crcBit poly ∘ crcBit poly ∘ crcBit poly ∘ crcBit poly ∘ crcBit poly ∘ crcBit poly) x

/-- A reflected CRC over bytes. -/
def crcOf (poly : Word) (bs : List Byte) : Word := bs.foldl (crcByte poly) 0xFFFFFFFF#32 ^^^ 0xFFFFFFFF#32

/-- CRC-32, the IEEE 802.3 polynomial (R80). -/
def crc32 (bs : List Byte) : Nat := (crcOf 0xEDB88320#32 bs).toNat

/-- CRC-32C, the Castagnoli polynomial (R132). -/
def crc32c (bs : List Byte) : Nat := (crcOf 0x82F63B78#32 bs).toNat

/-! ## SHA-512 -/

/-- The round constants of SHA-512, first half. -/
def shaK0 : List Nat := [
  0x428a2f98d728ae22, 0x7137449123ef65cd, 0xb5c0fbcfec4d3b2f, 0xe9b5dba58189dbbc,
  0x3956c25bf348b538, 0x59f111f1b605d019, 0x923f82a4af194f9b, 0xab1c5ed5da6d8118,
  0xd807aa98a3030242, 0x12835b0145706fbe, 0x243185be4ee4b28c, 0x550c7dc3d5ffb4e2,
  0x72be5d74f27b896f, 0x80deb1fe3b1696b1, 0x9bdc06a725c71235, 0xc19bf174cf692694,
  0xe49b69c19ef14ad2, 0xefbe4786384f25e3, 0x0fc19dc68b8cd5b5, 0x240ca1cc77ac9c65,
  0x2de92c6f592b0275, 0x4a7484aa6ea6e483, 0x5cb0a9dcbd41fbd4, 0x76f988da831153b5,
  0x983e5152ee66dfab, 0xa831c66d2db43210, 0xb00327c898fb213f, 0xbf597fc7beef0ee4,
  0xc6e00bf33da88fc2, 0xd5a79147930aa725, 0x06ca6351e003826f, 0x142929670a0e6e70,
  0x27b70a8546d22ffc, 0x2e1b21385c26c926, 0x4d2c6dfc5ac42aed, 0x53380d139d95b3df,
  0x650a73548baf63de, 0x766a0abb3c77b2a8, 0x81c2c92e47edaee6, 0x92722c851482353b]

/-- The round constants of SHA-512, second half. -/
def shaK1 : List Nat := [
  0xa2bfe8a14cf10364, 0xa81a664bbc423001, 0xc24b8b70d0f89791, 0xc76c51a30654be30,
  0xd192e819d6ef5218, 0xd69906245565a910, 0xf40e35855771202a, 0x106aa07032bbd1b8,
  0x19a4c116b8d2d0c8, 0x1e376c085141ab53, 0x2748774cdf8eeb99, 0x34b0bcb5e19b48a8,
  0x391c0cb3c5c95a63, 0x4ed8aa4ae3418acb, 0x5b9cca4f7763e373, 0x682e6ff3d6b2b8a3,
  0x748f82ee5defb2fc, 0x78a5636f43172f60, 0x84c87814a1f0ab72, 0x8cc702081a6439ec,
  0x90befffa23631e28, 0xa4506cebde82bde9, 0xbef9a3f7b2c67915, 0xc67178f2e372532b,
  0xca273eceea26619c, 0xd186b8c721c0c207, 0xeada7dd6cde0eb1e, 0xf57d4f7fee6ed178,
  0x06f067aa72176fba, 0x0a637dc5a2c898a6, 0x113f9804bef90dae, 0x1b710b35131c471b,
  0x28db77f523047d84, 0x32caab7b40c72493, 0x3c9ebe0a15c9bebc, 0x431d67c49c100d4c,
  0x4cc5d4becb3e42b6, 0x597f299cfc657e2a, 0x5fcb6fab3ad6faec, 0x6c44198c4a475817]

/-- The initial hash value of SHA-512. -/
def shaInit : List Nat := [
  0x6a09e667f3bcc908, 0xbb67ae8584caa73b, 0x3c6ef372fe94f82b, 0xa54ff53a5f1d36f1,
  0x510e527fade682d1, 0x9b05688c2b3e6c1f, 0x1f83d9abfb41bd6b, 0x5be0cd19137e2179]

/-- A word rotated right. -/
def rotR (n : Nat) (x : DWord) : DWord := x.rotateRight n

/-- The eight working words. -/
structure ShaState where
  a : DWord
  b : DWord
  c : DWord
  d : DWord
  e : DWord
  f : DWord
  g : DWord
  h : DWord
deriving DecidableEq, Repr

/-- Working words from a list of numbers. -/
def shaState (l : List Nat) : ShaState :=
  let w := fun i => BitVec.ofNat 64 (l.getD i 0)
  { a := w 0, b := w 1, c := w 2, d := w 3, e := w 4, f := w 5, g := w 6, h := w 7 }

/-- One round with its constant and schedule word. -/
def shaRound (s : ShaState) (k w : DWord) : ShaState :=
  let s1 := rotR 14 s.e ^^^ rotR 18 s.e ^^^ rotR 41 s.e
  let ch := (s.e &&& s.f) ^^^ (~~~s.e &&& s.g)
  let t1 := s.h + s1 + ch + k + w
  let s0 := rotR 28 s.a ^^^ rotR 34 s.a ^^^ rotR 39 s.a
  let maj := (s.a &&& s.b) ^^^ (s.a &&& s.c) ^^^ (s.b &&& s.c)
  { a := t1 + (s0 + maj), b := s.a, c := s.b, d := s.c, e := s.d + t1, f := s.e, g := s.f, h := s.g }

/-- The sixteen newest schedule words, newest first, with one more. -/
def shaNext (ws : List DWord) : DWord :=
  let w := fun i => ws.getD i 0
  let s1 := rotR 19 (w 1) ^^^ rotR 61 (w 1) ^^^ (w 1 >>> 6)
  let s0 := rotR 1 (w 14) ^^^ rotR 8 (w 14) ^^^ (w 14 >>> 7)
  s1 + w 6 + s0 + w 15

/-- The rounds over a list of constants. `ws` holds the schedule words from the present one back, newest first, 16 at least. -/
def shaRounds : List Nat → List DWord → ShaState → ShaState
  | [], _, s => s
  | k :: ks, ws, s =>
    -- the present round's word is the oldest of the sixteen held
    shaRounds ks (shaNext (ws.take 16) :: ws.take 15) (shaRound s (BitVec.ofNat 64 k) (ws.getD 15 0))

/-- Big-endian number of bytes. -/
def beNat (bs : List Byte) : Nat := bs.foldl (fun n b => 256 * n + b.toNat) 0

/-- Big-endian bytes of a number. -/
def beBytes (n v : Nat) : List Byte := (leBytes n v).reverse

/-- One block of 128 bytes. -/
def shaBlock (s : ShaState) (bs : List Byte) : ShaState :=
  let ws := ((List.range 16).map fun i => BitVec.ofNat 64 (beNat ((bs.drop (8 * i)).take 8))).reverse
  let r := shaRounds (shaK0 ++ shaK1) ws s
  { a := s.a + r.a, b := s.b + r.b, c := s.c + r.c, d := s.d + r.d, e := s.e + r.e, f := s.f + r.f, g := s.g + r.g, h := s.h + r.h }

/-- The blocks of a padded message. -/
def shaBlocks : Nat → List Byte → ShaState → ShaState
  | 0, _, s => s
  | n + 1, bs, s => shaBlocks n (bs.drop 128) (shaBlock s (bs.take 128))

/-- SHA-512 of a message. -/
def sha512 (m : List Byte) : List Byte :=
  let n := m.length
  let pad := m ++ [0x80#8] ++ List.replicate ((239 - n % 128) % 128) 0#8 ++ beBytes 16 (8 * n)
  let s := shaBlocks (pad.length / 128) pad (shaState shaInit)
  [s.a, s.b, s.c, s.d, s.e, s.f, s.g, s.h].flatMap fun w => beBytes 8 w.toNat

/-! ## RSASSA-PSS with SHA-512, MGF1 with SHA-512 and a 64-byte salt -/

/-- MGF1: `n` mask bytes from a seed. -/
def mgf1 (seed : List Byte) (n : Nat) : List Byte :=
  ((List.range ((n + 63) / 64)).flatMap fun i => sha512 (seed ++ beBytes 4 i)).take n

/-- A number raised to 2^k modulo n. -/
def sqMod (n : Nat) : Nat → Nat → Nat
  | 0, x => x
  | k + 1, x => sqMod n k (x * x % n)

/-- RSA with the public exponent 65,537. -/
def rsaPublic (n s : Nat) : Nat := sqMod n 16 (s % n) * s % n

/-- The encoded message of 512 bytes verifies for a message hash (RFC 8017, 9.1.2). -/
def pssOk (hash em : List Byte) : Bool :=
  let masked := em.take 447
  let h := (em.drop 447).take 64
  let db := (masked.zip (mgf1 h 447)).map fun p => p.1 ^^^ p.2
  let db := db.set 0 (db.headD 0#8 &&& 0x7F#8)
  (em.getD 511 0#8 == 0xBC#8) && decide ((masked.headD 0#8).toNat < 128) && (db.take 382).all (· == 0#8)
    && (db.getD 382 0#8 == 1#8) && (h == sha512 (List.replicate 8 0#8 ++ hash ++ db.drop 383))

/-- A signature over a message verifies under an RSA-4096 modulus (R411, check 5). -/
def rsaPssOk (modulus msg sig : List Byte) : Bool :=
  let n := beNat modulus
  let s := beNat sig
  decide (2 ^ 4095 ≤ n) && decide (s < n) && sig.length == 512 && pssOk (sha512 msg) (beBytes 512 (rsaPublic n s))

end Sys2Proof
end

