-- ==== Sys2Proof/Machine/FpArith.lean ====
section
/-! DEFINITION. Exactly rounded FP32 arithmetic (spec/02_number_formats.md R34, R35, R42 to R44, R48, R53) and the vector
functions of Table 3-6 (spec/03_tumbler_and_cylinder.md R78). -/

namespace Sys2Proof

/-- FP32's layout. -/
def fp32L : FLayout := ⟨32, 23, 127, 0x7F7FFFFF, true, true, 0x7FC00000⟩

/-- The canonical FP32 NaN (R34). -/
def f32Nan : Word := 0x7FC00000#32

/-- The FP32 infinities. -/
def f32Inf (neg : Bool) : Word := if neg then 0xFF800000#32 else 0x7F800000#32

/-- Exact value of an FP32 word. -/
def f32Val (w : Word) : FVal := floatVal fp32L w.toNat

/-- An exact value rounded once into FP32 (R48); overflow gives an infinity (Table 2-6). -/
def f32Round (v : FVal) : Word :=
  match v with
  | .nan => f32Nan
  | .inf n => f32Inf n
  | .fin n m e => BitVec.ofNat 32 (toFloat .fp32 fp32L true (.fin n m e)).code

/-- Exact product; zero times infinity is NaN (R43). -/
def FVal.mul (a b : FVal) : FVal :=
  match a, b with
  | .nan, _ => .nan
  | _, .nan => .nan
  | .inf x, .inf y => .inf (x != y)
  | .inf x, .fin y m _ => if m = 0 then .nan else .inf (x != y)
  | .fin x m _, .inf y => if m = 0 then .nan else .inf (x != y)
  | .fin x m e, .fin y n f => .fin (x != y) (m * n) (e + f)

/-- Signed integer of a finite magnitude at a common exponent not above its own. -/
def alignTo (e0 : Int) (n : Bool) (m : Nat) (e : Int) : Int :=
  let a : Int := (m <<< (e - e0).toNat : Nat)
  if n then -a else a

/-- Exact sum. Opposite infinities give NaN; an exact zero is −0 only when both terms are −0 (R43). -/
def FVal.add (a b : FVal) : FVal :=
  match a, b with
  | .nan, _ => .nan
  | _, .nan => .nan
  | .inf x, .inf y => if x = y then .inf x else .nan
  | .inf x, .fin _ _ _ => .inf x
  | .fin _ _ _, .inf y => .inf y
  | .fin x m e, .fin y n f =>
    let e0 := min e f
    let i := alignTo e0 x m e + alignTo e0 y n f
    if m = 0 ∧ n = 0 then .fin (x && y) 0 e0
    else .fin (decide (i < 0)) i.natAbs e0

/-- The value with its sign dropped. -/
def FVal.abs : FVal → FVal
  | .nan => .nan
  | .inf _ => .inf false
  | .fin _ m e => .fin false m e

/-- The value with its sign turned. -/
def FVal.neg : FVal → FVal
  | .nan => .nan
  | .inf n => .inf (!n)
  | .fin n m e => .fin (!n) m e

/-- `a < b` for values that are not NaN; false with a NaN. -/
def FVal.lt (a b : FVal) : Bool :=
  match a, b with
  | .nan, _ => false
  | _, .nan => false
  | .inf x, .inf y => x && !y
  | .inf x, .fin _ _ _ => x
  | .fin _ _ _, .inf y => !y
  | .fin x m e, .fin y n f =>
    let e0 := min e f
    decide (alignTo e0 x m e < alignTo e0 y n f)

/-- Equality of values; zeros of either sign are equal, NaN equals nothing. -/
def FVal.eqv (a b : FVal) : Bool :=
  match a, b with
  | .nan, _ => false
  | _, .nan => false
  | x, y => !(x.lt y) && !(y.lt x)

/-- Whether a value is NaN. -/
def FVal.isNan : FVal → Bool
  | .nan => true
  | _ => false

/-- Whether a value is finite. -/
def FVal.isFin : FVal → Bool
  | .fin _ _ _ => true
  | _ => false

/-- Whether a value is a zero of either sign. -/
def FVal.isZero : FVal → Bool
  | .fin _ m _ => m == 0
  | _ => false

/-- R53: FP32 addition. -/
def f32Add (a b : Word) : Word := f32Round ((f32Val a).add (f32Val b))

/-- R53: FP32 subtraction, the sum with the second sign turned. -/
def f32Sub (a b : Word) : Word := f32Round ((f32Val a).add (f32Val b).neg)

/-- R53: FP32 multiplication. -/
def f32Mul (a b : Word) : Word := f32Round ((f32Val a).mul (f32Val b))

/-- R53, R44: `a * b + c` with one rounding. -/
def f32Fma (a b c : Word) : Word := f32Round (((f32Val a).mul (f32Val b)).add (f32Val c))

/-- R53: maximum; a NaN gives the canonical NaN (R77), and +0 is taken above −0. -/
def f32Max (a b : Word) : Word :=
  let x := f32Val a
  let y := f32Val b
  if x.isNan || y.isNan then f32Nan
  else if x.lt y then b
  else if y.lt x then a
  else if a.msb then b else a

/-- R53: minimum; a NaN gives the canonical NaN (R77), and −0 is taken below +0. -/
def f32Min (a b : Word) : Word :=
  let x := f32Val a
  let y := f32Val b
  if x.isNan || y.isNan then f32Nan
  else if x.lt y then a
  else if y.lt x then b
  else if a.msb then a else b

/-- FP32 rounding of a non-negative exact value towards +∞ (R64's `m`). -/
def f32RoundUp (v : FVal) : Word :=
  let r := f32Round v
  if v.isFin && (f32Val r).lt v then r + 1#32 else r

/-- Floor of the square root of `n`, by bits from the top; `fuel` is the number of result bits. -/
def isqrtGo (n : Nat) : Nat → Nat → Nat
  | 0, r => r
  | k + 1, r =>
    let r' := r + 2 ^ k
    if r' * r' ≤ n then isqrtGo n k r' else isqrtGo n k r

/-- Floor of the square root. -/
def isqrt (n : Nat) : Nat := isqrtGo n (bitLen n / 2 + 1) 0

/-- Precision in bits of the inner steps of the functions below. -/
def fnBits : Nat := 240

/-- A positive quotient with a sticky bit below its last place: enough for one rounding to FP32. -/
def stickyOf (q : Nat) (exact : Bool) (e : Int) : FVal := .fin false (2 * q + (if exact then 0 else 1)) (e - 1)

/-- Reciprocal of a positive `m * 2^e`, truncated with a sticky bit. -/
def recipPos (m : Nat) (e : Int) : FVal :=
  let n := 2 ^ fnBits
  stickyOf (n / m) (n % m == 0) (-e - (fnBits : Int))

/-- Reciprocal square root of a positive `m * 2^e`, truncated with a sticky bit. -/
def rsqrtPos (m : Nat) (e : Int) : FVal :=
  let odd := e % 2 == 1
  let m' := if odd then 2 * m else m
  let e' := if odd then e - 1 else e
  let n := 2 ^ fnBits
  let q := isqrt (n / m')
  stickyOf q (q * q * m' == n) (-(e' / 2) - ((fnBits / 2 : Nat) : Int))

/-- `ln 2` scaled by `2^fnBits`, truncated: the sum of `1 / (k 2^k)`. -/
def ln2Go : Nat → Nat → Nat → Nat
  | 0, _, acc => acc
  | f + 1, k, acc => ln2Go f (k + 1) (acc + 2 ^ fnBits / (k * 2 ^ k))

/-- `ln 2` scaled by `2^fnBits`. -/
def ln2Fix : Nat := ln2Go (fnBits + 1) 1 0

/-- The exponential series of a fixed-point argument in [0, 1), scaled by `2^fnBits`. -/
def expSeries (x : Nat) : Nat → Nat → Nat → Nat → Nat
  | 0, _, _, acc => acc
  | f + 1, k, term, acc => expSeries x f (k + 1) (term * x / 2 ^ fnBits / k) (acc + term)

/-- `e^x` for a fixed-point `x` in [0, 1), truncated. -/
def expFix (x : Nat) : Nat := expSeries x 90 1 (2 ^ fnBits) 0

/-- A finite value as a fixed-point integer scaled by `2^fnBits`, exact for every FP32 value. -/
def toFix (n : Bool) (m : Nat) (e : Int) : Int := alignTo (-(fnBits : Int)) n m e

/-- `2^x` of a finite FP32 value (R78), as a value that rounds to the correct FP32 word. Integers are exact; any other
`x` has an irrational result, so the sticky bit is set. -/
def exp2Fin (n : Bool) (m : Nat) (e : Int) : FVal :=
  if (bitLen m : Int) + e > 9 then (if n then .fin false 1 (-1000) else .inf false)
  else
    let x := toFix n m e
    let k := x / (2 ^ fnBits : Nat)
    let f := (x % (2 ^ fnBits : Nat)).toNat
    if f = 0 then .fin false 1 k
    else stickyOf (expFix (f * ln2Fix / 2 ^ fnBits)) false (k - (fnBits : Int))

/-- `e^x` of a finite FP32 value (R78), as a value that rounds to the correct FP32 word. -/
def expFin (n : Bool) (m : Nat) (e : Int) : FVal :=
  if m = 0 then .fin false 1 0
  else if (bitLen m : Int) + e > 9 then (if n then .fin false 1 (-1000) else .inf false)
  else
    let x := toFix n m e
    let k := x / (ln2Fix : Int)
    let r := (x - k * (ln2Fix : Int)).toNat
    stickyOf (expFix r) false (k - (fnBits : Int))

/-- Table 3-6 (R78). -/
def vecFun (fn : VecFun) (w : Word) : Word :=
  match fn, f32Val w with
  | _, .nan => f32Nan
  | .exp2, .inf n => if n then 0#32 else f32Inf false
  | .exp, .inf n => if n then 0#32 else f32Inf false
  | .recip, .inf n => if n then 0x80000000#32 else 0#32
  | .rsqrt, .inf n => if n then f32Nan else 0#32
  | .exp2, .fin n m e => f32Round (exp2Fin n m e)
  | .exp, .fin n m e => f32Round (expFin n m e)
  | .recip, .fin n m e =>
    if m = 0 then f32Inf n
    else
      let r := f32Round (recipPos m e)
      if n then r ||| 0x80000000#32 else r
  | .rsqrt, .fin n m e =>
    if m = 0 then f32Inf n
    else if n then f32Nan
    else f32Round (rsqrtPos m e)

/-- The lane operations of R53 and R76. A compare gives 1.0 or 0 in FP32 and sets the lane's mask bit. -/
def vecOp (op : VecOp) (a b c : Word) : Word :=
  match op with
  | .add => f32Add a b
  | .mul => f32Mul a b
  | .fma => f32Fma a b c
  | .min => f32Min a b
  | .max => f32Max a b
  | .lt => if (f32Val a).lt (f32Val b) then 0x3F800000#32 else 0#32
  | .le => if (f32Val a).lt (f32Val b) || (f32Val a).eqv (f32Val b) then 0x3F800000#32 else 0#32
  | .eq => if (f32Val a).eqv (f32Val b) then 0x3F800000#32 else 0#32

/-- R77: what combines two positions of a reduction. -/
def redOp (op : RedOp) (a b : Word) : Word :=
  match op with
  | .sum => f32Add a b
  | .max => f32Max a b
  | .min => f32Min a b

/-- R77: what an inactive lane enters as. -/
def redIdle : RedOp → Word
  | .sum => 0x80000000#32
  | .max => 0xFF800000#32
  | .min => 0x7F800000#32

/-- One level of R77: position 2i with position 2i + 1. -/
def redLevel (op : RedOp) : List Word → List Word
  | a :: b :: r => redOp op a b :: redLevel op r
  | r => r

/-- R77: the levels of the tree. -/
def redLevels (op : RedOp) : Nat → List Word → List Word
  | 0, l => l
  | n + 1, l => redLevels op n (redLevel op l)

/-- R77: one register of 256 lanes reduced in eight levels. -/
def redReg (op : RedOp) (lanes : List (Word × Bool)) : Word :=
  (redLevels op 8 (lanes.map fun p => if p.2 then p.1 else redIdle op)).headD (redIdle op)

/-- R77: the results of several registers, one at a time in increasing register order. -/
def redRegs (op : RedOp) : List Word → Word
  | [] => redIdle op
  | r :: rs => rs.foldl (redOp op) r

end Sys2Proof
end

