-- ==== Sys2Proof/Machine/Quant.lean ====
section
/-! DEFINITION. Scales, conversions by group and clip statistics (spec/05_quantisation.md R105 to R118, R122). -/

namespace Sys2Proof

/-- Whether `m * 2^e * 2^(-k) ≤ q` for magnitudes. -/
def fitsAt (m : Nat) (e : Int) (k : Int) (q : Nat) : Bool :=
  let d := e - k
  if 0 ≤ d then decide (m <<< d.toNat ≤ q) else decide (m ≤ q <<< (-d).toNat)

/-- The smallest integer `k` with `m * 2^(e-k) ≤ q`, for `m` and `q` above zero: found from the leading bits, which leave
two candidates. -/
def leastExp (m : Nat) (e : Int) (q : Nat) : Int :=
  let k0 := e + (bitLen m : Int) - (bitLen q : Int)
  if fitsAt m e k0 q then k0 else k0 + 1

/-- A scale code clamped to 0x00 .. 0xFE (Table 5-2). -/
def clampScale (i : Int) : Nat := if i < 0 then 0 else if i > 254 then 254 else i.toNat

/-- emax of the float formats in Table 5-2. -/
def emaxOf : Fmt → Int
  | .e4m3 => 8 | .e5m2 => 15 | .e3m2 => 4 | .e2m1 => 2 | _ => 0

/-- What a first pass finds in a group (R110, Table 5-2): the largest magnitude, and the largest of each sign. -/
structure GroupMax where
  amax : FVal := .fin false 0 0
  pmax : FVal := .fin false 0 0
  nmax : FVal := .fin false 0 0
deriving DecidableEq, Repr

/-- The larger of two magnitudes. -/
def maxMagnitude (a b : FVal) : FVal := if a.lt b then b else a

/-- R110: the scan of a group; elements that are NaN are left out. -/
def scanGroup (vs : List FVal) : GroupMax :=
  vs.foldl (fun g v =>
    match v with
    | .nan => g
    | .inf n =>
      { amax := .inf false
        pmax := if n then g.pmax else .inf false
        nmax := if n then .inf false else g.nmax }
    | .fin n m e =>
      let a : FVal := .fin false m e
      { amax := maxMagnitude g.amax a
        pmax := if n then g.pmax else maxMagnitude g.pmax a
        nmax := if n then maxMagnitude g.nmax a else g.nmax }) {}

/-- The scale an INT side asks for: the smallest exponent that brings `v` within `q`. -/
def sideExp (v : FVal) (q : Nat) : Option Int :=
  match v with
  | .fin _ m e => if m = 0 then none else some (leastExp m e q)
  | _ => none

/-- Table 5-2: the scale a first pass finds for a group. -/
def firstPassScale (f : Fmt) (zp : Nat) (g : GroupMax) : Nat :=
  match pairClass f with
  | some .narrowFloat =>
    match g.amax with
    | .fin _ m e => if m = 0 then 0x7F else clampScale (e + (bitLen m : Int) - 1 - emaxOf f + 127)
    | _ => 0xFE
  | _ =>
    if hasZeroPoint f then
      let qmax := if f = .uint8 then 255 else 15
      let pOn := decide (0 < qmax - zp) && !g.pmax.isZero
      let nOn := decide (0 < zp) && !g.nmax.isZero
      if (pOn && !g.pmax.isFin) || (nOn && !g.nmax.isFin) then 0xFE
      else
        let p := if pOn then sideExp g.pmax (qmax - zp) else none
        let n := if nOn then sideExp g.nmax zp else none
        match p, n with
        | none, none => 0x7F
        | some a, none => clampScale (127 + a)
        | none, some b => clampScale (127 + b)
        | some a, some b => clampScale (127 + max a b)
    else
      match g.amax with
      | .fin _ _ _ =>
        match sideExp g.amax (if f = .int8 then 127 else 7) with
        | none => 0x7F
        | some e => clampScale (127 + e)
      | _ => 0xFE

/-- R113's clipped share. -/
def clipShare (clipped n : Nat) : Nat := if n = 0 then 0 else min 0xFFFF (clipped * 65536 / n)

/-- A converted group: its codes, its scale, and what R112 and R49 count in it. -/
structure GroupOut where
  codes : List Nat
  scale : Nat
  counted : Nat
  clipped : Nat
  nans : Nat
  subst : Nat
deriving DecidableEq, Repr

/-- One group converted under R50 with a scale code. `infOk` is qflags[0]. A learned 0xFF counts a substitution (R38).
NaN elements are among the elements of the group; only padding is not counted (R112). -/
def convertGroup (f : Fmt) (infOk : Bool) (zp s : Nat) (vs : List FVal) : GroupOut :=
  let cs := vs.map (convert f infOk zp s)
  { codes := cs.map (·.code)
    scale := min (s % 256) 0xFE
    counted := vs.length
    clipped := (cs.filter (·.clipped)).length
    nans := (cs.filter (·.nanZero)).length
    subst := if scaleSubst s then 1 else 0 }

/-- A group taken into a tensor's statistics. An unscaled tensor forms no group shares (R113). -/
def clipAdd (scaled : Bool) (groupThresh : Nat) (g : GroupOut) (c : ClipStat) : ClipStat :=
  let sh := clipShare g.clipped g.counted
  let better := scaled && decide (c.worst < sh)
  { elements := c.elements + g.counted
    clipped := c.clipped + g.clipped
    worst := if better then sh else c.worst
    worstGroup := if better then c.groups else c.worstGroup
    groupsOver := if scaled && decide (groupThresh < sh) then satAdd 16 c.groupsOver 1 else c.groupsOver
    subst := satAdd 8 c.subst g.subst
    groups := c.groups + 1 }

/-- The closing of a tensor's statistics: an unscaled tensor takes its tensor share in every place (R113). -/
def clipClose (scaled : Bool) (groupThresh : Nat) (c : ClipStat) : ClipStat :=
  if scaled then c
  else
    let sh := clipShare c.clipped c.elements
    { c with worst := sh, worstGroup := 0, groupsOver := if groupThresh < sh then 1 else 0 }

/-- R116: a tensor misfits when its share or any group's share exceeds its threshold; 0xFFFF disables. -/
def misfits (tensorThresh groupThresh : Nat) (c : ClipStat) : Bool :=
  decide (tensorThresh < clipShare c.clipped c.elements) || decide (groupThresh < c.worst)

/-- Table 5-8: what a format widens to. -/
def widened : Fmt → Option Fmt
  | .e2m1 => some .e3m2 | .e3m2 => some .e4m3 | .int4 => some .int8 | .uint4 => some .uint8 | _ => none

/-- A scale block (Table 5-1). -/
structure ScaleBlock where
  indexTag : Nat
  tensorTag : Nat
  count : Nat
  firstPass : Bool
  scales : List Nat
  shares : List Nat
deriving DecidableEq, Repr

/-- Table 5-1 read from 64 bytes. -/
def scaleBlockOf (bs : List Byte) : ScaleBlock :=
  { indexTag := leNat (bs.take 3)
    tensorTag := leNat ((bs.drop 3).take 1)
    count := leNat ((bs.drop 4).take 1)
    firstPass := leNat ((bs.drop 5).take 1) % 2 == 1
    scales := ((bs.drop 16).take 16).map (·.toNat)
    shares := (List.range 16).map fun i => leNat ((bs.drop (32 + 2 * i)).take 2) }

/-- Sixteen entries, zeros after the given ones. -/
def pad16 (l : List Nat) : List Nat := (List.range 16).map fun i => l.getD i 0

/-- Table 5-1 as 64 bytes. -/
def scaleBlockBytes (b : ScaleBlock) : List Byte :=
  leBytes 3 b.indexTag ++ leBytes 1 b.tensorTag ++ leBytes 1 b.count ++ leBytes 1 (if b.firstPass then 1 else 0)
    ++ List.replicate 10 0#8 ++ (pad16 b.scales).flatMap (leBytes 1) ++ (pad16 b.shares).flatMap (leBytes 2)

/-- R105: groups of a tensor whose dims[0] is `d0` and whose other extents multiply to `rest`. -/
def groupCount (g d0 rest : Nat) : Nat := if g = 0 then 0 else (d0 + g - 1) / g * rest

/-- R107: scale blocks of a tensor. -/
def blockCount (groups : Nat) : Nat := (groups + 15) / 16

/-- R122: the count expected at block `b`. -/
def expectCount (groups b : Nat) : Nat := min 16 (groups - 16 * b)

/-- R122: the skew check of a block. -/
def skewOk (tensorId groups b : Nat) (k : ScaleBlock) : Bool :=
  k.indexTag == b % 2 ^ 24 && k.tensorTag == tensorId % 256 && k.count == expectCount groups b

/-- Table 5-3's record as 32 bytes; the caller gives the rflags and the phase. -/
def tensorRecord (step modelKey layerGroup tensorId lead rflags : Nat) (c : ClipStat) : List Byte :=
  leBytes 4 step ++ leBytes 4 modelKey ++ leBytes 2 layerGroup ++ leBytes 2 tensorId
    ++ leBytes 4 (min c.elements 0xFFFFFFFF) ++ leBytes 4 (min c.clipped 0xFFFFFFFF)
    ++ leBytes 2 (clipShare c.clipped c.elements) ++ leBytes 2 c.worst
    ++ leBytes 4 (c.worstGroup % 2 ^ 28 + lead * 2 ^ 28)
    ++ leBytes 2 c.groupsOver ++ leBytes 1 c.subst ++ leBytes 1 rflags

end Sys2Proof
end

