-- ==== Sys2Proof/Machine/Attention.lean ====
section
/-! DEFINITION. The arithmetic of attention (spec/09_attention.md R197 to R206, R222): masks, the running softmax, the
conversion of probabilities, row results, the backward pass, and the page layout. -/

namespace Sys2Proof

/-- Table 9-2 read from the operand's 64 bits. -/
def softOpOf (w : Nat) : SoftOp :=
  let b := fun (i : Nat) => w / 2 ^ i % 2 == 1
  { c := BitVec.ofNat 32 w, causal := b 32, windowEn := b 33, window := w / 2 ^ 34 % 2 ^ 16, bitmaskEn := b 50
    first := b 51, last := b 52, bitmask := w / 2 ^ 53 % 2 ^ 11 }

/-- R199: whether a key is allowed for a query row. -/
def keyAllowed (o : SoftOp) (keys queryPos keyPos : Nat) (bit : Bool) : Bool :=
  decide (keyPos < keys) && (!o.causal || decide (keyPos ≤ queryPos))
    && (!o.windowEn || decide (queryPos - keyPos < o.window)) && (!o.bitmaskEn || bit)

/-- The converted probabilities of a block: codes, and the scale of each group of 32 (127 for BF16). -/
structure Probs where
  fmt : Fmt
  codes : List Nat
  scales : List Nat
deriving DecidableEq, Repr

/-- R201's first pass: emax taken as 7. -/
def probScale (vs : List FVal) : Nat :=
  match (scanGroup vs).amax with
  | .fin _ m e => if m = 0 then 0x7F else clampScale (e + (bitLen m : Int) - 1 - 7 + 127)
  | _ => 0xFE

/-- R201: the conversion of P into the pairing class of V. -/
def convertProbs (v : Fmt) (p : List Word) : Probs :=
  match pairClass v with
  | some .wideFloat => { fmt := .bf16, codes := p.map fun w => (convert .bf16 false 0 127 (f32Val w)).code, scales := [127, 127] }
  | _ =>
    let g := chunksOf' 32 p
    let sc := g.map fun c => probScale (c.map f32Val)
    { fmt := .e4m3
      codes := (g.zip sc).flatMap fun q => q.1.map fun w => (convert .e4m3 false 0 q.2 (f32Val w)).code
      scales := sc }
where
  /-- A block's two groups. -/
  chunksOf' (n : Nat) (l : List Word) : List (List Word) := [l.take n, l.drop n]

/-- The value of a converted probability as it enters the multiplier (R201). -/
def probVal (p : Probs) (j : Nat) : Word :=
  f32Round ((elemVal p.fmt 0 (p.codes.getD j 0)).scale (scaleExp (p.scales.getD (j / 32) 127)))

/-- A sum in the order of R77 of up to 256 values. -/
def treeSum (l : List Word) : Word := redReg .sum ((l.map fun w => (w, true)) ++ List.replicate (256 - l.length) (0#32, false))

/-- A maximum in the order of R77 of up to 256 values. -/
def treeMax (l : List Word) : Word := redReg .max ((l.map fun w => (w, true)) ++ List.replicate (256 - l.length) (0#32, false))

/-- What one key block does to a row before the values product (R200): the new state and the probabilities. -/
def softBlock (c : Word) (v : Fmt) (s : List (Word × Bool)) (r : AttnRow) : AttnRow × Probs :=
  let t := s.map fun p => if p.2 then f32Mul p.1 c else 0xFF800000#32
  let zero := convertProbs v (List.replicate 64 0#32)
  let bad := t.any fun w => (f32Val w).isNan || w == 0x7F800000#32
  if r.nan || bad then ({ r with nan := true, idle := false }, zero)
  else if t.all (· == 0xFF800000#32) then ({ r with idle := true }, zero)
  else
    let mb := treeMax t
    let up := (f32Val r.m).lt (f32Val mb)
    let alpha := vecFun .exp2 (f32Sub r.m mb)
    let m := if up then mb else r.m
    let l := if up then f32Mul r.l alpha else r.l
    let o := if up then r.o.map (f32Mul · alpha) else r.o
    let p := t.map fun w => if w == 0xFF800000#32 then 0#32 else vecFun .exp2 (f32Sub w m)
    let pr := convertProbs v p
    ({ m := m, l := f32Add l (treeSum ((List.range 64).map (probVal pr))), o := o, nan := false }, pr)

/-- R202, R204: the finish of a row: its output, and its statistics m and l. -/
def softFinish (r : AttnRow) : List Word × Word × Word :=
  if r.nan then (r.o.map fun _ => f32Nan, f32Nan, f32Nan)
  else if (f32Val 0#32).lt (f32Val r.l) then
    let k := vecFun .recip r.l
    (r.o.map (f32Mul · k), r.m, r.l)
  else (r.o.map fun _ => 0#32, r.m, r.l)

/-- R222: the recomputed probability of one key. -/
def backProb (m l : Word) (t : Word) (allowed : Bool) : Word :=
  if (f32Val m).isNan || (f32Val l).isNan then f32Nan
  else if !allowed || (f32Val l).isZero then 0#32
  else f32Mul (vecFun .exp2 (f32Sub t m)) (vecFun .recip l)

/-- R222: `rowsum(dO ⊙ O)`, each product rounded, in the order of R77. -/
def backD (dO o : List Word) : Word := treeSum ((dO.zip o).map fun p => f32Mul p.1 p.2)

/-- R222: `dS := p ⊙ (dP − D)`. -/
def backDS (p dP : List Word) (d : Word) : List Word := (p.zip dP).map fun q => f32Mul q.1 (f32Sub q.2 d)

/-- R205, Table 9-4: offset in a page of position `p`'s key row. -/
def pageKeyRow (w p : Nat) : Nat := p * w

/-- R205, Table 9-4: offset in a page of position `p`'s value row. -/
def pageValueRow (w p : Nat) : Nat := 0x8000 + p * w

/-- R205: a legal row width. -/
def rowWidthOk (w : Nat) : Bool := w % 64 == 0 && decide (64 ≤ w) && decide (w ≤ 1024)

end Sys2Proof
end

