-- ==== Sys2Proof/Machine/Conv.lean ====
section
/-! DEFINITION. Windows, padding, regrouping and pooling (spec/08_convolution.md R181 to R192). -/

namespace Sys2Proof

/-- R181: span of a filter. -/
def winSpan (k d : Nat) : Nat := d * (k - 1) + 1

/-- R181: the output extent along an axis. -/
def outExtent (h k s d pb pe : Nat) : Nat :=
  if h + pb + pe < winSpan k d then 0 else (h + pb + pe - winSpan k d) / s + 1

/-- Table 8-2's SAME mode: pb and pe. -/
def samePad (h k s d : Nat) : Nat × Nat :=
  let total := ((h + s - 1) / s - 1) * s + winSpan k d - h
  (total / 2, total - total / 2)

/-- A field of an operand word. -/
def bitsOf (w hi lo : Nat) : Nat := w / 2 ^ lo % 2 ^ (hi + 1 - lo)

/-- Table 8-3 read from the operand's 64 bits, numbered from bit 64 of the entry. -/
def winOpOf (w : Nat) : WinOp :=
  { half := bitsOf w 0 0, oBase := bitsOf w 7 1, stride := bitsOf w 9 8, dilation := bitsOf w 15 10
    kx0 := bitsOf w 21 16, nKx := bitsOf w 24 22 + 1, padLo := bitsOf w 34 25, padHi := bitsOf w 44 35
    rows := bitsOf w 52 45, allPad := bitsOf w 53 53 == 1, last := bitsOf w 54 54 == 1 }

/-- Table 8-4 read from the operand's 64 bits. -/
def fillOpOf (w : Nat) : FillOp :=
  { line := bitsOf w 14 0, half := bitsOf w 15 15, chan := bitsOf w 20 16, seg := bitsOf w 22 21
    tumbler := bitsOf w 24 23, tensorId := bitsOf w 40 25, last := bitsOf w 41 41 == 1 }

/-- R186: the position row `r` takes for filter column `kxi` of an entry. -/
def winPos (o : WinOp) (kxi r : Nat) : Nat := o.oBase + (o.kx0 + kxi) * o.dilation + r * o.stride

/-- R183, R186: whether a row's element is padding. -/
def winPad (o : WinOp) (kxi r : Nat) : Bool :=
  o.allPad || decide (winPos o kxi r < o.padLo) || decide (o.padHi ≤ winPos o kxi r) || decide (o.rows ≤ r)

/-- R186: the largest position an entry takes. -/
def winMaxPos (o : WinOp) : Nat := winPos o (o.nKx - 1) (o.rows - 1)

/-- R183: the code of a centred zero. -/
def zeroCode (f : Fmt) (zp : Nat) : Nat := if f = .uint8 ∨ f = .uint4 then zp else 0

/-- R186: one row's element of a window slice, from the current channel's four segments as a list of codes. -/
def winElem (f : Fmt) (zp : Nat) (o : WinOp) (segs : List Nat) (kxi r : Nat) : Nat :=
  if winPad o kxi r then zeroCode f zp else segs.getD (winPos o kxi r) (zeroCode f zp)

/-- R185: the reduction length of a window-mode tile. -/
def winK (kh kw c : Nat) : Nat := kh * kw * 32 * ((c + 31) / 32)

/-- An FP32 word of a natural number. -/
def f32OfNat (n : Nat) : Word := f32Round (.fin false n 0)

/-- R191, R192: one channel of one output pixel. `xs` are the loaded in-image elements in order, each with its weight
(used by DW), `start` is DW's bias or +0, `full` is kh × kw. -/
def poolLane (op : PoolOp) (start : Word) (full : Nat) (xs : List (Word × Word)) : Word :=
  match op with
  | .max =>
    match xs with
    | [] => start
    | x :: r => r.foldl (fun a b => f32Max a b.1) (if (f32Val x.1).isNan then f32Nan else x.1)
  | .avg cp =>
    let s := xs.foldl (fun a b => f32Add a b.1) 0#32
    f32Mul s (vecFun .recip (f32OfNat (if cp then full else xs.length)))
  | .dw => xs.foldl (fun a b => f32Fma b.1 b.2 a) start

/-- R190: the source (channel, x, y) of output (channel, x', y') in space-to-channel regrouping. -/
def s2cSource (b cIn c x y : Nat) : Nat × Nat × Nat :=
  let q := c / cIn
  (c % cIn, x * b + q % b, y * b + q / b)

/-- R190: the source of an output element in channel-to-space regrouping, the inverse. `cOut` is the output's channels. -/
def c2sSource (b cOut c x y : Nat) : Nat × Nat × Nat :=
  ((y % b * b + x % b) * cOut + c, x / b, y / b)

/-- R188, R190: the index of an element (channel, x, y) of a source of `c` × `w` × `h`, interleaved or planar. -/
def pixelIndex (planar : Bool) (c w h : Nat) (p : Nat × Nat × Nat) : Nat :=
  if planar then p.2.1 + w * (p.2.2 + h * p.1) else p.1 + c * (p.2.1 + w * p.2.2)

/-- R193: the first and last input row that output rows `a` to `b` of a stripe need. -/
def haloRows (a b s pb d kh : Nat) : Int × Int :=
  ((a * s : Int) - pb, (b * s : Int) - pb + d * (kh - 1 : Nat))

end Sys2Proof
end

