-- ==== Sys2Proof/Machine/Fmc.lean ====
section
/-! DEFINITION. The feature-map code of spec/06_memory_tiers.md R150 and R151: 8 × 8 blocks with a base and a range, in units
of 32 blocks. -/

namespace Sys2Proof

/-- R151: the code of one element. -/
def fmcQ (n base range u : Nat) : Nat :=
  let m := 2 ^ n - 1
  if range = 0 then 0 else (2 * (u - base) * m + range) / (2 * range)

/-- R151: the decoded element. -/
def fmcU (n base range q : Nat) : Nat :=
  let m := 2 ^ n - 1
  base + (if range = 0 then 0 else (2 * q * range + m) / (2 * m))

/-- An encoded block: base, range and 64 codes. -/
def fmcBlock (n : Nat) (us : List Nat) : Nat × Nat × List Nat :=
  let base := us.foldl min 255
  let range := us.foldl max 0 - base
  (base, range, us.map (fmcQ n base range))

/-- Codes of `n` bits packed as a little-endian bit string (R31; for 6 bits, four in three bytes, the same string). -/
def packBits (n : Nat) (cs : List Nat) : List Byte :=
  leBytes (cs.length * n / 8) ((cs.zipIdx.map fun p => p.1 % 2 ^ n * 2 ^ (n * p.2)).sum)

/-- The `i`-th code of `n` bits of a little-endian bit string. -/
def unpackBit (n : Nat) (bs : List Byte) (i : Nat) : Nat := leNat bs / 2 ^ (n * i) % 2 ^ n

/-- Table 6-9: a unit of 32 blocks as bytes. -/
def fmcUnit (n : Nat) (blocks : List (List Nat)) : List Byte :=
  let padded := (List.range 32).map fun h => blocks.getD h (List.replicate 64 0)
  let es := padded.map (fmcBlock n)
  es.flatMap (fun e => leBytes 1 e.1 ++ leBytes 1 e.2.1) ++ es.flatMap (fun e => packBits n e.2.2)

/-- Bytes of a unit (Table 6-9). -/
def fmcUnitSize (n : Nat) : Nat := 64 + 32 * 8 * n

/-- Table 6-9: the 64 elements of block `h` of a unit's bytes. -/
def fmcUnitBlock (n : Nat) (bs : List Byte) (h : Nat) : List Nat :=
  let base := (bs.getD (2 * h) 0#8).toNat
  let range := (bs.getD (2 * h + 1) 0#8).toNat
  let codes := (bs.drop (64 + h * 8 * n)).take (8 * n)
  (List.range 64).map fun i => fmcU n base range (unpackBit n codes i)

/-- R150: INT8 codes are taken with their top bit turned, UINT8 codes as they stand. -/
def fmcIn (f : Fmt) (c : Nat) : Nat := if f = .int8 then c ^^^ 0x80 else c

/-- R150: element index, in tensor order, of element `e` of block `b` of a tensor of extents `d0`, `d1`. -/
def fmcElemIndex (d0 d1 b e : Nat) : Nat :=
  let per := d0 / 8 * (d1 / 8)
  let hi := b / per
  let r := b % per
  let b0 := r % (d0 / 8)
  let b1 := r / (d0 / 8)
  hi * (d0 * d1) + (b1 * 8 + e / 8) * d0 + b0 * 8 + e % 8

/-- R150, R151: a tensor of 8-bit codes in compressed form. -/
def fmcEncode (f : Fmt) (n d0 d1 rest : Nat) (rd : Nat → Nat) : List Byte :=
  let blocks := d0 / 8 * (d1 / 8) * rest
  (List.range ((blocks + 31) / 32)).flatMap fun u =>
    fmcUnit n ((List.range (min 32 (blocks - 32 * u))).map fun h =>
      (List.range 64).map fun e => fmcIn f (rd (fmcElemIndex d0 d1 (32 * u + h) e)))

/-- R150, R151: the codes a compressed tensor decodes to, as (element index, code) pairs. -/
def fmcDecode (f : Fmt) (n d0 d1 rest : Nat) (bs : List Byte) : List (Nat × Nat) :=
  let blocks := d0 / 8 * (d1 / 8) * rest
  (List.range blocks).flatMap fun b =>
    let unit := (bs.drop (b / 32 * fmcUnitSize n)).take (fmcUnitSize n)
    (fmcUnitBlock n unit (b % 32)).zipIdx.map fun p => (fmcElemIndex d0 d1 b p.2, fmcIn f p.1)

end Sys2Proof
end

