-- ==== Sys2Proof/Config.lean ====
section
/-! DEFINITION. What one chip fixes and the spec leaves open: constants without a body. No proof can see what they are,
so a claim holds whatever they are. -/

namespace Sys2Proof.Config

/-- A free value of a next state, by the count of free values drawn before it (State.free). Log entry 1. -/
opaque freeNat : Nat → Nat

/-- Table entries of a Keyway block that holds padding elements only (spec/07_keyway.md R162 names no code for it),
by entry number. Log entry 20. -/
opaque padEntry : Nat → Byte

/-- Frame number of a channel when strike `n` latches its controller: a count of time (R128). Log entry 8. -/
opaque frameNo : Nat → Nat → Nat

/-- Expander queues full on a controller's 32 channels when strike `n` latches it. Log entry 8. -/
opaque expFull : Nat → Nat → Word

/-- Channels of a controller in a refresh gap when strike `n` latches it. Log entry 8. -/
opaque refreshGap : Nat → Nat → Word

/-- Lowest and highest chain protocol generation of a firmware version (R320). Log entry 50. -/
opaque genFloor : Nat → Nat

/-- Highest chain protocol generation a firmware version offers; at least 1 (R321) where the model reads it. Log entry 50. -/
opaque genTop : Nat → Nat

/-- The serial number in the fuses: 48 bits where the model reads it (Table 14-4, Table 22-6). Log entry 50. -/
opaque serial : Nat

/-- The stepping in the fuses, eight bits where the model reads it. Log entry 50. -/
opaque stepping : Nat

/-- Demosaicing of one pixel (Table 16-2, stage 4, whose coefficients the spec does not give): from the Bayer order, the pixel's
phase and the 25 values of its window, the red, green and blue values. Log entry 30. -/
opaque demosaic : Nat → Nat → List Nat → List Nat

/-- Where output sample `i` of `n` samples `k` sources (Table 16-2, stage 8), in units of 1/256 source pixel. Log entry 30. -/
opaque samplePos : Nat → Nat → Nat → Nat

/-- SHA-512 of the vendor key that each of the two fuse slots names (R411). Log entry 50. -/
opaque keyHash : Nat → List Byte

/-- Bits of the version counter blown, and revocation bits set, when the model's time begins (R412). Log entry 50. -/
opaque fuseCounter : Nat
opaque fuseRevoked : Nat → Bool

/-- The device certificate in DER form, at most 3,072 bytes read (R427). Log entry 50. -/
opaque certificate : List Byte

/-- The signature over a report (R427): the identity key never leaves the part. Log entry 31. -/
opaque attestSign : Nat → List Byte → List Byte

end Sys2Proof.Config
end

