-- ==== Sys2Proof/Machine/Keyway.lean ====
section
/-! DEFINITION. The Keyway weight code (spec/07_keyway.md R155 to R164, R168, R171): tables, element codes, block and unit
layout, placement on channels, and the compress report. -/

namespace Sys2Proof

/-- Mantissa and exponent width of a format Keyway codes (Table 7-1); none for the others (R155). -/
def kwShape : Fmt → Option (Nat × Nat)
  | .e5m2 => some (2, 5) | .e4m3 => some (3, 4) | .bf16 => some (7, 8) | .fp16 => some (10, 5) | _ => none

/-- Exponent field code of a raw element. -/
def kwExp (m e raw : Nat) : Nat := raw / 2 ^ m % 2 ^ e

/-- Times a code occurs. -/
def countOf (c : Nat) (l : List Nat) : Nat := (l.filter (· == c)).length

/-- The better of two (count, code) pairs under R162: the larger count, then the larger code. -/
def kwBetter (a b : Nat × Nat) : Nat × Nat :=
  if a.1 < b.1 ∨ (a.1 = b.1 ∧ a.2 < b.2) then b else a

/-- The `n` most frequent codes of a histogram, in decreasing count, equal counts larger code first (R162). -/
def kwPick : Nat → List (Nat × Nat) → List Nat
  | 0, _ => []
  | n + 1, h =>
    let best := h.foldl kwBetter (0, 0)
    if best.1 = 0 then [] else best.2 :: kwPick n (h.filter fun p => p.2 ≠ best.2)

/-- Insertion into an ascending list. -/
def insAsc (x : Nat) : List Nat → List Nat
  | [] => [x]
  | y :: ys => if x ≤ y then x :: y :: ys else y :: insAsc x ys

/-- Ascending order. -/
def sortAsc (l : List Nat) : List Nat := l.foldr insAsc []

/-- The exponent-code histogram of a block, as (count, code) pairs over the codes of the format. -/
def kwHistogram (m e : Nat) (raws : List Nat) : List (Nat × Nat) :=
  let cs := raws.map (kwExp m e)
  ((List.range (2 ^ e)).map fun c => (countOf c cs, c)).filter fun p => p.1 ≠ 0

/-- R162: the table of a block from its elements, padding left out. -/
def kwTable (m e : Nat) (raws : List Nat) : List Nat :=
  let h := kwHistogram m e raws
  let zero := h.any fun p => p.2 = 0
  let rest := h.filter fun p => p.2 ≠ 0
  let codes := (if zero then [0] else []) ++ kwPick (if zero then 7 else 8) rest
  let t := sortAsc codes
  match t.getLast? with
  | none => (List.range 8).map fun i => (Config.padEntry i).toNat
  | some g => (List.range 8).map fun i => t.getD i g

/-- R158: whether a table is valid for a format. -/
def kwValid (f : Fmt) (e : Nat) (t : List Nat) : Bool :=
  t.length == 8
    && (List.range 7).all (fun i => decide (t.getD i 0 ≤ t.getD (i + 1) 0))
    && t.all (fun x => decide (x < 2 ^ e))
    && (f == .e4m3 || t.all fun x => x != 2 ^ e - 1)

/-- Distance of two codes. -/
def absDiff (a b : Nat) : Nat := if a ≤ b then b - a else a - b

/-- R163: the lowest index of the entry nearest to a code, the smaller entry of two equally near. -/
def kwIndex (t : List Nat) (code : Nat) : Nat :=
  (t.zipIdx.foldl (fun (best : Nat × Nat) p =>
    if absDiff p.1 code < absDiff best.1 code then p else best) (t.headD 0, 0)).2

/-- R163: the code of one element, and whether it was clamped. -/
def kwEncode (f : Fmt) (m e : Nat) (t : List Nat) (raw : Nat) : Nat × Bool :=
  let x := kwExp m e raw
  let i := kwIndex t x
  let entry := t.getD i 0
  let clamped := entry ≠ x
  let man := raw % 2 ^ m
  let man' := if clamped ∧ f = .e4m3 ∧ entry = 15 ∧ man = 7 then 6 else man
  (raw / 2 ^ (m + e) % 2 * 2 ^ (m + 3) + i * 2 ^ m + man', clamped)

/-- R158: the raw code the expander rebuilds. -/
def kwExpand (m e : Nat) (t : List Nat) (code : Nat) : Nat :=
  code / 2 ^ (m + 3) % 2 * 2 ^ (m + e) + t.getD (code / 2 ^ m % 8) 0 * 2 ^ m + code % 2 ^ m

/-- R157: a coded block as bytes. -/
def kwBlockBytes (m : Nat) (t : List Nat) (codes : List Nat) : List Byte :=
  let w := 4 + m
  t.flatMap (leBytes 1) ++ leBytes (16 * w) ((codes.zipIdx.map fun p => p.1 * 2 ^ (w * p.2)).sum)

/-- R157: the elements of a coded block's bytes, expanded. -/
def kwBlockExpand (m e : Nat) (bs : List Byte) : List Nat :=
  let w := 4 + m
  let t := (bs.take 8).map (·.toNat)
  let n := leNat (bs.drop 8)
  (List.range 128).map fun i => kwExpand m e t (n / 2 ^ (w * i) % 2 ^ w)

/-- The table of a coded block's bytes. -/
def kwBlockTable (bs : List Byte) : List Nat := (bs.take 8).map (·.toNat)

/-- Bytes of a coded block: 8 + 16 w (R156). -/
def kwBlockSize (m : Nat) : Nat := 8 + 16 * (4 + m)

/-- Lines of a unit of eight blocks (Table 7-1). -/
def kwUnitLines (m : Nat) : Nat := kwBlockSize m * 8 / 64

/-- R160: the unit, of the 64 of a stripe, that line `i` of granule `g` belongs to. `target` is a0[23:12]. -/
def kwUnitAt (target g i : Nat) : Nat :=
  let G := target + g
  (i ^^^ (G % 64) ^^^ (G / 64 % 64)) % 64

/-- R160: the offset from a0 of line `k` of unit `u`. -/
def kwLineOffset (m target u k : Nat) : Nat :=
  let g := u / 64 * kwUnitLines m + k
  let G := target + g
  g * 4096 + 64 * ((u % 64 ^^^ (G % 64) ^^^ (G / 64 % 64)) % 64)

/-- Consecutive pieces of `n` elements. `fuel` bounds their number. -/
def chunksOf (n : Nat) : Nat → List α → List (List α)
  | 0, _ => []
  | f + 1, l => if l.isEmpty then [] else l.take n :: chunksOf n f (l.drop n)

/-- Clamp statistics of a pass (R168). -/
structure KwStat where
  elements : Nat := 0
  clamped : Nat := 0
  worst : Nat := 0
  worstBlock : Nat := 0
  blocks : Nat := 0
  blocksClamped : Nat := 0
deriving DecidableEq, Repr

/-- One block's clamps taken into the statistics. -/
def kwStatAdd (n clamped : Nat) (s : KwStat) : KwStat :=
  let sh := clipShare clamped n
  { elements := s.elements + n, clamped := s.clamped + clamped
    worst := max s.worst sh
    worstBlock := if s.worst < sh then s.blocks else s.worstBlock
    blocks := s.blocks + 1
    blocksClamped := s.blocksClamped + (if clamped = 0 then 0 else 1) }

/-- R164: a NaN, or an infinity of a format that has one. -/
def kwSpecial (f : Fmt) (raw : Nat) : Bool := !(elemVal f 0 raw).isFin

/-- Every block coded: its bytes and its clamps. `tables` gives host tables by block (hinge H4), or none for the
hardware's own (R162, R167). -/
def kwBlocks (f : Fmt) (m e : Nat) (tables : Nat → Option (List Nat)) :
    List (List Nat × Nat) → List (List Byte × Nat × Nat)
  | [] => []
  | (raws, b) :: rest =>
    let t := (tables b).getD (kwTable m e raws)
    let cs := raws.map (kwEncode f m e t)
    let pad := List.replicate (128 - raws.length) (kwEncode f m e t 0).1
    (kwBlockBytes m t (cs.map (·.1) ++ pad), raws.length, (cs.filter (·.2)).length)
      :: kwBlocks f m e tables rest

/-- R159, R160: the coded bytes of a tensor in address order from a0, padded to whole stripes. -/
def kwLayout (m target : Nat) (blocks : List (List Byte)) : List Byte :=
  let stripes := (blocks.length + 511) / 512
  let lines := kwUnitLines m
  (List.range (stripes * lines)).flatMap fun g =>
    (List.range 64).flatMap fun i =>
      let u := g / lines * 64 + kwUnitAt target g i
      let ub := ((blocks.drop (8 * u)).take 8).flatten
      let l := (ub.drop (64 * (g % lines))).take 64
      l ++ List.replicate (64 - l.length) 0#8

/-- What a compress pass does: its output, and its report fields. -/
structure KwResult where
  output : List Byte
  stat : KwStat
  outcome : Nat
deriving DecidableEq, Repr

/-- R162 to R167: a compress pass over raw codes. `bad` says a host table failed R158. -/
def kwPass (f : Fmt) (mode : KwMode) (target thresh : Nat) (tables : Nat → Option (List Nat)) (rawBytes : List Byte)
    (raws : List Nat) : KwResult :=
  match kwShape f with
  | none => { output := rawBytes, stat := {}, outcome := 3 }
  | some (m, e) =>
    if raws.any (kwSpecial f) then { output := rawBytes, stat := {}, outcome := 2 }
    else
      let bl := chunksOf 128 (raws.length / 128 + 1) raws
      let out := kwBlocks f m e tables bl.zipIdx
      let st := out.foldl (fun s b => kwStatAdd b.2.1 b.2.2 s) ({} : KwStat)
      let bad := (List.range bl.length).any fun b =>
        match tables b with | none => false | some t => !(kwValid f e t)
      let pads := (512 - bl.length % 512) % 512
      let padT := (List.range 8).map fun i => (Config.padEntry i).toNat
      let padB := kwBlockBytes m padT (List.replicate 128 (kwEncode f m e padT 0).1)
      let coded := kwLayout m target (out.map (·.1) ++ List.replicate pads padB)
      if bad then { output := [], stat := st, outcome := 4 }
      else
        match mode with
        | .raw => { output := rawBytes, stat := st, outcome := 3 }
        | .coded => { output := coded, stat := st, outcome := 0 }
        | .auto =>
          if thresh < clipShare st.clamped st.elements then { output := rawBytes, stat := st, outcome := 1 }
          else { output := coded, stat := st, outcome := 0 }

/-- Table 7-3's report as 32 bytes. -/
def kwReport (target fmtCode : Nat) (assisted : Bool) (r : KwResult) : List Byte :=
  let s := r.stat
  leBytes 4 (min s.elements 0xFFFFFFFF) ++ leBytes 4 (min s.clamped 0xFFFFFFFF)
    ++ leBytes 2 (clipShare s.clamped s.elements) ++ leBytes 2 s.worst ++ leBytes 4 s.worstBlock
    ++ leBytes 4 s.blocksClamped ++ leBytes 4 ((r.output.length + 4095) / 4096)
    ++ leBytes 2 (target % 4096) ++ leBytes 1 fmtCode
    ++ leBytes 1 (r.outcome + if assisted then 128 else 0) ++ leBytes 4 0

end Sys2Proof
end

