-- ==== Sys2Proof/Machine/PartsLatch.lean ====
section
/-! DEFINITION. Pieces of State outside the Warden's wards: the camera (spec/16_camera.md), heat (spec/17_power.md R373), the
attestation in progress (spec/19_security.md R426), the Latch island with the hasp, the audio front end and the SDIO card
(spec/15_listening.md, spec/22_registers.md R472 to R476), and the reset controller (spec/18_reset.md). -/

namespace Sys2Proof

/-! ## Camera -/

/-- What a claimed frame hands to its CAM_RECV entries (R362 to R364): the claiming run, its lines still to be delivered, and
the frame header. -/
structure CamOut where
  lead : Nat
  step : Nat
  round : Nat
  lines : List (List Byte) := []
  header : List Byte := []
  absent : Bool := false
  mismatch : Bool := false
deriving DecidableEq, Repr

/-- A logical sensor (R352 to R363). -/
structure CamSensor where
  frame : Nat := 0                           -- frame number, 48 bits (R354)
  cfg : List Nat := []                       -- the sensor's register words since its frame start (Table 16-8)
  owner : Nat := 0
  inFrame : Bool := false
  line : Nat := 0                            -- image lines of the frame so far
  rows : List (List Nat) := []               -- rows of the crop window so far
  bad : Bool := false                        -- a CRC failure inside the window
  long : Bool := false
  ovf : Bool := false                        -- the input FIFO overflowed: the rest is discarded (R357)
  emb : List Byte := []
  ref : Option (List Nat) := none            -- temporal reference (R359)
  waiting : Option (Nat × Nat × Nat) := none -- a CAM_RECV entry waits for a first line: lead ward, step, round
  claim : Option (Nat × Nat × Nat) := none   -- the run that claimed the frame in progress
  out : Option CamOut := none
deriving DecidableEq, Repr

/-- A command of an I3C controller's FIFO (R366), with whether its frame start has come. -/
structure I3cEntry where
  word : Nat
  freed : Bool := false
deriving DecidableEq, Repr

/-- An I3C controller. -/
structure I3c where
  cmds : List I3cEntry := []
  tx : List Byte := []
  rx : List Byte := []
  ibi : List Byte := []        -- payload of the last in-band interrupt, up to four bytes (R365)
deriving DecidableEq, Repr

/-- The camera: sensors, controllers, and the statistics ring's place. -/
structure Cam where
  sensors : Tab CamSensor := []
  i3c : Tab I3c := []
  stats : RingPos := {}
deriving DecidableEq, Repr

/-! ## Heat and attestation -/

/-- An island's thermal level and its hottest point in °C (R373). -/
structure Therm where
  lvl : Nat := 0
  temp : Int := 0
deriving DecidableEq, Repr

/-- An attestation asked for (R426): waiting for the protection set-up, or sampled into the report's first 512 bytes. -/
inductive Attest where
  | none | waiting | sampled (report : List Byte)
deriving DecidableEq, Repr

/-! ## The Latch island -/

/-- The hasp: the input pin, the mute bit and its settings, and the outputs it drives (R344 to R347). -/
structure Hasp where
  pin : Bool := false            -- MUTE_N is asserted
  mute : Bool := true
  settle : Nat := 50
  pinChanged : Bool := false
  unmuteRefused : Bool := false
  led : Bool := true             -- MUTE_LED
  micPwr : Bool := false         -- MIC_PWR_EN
  clk0 : Bool := false           -- PDM_CLK0 runs; low otherwise
  clk1 : Bool := false
deriving DecidableEq, Repr

/-- A path with a sample counter: a group's or the wake path's (R330). -/
structure AudPath where
  ran : Bool := false            -- ran at the last frame
  next : Nat := 0                -- number of the next sample set, 48 bits
  gap : Bool := false            -- a pause lies before the next block
deriving DecidableEq, Repr

/-- An audio block before it is laid out (Table 15-4): each sample set with its samples. -/
structure ABlock where
  first : Nat
  gap : Bool := false
  muted : Bool := false
  spool : Bool := false
  sets : List (List Nat) := []
deriving DecidableEq, Repr

/-- A stream: whether it runs, the block being filled, full blocks waiting to be written or read, its ring's place. -/
structure AStream where
  running : Bool := false
  gap : Bool := false
  part : Option ABlock := none
  full : List ABlock := []
  ring : RingPos := {}
deriving DecidableEq, Repr

/-- The spool (R332): the first pair not yet delivered, how many pairs follow it, whether appending has stopped, and the frames
whose pairs are muted. -/
structure Spool where
  first : Nat
  count : Nat := 0
  stopped : Bool := false
  quiet : List Nat := []
deriving DecidableEq, Repr

/-- How far the open candidate has come (Table 15-1, Table 15-2). -/
inductive CandSt where
  | stage1 | verdict | awaitAwake | stage2
deriving DecidableEq, Repr

/-- The open candidate (R333, R334, R340): numbers of samples; the next frame stage 1 takes; what the pass recorded. -/
structure Cand where
  number : Nat
  first : Nat
  next : Nat                     -- frame stage 1 takes next
  st : CandSt := .stage1
  rep : Nat := 0                 -- first sample that the latch image reports
  last : Nat := 0
  score1 : Nat := 0
  state : Nat := 0               -- state at the pass (Table 15-5)
deriving DecidableEq, Repr

/-- A wake record (Table 15-5) without its phase bit. -/
structure WakeRec where
  cand : Nat
  first : Nat
  last : Nat
  score1 : Nat
  score2 : Nat := 0x8000
  state : Nat
  outcome : Nat
  wflags : Nat := 0
deriving DecidableEq, Repr

/-- A firmware load over SDIO function 1 (R474). -/
structure FwLoad where
  granules : Nat := 0            -- 0: no load is open
  data : List Byte := []
  done : Bool := false
deriving DecidableEq, Repr

/-- Functions 1 and 2 of the SDIO card (Table 22-6, Table 22-8). -/
structure Sdio where
  int1 : Nat := 0
  en1 : Nat := 0
  int2 : Nat := 0
  en2 : Nat := 0
  io2 : Bool := false            -- function 2 is set in the CCCR I/O Enable register
  req : List Byte := []
  reply : List Byte := []
  replyValid : Bool := false
  fwl : FwLoad := {}
  stream : AStream := {}
  refused : Bool := false
  lost : Bool := false
deriving DecidableEq, Repr

/-- The Latch island. -/
structure Latch where
  hasp : Hasp := {}
  regs : Tab Word := []          -- the block at 0x0000_A000 but for HASP_CTL and HASP_STATUS
  psram0 : Nat := 0              -- MiB fitted on each xSPI channel (R468)
  psram1 : Nat := 0
  psram : Mem := []
  image : Option (List Byte) := none   -- latch image (R334)
  g0 : AudPath := {}
  g1 : AudPath := {}
  wake : AudPath := {}
  settle0 : Bool := false        -- decimators deliver zeros (R327)
  settle1 : Bool := false
  audStop : Bool := false        -- AUD_CLK has stopped (R488)
  preroll : Mem := []            -- 40,000 pairs of 8 bytes (R331)
  spool : Option Spool := none
  judged : List (Nat × Bool) := []     -- the last 8 frames stage 0 judged, newest first
  cand : Option Cand := none
  candNext : Nat := 0
  prevLast : Option Nat := none  -- last sample of the previous candidate
  fifo : List WakeRec := []
  wakeRing : RingPos := {}
  stream : AStream := {}
  cap0 : AStream := {}
  cap1 : AStream := {}
  sdio : Sdio := {}
  vldBusy : Nat := 0             -- counters 0x48 to 0x4A
  kwReject : Nat := 0
  wakeDrop : Nat := 0
  wakePin : Bool := false        -- WAKE# driven
  alertPin : Bool := false       -- THERM_ALERT_N driven
  quiet : List Nat := []         -- muted frames of the last 250
  w0On : Bool := false           -- ward 0 runs for stage 2
  hiLatch : Option Word := none  -- WAKE_SAMPLE_HI as latched (R465)
deriving DecidableEq, Repr

/-! ## The reset controller -/

/-- How far a reset of warm class or above has come (Table 23-6, R392, Table 18-3). `dead`: the Latch island is held for its
clock, and nothing further is released. -/
inductive RcPhase where
  | rails | retryWait | stretch | release | run | dead
deriving DecidableEq, Repr

/-- A block reset asked for: its target's code and its cause (R401). -/
structure BlkReq where
  isl : Nat
  cause : Nat
deriving DecidableEq, Repr

/-- How far the block reset in progress has come (Table 18-5). -/
inductive BlkSt where
  | idleReq | held | waitClock
deriving DecidableEq, Repr

/-- The reset controller, the boot ROM's findings, the fuses, and what Latch mode shows. Its registers lie in Main.regs and its
fences and suspects in Main.fence; every reset but a power-on class reset keeps them (R390). -/
structure ResetCtl where
  phase : RcPhase := .run
  cls : Nat := 3                 -- class of the last reset (Table 18-11)
  wait : List Nat := []          -- blocks not yet released, in the order of Table 18-3
  good : List Nat := []          -- clocks whose detectors have passed, by code
  enables : List Nat := [0, 1, 2, 3, 4]   -- rails enabled: 0 CORE, 1 W0, 2 RET, 3 SERDES, 4 HBM
  pgs : List Nat := [0, 1, 2, 3, 4]       -- PG inputs good
  linkHeld : Bool := false       -- the host-link controller is in reset
  linkUp : Bool := false         -- the host link has trained
  latchMode : Bool := false
  reason : Nat := 0              -- LATCH_STATUS fields at entry (Table 20-5)
  bootErr : Nat := 0
  runAt : Nat := 0
  aer : Nat := 0                 -- Uncorrectable Internal Errors signalled through AER (R442)
  lastCause : Nat := 0           -- RESET_CAUSE [7:0] of the last warm reset
  imem : Option (List Byte) := none   -- Warden instruction memory
  measure : List Byte := []      -- the firmware measurement held (R405)
  reload : Bool := false         -- RESET_CTL.reload came with the last request
  untrained : List Nat := []     -- stacks that failed to train
  ready : Bool := false          -- firmware stands in instruction memory, verified or matched
  fetching : Bool := false       -- the boot ROM fetches the image that BOOT_IMG names
  fwVer : Nat := 0               -- version of the image in instruction memory
  fuseBad : Bool := false        -- the fuses failed their parity check
  latchDue : Bool := false       -- the reset under way is the one that leads to Latch mode (R440)
  perstDue : Bool := false       -- PERST# was asserted during power-up (R488)
  logDue : Bool := false         -- a warm reset that firmware has not logged (Table 20-3)
  fuseConf : Bool := false       -- fuse: the confidential default
  blown : Nat := 0               -- version counter bits blown since manufacture as modelled (R412)
  revoked0 : Bool := false
  revoked1 : Bool := false
  queue : List BlkReq := []
  blk : Option (BlkReq × BlkSt) := none
  chainHead : Bool := false      -- the CHAIN_HEAD pin
  wakeBoot : Bool := false       -- the boot flow runs for an exit from S3 or S4
  retLost : Bool := false        -- the retention supply left its range during the present S2
deriving DecidableEq, Repr

end Sys2Proof
end

