-- ==== Sys2Proof/Machine/RegMap.lean ====
section
/-! DEFINITION. The register file of BAR0 as the register tables of spec/ lay it out: each register's place, its writable
fields by access type (spec/00_scope.md R7), its reset value, and a name for every field. -/

namespace Sys2Proof

/-- A register or a row of equal registers: name, offset, count, stride, masks of RW, RWL, W1C and WO bits, reset value. -/
structure RegDef where
  name : String
  off : Nat
  count : Nat
  stride : Nat
  rw : Nat
  rwl : Nat
  w1c : Nat
  wo : Nat
  reset : Nat
deriving DecidableEq, Repr

/-- A field of a register: offset, highest and lowest bit. -/
structure Fld where
  off : Nat
  hi : Nat
  lo : Nat
deriving DecidableEq, Repr

/-- Registers of the block at 0x0 (12_host_interface.md R265, 22_registers.md R468). -/
def regs_idn : List RegDef := [
  ⟨"DEV_ID", 0x0, 1, 0x0, 0x0, 0x0, 0x0, 0x0, 0x9512⟩,
  ⟨"FW_VERSION", 0x4, 1, 0x0, 0x0, 0x0, 0x0, 0x0, 0x0⟩,
  ⟨"DEV_SERIAL_LO", 0x8, 1, 0x0, 0x0, 0x0, 0x0, 0x0, 0x0⟩,
  ⟨"DEV_SERIAL_HI", 0xc, 1, 0x0, 0x0, 0x0, 0x0, 0x0, 0x0⟩,
  ⟨"DEV_CAPS", 0x10, 1, 0x0, 0x0, 0x0, 0x0, 0x0, 0x0⟩,
  ⟨"MSIX_ADDR_LO", 0x300000, 2048, 0x10, 0xffffffff, 0x0, 0x0, 0x0, 0x0⟩,
  ⟨"MSIX_ADDR_HI", 0x300004, 2048, 0x10, 0xffffffff, 0x0, 0x0, 0x0, 0x0⟩,
  ⟨"MSIX_DATA", 0x300008, 2048, 0x10, 0xffffffff, 0x0, 0x0, 0x0, 0x0⟩,
  ⟨"MSIX_CTRL", 0x30000c, 2048, 0x10, 0x1, 0x0, 0x0, 0x0, 0x1⟩]

/-- Registers of the block at 0x1000 (19_security.md R431). -/
def regs_prot : List RegDef := [
  ⟨"PROT_CTL", 0x1000, 1, 0x0, 0x1, 0x2, 0x0, 0x0, 0x0⟩,
  ⟨"PROT_STATUS", 0x1004, 1, 0x0, 0x0, 0x0, 0x1, 0x0, 0x0⟩,
  ⟨"PROT_GEN", 0x1008, 1, 0x0, 0x0, 0x0, 0x0, 0x0, 0x0⟩,
  ⟨"SCRUB_CTL", 0x100c, 1, 0x0, 0x1fffff, 0x0, 0x0, 0x0, 0x400⟩,
  ⟨"TENANT_SELECT", 0x1010, 1, 0x0, 0xff, 0x0, 0x0, 0x0, 0x0⟩,
  ⟨"TENANT_CFG", 0x1014, 1, 0x0, 0x7fffff, 0x0, 0x0, 0x0, 0x0⟩,
  ⟨"TENANT_QUOTA", 0x1018, 1, 0x0, 0x1fffff, 0x0, 0x0, 0x0, 0x0⟩,
  ⟨"TENANT_HELD", 0x101c, 1, 0x0, 0x0, 0x0, 0x0, 0x0, 0x0⟩,
  ⟨"WIN_SELECT", 0x1020, 1, 0x0, 0x7, 0x0, 0x0, 0x0, 0x0⟩,
  ⟨"WIN_BASE_LO", 0x1024, 1, 0x0, 0xfffff000, 0x0, 0x0, 0x0, 0x0⟩,
  ⟨"WIN_BASE_HI", 0x1028, 1, 0x0, 0xffffffff, 0x0, 0x0, 0x0, 0x0⟩,
  ⟨"WIN_LIMIT_LO", 0x102c, 1, 0x0, 0xfffff001, 0x0, 0x0, 0x0, 0x0⟩,
  ⟨"WIN_LIMIT_HI", 0x1030, 1, 0x0, 0xffffffff, 0x0, 0x0, 0x0, 0x0⟩,
  ⟨"CTX_BIND", 0x1040, 1, 0x0, 0x0, 0x0, 0x0, 0x3fffff, 0x0⟩]

/-- Registers of the block at 0x2000 (13_hinges.md R306). -/
def regs_hinge : List RegDef := [
  ⟨"HINGE_CTL", 0x2000, 1, 0x0, 0x3ff, 0x0, 0x0, 0x0, 0x0⟩,
  ⟨"HINGE_NOW", 0x2004, 1, 0x0, 0x0, 0x0, 0x0, 0x0, 0x0⟩,
  ⟨"SVC_CTL", 0x2008, 1, 0x0, 0x1ffff, 0x0, 0x0, 0x0, 0x10⟩,
  ⟨"SVC_REQ_LO", 0x2010, 1, 0x0, 0xfffff000, 0x0, 0x0, 0x0, 0x0⟩,
  ⟨"SVC_REQ_HI", 0x2014, 1, 0x0, 0xffffffff, 0x0, 0x0, 0x0, 0x0⟩,
  ⟨"SVC_ANS_LO", 0x2018, 1, 0x0, 0xfffff000, 0x0, 0x0, 0x0, 0x0⟩,
  ⟨"SVC_ANS_HI", 0x201c, 1, 0x0, 0xffffffff, 0x0, 0x0, 0x0, 0x0⟩,
  ⟨"SVC_DATA_LO", 0x2020, 1, 0x0, 0xffff0000, 0x0, 0x0, 0x0, 0x0⟩,
  ⟨"SVC_DATA_HI", 0x2024, 1, 0x0, 0xffffffff, 0x0, 0x0, 0x0, 0x0⟩,
  ⟨"SVC_DB", 0x2028, 1, 0x0, 0x0, 0x0, 0x0, 0xffffffff, 0x0⟩,
  ⟨"SVC_STATUS", 0x202c, 1, 0x0, 0x0, 0x0, 0x3800, 0x0, 0x0⟩,
  ⟨"HINGE_TO0", 0x2040, 1, 0x0, 0xffffffff, 0x0, 0x0, 0x0, 0xa0014⟩,
  ⟨"HINGE_TO1", 0x2044, 1, 0x0, 0xffffffff, 0x0, 0x0, 0x0, 0x640005⟩,
  ⟨"HINGE_TO2", 0x2048, 1, 0x0, 0xffffffff, 0x0, 0x0, 0x0, 0x138800c8⟩,
  ⟨"HINGE_TO3", 0x204c, 1, 0x0, 0xffffffff, 0x0, 0x0, 0x0, 0xa03e8⟩,
  ⟨"HINGE_TO4", 0x2050, 1, 0x0, 0xffffffff, 0x0, 0x0, 0x0, 0x64⟩]

/-- Registers of the block at 0x3000 (12_host_interface.md R290, 17_power.md R387). -/
def regs_power : List RegDef := [
  ⟨"PLEVEL_CTL", 0x3000, 1, 0x0, 0x3f, 0x0, 0x0, 0x0, 0x56d⟩,
  ⟨"SLEEP_CTL", 0x3004, 1, 0x0, 0xffff07, 0x0, 0x0, 0x8, 0x1400⟩,
  ⟨"SLEEP_STATUS", 0x3008, 1, 0x0, 0x0, 0x0, 0x80, 0x0, 0x0⟩,
  ⟨"LAST_WAKE", 0x300c, 1, 0x0, 0x0, 0x0, 0x0, 0x0, 0x0⟩,
  ⟨"WAKE_EN", 0x3010, 1, 0x0, 0x3f, 0x0, 0x0, 0x0, 0x3f⟩,
  ⟨"THERM_CTL", 0x3014, 1, 0x0, 0xffffffff, 0x0, 0x0, 0x0, 0x56e69⟩,
  ⟨"THERM_STATUS", 0x3018, 1, 0x0, 0x0, 0x0, 0x10000, 0x0, 0x0⟩,
  ⟨"SLEEP_IMG", 0x301c, 1, 0x0, 0x0, 0x801fffff, 0x0, 0x0, 0x0⟩]

/-- Registers of the block at 0x4000 (18_reset.md R408). -/
def regs_reset : List RegDef := [
  ⟨"RESET_CAUSE", 0x4000, 1, 0x0, 0x0, 0x0, 0x0, 0x0, 0x3001⟩,
  ⟨"CLK_HELD", 0x4004, 1, 0x0, 0x0, 0x0, 0x0, 0x0, 0x0⟩,
  ⟨"BLOCK_RESET", 0x4008, 1, 0x0, 0xffff00ff, 0x0, 0x0, 0x100, 0x1f40000⟩,
  ⟨"BLOCK_LAST", 0x400c, 1, 0x0, 0x0, 0x0, 0x0, 0x0, 0x0⟩,
  ⟨"RESET_CTL", 0x4010, 1, 0x0, 0x0, 0x0, 0x0, 0x3, 0x0⟩,
  ⟨"NOPROG_CTL", 0x4014, 1, 0x0, 0xffff, 0x0, 0x0, 0x0, 0x32⟩,
  ⟨"RESET_FORCE", 0x4018, 1, 0x0, 0x0, 0x0, 0x80000000, 0x7ffff, 0x0⟩,
  ⟨"BOOT_STATUS", 0x4020, 1, 0x0, 0x0, 0x0, 0x0, 0x0, 0x0⟩,
  ⟨"BOOT_IMG_LO", 0x4024, 1, 0x0, 0xfffff000, 0x0, 0x0, 0x0, 0x0⟩,
  ⟨"BOOT_IMG_HI", 0x4028, 1, 0x0, 0xffffffff, 0x0, 0x0, 0x0, 0x0⟩,
  ⟨"BOOT_CTL", 0x402c, 1, 0x0, 0xfff00, 0x0, 0x0, 0x1, 0x0⟩,
  ⟨"FW_CACHE", 0x4030, 1, 0x0, 0x1ffffff, 0x0, 0x0, 0x0, 0x800200⟩]

/-- Registers of the block at 0x5000 (10_keyring.md R250, 12_host_interface.md R291). -/
def regs_key : List RegDef := [
  ⟨"KEYRING_CFG", 0x5000, 1, 0x0, 0xffff0fff, 0x0, 0x0, 0x0, 0x1000042⟩,
  ⟨"KEYRING_STEP_LO", 0x5004, 1, 0x0, 0x0, 0x0, 0x0, 0x0, 0x0⟩,
  ⟨"KEYRING_STEP_HI", 0x5008, 1, 0x0, 0x0, 0x0, 0x0, 0x0, 0x0⟩,
  ⟨"KEYRING_LIMITS", 0x500c, 1, 0x0, 0xffff, 0x0, 0x0, 0x0, 0x400⟩,
  ⟨"CTX_SELECT", 0x5010, 1, 0x0, 0xfff, 0x0, 0x0, 0x0, 0x0⟩,
  ⟨"CTX_VIEW", 0x5014, 1, 0x0, 0x0, 0x0, 0x0, 0x0, 0x0⟩,
  ⟨"CTX_TENANT", 0x5018, 1, 0x0, 0x0, 0x0, 0x0, 0x0, 0x0⟩,
  ⟨"CTX_BALANCE", 0x501c, 1, 0x0, 0x0, 0x0, 0x0, 0x0, 0x0⟩,
  ⟨"CTX_KV_LIMIT", 0x5020, 1, 0x0, 0x0, 0x0, 0x0, 0x0, 0x0⟩,
  ⟨"CTX_LAST_COMMIT", 0x5024, 1, 0x0, 0x0, 0x0, 0x0, 0x0, 0x0⟩,
  ⟨"CTX_CHARGED_LO", 0x5028, 1, 0x0, 0x0, 0x0, 0x0, 0x0, 0x0⟩,
  ⟨"CTX_CHARGED_HI", 0x502c, 1, 0x0, 0x0, 0x0, 0x0, 0x0, 0x0⟩,
  ⟨"CTX_SHARE", 0x5030, 1, 0x0, 0x1ffff, 0x0, 0x0, 0x0, 0x100⟩,
  ⟨"CTX_CMD", 0x5034, 1, 0x0, 0x0, 0x0, 0x0, 0x3, 0x0⟩,
  ⟨"HOST_CTL", 0x5040, 1, 0x0, 0x2, 0x0, 0x0, 0x1, 0x0⟩,
  ⟨"HOST_STATUS", 0x5044, 1, 0x0, 0x0, 0x0, 0x4, 0x0, 0x1⟩,
  ⟨"JOURNAL_BASE_LO", 0x5048, 1, 0x0, 0x0, 0xfffff000, 0x0, 0x0, 0x0⟩,
  ⟨"JOURNAL_BASE_HI", 0x504c, 1, 0x0, 0x0, 0xffffffff, 0x0, 0x0, 0x0⟩,
  ⟨"CTX_TABLE_BASE_LO", 0x5050, 1, 0x0, 0x0, 0xfffff000, 0x0, 0x0, 0x0⟩,
  ⟨"CTX_TABLE_BASE_HI", 0x5054, 1, 0x0, 0x0, 0xffffffff, 0x0, 0x0, 0x0⟩,
  ⟨"COMMIT_LOG_LO", 0x5058, 1, 0x0, 0x0, 0xfffff01f, 0x0, 0x0, 0xe⟩,
  ⟨"COMMIT_LOG_HI", 0x505c, 1, 0x0, 0x0, 0xffffffff, 0x0, 0x0, 0x0⟩]

/-- Registers of the block at 0x6000 (06_memory_tiers.md R154, 09_attention.md R224). -/
def regs_mem : List RegDef := [
  ⟨"MEM_STATUS", 0x6000, 1, 0x0, 0x0, 0x0, 0x8, 0x0, 0x0⟩,
  ⟨"PLAN_AREA_BASE", 0x6008, 1, 0x0, 0x0, 0x1fffff, 0x0, 0x0, 0x0⟩,
  ⟨"PLAN_AREA_SIZE", 0x600c, 1, 0x0, 0x0, 0x1fffff, 0x0, 0x0, 0x0⟩,
  ⟨"PAGE_POOL_BASE", 0x6010, 1, 0x0, 0x0, 0x1fffff, 0x0, 0x0, 0x0⟩,
  ⟨"PAGE_POOL_SIZE", 0x6014, 1, 0x0, 0x0, 0x1fffff, 0x0, 0x0, 0x0⟩,
  ⟨"SAVE_AREA_BASE", 0x6018, 1, 0x0, 0x0, 0x1fffff, 0x0, 0x0, 0x0⟩,
  ⟨"SAVE_AREA_SIZE", 0x601c, 1, 0x0, 0x0, 0x1fffff, 0x0, 0x0, 0x0⟩,
  ⟨"REFETCH_CTL", 0x6020, 1, 0x0, 0xffff0007, 0x0, 0x0, 0x0, 0x7d00003⟩,
  ⟨"KV_POLICY", 0x6024, 1, 0x0, 0x1ffff03, 0x0, 0x0, 0x0, 0x1100100⟩,
  ⟨"KV_FREE", 0x6028, 1, 0x0, 0x0, 0x0, 0x0, 0x0, 0x0⟩,
  ⟨"KV_STATUS", 0x602c, 1, 0x0, 0x0, 0x0, 0x200000, 0x0, 0x0⟩]

/-- Registers of the block at 0x7000 (07_keyway.md R178). -/
def regs_kw : List RegDef := [
  ⟨"KEYWAY_CTL", 0x7000, 1, 0x0, 0xffff0001, 0x0, 0x0, 0x0, 0xccd0001⟩,
  ⟨"KEYWAY_STATUS", 0x7004, 1, 0x0, 0x0, 0x0, 0x2, 0x0, 0x0⟩,
  ⟨"KEYWAY_PASSES", 0x7008, 1, 0x0, 0x0, 0x0, 0x0, 0x0, 0x0⟩]

/-- Registers of the block at 0x8000 (05_quantisation.md R115). -/
def regs_clip : List RegDef := [
  ⟨"CLIP_STAT_CTL", 0x8000, 1, 0x0, 0x3ffff, 0x0, 0x0, 0x0, 0x8⟩,
  ⟨"CLIP_STAT_BASE_LO", 0x8008, 1, 0x0, 0xffffffc0, 0x0, 0x0, 0x0, 0x0⟩,
  ⟨"CLIP_STAT_BASE_HI", 0x800c, 1, 0x0, 0xffffffff, 0x0, 0x0, 0x0, 0x0⟩,
  ⟨"CLIP_STAT_HEAD", 0x8010, 1, 0x0, 0x0, 0x0, 0x0, 0x0, 0x0⟩,
  ⟨"CLIP_STAT_TAIL", 0x8014, 1, 0x0, 0xffff, 0x0, 0x0, 0x0, 0x0⟩,
  ⟨"CLIP_THRESH", 0x8018, 1, 0x0, 0xffffffff, 0x0, 0x0, 0x0, 0x10000148⟩,
  ⟨"CLIP_EVENT", 0x801c, 1, 0x0, 0x0, 0x0, 0x7, 0x0, 0x0⟩]

/-- Registers of the block at 0x9000 (14_laniza_chain.md R323). -/
def regs_lz : List RegDef := [
  ⟨"LANIZA_ADDR", 0x9000, 1, 0x0, 0x0, 0x0, 0x0, 0x0, 0x100⟩,
  ⟨"LANIZA_CTL", 0x9004, 1, 0x0, 0xffff001a, 0x0, 0x0, 0x5, 0x3e8001a⟩,
  ⟨"LANIZA_STATUS", 0x9008, 1, 0x0, 0x0, 0x0, 0xfc0, 0x0, 0x0⟩,
  ⟨"LANIZA_GEN", 0x900c, 1, 0x0, 0x0, 0x0, 0x0, 0x0, 0x0⟩]

/-- Registers of the block at 0xa000 (15_listening.md R349). -/
def regs_aud : List RegDef := [
  ⟨"HASP_CTL", 0xa000, 1, 0x0, 0xff01, 0x0, 0x0, 0x0, 0x3201⟩,
  ⟨"HASP_STATUS", 0xa004, 1, 0x0, 0x0, 0x0, 0xc, 0x0, 0x1⟩,
  ⟨"PDM_GRP", 0xa010, 2, 0x4, 0xffff07ff, 0x0, 0x0, 0x0, 0x100⟩,
  ⟨"WAKE_CFG", 0xa018, 1, 0x0, 0x1fffff, 0x0, 0x0, 0x0, 0x20⟩,
  ⟨"VLD_CFG", 0xa01c, 1, 0x0, 0xff07ffff, 0x0, 0x0, 0x0, 0x3203800c⟩,
  ⟨"KW_CFG", 0xa020, 1, 0x0, 0xffffff, 0x0, 0x0, 0x0, 0xc80300⟩,
  ⟨"VERIFY_CFG", 0xa024, 1, 0x0, 0xffffff, 0x0, 0x0, 0x0, 0x280200⟩,
  ⟨"SPOOL_CFG", 0xa028, 1, 0x0, 0xffffffff, 0x0, 0x0, 0x0, 0x400000⟩,
  ⟨"VERIFY_BASE", 0xa02c, 1, 0x0, 0xffffffff, 0x0, 0x0, 0x0, 0x400⟩,
  ⟨"VERIFY_SRC_LO", 0xa030, 1, 0x0, 0xffffffff, 0x0, 0x0, 0x0, 0x0⟩,
  ⟨"VERIFY_SRC_HI", 0xa034, 1, 0x0, 0xffffffff, 0x0, 0x0, 0x0, 0x0⟩,
  ⟨"VERIFY_CTL", 0xa038, 1, 0x0, 0x0, 0x0, 0x0, 0x1, 0x0⟩,
  ⟨"WAKE_STATUS", 0xa03c, 1, 0x0, 0x0, 0x0, 0x18, 0x0, 0x4⟩,
  ⟨"WAKE_SAMPLE_LO", 0xa040, 1, 0x0, 0x0, 0x0, 0x0, 0x0, 0x0⟩,
  ⟨"WAKE_SAMPLE_HI", 0xa044, 1, 0x0, 0x0, 0x0, 0x0, 0x0, 0x0⟩,
  ⟨"ARING_LO", 0xa050, 4, 0x10, 0xfffff01f, 0x0, 0x0, 0x0, 0x6⟩,
  ⟨"ARING_HI", 0xa054, 4, 0x10, 0xffffffff, 0x0, 0x0, 0x0, 0x0⟩,
  ⟨"ARING_IDX", 0xa058, 4, 0x10, 0xffff0000, 0x0, 0x0, 0x0, 0x0⟩,
  ⟨"ARING_CTL", 0xa05c, 4, 0x10, 0x0, 0x0, 0x0, 0x3, 0x0⟩]

/-- Registers of the block at 0xb000 (16_camera.md R368). -/
def regs_cam : List RegDef := [
  ⟨"CAM_CTL", 0xb000, 1, 0x0, 0xffff3fff, 0x0, 0x0, 0x0, 0x640000⟩,
  ⟨"CAM_STATUS", 0xb004, 1, 0x0, 0x0, 0x0, 0x1, 0x0, 0x0⟩,
  ⟨"CAM_PORT", 0xb010, 4, 0x4, 0xffff, 0x0, 0x0, 0x0, 0xe44⟩,
  ⟨"CAM_STATS_LO", 0xb020, 1, 0x0, 0xffffc01f, 0x0, 0x0, 0x0, 0x6⟩,
  ⟨"CAM_STATS_HI", 0xb024, 1, 0x0, 0xffffffff, 0x0, 0x0, 0x0, 0x0⟩,
  ⟨"CAM_STATS_IDX", 0xb028, 1, 0x0, 0xffff0000, 0x0, 0x0, 0x0, 0x0⟩,
  ⟨"CAM_GAMMA_END", 0xb02c, 1, 0x0, 0xffffffff, 0x0, 0x0, 0x0, 0xffffffff⟩,
  ⟨"CAM_LS_SRC", 0xb100, 16, 0x40, 0xffffffff, 0x0, 0x0, 0x0, 0xff900000⟩,
  ⟨"CAM_LS_CROP0", 0xb104, 16, 0x40, 0xffffffff, 0x0, 0x0, 0x0, 0x0⟩,
  ⟨"CAM_LS_CROP1", 0xb108, 16, 0x40, 0xffffffff, 0x0, 0x0, 0x0, 0x0⟩,
  ⟨"CAM_LS_OUT", 0xb10c, 16, 0x40, 0xffffffff, 0x0, 0x0, 0x0, 0x0⟩,
  ⟨"CAM_LS_TNR", 0xb110, 16, 0x40, 0xffffffff, 0x0, 0x0, 0x0, 0x8080000⟩,
  ⟨"CAM_LS_BL0", 0xb114, 16, 0x40, 0xffffffff, 0x0, 0x0, 0x0, 0x0⟩,
  ⟨"CAM_LS_BL1", 0xb118, 16, 0x40, 0xffffffff, 0x0, 0x0, 0x0, 0x0⟩,
  ⟨"CAM_LS_RANGE0", 0xb11c, 16, 0x40, 0xffffffff, 0x0, 0x0, 0x0, 0x10001000⟩,
  ⟨"CAM_LS_RANGE1", 0xb120, 16, 0x40, 0xffffffff, 0x0, 0x0, 0x0, 0x10001000⟩,
  ⟨"CAM_LS_WB0", 0xb124, 16, 0x40, 0xffffffff, 0x0, 0x0, 0x0, 0x10001000⟩,
  ⟨"CAM_LS_WB1", 0xb128, 16, 0x40, 0xffff, 0x0, 0x0, 0x0, 0x1000⟩,
  ⟨"CAM_LS_CCM0", 0xb12c, 16, 0x40, 0xffffffff, 0x0, 0x0, 0x0, 0x1000⟩,
  ⟨"CAM_LS_CCM1", 0xb130, 16, 0x40, 0xffffffff, 0x0, 0x0, 0x0, 0x0⟩,
  ⟨"CAM_LS_CCM2", 0xb134, 16, 0x40, 0xffffffff, 0x0, 0x0, 0x0, 0x1000⟩,
  ⟨"CAM_LS_CCM3", 0xb138, 16, 0x40, 0xffffffff, 0x0, 0x0, 0x0, 0x0⟩,
  ⟨"CAM_LS_CCM4", 0xb13c, 16, 0x40, 0xffff, 0x0, 0x0, 0x0, 0x1000⟩,
  ⟨"CAM_LS_OWNER", 0xb600, 16, 0x4, 0x0, 0xfffff, 0x0, 0x0, 0x0⟩,
  ⟨"CAM_GAMMA", 0xb800, 256, 0x4, 0xffffffff, 0x0, 0x0, 0x0, 0x0⟩,
  ⟨"I3C_CTL", 0xbe00, 4, 0x40, 0x7, 0x0, 0x0, 0x0, 0x0⟩,
  ⟨"I3C_CMD", 0xbe04, 4, 0x40, 0x0, 0x0, 0x0, 0xffffff, 0x0⟩,
  ⟨"I3C_DATA", 0xbe08, 4, 0x40, 0xffffffff, 0x0, 0x0, 0x0, 0x0⟩,
  ⟨"I3C_STAT", 0xbe0c, 4, 0x40, 0x0, 0x0, 0xe, 0x0, 0x80⟩,
  ⟨"I3C_IBI", 0xbe10, 4, 0x40, 0x0, 0x0, 0x0, 0x0, 0x0⟩]

/-- Registers of the block at 0xc000 (21_observation.md R461). -/
def regs_strk : List RegDef := [
  ⟨"STRIKE_CTL", 0xc000, 1, 0x0, 0x7c, 0x0, 0x0, 0x3, 0x8⟩,
  ⟨"STRIKE_STATUS", 0xc004, 1, 0x0, 0x0, 0x0, 0x0, 0x0, 0x1⟩,
  ⟨"STRIKE_COUNT", 0xc008, 1, 0x0, 0x0, 0x0, 0x0, 0x0, 0x0⟩,
  ⟨"STRIKE_ERR", 0xc00c, 1, 0x0, 0x0, 0x0, 0x0, 0x0, 0x0⟩,
  ⟨"CNT_SELECT", 0xc010, 1, 0x0, 0xfffff, 0x0, 0x0, 0x0, 0x0⟩,
  ⟨"CNT_LIVE_LO", 0xc014, 1, 0x0, 0x0, 0x0, 0x0, 0x0, 0x0⟩,
  ⟨"CNT_LIVE_HI", 0xc018, 1, 0x0, 0x0, 0x0, 0x0, 0x0, 0x0⟩,
  ⟨"CNT_SNAP_LO", 0xc01c, 1, 0x0, 0x0, 0x0, 0x0, 0x0, 0x0⟩,
  ⟨"CNT_SNAP_HI", 0xc020, 1, 0x0, 0x0, 0x0, 0x0, 0x0, 0x0⟩,
  ⟨"THRESH_SEL", 0xc040, 4, 0x10, 0xfffff, 0x0, 0x0, 0x0, 0x0⟩,
  ⟨"THRESH_LO", 0xc044, 4, 0x10, 0xffffffff, 0x0, 0x0, 0x0, 0x0⟩,
  ⟨"THRESH_HI", 0xc048, 4, 0x10, 0xffff, 0x0, 0x0, 0x0, 0x0⟩,
  ⟨"SNAP_SELECT", 0xc100, 1, 0x0, 0xff, 0x0, 0x0, 0x0, 0x0⟩]

/-- Registers of the block at 0xd000 (19_security.md R432). -/
def regs_sec : List RegDef := [
  ⟨"CONF_MODE", 0xd000, 1, 0x0, 0x1, 0x0, 0x0, 0x0, 0x0⟩,
  ⟨"FUSE_STATE", 0xd004, 1, 0x0, 0x0, 0x0, 0x0, 0x0, 0x0⟩,
  ⟨"SEC_CTL", 0xd008, 1, 0x0, 0x1, 0x0, 0x0, 0x0, 0x0⟩,
  ⟨"ATTEST_CTL", 0xd010, 1, 0x0, 0x0, 0x0, 0x4, 0x1, 0x0⟩,
  ⟨"ATTEST_BUF_LO", 0xd014, 1, 0x0, 0xfffffc00, 0x0, 0x0, 0x0, 0x0⟩,
  ⟨"ATTEST_BUF_HI", 0xd018, 1, 0x0, 0xffffffff, 0x0, 0x0, 0x0, 0x0⟩,
  ⟨"ATTEST_CERT_LEN", 0xd01c, 1, 0x0, 0x0, 0x0, 0x0, 0x0, 0x0⟩,
  ⟨"ATTEST_NONCE", 0xd040, 16, 0x4, 0xffffffff, 0x0, 0x0, 0x0, 0x0⟩]

/-- Registers of the block at 0xe000 (20_faults.md R446). -/
def regs_err : List RegDef := [
  ⟨"ERR_CTL", 0xe000, 1, 0x0, 0xffff, 0x0, 0x0, 0x0, 0x6000⟩,
  ⟨"ERR_STATUS", 0xe004, 1, 0x0, 0x0, 0x0, 0x0, 0x0, 0x0⟩,
  ⟨"ERR_NEXT", 0xe008, 1, 0x0, 0x0, 0x0, 0x0, 0x0, 0x1⟩,
  ⟨"WARD_FENCE", 0xe00c, 1, 0x0, 0x0, 0x0, 0x0, 0x0, 0x0⟩,
  ⟨"ERR_RING_LO", 0xe010, 1, 0x0, 0xfffff01f, 0x0, 0x0, 0x0, 0x6⟩,
  ⟨"ERR_RING_HI", 0xe014, 1, 0x0, 0xffffffff, 0x0, 0x0, 0x0, 0x0⟩,
  ⟨"ERR_RING_IDX", 0xe018, 1, 0x0, 0xffff0000, 0x0, 0x0, 0x0, 0x0⟩]

/-- Registers of the block at 0x10000 (22_registers.md R470). -/
def regs_ward : List RegDef := [
  ⟨"WARD_STATUS", 0x10000, 16, 0x1000, 0x0, 0x0, 0x0, 0x0, 0x29⟩,
  ⟨"WARD_STEP_LO", 0x10004, 16, 0x1000, 0x0, 0x0, 0x0, 0x0, 0x0⟩,
  ⟨"WARD_STEP_HI", 0x10008, 16, 0x1000, 0x0, 0x0, 0x0, 0x0, 0x0⟩,
  ⟨"WARD_WS_ERR", 0x1000c, 16, 0x1000, 0x0, 0x0, 0x80000000, 0x0, 0x0⟩]

/-- Registers of the block at 0x20000 (03_tumbler_and_cylinder.md R79, 22_registers.md R471). -/
def regs_cyl : List RegDef := [
  ⟨"CYL_STATUS", 0x20000, 128, 0x400, 0x0, 0x0, 0x0, 0x0, 0x0⟩,
  ⟨"CYL_LEVEL", 0x20004, 128, 0x400, 0x0, 0x0, 0x0, 0x0, 0x5⟩,
  ⟨"CYL_TILE_ERR", 0x20008, 128, 0x400, 0x0, 0x0, 0x80100000, 0x0, 0x0⟩,
  ⟨"CYL_SP_ERR", 0x2000c, 128, 0x400, 0x0, 0x0, 0x80000000, 0x0, 0x0⟩]

/-- Registers of the block at 0x40000 (11_frame_lane.md R263). -/
def regs_lane : List RegDef := [
  ⟨"LANE_CTL", 0x40000, 4, 0x100, 0x1ffe0000, 0x1ffff, 0x0, 0x0, 0x0⟩,
  ⟨"LANE_STATUS", 0x40004, 4, 0x100, 0x0, 0x0, 0x4, 0x0, 0x0⟩,
  ⟨"LANE_SLOT_LO", 0x40008, 4, 0x100, 0x0, 0x0, 0x0, 0x0, 0x0⟩,
  ⟨"LANE_SLOT_HI", 0x4000c, 4, 0x100, 0x0, 0x0, 0x0, 0x0, 0x0⟩,
  ⟨"LANE_RING_LO", 0x40010, 4, 0x100, 0xffffffdf, 0x0, 0x0, 0x0, 0x6⟩,
  ⟨"LANE_RING_HI", 0x40014, 4, 0x100, 0xffffffff, 0x0, 0x0, 0x0, 0x0⟩,
  ⟨"LANE_RING_IDX", 0x40018, 4, 0x100, 0xffff0000, 0x0, 0x0, 0x0, 0x0⟩]

/-- Every register of BAR0 outside the windows the model holds as tables of their own. -/
def regDefs : List RegDef :=
  regs_idn ++ regs_prot ++ regs_hinge ++ regs_power ++ regs_reset ++ regs_key ++ regs_mem ++ regs_kw ++ regs_clip ++ regs_lz ++ regs_aud ++ regs_cam ++ regs_strk ++ regs_sec ++ regs_err ++ regs_ward ++ regs_cyl ++ regs_lane

/-- The register an offset falls on. -/
def regAt (off : Nat) : Option RegDef :=
  regDefs.find? fun d =>
    if d.count = 1 then d.off == off
    else decide (d.off ≤ off) && decide ((off - d.off) % d.stride = 0) && decide ((off - d.off) / d.stride < d.count)

/-- Reset value of the word at an offset; zero where no register lies (R8). -/
def regReset (off : Nat) : Word :=
  match regAt off with
  | some d => BitVec.ofNat 32 d.reset
  | none => 0#32

/-- The field's bits in a word. -/
def Fld.of (f : Fld) (w : Word) : Nat := w.toNat / 2 ^ f.lo % 2 ^ (f.hi + 1 - f.lo)

/-- A word with the field set to a value, cut to the field's width. -/
def Fld.into (f : Fld) (v : Nat) (w : Word) : Word :=
  BitVec.ofNat 32 (w.toNat - Fld.of f w * 2 ^ f.lo + v % 2 ^ (f.hi + 1 - f.lo) * 2 ^ f.lo)

/-- The bits of `new` under a mask, of `old` elsewhere. -/
def maskMerge (mask : Nat) (old new : Word) : Word :=
  (old &&& ~~~(BitVec.ofNat 32 mask)) ||| (new &&& BitVec.ofNat 32 mask)

namespace F

/-- DEV_ID.part (R468). -/
def DEV_ID_part : Fld := ⟨0x0, 15, 0⟩
/-- DEV_ID.stepping (R468). -/
def DEV_ID_stepping : Fld := ⟨0x0, 23, 16⟩
/-- FW_VERSION.version (R468). -/
def FW_VERSION_version : Fld := ⟨0x4, 31, 0⟩
/-- DEV_SERIAL_LO.serial_lo (R468). -/
def DEV_SERIAL_LO_serial_lo : Fld := ⟨0x8, 31, 0⟩
/-- DEV_SERIAL_HI.serial_hi (R468). -/
def DEV_SERIAL_HI_serial_hi : Fld := ⟨0xc, 15, 0⟩
/-- DEV_CAPS.psram0_mib (R468). -/
def DEV_CAPS_psram0_mib : Fld := ⟨0x10, 7, 0⟩
/-- DEV_CAPS.psram1_mib (R468). -/
def DEV_CAPS_psram1_mib : Fld := ⟨0x10, 15, 8⟩
/-- PROT_CTL.lock (R431). -/
def PROT_CTL_lock : Fld := ⟨0x1000, 0, 0⟩
/-- PROT_CTL.cxlmem_read (R431). -/
def PROT_CTL_cxlmem_read : Fld := ⟨0x1000, 1, 1⟩
/-- PROT_STATUS.cfg_err (R431). -/
def PROT_STATUS_cfg_err : Fld := ⟨0x1004, 0, 0⟩
/-- PROT_STATUS.pending (R431). -/
def PROT_STATUS_pending : Fld := ⟨0x1004, 1, 1⟩
/-- PROT_GEN.gen (R431). -/
def PROT_GEN_gen : Fld := ⟨0x1008, 31, 0⟩
/-- SCRUB_CTL.low_water (R431). -/
def SCRUB_CTL_low_water : Fld := ⟨0x100c, 20, 0⟩
/-- TENANT_SELECT.slot (R431). -/
def TENANT_SELECT_slot : Fld := ⟨0x1010, 7, 0⟩
/-- TENANT_CFG.pasid (R431). -/
def TENANT_CFG_pasid : Fld := ⟨0x1014, 19, 0⟩
/-- TENANT_CFG.valid (R431). -/
def TENANT_CFG_valid : Fld := ⟨0x1014, 20, 20⟩
/-- TENANT_CFG.publish (R431). -/
def TENANT_CFG_publish : Fld := ⟨0x1014, 21, 21⟩
/-- TENANT_CFG.solo (R431). -/
def TENANT_CFG_solo : Fld := ⟨0x1014, 22, 22⟩
/-- TENANT_QUOTA.pages (R431). -/
def TENANT_QUOTA_pages : Fld := ⟨0x1018, 20, 0⟩
/-- TENANT_HELD.pages (R431). -/
def TENANT_HELD_pages : Fld := ⟨0x101c, 20, 0⟩
/-- WIN_SELECT.window (R431). -/
def WIN_SELECT_window : Fld := ⟨0x1020, 2, 0⟩
/-- WIN_BASE_LO.base_lo (R431). -/
def WIN_BASE_LO_base_lo : Fld := ⟨0x1024, 31, 12⟩
/-- WIN_BASE_HI.base_hi (R431). -/
def WIN_BASE_HI_base_hi : Fld := ⟨0x1028, 31, 0⟩
/-- WIN_LIMIT_LO.enable (R431). -/
def WIN_LIMIT_LO_enable : Fld := ⟨0x102c, 0, 0⟩
/-- WIN_LIMIT_LO.limit_lo (R431). -/
def WIN_LIMIT_LO_limit_lo : Fld := ⟨0x102c, 31, 12⟩
/-- WIN_LIMIT_HI.limit_hi (R431). -/
def WIN_LIMIT_HI_limit_hi : Fld := ⟨0x1030, 31, 0⟩
/-- CTX_BIND.context (R431). -/
def CTX_BIND_context : Fld := ⟨0x1040, 11, 0⟩
/-- CTX_BIND.slot (R431). -/
def CTX_BIND_slot : Fld := ⟨0x1040, 19, 12⟩
/-- CTX_BIND.op (R431). -/
def CTX_BIND_op : Fld := ⟨0x1040, 21, 20⟩
/-- HINGE_CTL.assist (R306). -/
def HINGE_CTL_assist : Fld := ⟨0x2000, 9, 0⟩
/-- HINGE_NOW.in_force (R306). -/
def HINGE_NOW_in_force : Fld := ⟨0x2004, 9, 0⟩
/-- SVC_CTL.enable (R306). -/
def SVC_CTL_enable : Fld := ⟨0x2008, 0, 0⟩
/-- SVC_CTL.order (R306). -/
def SVC_CTL_order : Fld := ⟨0x2008, 4, 1⟩
/-- SVC_CTL.irq (R306). -/
def SVC_CTL_irq : Fld := ⟨0x2008, 5, 5⟩
/-- SVC_CTL.vector (R306). -/
def SVC_CTL_vector : Fld := ⟨0x2008, 16, 6⟩
/-- SVC_REQ_LO.base_lo (R306). -/
def SVC_REQ_LO_base_lo : Fld := ⟨0x2010, 31, 12⟩
/-- SVC_REQ_HI.base_hi (R306). -/
def SVC_REQ_HI_base_hi : Fld := ⟨0x2014, 31, 0⟩
/-- SVC_ANS_LO.base_lo (R306). -/
def SVC_ANS_LO_base_lo : Fld := ⟨0x2018, 31, 12⟩
/-- SVC_ANS_HI.base_hi (R306). -/
def SVC_ANS_HI_base_hi : Fld := ⟨0x201c, 31, 0⟩
/-- SVC_DATA_LO.base_lo (R306). -/
def SVC_DATA_LO_base_lo : Fld := ⟨0x2020, 31, 16⟩
/-- SVC_DATA_HI.base_hi (R306). -/
def SVC_DATA_HI_base_hi : Fld := ⟨0x2024, 31, 0⟩
/-- SVC_DB.ans (R306). -/
def SVC_DB_ans : Fld := ⟨0x2028, 31, 0⟩
/-- SVC_STATUS.outstanding (R306). -/
def SVC_STATUS_outstanding : Fld := ⟨0x202c, 10, 0⟩
/-- SVC_STATUS.full (R306). -/
def SVC_STATUS_full : Fld := ⟨0x202c, 11, 11⟩
/-- SVC_STATUS.late (R306). -/
def SVC_STATUS_late : Fld := ⟨0x202c, 12, 12⟩
/-- SVC_STATUS.bad_answer (R306). -/
def SVC_STATUS_bad_answer : Fld := ⟨0x202c, 13, 13⟩
/-- HINGE_TO0.to_lo (R306). -/
def HINGE_TO0_to_lo : Fld := ⟨0x2040, 15, 0⟩
/-- HINGE_TO0.to_hi (R306). -/
def HINGE_TO0_to_hi : Fld := ⟨0x2040, 31, 16⟩
/-- HINGE_TO1.to_lo (R306). -/
def HINGE_TO1_to_lo : Fld := ⟨0x2044, 15, 0⟩
/-- HINGE_TO1.to_hi (R306). -/
def HINGE_TO1_to_hi : Fld := ⟨0x2044, 31, 16⟩
/-- HINGE_TO2.to_lo (R306). -/
def HINGE_TO2_to_lo : Fld := ⟨0x2048, 15, 0⟩
/-- HINGE_TO2.to_hi (R306). -/
def HINGE_TO2_to_hi : Fld := ⟨0x2048, 31, 16⟩
/-- HINGE_TO3.to_lo (R306). -/
def HINGE_TO3_to_lo : Fld := ⟨0x204c, 15, 0⟩
/-- HINGE_TO3.to_hi (R306). -/
def HINGE_TO3_to_hi : Fld := ⟨0x204c, 31, 16⟩
/-- HINGE_TO4.to_lo (R306). -/
def HINGE_TO4_to_lo : Fld := ⟨0x2050, 15, 0⟩
/-- HINGE_TO4.to_hi (R306). -/
def HINGE_TO4_to_hi : Fld := ⟨0x2050, 31, 16⟩
/-- PLEVEL_CTL.cap (R290). -/
def PLEVEL_CTL_cap : Fld := ⟨0x3000, 2, 0⟩
/-- PLEVEL_CTL.throttle_level (R290). -/
def PLEVEL_CTL_throttle_level : Fld := ⟨0x3000, 5, 3⟩
/-- PLEVEL_CTL.cap_now (R290). -/
def PLEVEL_CTL_cap_now : Fld := ⟨0x3000, 8, 6⟩
/-- PLEVEL_CTL.throttle_pin (R290). -/
def PLEVEL_CTL_throttle_pin : Fld := ⟨0x3000, 9, 9⟩
/-- PLEVEL_CTL.settled (R290). -/
def PLEVEL_CTL_settled : Fld := ⟨0x3000, 10, 10⟩
/-- SLEEP_CTL.target (R387). -/
def SLEEP_CTL_target : Fld := ⟨0x3004, 2, 0⟩
/-- SLEEP_CTL.go (R387). -/
def SLEEP_CTL_go : Fld := ⟨0x3004, 3, 3⟩
/-- SLEEP_CTL.timeout (R387). -/
def SLEEP_CTL_timeout : Fld := ⟨0x3004, 23, 8⟩
/-- SLEEP_STATUS.state (R387). -/
def SLEEP_STATUS_state : Fld := ⟨0x3008, 2, 0⟩
/-- SLEEP_STATUS.busy (R387). -/
def SLEEP_STATUS_busy : Fld := ⟨0x3008, 3, 3⟩
/-- SLEEP_STATUS.result (R387). -/
def SLEEP_STATUS_result : Fld := ⟨0x3008, 6, 4⟩
/-- SLEEP_STATUS.ret_lost (R387). -/
def SLEEP_STATUS_ret_lost : Fld := ⟨0x3008, 7, 7⟩
/-- SLEEP_STATUS.blocker (R387). -/
def SLEEP_STATUS_blocker : Fld := ⟨0x3008, 15, 8⟩
/-- LAST_WAKE.source (R387). -/
def LAST_WAKE_source : Fld := ⟨0x300c, 3, 0⟩
/-- LAST_WAKE.from_state (R387). -/
def LAST_WAKE_from_state : Fld := ⟨0x300c, 6, 4⟩
/-- LAST_WAKE.aborted (R387). -/
def LAST_WAKE_aborted : Fld := ⟨0x300c, 7, 7⟩
/-- LAST_WAKE.img_bad (R387). -/
def LAST_WAKE_img_bad : Fld := ⟨0x300c, 8, 8⟩
/-- LAST_WAKE.also (R387). -/
def LAST_WAKE_also : Fld := ⟨0x300c, 16, 9⟩
/-- LAST_WAKE.count (R387). -/
def LAST_WAKE_count : Fld := ⟨0x300c, 31, 24⟩
/-- WAKE_EN.enable (R387). -/
def WAKE_EN_enable : Fld := ⟨0x3010, 5, 0⟩
/-- THERM_CTL.limit (R387). -/
def THERM_CTL_limit : Fld := ⟨0x3014, 7, 0⟩
/-- THERM_CTL.alert (R387). -/
def THERM_CTL_alert : Fld := ⟨0x3014, 15, 8⟩
/-- THERM_CTL.hyst (R387). -/
def THERM_CTL_hyst : Fld := ⟨0x3014, 19, 16⟩
/-- THERM_CTL.irq (R387). -/
def THERM_CTL_irq : Fld := ⟨0x3014, 20, 20⟩
/-- THERM_CTL.vector (R387). -/
def THERM_CTL_vector : Fld := ⟨0x3014, 31, 21⟩
/-- THERM_STATUS.max_temp (R387). -/
def THERM_STATUS_max_temp : Fld := ⟨0x3018, 7, 0⟩
/-- THERM_STATUS.hot (R387). -/
def THERM_STATUS_hot : Fld := ⟨0x3018, 15, 8⟩
/-- THERM_STATUS.alert (R387). -/
def THERM_STATUS_alert : Fld := ⟨0x3018, 16, 16⟩
/-- THERM_STATUS.limited (R387). -/
def THERM_STATUS_limited : Fld := ⟨0x3018, 17, 17⟩
/-- SLEEP_IMG.base (R387). -/
def SLEEP_IMG_base : Fld := ⟨0x301c, 20, 0⟩
/-- SLEEP_IMG.enable (R387). -/
def SLEEP_IMG_enable : Fld := ⟨0x301c, 31, 31⟩
/-- RESET_CAUSE.cause (R408). -/
def RESET_CAUSE_cause : Fld := ⟨0x4000, 3, 0⟩
/-- RESET_CAUSE.island (R408). -/
def RESET_CAUSE_island : Fld := ⟨0x4000, 11, 4⟩
/-- RESET_CAUSE.class (R408). -/
def RESET_CAUSE_class : Fld := ⟨0x4000, 13, 12⟩
/-- RESET_CAUSE.held (R408). -/
def RESET_CAUSE_held : Fld := ⟨0x4000, 14, 14⟩
/-- RESET_CAUSE.forced (R408). -/
def RESET_CAUSE_forced : Fld := ⟨0x4000, 15, 15⟩
/-- RESET_CAUSE.count (R408). -/
def RESET_CAUSE_count : Fld := ⟨0x4000, 23, 16⟩
/-- CLK_HELD.wards (R408). -/
def CLK_HELD_wards : Fld := ⟨0x4004, 15, 0⟩
/-- CLK_HELD.mc0 (R408). -/
def CLK_HELD_mc0 : Fld := ⟨0x4004, 16, 16⟩
/-- CLK_HELD.mc1 (R408). -/
def CLK_HELD_mc1 : Fld := ⟨0x4004, 17, 17⟩
/-- CLK_HELD.warden (R408). -/
def CLK_HELD_warden : Fld := ⟨0x4004, 18, 18⟩
/-- BLOCK_RESET.target (R408). -/
def BLOCK_RESET_target : Fld := ⟨0x4008, 7, 0⟩
/-- BLOCK_RESET.go (R408). -/
def BLOCK_RESET_go : Fld := ⟨0x4008, 8, 8⟩
/-- BLOCK_RESET.busy (R408). -/
def BLOCK_RESET_busy : Fld := ⟨0x4008, 9, 9⟩
/-- BLOCK_RESET.timeout (R408). -/
def BLOCK_RESET_timeout : Fld := ⟨0x4008, 31, 16⟩
/-- BLOCK_LAST.island (R408). -/
def BLOCK_LAST_island : Fld := ⟨0x400c, 7, 0⟩
/-- BLOCK_LAST.cause (R408). -/
def BLOCK_LAST_cause : Fld := ⟨0x400c, 11, 8⟩
/-- BLOCK_LAST.timed_out (R408). -/
def BLOCK_LAST_timed_out : Fld := ⟨0x400c, 12, 12⟩
/-- BLOCK_LAST.count (R408). -/
def BLOCK_LAST_count : Fld := ⟨0x400c, 31, 16⟩
/-- RESET_CTL.warm (R408). -/
def RESET_CTL_warm : Fld := ⟨0x4010, 0, 0⟩
/-- RESET_CTL.reload (R408). -/
def RESET_CTL_reload : Fld := ⟨0x4010, 1, 1⟩
/-- NOPROG_CTL.limit (R408). -/
def NOPROG_CTL_limit : Fld := ⟨0x4014, 15, 0⟩
/-- RESET_FORCE.release (R408). -/
def RESET_FORCE_release : Fld := ⟨0x4018, 18, 0⟩
/-- RESET_FORCE.refused (R408). -/
def RESET_FORCE_refused : Fld := ⟨0x4018, 31, 31⟩
/-- BOOT_STATUS.stage (R408). -/
def BOOT_STATUS_stage : Fld := ⟨0x4020, 3, 0⟩
/-- BOOT_STATUS.source (R408). -/
def BOOT_STATUS_source : Fld := ⟨0x4020, 5, 4⟩
/-- BOOT_STATUS.key_slot (R408). -/
def BOOT_STATUS_key_slot : Fld := ⟨0x4020, 6, 6⟩
/-- BOOT_STATUS.error (R408). -/
def BOOT_STATUS_error : Fld := ⟨0x4020, 15, 8⟩
/-- BOOT_IMG_LO.base_lo (R408). -/
def BOOT_IMG_LO_base_lo : Fld := ⟨0x4024, 31, 12⟩
/-- BOOT_IMG_HI.base_hi (R408). -/
def BOOT_IMG_HI_base_hi : Fld := ⟨0x4028, 31, 0⟩
/-- BOOT_CTL.go (R408). -/
def BOOT_CTL_go : Fld := ⟨0x402c, 0, 0⟩
/-- BOOT_CTL.granules (R408). -/
def BOOT_CTL_granules : Fld := ⟨0x402c, 19, 8⟩
/-- FW_CACHE.base (R408). -/
def FW_CACHE_base : Fld := ⟨0x4030, 15, 0⟩
/-- FW_CACHE.size (R408). -/
def FW_CACHE_size : Fld := ⟨0x4030, 23, 16⟩
/-- FW_CACHE.enable (R408). -/
def FW_CACHE_enable : Fld := ⟨0x4030, 24, 24⟩
/-- FW_CACHE.valid (R408). -/
def FW_CACHE_valid : Fld := ⟨0x4030, 25, 25⟩
/-- KEYRING_CFG.enable (R250). -/
def KEYRING_CFG_enable : Fld := ⟨0x5000, 0, 0⟩
/-- KEYRING_CFG.swap_enable (R250). -/
def KEYRING_CFG_swap_enable : Fld := ⟨0x5000, 1, 1⟩
/-- KEYRING_CFG.image_units (R250). -/
def KEYRING_CFG_image_units : Fld := ⟨0x5000, 11, 2⟩
/-- KEYRING_CFG.swap_margin (R250). -/
def KEYRING_CFG_swap_margin : Fld := ⟨0x5000, 31, 16⟩
/-- KEYRING_STEP_LO.step_lo (R250). -/
def KEYRING_STEP_LO_step_lo : Fld := ⟨0x5004, 31, 0⟩
/-- KEYRING_STEP_HI.step_hi (R250). -/
def KEYRING_STEP_HI_step_hi : Fld := ⟨0x5008, 15, 0⟩
/-- KEYRING_LIMITS.wake_credit (R250). -/
def KEYRING_LIMITS_wake_credit : Fld := ⟨0x500c, 15, 0⟩
/-- CTX_SELECT.context (R250). -/
def CTX_SELECT_context : Fld := ⟨0x5010, 11, 0⟩
/-- CTX_VIEW.state (R250). -/
def CTX_VIEW_state : Fld := ⟨0x5014, 2, 0⟩
/-- CTX_VIEW.cause (R250). -/
def CTX_VIEW_cause : Fld := ⟨0x5014, 5, 3⟩
/-- CTX_VIEW.version (R250). -/
def CTX_VIEW_version : Fld := ⟨0x5014, 6, 6⟩
/-- CTX_VIEW.recompute (R250). -/
def CTX_VIEW_recompute : Fld := ⟨0x5014, 7, 7⟩
/-- CTX_VIEW.cut_in (R250). -/
def CTX_VIEW_cut_in : Fld := ⟨0x5014, 8, 8⟩
/-- CTX_VIEW.image_valid (R250). -/
def CTX_VIEW_image_valid : Fld := ⟨0x5014, 9, 9⟩
/-- CTX_VIEW.image_slot (R250). -/
def CTX_VIEW_image_slot : Fld := ⟨0x5014, 10, 10⟩
/-- CTX_VIEW.restore_guard (R250). -/
def CTX_VIEW_restore_guard : Fld := ⟨0x5014, 11, 11⟩
/-- CTX_VIEW.member (R250). -/
def CTX_VIEW_member : Fld := ⟨0x5014, 23, 12⟩
/-- CTX_VIEW.lead_ward (R250). -/
def CTX_VIEW_lead_ward : Fld := ⟨0x5014, 27, 24⟩
/-- CTX_TENANT.pasid (R250). -/
def CTX_TENANT_pasid : Fld := ⟨0x5018, 19, 0⟩
/-- CTX_BALANCE.balance (R250). -/
def CTX_BALANCE_balance : Fld := ⟨0x501c, 31, 0⟩
/-- CTX_KV_LIMIT.kv_limit (R250). -/
def CTX_KV_LIMIT_kv_limit : Fld := ⟨0x5020, 31, 0⟩
/-- CTX_LAST_COMMIT.step (R250). -/
def CTX_LAST_COMMIT_step : Fld := ⟨0x5024, 31, 0⟩
/-- CTX_CHARGED_LO.charged_lo (R250). -/
def CTX_CHARGED_LO_charged_lo : Fld := ⟨0x5028, 31, 0⟩
/-- CTX_CHARGED_HI.charged_hi (R250). -/
def CTX_CHARGED_HI_charged_hi : Fld := ⟨0x502c, 15, 0⟩
/-- CTX_SHARE.weight (R250). -/
def CTX_SHARE_weight : Fld := ⟨0x5030, 15, 0⟩
/-- CTX_SHARE.no_drop (R250). -/
def CTX_SHARE_no_drop : Fld := ⟨0x5030, 16, 16⟩
/-- CTX_CMD.op (R250). -/
def CTX_CMD_op : Fld := ⟨0x5034, 1, 0⟩
/-- HOST_CTL.recover (R291). -/
def HOST_CTL_recover : Fld := ⟨0x5040, 0, 0⟩
/-- HOST_CTL.cxl_cache (R291). -/
def HOST_CTL_cxl_cache : Fld := ⟨0x5040, 1, 1⟩
/-- HOST_STATUS.recovery_needed (R291). -/
def HOST_STATUS_recovery_needed : Fld := ⟨0x5044, 0, 0⟩
/-- HOST_STATUS.recovering (R291). -/
def HOST_STATUS_recovering : Fld := ⟨0x5044, 1, 1⟩
/-- HOST_STATUS.ctx_err (R291). -/
def HOST_STATUS_ctx_err : Fld := ⟨0x5044, 2, 2⟩
/-- HOST_STATUS.ctx_err_context (R291). -/
def HOST_STATUS_ctx_err_context : Fld := ⟨0x5044, 27, 16⟩
/-- JOURNAL_BASE_LO.base_lo (R291). -/
def JOURNAL_BASE_LO_base_lo : Fld := ⟨0x5048, 31, 12⟩
/-- JOURNAL_BASE_HI.base_hi (R291). -/
def JOURNAL_BASE_HI_base_hi : Fld := ⟨0x504c, 31, 0⟩
/-- CTX_TABLE_BASE_LO.base_lo (R291). -/
def CTX_TABLE_BASE_LO_base_lo : Fld := ⟨0x5050, 31, 12⟩
/-- CTX_TABLE_BASE_HI.base_hi (R291). -/
def CTX_TABLE_BASE_HI_base_hi : Fld := ⟨0x5054, 31, 0⟩
/-- COMMIT_LOG_LO.order (R291). -/
def COMMIT_LOG_LO_order : Fld := ⟨0x5058, 4, 0⟩
/-- COMMIT_LOG_LO.base_lo (R291). -/
def COMMIT_LOG_LO_base_lo : Fld := ⟨0x5058, 31, 12⟩
/-- COMMIT_LOG_HI.base_hi (R291). -/
def COMMIT_LOG_HI_base_hi : Fld := ⟨0x505c, 31, 0⟩
/-- MEM_STATUS.stack0_up (R154). -/
def MEM_STATUS_stack0_up : Fld := ⟨0x6000, 0, 0⟩
/-- MEM_STATUS.stack1_up (R154). -/
def MEM_STATUS_stack1_up : Fld := ⟨0x6000, 1, 1⟩
/-- MEM_STATUS.self_refresh (R154). -/
def MEM_STATUS_self_refresh : Fld := ⟨0x6000, 2, 2⟩
/-- MEM_STATUS.cfg_err (R154). -/
def MEM_STATUS_cfg_err : Fld := ⟨0x6000, 3, 3⟩
/-- MEM_STATUS.held (R154). -/
def MEM_STATUS_held : Fld := ⟨0x6000, 23, 16⟩
/-- MEM_STATUS.poisoned (R154). -/
def MEM_STATUS_poisoned : Fld := ⟨0x6000, 31, 24⟩
/-- PLAN_AREA_BASE.base (R154). -/
def PLAN_AREA_BASE_base : Fld := ⟨0x6008, 20, 0⟩
/-- PLAN_AREA_SIZE.size (R154). -/
def PLAN_AREA_SIZE_size : Fld := ⟨0x600c, 20, 0⟩
/-- PAGE_POOL_BASE.base (R154). -/
def PAGE_POOL_BASE_base : Fld := ⟨0x6010, 20, 0⟩
/-- PAGE_POOL_SIZE.pages (R154). -/
def PAGE_POOL_SIZE_pages : Fld := ⟨0x6014, 20, 0⟩
/-- SAVE_AREA_BASE.base (R154). -/
def SAVE_AREA_BASE_base : Fld := ⟨0x6018, 20, 0⟩
/-- SAVE_AREA_SIZE.size (R154). -/
def SAVE_AREA_SIZE_size : Fld := ⟨0x601c, 20, 0⟩
/-- REFETCH_CTL.attempts (R154). -/
def REFETCH_CTL_attempts : Fld := ⟨0x6020, 2, 0⟩
/-- REFETCH_CTL.timeout (R154). -/
def REFETCH_CTL_timeout : Fld := ⟨0x6020, 31, 16⟩
/-- KV_POLICY.order (R224). -/
def KV_POLICY_order : Fld := ⟨0x6024, 1, 0⟩
/-- KV_POLICY.keep_pages (R224). -/
def KV_POLICY_keep_pages : Fld := ⟨0x6024, 15, 8⟩
/-- KV_POLICY.cooldown (R224). -/
def KV_POLICY_cooldown : Fld := ⟨0x6024, 23, 16⟩
/-- KV_POLICY.drop_enable (R224). -/
def KV_POLICY_drop_enable : Fld := ⟨0x6024, 24, 24⟩
/-- KV_FREE.free (R224). -/
def KV_FREE_free : Fld := ⟨0x6028, 20, 0⟩
/-- KV_STATUS.scrub_pending (R224). -/
def KV_STATUS_scrub_pending : Fld := ⟨0x602c, 20, 0⟩
/-- KV_STATUS.exhausted (R224). -/
def KV_STATUS_exhausted : Fld := ⟨0x602c, 21, 21⟩
/-- KEYWAY_CTL.compress_enable (R178). -/
def KEYWAY_CTL_compress_enable : Fld := ⟨0x7000, 0, 0⟩
/-- KEYWAY_CTL.auto_raw_thresh (R178). -/
def KEYWAY_CTL_auto_raw_thresh : Fld := ⟨0x7000, 31, 16⟩
/-- KEYWAY_STATUS.busy (R178). -/
def KEYWAY_STATUS_busy : Fld := ⟨0x7004, 0, 0⟩
/-- KEYWAY_STATUS.table_err (R178). -/
def KEYWAY_STATUS_table_err : Fld := ⟨0x7004, 1, 1⟩
/-- KEYWAY_STATUS.queued (R178). -/
def KEYWAY_STATUS_queued : Fld := ⟨0x7004, 31, 16⟩
/-- KEYWAY_PASSES.passes (R178). -/
def KEYWAY_PASSES_passes : Fld := ⟨0x7008, 31, 0⟩
/-- CLIP_STAT_CTL.enable (R115). -/
def CLIP_STAT_CTL_enable : Fld := ⟨0x8000, 0, 0⟩
/-- CLIP_STAT_CTL.ring_order (R115). -/
def CLIP_STAT_CTL_ring_order : Fld := ⟨0x8000, 5, 1⟩
/-- CLIP_STAT_CTL.event_irq (R115). -/
def CLIP_STAT_CTL_event_irq : Fld := ⟨0x8000, 6, 6⟩
/-- CLIP_STAT_CTL.event_vector (R115). -/
def CLIP_STAT_CTL_event_vector : Fld := ⟨0x8000, 17, 7⟩
/-- CLIP_STAT_BASE_LO.base_lo (R115). -/
def CLIP_STAT_BASE_LO_base_lo : Fld := ⟨0x8008, 31, 6⟩
/-- CLIP_STAT_BASE_HI.base_hi (R115). -/
def CLIP_STAT_BASE_HI_base_hi : Fld := ⟨0x800c, 31, 0⟩
/-- CLIP_STAT_HEAD.head (R115). -/
def CLIP_STAT_HEAD_head : Fld := ⟨0x8010, 15, 0⟩
/-- CLIP_STAT_TAIL.tail (R115). -/
def CLIP_STAT_TAIL_tail : Fld := ⟨0x8014, 15, 0⟩
/-- CLIP_THRESH.tensor_thresh (R115). -/
def CLIP_THRESH_tensor_thresh : Fld := ⟨0x8018, 15, 0⟩
/-- CLIP_THRESH.group_thresh (R115). -/
def CLIP_THRESH_group_thresh : Fld := ⟨0x8018, 31, 16⟩
/-- CLIP_EVENT.misfit (R115). -/
def CLIP_EVENT_misfit : Fld := ⟨0x801c, 0, 0⟩
/-- CLIP_EVENT.ring_overflow (R115). -/
def CLIP_EVENT_ring_overflow : Fld := ⟨0x801c, 1, 1⟩
/-- CLIP_EVENT.no_companion (R115). -/
def CLIP_EVENT_no_companion : Fld := ⟨0x801c, 2, 2⟩
/-- CLIP_EVENT.dropped (R115). -/
def CLIP_EVENT_dropped : Fld := ⟨0x801c, 31, 16⟩
/-- LANIZA_ADDR.addr (R323). -/
def LANIZA_ADDR_addr : Fld := ⟨0x9000, 3, 0⟩
/-- LANIZA_ADDR.position (R323). -/
def LANIZA_ADDR_position : Fld := ⟨0x9000, 7, 4⟩
/-- LANIZA_ADDR.units (R323). -/
def LANIZA_ADDR_units : Fld := ⟨0x9000, 12, 8⟩
/-- LANIZA_ADDR.valid (R323). -/
def LANIZA_ADDR_valid : Fld := ⟨0x9000, 13, 13⟩
/-- LANIZA_ADDR.ring (R323). -/
def LANIZA_ADDR_ring : Fld := ⟨0x9000, 14, 14⟩
/-- LANIZA_ADDR.host_assigned (R323). -/
def LANIZA_ADDR_host_assigned : Fld := ⟨0x9000, 15, 15⟩
/-- LANIZA_CTL.rewalk (R323). -/
def LANIZA_CTL_rewalk : Fld := ⟨0x9004, 0, 0⟩
/-- LANIZA_CTL.wake_fwd (R323). -/
def LANIZA_CTL_wake_fwd : Fld := ⟨0x9004, 1, 1⟩
/-- LANIZA_CTL.send_wake (R323). -/
def LANIZA_CTL_send_wake : Fld := ⟨0x9004, 2, 2⟩
/-- LANIZA_CTL.up_en (R323). -/
def LANIZA_CTL_up_en : Fld := ⟨0x9004, 3, 3⟩
/-- LANIZA_CTL.down_en (R323). -/
def LANIZA_CTL_down_en : Fld := ⟨0x9004, 4, 4⟩
/-- LANIZA_CTL.down_timeout (R323). -/
def LANIZA_CTL_down_timeout : Fld := ⟨0x9004, 31, 16⟩
/-- LANIZA_STATUS.up_state (R323). -/
def LANIZA_STATUS_up_state : Fld := ⟨0x9008, 1, 0⟩
/-- LANIZA_STATUS.down_state (R323). -/
def LANIZA_STATUS_down_state : Fld := ⟨0x9008, 3, 2⟩
/-- LANIZA_STATUS.head_pin (R323). -/
def LANIZA_STATUS_head_pin : Fld := ⟨0x9008, 4, 4⟩
/-- LANIZA_STATUS.walk_busy (R323). -/
def LANIZA_STATUS_walk_busy : Fld := ⟨0x9008, 5, 5⟩
/-- LANIZA_STATUS.no_head (R323). -/
def LANIZA_STATUS_no_head : Fld := ⟨0x9008, 6, 6⟩
/-- LANIZA_STATUS.dup_head (R323). -/
def LANIZA_STATUS_dup_head : Fld := ⟨0x9008, 7, 7⟩
/-- LANIZA_STATUS.too_many (R323). -/
def LANIZA_STATUS_too_many : Fld := ⟨0x9008, 8, 8⟩
/-- LANIZA_STATUS.no_common_gen (R323). -/
def LANIZA_STATUS_no_common_gen : Fld := ⟨0x9008, 9, 9⟩
/-- LANIZA_STATUS.dup_addr (R323). -/
def LANIZA_STATUS_dup_addr : Fld := ⟨0x9008, 10, 10⟩
/-- LANIZA_STATUS.chain_abort (R323). -/
def LANIZA_STATUS_chain_abort : Fld := ⟨0x9008, 11, 11⟩
/-- LANIZA_GEN.own_floor (R323). -/
def LANIZA_GEN_own_floor : Fld := ⟨0x900c, 7, 0⟩
/-- LANIZA_GEN.own_max (R323). -/
def LANIZA_GEN_own_max : Fld := ⟨0x900c, 15, 8⟩
/-- LANIZA_GEN.op_gen (R323). -/
def LANIZA_GEN_op_gen : Fld := ⟨0x900c, 23, 16⟩
/-- HASP_CTL.mute (R349). -/
def HASP_CTL_mute : Fld := ⟨0xa000, 0, 0⟩
/-- HASP_CTL.settle_ms (R349). -/
def HASP_CTL_settle_ms : Fld := ⟨0xa000, 15, 8⟩
/-- HASP_STATUS.muted (R349). -/
def HASP_STATUS_muted : Fld := ⟨0xa004, 0, 0⟩
/-- HASP_STATUS.pin (R349). -/
def HASP_STATUS_pin : Fld := ⟨0xa004, 1, 1⟩
/-- HASP_STATUS.pin_changed (R349). -/
def HASP_STATUS_pin_changed : Fld := ⟨0xa004, 2, 2⟩
/-- HASP_STATUS.unmute_refused (R349). -/
def HASP_STATUS_unmute_refused : Fld := ⟨0xa004, 3, 3⟩
/-- PDM_GRP.enable (R349), of number `i`. -/
def PDM_GRP_enable (i : Nat) : Fld := ⟨0xa010 + 0x4 * i, 0, 0⟩
/-- PDM_GRP.rate (R349), of number `i`. -/
def PDM_GRP_rate (i : Nat) : Fld := ⟨0xa010 + 0x4 * i, 1, 1⟩
/-- PDM_GRP.decim (R349), of number `i`. -/
def PDM_GRP_decim (i : Nat) : Fld := ⟨0xa010 + 0x4 * i, 10, 2⟩
/-- PDM_GRP.mic_en (R349), of number `i`. -/
def PDM_GRP_mic_en (i : Nat) : Fld := ⟨0xa010 + 0x4 * i, 31, 16⟩
/-- WAKE_CFG.enable (R349). -/
def WAKE_CFG_enable : Fld := ⟨0xa018, 0, 0⟩
/-- WAKE_CFG.mic_a (R349). -/
def WAKE_CFG_mic_a : Fld := ⟨0xa018, 4, 1⟩
/-- WAKE_CFG.mic_b (R349). -/
def WAKE_CFG_mic_b : Fld := ⟨0xa018, 8, 5⟩
/-- WAKE_CFG.irq (R349). -/
def WAKE_CFG_irq : Fld := ⟨0xa018, 9, 9⟩
/-- WAKE_CFG.vector (R349). -/
def WAKE_CFG_vector : Fld := ⟨0xa018, 20, 10⟩
/-- VLD_CFG.snr (R349). -/
def VLD_CFG_snr : Fld := ⟨0xa01c, 7, 0⟩
/-- VLD_CFG.harm (R349). -/
def VLD_CFG_harm : Fld := ⟨0xa01c, 15, 8⟩
/-- VLD_CFG.vld_min (R349). -/
def VLD_CFG_vld_min : Fld := ⟨0xa01c, 18, 16⟩
/-- VLD_CFG.lookback (R349). -/
def VLD_CFG_lookback : Fld := ⟨0xa01c, 31, 24⟩
/-- KW_CFG.thresh (R349). -/
def KW_CFG_thresh : Fld := ⟨0xa020, 15, 0⟩
/-- KW_CFG.window (R349). -/
def KW_CFG_window : Fld := ⟨0xa020, 23, 16⟩
/-- VERIFY_CFG.thresh (R349). -/
def VERIFY_CFG_thresh : Fld := ⟨0xa024, 15, 0⟩
/-- VERIFY_CFG.budget (R349). -/
def VERIFY_CFG_budget : Fld := ⟨0xa024, 23, 16⟩
/-- SPOOL_CFG.base (R349). -/
def SPOOL_CFG_base : Fld := ⟨0xa028, 15, 0⟩
/-- SPOOL_CFG.size (R349). -/
def SPOOL_CFG_size : Fld := ⟨0xa028, 31, 16⟩
/-- VERIFY_BASE.base (R349). -/
def VERIFY_BASE_base : Fld := ⟨0xa02c, 15, 0⟩
/-- VERIFY_BASE.length (R349). -/
def VERIFY_BASE_length : Fld := ⟨0xa02c, 31, 16⟩
/-- VERIFY_SRC_LO.src_lo (R349). -/
def VERIFY_SRC_LO_src_lo : Fld := ⟨0xa030, 31, 0⟩
/-- VERIFY_SRC_HI.src_hi (R349). -/
def VERIFY_SRC_HI_src_hi : Fld := ⟨0xa034, 31, 0⟩
/-- VERIFY_CTL.load (R349). -/
def VERIFY_CTL_load : Fld := ⟨0xa038, 0, 0⟩
/-- WAKE_STATUS.stage (R349). -/
def WAKE_STATUS_stage : Fld := ⟨0xa03c, 1, 0⟩
/-- WAKE_STATUS.image_bad (R349). -/
def WAKE_STATUS_image_bad : Fld := ⟨0xa03c, 2, 2⟩
/-- WAKE_STATUS.spool_overflow (R349). -/
def WAKE_STATUS_spool_overflow : Fld := ⟨0xa03c, 3, 3⟩
/-- WAKE_STATUS.cfg_err (R349). -/
def WAKE_STATUS_cfg_err : Fld := ⟨0xa03c, 4, 4⟩
/-- WAKE_STATUS.fifo (R349). -/
def WAKE_STATUS_fifo : Fld := ⟨0xa03c, 20, 16⟩
/-- WAKE_SAMPLE_LO.sample_lo (R349). -/
def WAKE_SAMPLE_LO_sample_lo : Fld := ⟨0xa040, 31, 0⟩
/-- WAKE_SAMPLE_HI.sample_hi (R349). -/
def WAKE_SAMPLE_HI_sample_hi : Fld := ⟨0xa044, 15, 0⟩
/-- ARING_LO.order (R349), of number `i`. -/
def ARING_LO_order (i : Nat) : Fld := ⟨0xa050 + 0x10 * i, 4, 0⟩
/-- ARING_LO.base_lo (R349), of number `i`. -/
def ARING_LO_base_lo (i : Nat) : Fld := ⟨0xa050 + 0x10 * i, 31, 12⟩
/-- ARING_HI.base_hi (R349), of number `i`. -/
def ARING_HI_base_hi (i : Nat) : Fld := ⟨0xa054 + 0x10 * i, 31, 0⟩
/-- ARING_IDX.head (R349), of number `i`. -/
def ARING_IDX_head (i : Nat) : Fld := ⟨0xa058 + 0x10 * i, 15, 0⟩
/-- ARING_IDX.tail (R349), of number `i`. -/
def ARING_IDX_tail (i : Nat) : Fld := ⟨0xa058 + 0x10 * i, 31, 16⟩
/-- ARING_CTL.start (R349), of number `i`. -/
def ARING_CTL_start (i : Nat) : Fld := ⟨0xa05c + 0x10 * i, 0, 0⟩
/-- ARING_CTL.stop (R349), of number `i`. -/
def ARING_CTL_stop (i : Nat) : Fld := ⟨0xa05c + 0x10 * i, 1, 1⟩
/-- ARING_CTL.running (R349), of number `i`. -/
def ARING_CTL_running (i : Nat) : Fld := ⟨0xa05c + 0x10 * i, 2, 2⟩
/-- CAM_CTL.enable (R368). -/
def CAM_CTL_enable : Fld := ⟨0xb000, 0, 0⟩
/-- CAM_CTL.stats_en (R368). -/
def CAM_CTL_stats_en : Fld := ⟨0xb000, 1, 1⟩
/-- CAM_CTL.stats_irq (R368). -/
def CAM_CTL_stats_irq : Fld := ⟨0xb000, 2, 2⟩
/-- CAM_CTL.vector (R368). -/
def CAM_CTL_vector : Fld := ⟨0xb000, 13, 3⟩
/-- CAM_CTL.frame_timeout (R368). -/
def CAM_CTL_frame_timeout : Fld := ⟨0xb000, 31, 16⟩
/-- CAM_STATUS.cfg_err (R368). -/
def CAM_STATUS_cfg_err : Fld := ⟨0xb004, 0, 0⟩
/-- CAM_PORT.enable (R368), of number `i`. -/
def CAM_PORT_enable (i : Nat) : Fld := ⟨0xb010 + 0x4 * i, 0, 0⟩
/-- CAM_PORT.lanes (R368), of number `i`. -/
def CAM_PORT_lanes (i : Nat) : Fld := ⟨0xb010 + 0x4 * i, 2, 1⟩
/-- CAM_PORT.merged (R368), of number `i`. -/
def CAM_PORT_merged (i : Nat) : Fld := ⟨0xb010 + 0x4 * i, 3, 3⟩
/-- CAM_PORT.lane_map (R368), of number `i`. -/
def CAM_PORT_lane_map (i : Nat) : Fld := ⟨0xb010 + 0x4 * i, 11, 4⟩
/-- CAM_PORT.invert (R368), of number `i`. -/
def CAM_PORT_invert (i : Nat) : Fld := ⟨0xb010 + 0x4 * i, 15, 12⟩
/-- CAM_PORT.state (R368), of number `i`. -/
def CAM_PORT_state (i : Nat) : Fld := ⟨0xb010 + 0x4 * i, 17, 16⟩
/-- CAM_STATS_LO.order (R368). -/
def CAM_STATS_LO_order : Fld := ⟨0xb020, 4, 0⟩
/-- CAM_STATS_LO.base_lo (R368). -/
def CAM_STATS_LO_base_lo : Fld := ⟨0xb020, 31, 14⟩
/-- CAM_STATS_HI.base_hi (R368). -/
def CAM_STATS_HI_base_hi : Fld := ⟨0xb024, 31, 0⟩
/-- CAM_STATS_IDX.head (R368). -/
def CAM_STATS_IDX_head : Fld := ⟨0xb028, 15, 0⟩
/-- CAM_STATS_IDX.tail (R368). -/
def CAM_STATS_IDX_tail : Fld := ⟨0xb028, 31, 16⟩
/-- CAM_GAMMA_END.end0 (R368). -/
def CAM_GAMMA_END_end0 : Fld := ⟨0xb02c, 15, 0⟩
/-- CAM_GAMMA_END.end1 (R368). -/
def CAM_GAMMA_END_end1 : Fld := ⟨0xb02c, 31, 16⟩
/-- CAM_LS_SRC.enable (R368), of number `i`. -/
def CAM_LS_SRC_enable (i : Nat) : Fld := ⟨0xb100 + 0x40 * i, 0, 0⟩
/-- CAM_LS_SRC.port (R368), of number `i`. -/
def CAM_LS_SRC_port (i : Nat) : Fld := ⟨0xb100 + 0x40 * i, 2, 1⟩
/-- CAM_LS_SRC.vc (R368), of number `i`. -/
def CAM_LS_SRC_vc (i : Nat) : Fld := ⟨0xb100 + 0x40 * i, 6, 3⟩
/-- CAM_LS_SRC.type (R368), of number `i`. -/
def CAM_LS_SRC_type (i : Nat) : Fld := ⟨0xb100 + 0x40 * i, 9, 7⟩
/-- CAM_LS_SRC.bayer (R368), of number `i`. -/
def CAM_LS_SRC_bayer (i : Nat) : Fld := ⟨0xb100 + 0x40 * i, 11, 10⟩
/-- CAM_LS_SRC.pipe (R368), of number `i`. -/
def CAM_LS_SRC_pipe (i : Nat) : Fld := ⟨0xb100 + 0x40 * i, 12, 12⟩
/-- CAM_LS_SRC.snr_en (R368), of number `i`. -/
def CAM_LS_SRC_snr_en (i : Nat) : Fld := ⟨0xb100 + 0x40 * i, 13, 13⟩
/-- CAM_LS_SRC.snr_k (R368), of number `i`. -/
def CAM_LS_SRC_snr_k (i : Nat) : Fld := ⟨0xb100 + 0x40 * i, 21, 14⟩
/-- CAM_LS_SRC.fp16 (R368), of number `i`. -/
def CAM_LS_SRC_fp16 (i : Nat) : Fld := ⟨0xb100 + 0x40 * i, 22, 22⟩
/-- CAM_LS_SRC.sat (R368), of number `i`. -/
def CAM_LS_SRC_sat (i : Nat) : Fld := ⟨0xb100 + 0x40 * i, 31, 23⟩
/-- CAM_LS_CROP0.x0 (R368), of number `i`. -/
def CAM_LS_CROP0_x0 (i : Nat) : Fld := ⟨0xb104 + 0x40 * i, 15, 0⟩
/-- CAM_LS_CROP0.y0 (R368), of number `i`. -/
def CAM_LS_CROP0_y0 (i : Nat) : Fld := ⟨0xb104 + 0x40 * i, 31, 16⟩
/-- CAM_LS_CROP1.w (R368), of number `i`. -/
def CAM_LS_CROP1_w (i : Nat) : Fld := ⟨0xb108 + 0x40 * i, 15, 0⟩
/-- CAM_LS_CROP1.h (R368), of number `i`. -/
def CAM_LS_CROP1_h (i : Nat) : Fld := ⟨0xb108 + 0x40 * i, 31, 16⟩
/-- CAM_LS_OUT.w (R368), of number `i`. -/
def CAM_LS_OUT_w (i : Nat) : Fld := ⟨0xb10c + 0x40 * i, 15, 0⟩
/-- CAM_LS_OUT.h (R368), of number `i`. -/
def CAM_LS_OUT_h (i : Nat) : Fld := ⟨0xb10c + 0x40 * i, 31, 16⟩
/-- CAM_LS_TNR.tnr_en (R368), of number `i`. -/
def CAM_LS_TNR_tnr_en (i : Nat) : Fld := ⟨0xb110 + 0x40 * i, 0, 0⟩
/-- CAM_LS_TNR.base (R368), of number `i`. -/
def CAM_LS_TNR_base (i : Nat) : Fld := ⟨0xb110 + 0x40 * i, 6, 1⟩
/-- CAM_LS_TNR.units (R368), of number `i`. -/
def CAM_LS_TNR_units (i : Nat) : Fld := ⟨0xb110 + 0x40 * i, 13, 7⟩
/-- CAM_LS_TNR.tnr_floor (R368), of number `i`. -/
def CAM_LS_TNR_tnr_floor (i : Nat) : Fld := ⟨0xb110 + 0x40 * i, 22, 14⟩
/-- CAM_LS_TNR.tnr_gain (R368), of number `i`. -/
def CAM_LS_TNR_tnr_gain (i : Nat) : Fld := ⟨0xb110 + 0x40 * i, 31, 23⟩
/-- CAM_LS_BL0.bl_lo (R368), of number `i`. -/
def CAM_LS_BL0_bl_lo (i : Nat) : Fld := ⟨0xb114 + 0x40 * i, 15, 0⟩
/-- CAM_LS_BL0.bl_hi (R368), of number `i`. -/
def CAM_LS_BL0_bl_hi (i : Nat) : Fld := ⟨0xb114 + 0x40 * i, 31, 16⟩
/-- CAM_LS_BL1.bl_lo (R368), of number `i`. -/
def CAM_LS_BL1_bl_lo (i : Nat) : Fld := ⟨0xb118 + 0x40 * i, 15, 0⟩
/-- CAM_LS_BL1.bl_hi (R368), of number `i`. -/
def CAM_LS_BL1_bl_hi (i : Nat) : Fld := ⟨0xb118 + 0x40 * i, 31, 16⟩
/-- CAM_LS_RANGE0.range_lo (R368), of number `i`. -/
def CAM_LS_RANGE0_range_lo (i : Nat) : Fld := ⟨0xb11c + 0x40 * i, 15, 0⟩
/-- CAM_LS_RANGE0.range_hi (R368), of number `i`. -/
def CAM_LS_RANGE0_range_hi (i : Nat) : Fld := ⟨0xb11c + 0x40 * i, 31, 16⟩
/-- CAM_LS_RANGE1.range_lo (R368), of number `i`. -/
def CAM_LS_RANGE1_range_lo (i : Nat) : Fld := ⟨0xb120 + 0x40 * i, 15, 0⟩
/-- CAM_LS_RANGE1.range_hi (R368), of number `i`. -/
def CAM_LS_RANGE1_range_hi (i : Nat) : Fld := ⟨0xb120 + 0x40 * i, 31, 16⟩
/-- CAM_LS_WB0.gain_r (R368), of number `i`. -/
def CAM_LS_WB0_gain_r (i : Nat) : Fld := ⟨0xb124 + 0x40 * i, 15, 0⟩
/-- CAM_LS_WB0.gain_g (R368), of number `i`. -/
def CAM_LS_WB0_gain_g (i : Nat) : Fld := ⟨0xb124 + 0x40 * i, 31, 16⟩
/-- CAM_LS_WB1.gain_b (R368), of number `i`. -/
def CAM_LS_WB1_gain_b (i : Nat) : Fld := ⟨0xb128 + 0x40 * i, 15, 0⟩
/-- CAM_LS_CCM0.m_lo (R368), of number `i`. -/
def CAM_LS_CCM0_m_lo (i : Nat) : Fld := ⟨0xb12c + 0x40 * i, 15, 0⟩
/-- CAM_LS_CCM0.m_hi (R368), of number `i`. -/
def CAM_LS_CCM0_m_hi (i : Nat) : Fld := ⟨0xb12c + 0x40 * i, 31, 16⟩
/-- CAM_LS_CCM1.m_lo (R368), of number `i`. -/
def CAM_LS_CCM1_m_lo (i : Nat) : Fld := ⟨0xb130 + 0x40 * i, 15, 0⟩
/-- CAM_LS_CCM1.m_hi (R368), of number `i`. -/
def CAM_LS_CCM1_m_hi (i : Nat) : Fld := ⟨0xb130 + 0x40 * i, 31, 16⟩
/-- CAM_LS_CCM2.m_lo (R368), of number `i`. -/
def CAM_LS_CCM2_m_lo (i : Nat) : Fld := ⟨0xb134 + 0x40 * i, 15, 0⟩
/-- CAM_LS_CCM2.m_hi (R368), of number `i`. -/
def CAM_LS_CCM2_m_hi (i : Nat) : Fld := ⟨0xb134 + 0x40 * i, 31, 16⟩
/-- CAM_LS_CCM3.m_lo (R368), of number `i`. -/
def CAM_LS_CCM3_m_lo (i : Nat) : Fld := ⟨0xb138 + 0x40 * i, 15, 0⟩
/-- CAM_LS_CCM3.m_hi (R368), of number `i`. -/
def CAM_LS_CCM3_m_hi (i : Nat) : Fld := ⟨0xb138 + 0x40 * i, 31, 16⟩
/-- CAM_LS_CCM4.m_lo (R368), of number `i`. -/
def CAM_LS_CCM4_m_lo (i : Nat) : Fld := ⟨0xb13c + 0x40 * i, 15, 0⟩
/-- CAM_LS_OWNER.pasid (R368), of number `i`. -/
def CAM_LS_OWNER_pasid (i : Nat) : Fld := ⟨0xb600 + 0x4 * i, 19, 0⟩
/-- CAM_GAMMA.entry_lo (R368), of number `i`. -/
def CAM_GAMMA_entry_lo (i : Nat) : Fld := ⟨0xb800 + 0x4 * i, 15, 0⟩
/-- CAM_GAMMA.entry_hi (R368), of number `i`. -/
def CAM_GAMMA_entry_hi (i : Nat) : Fld := ⟨0xb800 + 0x4 * i, 31, 16⟩
/-- I3C_CTL.enable (R368), of number `i`. -/
def I3C_CTL_enable (i : Nat) : Fld := ⟨0xbe00 + 0x40 * i, 0, 0⟩
/-- I3C_CTL.rate (R368), of number `i`. -/
def I3C_CTL_rate (i : Nat) : Fld := ⟨0xbe00 + 0x40 * i, 2, 1⟩
/-- I3C_CMD.addr (R368), of number `i`. -/
def I3C_CMD_addr (i : Nat) : Fld := ⟨0xbe04 + 0x40 * i, 6, 0⟩
/-- I3C_CMD.read (R368), of number `i`. -/
def I3C_CMD_read (i : Nat) : Fld := ⟨0xbe04 + 0x40 * i, 7, 7⟩
/-- I3C_CMD.length (R368), of number `i`. -/
def I3C_CMD_length (i : Nat) : Fld := ⟨0xbe04 + 0x40 * i, 15, 8⟩
/-- I3C_CMD.stop (R368), of number `i`. -/
def I3C_CMD_stop (i : Nat) : Fld := ⟨0xbe04 + 0x40 * i, 16, 16⟩
/-- I3C_CMD.legacy (R368), of number `i`. -/
def I3C_CMD_legacy (i : Nat) : Fld := ⟨0xbe04 + 0x40 * i, 17, 17⟩
/-- I3C_CMD.ccc (R368), of number `i`. -/
def I3C_CMD_ccc (i : Nat) : Fld := ⟨0xbe04 + 0x40 * i, 18, 18⟩
/-- I3C_CMD.at_fs (R368), of number `i`. -/
def I3C_CMD_at_fs (i : Nat) : Fld := ⟨0xbe04 + 0x40 * i, 19, 19⟩
/-- I3C_CMD.sensor (R368), of number `i`. -/
def I3C_CMD_sensor (i : Nat) : Fld := ⟨0xbe04 + 0x40 * i, 23, 20⟩
/-- I3C_DATA.data (R368), of number `i`. -/
def I3C_DATA_data (i : Nat) : Fld := ⟨0xbe08 + 0x40 * i, 31, 0⟩
/-- I3C_STAT.busy (R368), of number `i`. -/
def I3C_STAT_busy (i : Nat) : Fld := ⟨0xbe0c + 0x40 * i, 0, 0⟩
/-- I3C_STAT.err (R368), of number `i`. -/
def I3C_STAT_err (i : Nat) : Fld := ⟨0xbe0c + 0x40 * i, 1, 1⟩
/-- I3C_STAT.ibi (R368), of number `i`. -/
def I3C_STAT_ibi (i : Nat) : Fld := ⟨0xbe0c + 0x40 * i, 2, 2⟩
/-- I3C_STAT.hot_join (R368), of number `i`. -/
def I3C_STAT_hot_join (i : Nat) : Fld := ⟨0xbe0c + 0x40 * i, 3, 3⟩
/-- I3C_STAT.cmd_free (R368), of number `i`. -/
def I3C_STAT_cmd_free (i : Nat) : Fld := ⟨0xbe0c + 0x40 * i, 7, 4⟩
/-- I3C_STAT.rx_count (R368), of number `i`. -/
def I3C_STAT_rx_count (i : Nat) : Fld := ⟨0xbe0c + 0x40 * i, 14, 8⟩
/-- I3C_IBI.addr (R368), of number `i`. -/
def I3C_IBI_addr (i : Nat) : Fld := ⟨0xbe10 + 0x40 * i, 6, 0⟩
/-- I3C_IBI.payload (R368), of number `i`. -/
def I3C_IBI_payload (i : Nat) : Fld := ⟨0xbe10 + 0x40 * i, 31, 8⟩
/-- STRIKE_CTL.arm (R461). -/
def STRIKE_CTL_arm : Fld := ⟨0xc000, 0, 0⟩
/-- STRIKE_CTL.fire (R461). -/
def STRIKE_CTL_fire : Fld := ⟨0xc000, 1, 1⟩
/-- STRIKE_CTL.pin_en (R461). -/
def STRIKE_CTL_pin_en : Fld := ⟨0xc000, 2, 2⟩
/-- STRIKE_CTL.fault_en (R461). -/
def STRIKE_CTL_fault_en : Fld := ⟨0xc000, 3, 3⟩
/-- STRIKE_CTL.thresh_en (R461). -/
def STRIKE_CTL_thresh_en : Fld := ⟨0xc000, 4, 4⟩
/-- STRIKE_CTL.out_en (R461). -/
def STRIKE_CTL_out_en : Fld := ⟨0xc000, 5, 5⟩
/-- STRIKE_CTL.clear_on_strike (R461). -/
def STRIKE_CTL_clear_on_strike : Fld := ⟨0xc000, 6, 6⟩
/-- STRIKE_STATUS.armed (R461). -/
def STRIKE_STATUS_armed : Fld := ⟨0xc004, 0, 0⟩
/-- STRIKE_STATUS.busy (R461). -/
def STRIKE_STATUS_busy : Fld := ⟨0xc004, 1, 1⟩
/-- STRIKE_STATUS.complete (R461). -/
def STRIKE_STATUS_complete : Fld := ⟨0xc004, 2, 2⟩
/-- STRIKE_STATUS.source (R461). -/
def STRIKE_STATUS_source : Fld := ⟨0xc004, 11, 8⟩
/-- STRIKE_STATUS.origin (R461). -/
def STRIKE_STATUS_origin : Fld := ⟨0xc004, 19, 12⟩
/-- STRIKE_STATUS.latched (R461). -/
def STRIKE_STATUS_latched : Fld := ⟨0xc004, 27, 20⟩
/-- STRIKE_COUNT.fired (R461). -/
def STRIKE_COUNT_fired : Fld := ⟨0xc008, 15, 0⟩
/-- STRIKE_COUNT.missed (R461). -/
def STRIKE_COUNT_missed : Fld := ⟨0xc008, 31, 16⟩
/-- STRIKE_ERR.index (R461). -/
def STRIKE_ERR_index : Fld := ⟨0xc00c, 31, 0⟩
/-- CNT_SELECT.id (R461). -/
def CNT_SELECT_id : Fld := ⟨0xc010, 7, 0⟩
/-- CNT_SELECT.instance (R461). -/
def CNT_SELECT_instance : Fld := ⟨0xc010, 19, 8⟩
/-- CNT_LIVE_LO.value_lo (R461). -/
def CNT_LIVE_LO_value_lo : Fld := ⟨0xc014, 31, 0⟩
/-- CNT_LIVE_HI.value_hi (R461). -/
def CNT_LIVE_HI_value_hi : Fld := ⟨0xc018, 15, 0⟩
/-- CNT_SNAP_LO.value_lo (R461). -/
def CNT_SNAP_LO_value_lo : Fld := ⟨0xc01c, 31, 0⟩
/-- CNT_SNAP_HI.value_hi (R461). -/
def CNT_SNAP_HI_value_hi : Fld := ⟨0xc020, 15, 0⟩
/-- THRESH_SEL.counter (R461), of number `i`. -/
def THRESH_SEL_counter (i : Nat) : Fld := ⟨0xc040 + 0x10 * i, 19, 0⟩
/-- THRESH_LO.value_lo (R461), of number `i`. -/
def THRESH_LO_value_lo (i : Nat) : Fld := ⟨0xc044 + 0x10 * i, 31, 0⟩
/-- THRESH_HI.value_hi (R461), of number `i`. -/
def THRESH_HI_value_hi (i : Nat) : Fld := ⟨0xc048 + 0x10 * i, 15, 0⟩
/-- SNAP_SELECT.island (R461). -/
def SNAP_SELECT_island : Fld := ⟨0xc100, 7, 0⟩
/-- CONF_MODE.enable (R432). -/
def CONF_MODE_enable : Fld := ⟨0xd000, 0, 0⟩
/-- CONF_MODE.fused (R432). -/
def CONF_MODE_fused : Fld := ⟨0xd000, 1, 1⟩
/-- FUSE_STATE.counter (R432). -/
def FUSE_STATE_counter : Fld := ⟨0xd004, 6, 0⟩
/-- FUSE_STATE.slot0_revoked (R432). -/
def FUSE_STATE_slot0_revoked : Fld := ⟨0xd004, 8, 8⟩
/-- FUSE_STATE.slot1_revoked (R432). -/
def FUSE_STATE_slot1_revoked : Fld := ⟨0xd004, 9, 9⟩
/-- SEC_CTL.raise_arm (R432). -/
def SEC_CTL_raise_arm : Fld := ⟨0xd008, 0, 0⟩
/-- ATTEST_CTL.go (R432). -/
def ATTEST_CTL_go : Fld := ⟨0xd010, 0, 0⟩
/-- ATTEST_CTL.busy (R432). -/
def ATTEST_CTL_busy : Fld := ⟨0xd010, 1, 1⟩
/-- ATTEST_CTL.done (R432). -/
def ATTEST_CTL_done : Fld := ⟨0xd010, 2, 2⟩
/-- ATTEST_BUF_LO.base_lo (R432). -/
def ATTEST_BUF_LO_base_lo : Fld := ⟨0xd014, 31, 10⟩
/-- ATTEST_BUF_HI.base_hi (R432). -/
def ATTEST_BUF_HI_base_hi : Fld := ⟨0xd018, 31, 0⟩
/-- ATTEST_CERT_LEN.bytes (R432). -/
def ATTEST_CERT_LEN_bytes : Fld := ⟨0xd01c, 11, 0⟩
/-- ATTEST_NONCE.nonce (R432), of number `i`. -/
def ATTEST_NONCE_nonce (i : Nat) : Fld := ⟨0xd040 + 0x4 * i, 31, 0⟩
/-- ERR_CTL.mirror (R446). -/
def ERR_CTL_mirror : Fld := ⟨0xe000, 0, 0⟩
/-- ERR_CTL.irq (R446). -/
def ERR_CTL_irq : Fld := ⟨0xe000, 1, 1⟩
/-- ERR_CTL.vector (R446). -/
def ERR_CTL_vector : Fld := ⟨0xe000, 12, 2⟩
/-- ERR_CTL.latch_after (R446). -/
def ERR_CTL_latch_after : Fld := ⟨0xe000, 15, 13⟩
/-- ERR_STATUS.lost (R446). -/
def ERR_STATUS_lost : Fld := ⟨0xe004, 15, 0⟩
/-- ERR_STATUS.latch_run (R446). -/
def ERR_STATUS_latch_run : Fld := ⟨0xe004, 18, 16⟩
/-- ERR_NEXT.index (R446). -/
def ERR_NEXT_index : Fld := ⟨0xe008, 31, 0⟩
/-- WARD_FENCE.fenced (R446). -/
def WARD_FENCE_fenced : Fld := ⟨0xe00c, 15, 0⟩
/-- WARD_FENCE.clock (R446). -/
def WARD_FENCE_clock : Fld := ⟨0xe00c, 31, 16⟩
/-- ERR_RING_LO.order (R446). -/
def ERR_RING_LO_order : Fld := ⟨0xe010, 4, 0⟩
/-- ERR_RING_LO.base_lo (R446). -/
def ERR_RING_LO_base_lo : Fld := ⟨0xe010, 31, 12⟩
/-- ERR_RING_HI.base_hi (R446). -/
def ERR_RING_HI_base_hi : Fld := ⟨0xe014, 31, 0⟩
/-- ERR_RING_IDX.head (R446). -/
def ERR_RING_IDX_head : Fld := ⟨0xe018, 15, 0⟩
/-- ERR_RING_IDX.tail (R446). -/
def ERR_RING_IDX_tail : Fld := ⟨0xe018, 31, 16⟩
/-- WARD_STATUS.state (R470), of number `i`. -/
def WARD_STATUS_state (i : Nat) : Fld := ⟨0x10000 + 0x1000 * i, 2, 0⟩
/-- WARD_STATUS.level (R470), of number `i`. -/
def WARD_STATUS_level (i : Nat) : Fld := ⟨0x10000 + 0x1000 * i, 5, 3⟩
/-- WARD_STATUS.therm_level (R470), of number `i`. -/
def WARD_STATUS_therm_level (i : Nat) : Fld := ⟨0x10000 + 0x1000 * i, 8, 6⟩
/-- WARD_STATUS.hosted (R470), of number `i`. -/
def WARD_STATUS_hosted (i : Nat) : Fld := ⟨0x10000 + 0x1000 * i, 9, 9⟩
/-- WARD_STATUS.lead_ward (R470), of number `i`. -/
def WARD_STATUS_lead_ward (i : Nat) : Fld := ⟨0x10000 + 0x1000 * i, 13, 10⟩
/-- WARD_STATUS.replay (R470), of number `i`. -/
def WARD_STATUS_replay (i : Nat) : Fld := ⟨0x10000 + 0x1000 * i, 14, 14⟩
/-- WARD_STATUS.hold (R470), of number `i`. -/
def WARD_STATUS_hold (i : Nat) : Fld := ⟨0x10000 + 0x1000 * i, 15, 15⟩
/-- WARD_STATUS.handle (R470), of number `i`. -/
def WARD_STATUS_handle (i : Nat) : Fld := ⟨0x10000 + 0x1000 * i, 27, 16⟩
/-- WARD_STATUS.lists_valid (R470), of number `i`. -/
def WARD_STATUS_lists_valid (i : Nat) : Fld := ⟨0x10000 + 0x1000 * i, 28, 28⟩
/-- WARD_STEP_LO.step_lo (R470), of number `i`. -/
def WARD_STEP_LO_step_lo (i : Nat) : Fld := ⟨0x10004 + 0x1000 * i, 31, 0⟩
/-- WARD_STEP_HI.step_hi (R470), of number `i`. -/
def WARD_STEP_HI_step_hi (i : Nat) : Fld := ⟨0x10008 + 0x1000 * i, 15, 0⟩
/-- WARD_STEP_HI.round (R470), of number `i`. -/
def WARD_STEP_HI_round (i : Nat) : Fld := ⟨0x10008 + 0x1000 * i, 31, 16⟩
/-- WARD_WS_ERR.line (R470), of number `i`. -/
def WARD_WS_ERR_line (i : Nat) : Fld := ⟨0x1000c + 0x1000 * i, 15, 0⟩
/-- WARD_WS_ERR.valid (R470), of number `i`. -/
def WARD_WS_ERR_valid (i : Nat) : Fld := ⟨0x1000c + 0x1000 * i, 31, 31⟩
/-- CYL_STATUS.suspect_count (R79), of number `i`. -/
def CYL_STATUS_suspect_count (i : Nat) : Fld := ⟨0x20000 + 0x400 * i, 1, 0⟩
/-- CYL_STATUS.replay_active (R79), of number `i`. -/
def CYL_STATUS_replay_active (i : Nat) : Fld := ⟨0x20000 + 0x400 * i, 2, 2⟩
/-- CYL_STATUS.tumbler_on (R79), of number `i`. -/
def CYL_STATUS_tumbler_on (i : Nat) : Fld := ⟨0x20000 + 0x400 * i, 6, 3⟩
/-- CYL_STATUS.drain_full (R79), of number `i`. -/
def CYL_STATUS_drain_full (i : Nat) : Fld := ⟨0x20000 + 0x400 * i, 7, 7⟩
/-- CYL_LEVEL.level (R471), of number `i`. -/
def CYL_LEVEL_level (i : Nat) : Fld := ⟨0x20004 + 0x400 * i, 2, 0⟩
/-- CYL_LEVEL.therm_level (R471), of number `i`. -/
def CYL_LEVEL_therm_level (i : Nat) : Fld := ⟨0x20004 + 0x400 * i, 5, 3⟩
/-- CYL_LEVEL.temp (R471), of number `i`. -/
def CYL_LEVEL_temp (i : Nat) : Fld := ⟨0x20004 + 0x400 * i, 13, 6⟩
/-- CYL_TILE_ERR.tumbler (R79), of number `i`. -/
def CYL_TILE_ERR_tumbler (i : Nat) : Fld := ⟨0x20008 + 0x400 * i, 8, 0⟩
/-- CYL_TILE_ERR.line (R79), of number `i`. -/
def CYL_TILE_ERR_line (i : Nat) : Fld := ⟨0x20008 + 0x400 * i, 16, 9⟩
/-- CYL_TILE_ERR.line_kind (R79), of number `i`. -/
def CYL_TILE_ERR_line_kind (i : Nat) : Fld := ⟨0x20008 + 0x400 * i, 18, 17⟩
/-- CYL_TILE_ERR.replay_failed (R79), of number `i`. -/
def CYL_TILE_ERR_replay_failed (i : Nat) : Fld := ⟨0x20008 + 0x400 * i, 19, 19⟩
/-- CYL_TILE_ERR.overrun (R79), of number `i`. -/
def CYL_TILE_ERR_overrun (i : Nat) : Fld := ⟨0x20008 + 0x400 * i, 20, 20⟩
/-- CYL_TILE_ERR.valid (R79), of number `i`. -/
def CYL_TILE_ERR_valid (i : Nat) : Fld := ⟨0x20008 + 0x400 * i, 31, 31⟩
/-- CYL_SP_ERR.line (R471), of number `i`. -/
def CYL_SP_ERR_line (i : Nat) : Fld := ⟨0x2000c + 0x400 * i, 14, 0⟩
/-- CYL_SP_ERR.valid (R471), of number `i`. -/
def CYL_SP_ERR_valid (i : Nat) : Fld := ⟨0x2000c + 0x400 * i, 31, 31⟩
/-- LANE_CTL.reserve (R263), of number `i`. -/
def LANE_CTL_reserve (i : Nat) : Fld := ⟨0x40000 + 0x100 * i, 0, 0⟩
/-- LANE_CTL.ward (R263), of number `i`. -/
def LANE_CTL_ward (i : Nat) : Fld := ⟨0x40000 + 0x100 * i, 4, 1⟩
/-- LANE_CTL.context (R263), of number `i`. -/
def LANE_CTL_context (i : Nat) : Fld := ⟨0x40000 + 0x100 * i, 16, 5⟩
/-- LANE_CTL.miss_irq (R263), of number `i`. -/
def LANE_CTL_miss_irq (i : Nat) : Fld := ⟨0x40000 + 0x100 * i, 17, 17⟩
/-- LANE_CTL.miss_vector (R263), of number `i`. -/
def LANE_CTL_miss_vector (i : Nat) : Fld := ⟨0x40000 + 0x100 * i, 28, 18⟩
/-- LANE_STATUS.state (R263), of number `i`. -/
def LANE_STATUS_state (i : Nat) : Fld := ⟨0x40004 + 0x100 * i, 1, 0⟩
/-- LANE_STATUS.cfg_err (R263), of number `i`. -/
def LANE_STATUS_cfg_err (i : Nat) : Fld := ⟨0x40004 + 0x100 * i, 2, 2⟩
/-- LANE_STATUS.level (R263), of number `i`. -/
def LANE_STATUS_level (i : Nat) : Fld := ⟨0x40004 + 0x100 * i, 5, 3⟩
/-- LANE_STATUS.dropped (R263), of number `i`. -/
def LANE_STATUS_dropped (i : Nat) : Fld := ⟨0x40004 + 0x100 * i, 31, 16⟩
/-- LANE_SLOT_LO.slot_lo (R263), of number `i`. -/
def LANE_SLOT_LO_slot_lo (i : Nat) : Fld := ⟨0x40008 + 0x100 * i, 31, 0⟩
/-- LANE_SLOT_HI.slot_hi (R263), of number `i`. -/
def LANE_SLOT_HI_slot_hi (i : Nat) : Fld := ⟨0x4000c + 0x100 * i, 15, 0⟩
/-- LANE_RING_LO.ring_order (R263), of number `i`. -/
def LANE_RING_LO_ring_order (i : Nat) : Fld := ⟨0x40010 + 0x100 * i, 4, 0⟩
/-- LANE_RING_LO.base_lo (R263), of number `i`. -/
def LANE_RING_LO_base_lo (i : Nat) : Fld := ⟨0x40010 + 0x100 * i, 31, 6⟩
/-- LANE_RING_HI.base_hi (R263), of number `i`. -/
def LANE_RING_HI_base_hi (i : Nat) : Fld := ⟨0x40014 + 0x100 * i, 31, 0⟩
/-- LANE_RING_IDX.head (R263), of number `i`. -/
def LANE_RING_IDX_head (i : Nat) : Fld := ⟨0x40018 + 0x100 * i, 15, 0⟩
/-- LANE_RING_IDX.tail (R263), of number `i`. -/
def LANE_RING_IDX_tail (i : Nat) : Fld := ⟨0x40018 + 0x100 * i, 31, 16⟩
/-- MSIX_ADDR_LO.addr_lo (R265), of number `i`. -/
def MSIX_ADDR_LO_addr_lo (i : Nat) : Fld := ⟨0x300000 + 0x10 * i, 31, 0⟩
/-- MSIX_ADDR_HI.addr_hi (R265), of number `i`. -/
def MSIX_ADDR_HI_addr_hi (i : Nat) : Fld := ⟨0x300004 + 0x10 * i, 31, 0⟩
/-- MSIX_DATA.data (R265), of number `i`. -/
def MSIX_DATA_data (i : Nat) : Fld := ⟨0x300008 + 0x10 * i, 31, 0⟩
/-- MSIX_CTRL.mask (R265), of number `i`. -/
def MSIX_CTRL_mask (i : Nat) : Fld := ⟨0x30000c + 0x10 * i, 0, 0⟩

end F

end Sys2Proof
end

