-- ==== Sys2Proof/Machine/Main.lean ====
section
/-! DEFINITION. The part of State that a warm reset reaches, with the host memory image. -/

namespace Sys2Proof

/-- What the Warden, the wards and cylinders, the memories and the links hold: everything a warm reset reaches, and the
host memory image. -/
structure Main where
  regs : Tab Word := []                 -- stored register words of BAR0 by offset
  host : Mem := []                      -- host memory, by address space × 2^65 + address
  stack : Mem := []                     -- stacked memory (R130)
  sp : Mem := []                        -- scratchpads, by cylinder × 2^21 + offset (R72)
  ws : Mem := []                        -- ward stores, by ward × 2^22 + offset (R125)
  msgs : List Nat := []                 -- MSI-X messages sent, by vector, oldest first
  pba : List Nat := []                  -- vectors pending behind a mask bit (R265)
  ctr : Tab Nat := []                   -- counters of Table 21-3, by id × 4096 + instance
  err : ErrLog := {}
  strk : Strike := {}
  prot : Protection := {}
  hq : List HingeReq := []              -- hinge requests waiting to be posted
  svc : Svc := {}
  fence : FenceSt := {}
  absent : List Nat := []               -- islands unpowered, held in reset or fenced, by code (R451)
  acceptStop : Bool := false            -- a sleep entry has stopped acceptance (R378)
  wakeHeld : Bool := false              -- an exit from S4 stands before order 8 of Table 17-7 until recovery completes
  ctxs : Tab Ctx := []
  kr : Keyring := {}
  plans : Tab Plan := []
  bindSeq : Nat := 0
  stamps : Nat := 0                     -- descriptors accepted since reset (R166)
  regions : Tab Region := []
  pages : Tab Page := []
  freeOrder : Nat := 0
  lastWriter : Tab (Option Nat) := []   -- per 64 KiB unit: the tenant that last wrote it, none unknown (R422)
  scrubbed : List Nat := []             -- units zeroed since their last writer
  scrubWant : List (Nat × Bool) := []   -- units to be zeroed before they pass to a tenant, and whether H9 lets them go
  scrub : List Nat := []                -- units the scrub engine is zeroing, oldest first
  h9Defer : List (List Nat) := []       -- ranges that H9 deferred, posted again at the next list point (R302)
  resp : List Byte := []                -- bytes last returned to a host read that a command stands for
  wards : Tab Ward := []
  cyls : Tab Cyl := []
  tums : Tab Tum := []
  insts : Tab Inst := []                -- running instances by lead ward
  log : CommitLog := {}
  lanes : Tab Lane := []
  kw : KwEngine := {}
  clip : RingPos := {}
  lz : Laniza := {}
  cam : Cam := {}
  therm : Tab Therm := []               -- heat by island code (R373)
  attest : Attest := .none
  latched : List (Nat × Word) := []     -- _HI halves latched, by the offset of the _HI register (R465)
deriving DecidableEq, Repr

end Sys2Proof
end

