-- ==== Sys2Proof/Machine/Access.lean ====
section
/-! DEFINITION. Reading and writing the pieces of State: registers by field, table entries by number, memories by place. -/

namespace Sys2Proof

/-- The stored word of a register. -/
def Main.word (m : Main) (off : Nat) : Word := Tab.get regReset m.regs off

/-- A stored word replaced. -/
def Main.setWord (m : Main) (off : Nat) (w : Word) : Main := { m with regs := Tab.put regReset off w m.regs }

/-- A field of a stored register. -/
def Main.fld (m : Main) (f : Fld) : Nat := f.of (m.word f.off)

/-- A one-bit field as a Bool. -/
def Main.bit (m : Main) (f : Fld) : Bool := m.fld f != 0

/-- A field of a stored register replaced. -/
def Main.setFld (m : Main) (f : Fld) (v : Nat) : Main := m.setWord f.off (f.into v (m.word f.off))

/-- Table 17-7, order 8: `state` reads 0 and `busy` clears. -/
def Main.wakeEnd (m : Main) : Main := { (m.setFld F.SLEEP_STATUS_state 0).setFld F.SLEEP_STATUS_busy 0 with wakeHeld := false }

/-- An unlisted context: FREE, every item at its reset value. -/
def ctxDef : Nat → Ctx := fun _ => {}

/-- A context. -/
def Main.ctx (m : Main) (c : Nat) : Ctx := Tab.get ctxDef m.ctxs c

/-- A context replaced. -/
def Main.setCtx (m : Main) (c : Nat) (x : Ctx) : Main := { m with ctxs := Tab.put ctxDef c x m.ctxs }

/-- A context changed. -/
def Main.updCtx (m : Main) (c : Nat) (f : Ctx → Ctx) : Main := m.setCtx c (f (m.ctx c))

/-- An unlisted plan record: not valid. -/
def planDef : Nat → Plan := fun _ => {}

/-- A plan record. -/
def Main.plan (m : Main) (h : Nat) : Plan := Tab.get planDef m.plans h

/-- A plan record replaced. -/
def Main.setPlan (m : Main) (h : Nat) (x : Plan) : Main := { m with plans := Tab.put planDef h x m.plans }

/-- An unlisted region: FREE. -/
def regionDef : Nat → Region := fun _ => {}

/-- A weight region. -/
def Main.region (m : Main) (r : Nat) : Region := Tab.get regionDef m.regions r

/-- A region replaced. -/
def Main.setRegion (m : Main) (r : Nat) (x : Region) : Main := { m with regions := Tab.put regionDef r x m.regions }

/-- An unlisted page of the pool: in SCRUB, as every page is when the pool is set (R154). -/
def pageDef : Nat → Page := fun _ => {}

/-- A pool page. -/
def Main.page (m : Main) (p : Nat) : Page := Tab.get pageDef m.pages p

/-- A page replaced. -/
def Main.setPage (m : Main) (p : Nat) (x : Page) : Main := { m with pages := Tab.put pageDef p x m.pages }

/-- An unlisted ward. -/
def wardDef : Nat → Ward := fun _ => {}

/-- A ward. -/
def Main.ward (m : Main) (w : Nat) : Ward := Tab.get wardDef m.wards w

/-- A ward replaced. -/
def Main.setWard (m : Main) (w : Nat) (x : Ward) : Main := { m with wards := Tab.put wardDef w x m.wards }

/-- A ward changed. -/
def Main.updWard (m : Main) (w : Nat) (f : Ward → Ward) : Main := m.setWard w (f (m.ward w))

/-- An unlisted cylinder. -/
def cylDef : Nat → Cyl := fun _ => {}

/-- A cylinder. -/
def Main.cyl (m : Main) (c : Nat) : Cyl := Tab.get cylDef m.cyls c

/-- A cylinder replaced. -/
def Main.setCyl (m : Main) (c : Nat) (x : Cyl) : Main := { m with cyls := Tab.put cylDef c x m.cyls }

/-- An unlisted tumbler: at rest, its buffers empty. -/
def tumDef : Nat → Tum := fun _ => {}

/-- A tumbler, by its number 0 to 511. -/
def Main.tum (m : Main) (t : Nat) : Tum := Tab.get tumDef m.tums t

/-- A tumbler replaced. -/
def Main.setTum (m : Main) (t : Nat) (x : Tum) : Main := { m with tums := Tab.put tumDef t x m.tums }

/-- No instance. -/
def instDef : Nat → Inst := fun _ => {}

/-- The instance of a lead ward; `live` is false where none runs. -/
def Main.inst (m : Main) (lead : Nat) : Inst := Tab.get instDef m.insts lead

/-- An instance replaced. -/
def Main.setInst (m : Main) (lead : Nat) (x : Inst) : Main := { m with insts := Tab.put instDef lead x m.insts }

/-- An unlisted lane: idle. -/
def laneDef : Nat → Lane := fun _ => {}

/-- A Frame Lane. -/
def Main.lane (m : Main) (l : Nat) : Lane := Tab.get laneDef m.lanes l

/-- A lane replaced. -/
def Main.setLane (m : Main) (l : Nat) (x : Lane) : Main := { m with lanes := Tab.put laneDef l x m.lanes }

/-- A lane changed. -/
def Main.updLane (m : Main) (l : Nat) (f : Lane → Lane) : Main := m.setLane l (f (m.lane l))

/-- A counter at zero. -/
def ctrDef : Nat → Nat := fun _ => 0

/-- A counter of Table 21-3. -/
def Main.counter (m : Main) (id inst : Nat) : Nat := Tab.get ctrDef m.ctr (id * 4096 + inst)

/-- A counter raised by `n`: 48 bits wide, saturating (R457). -/
def Main.count (m : Main) (id inst n : Nat) : Main :=
  { m with ctr := Tab.put ctrDef (id * 4096 + inst) (satAdd 48 (m.counter id inst) n) m.ctr }

/-- Scratchpad key of a cylinder's offset. -/
def spKey (cyl off : Nat) : Nat := cyl * 0x200000 + off

/-- Ward-store key of a ward's offset. -/
def wsKey (ward off : Nat) : Nat := ward * 0x400000 + off

/-- Host memory key of an address in a space: space 0 is the Master key's, `pasid + 1` a tenant's. Spaces lie 2^65 apart, so that
a run of bytes past the top of one reaches no other. -/
def hostKey (space addr : Nat) : Nat := space * 2 ^ 65 + addr % 2 ^ 64

/-- Whether a range lies inside its memory (R72, R125, R130). -/
def refOk (r : Ref) (n : Nat) : Bool :=
  match r.mem with
  | .sp _ => decide (r.addr + n ≤ 0x180000)
  | .ws _ => decide (r.addr + n ≤ 0x400000)
  | .stack => decide (r.addr + n ≤ 0x1200000000)
  | .host _ => decide (r.addr + n ≤ 2 ^ 64)

/-- One byte at a place. -/
def Main.byteAt (m : Main) (s : MemSel) (a : Nat) : Byte :=
  match s with
  | .sp c => m.sp.rd (spKey c.val a)
  | .ws w => m.ws.rd (wsKey w.val a)
  | .stack => m.stack.rd a
  | .host p => m.host.rd (hostKey p a)

/-- Bytes at a place. -/
def Main.bytesAt (m : Main) (r : Ref) (n : Nat) : List Byte := (List.range n).map fun i => m.byteAt r.mem (r.addr + i)

/-- Bytes written at a place. -/
def Main.write (m : Main) (r : Ref) (bs : List Byte) : Main :=
  match r.mem with
  | .sp c => { m with sp := Mem.wrN (spKey c.val r.addr) bs m.sp }
  | .ws w => { m with ws := Mem.wrN (wsKey w.val r.addr) bs m.ws }
  | .stack => { m with stack := Mem.wrN r.addr bs m.stack }
  | .host p => { m with host := Mem.wrN (hostKey p r.addr) bs m.host }

/-- Bytes written to the Master key's host memory. -/
def Main.hostWr (m : Main) (addr : Nat) (bs : List Byte) : Main := { m with host := Mem.wrN (hostKey 0 addr) bs m.host }

/-- Bytes written to a tenant's host memory. -/
def Main.tenantWr (m : Main) (pasid addr : Nat) (bs : List Byte) : Main :=
  { m with host := Mem.wrN (hostKey (pasid + 1) addr) bs m.host }

/-- Bytes read from a tenant's host memory. -/
def Main.tenantRd (m : Main) (pasid addr n : Nat) : List Byte := m.host.rdN (hostKey (pasid + 1) addr) n

/-- A 64-bit register pair's value: the low word cut to 2^lo alignment, and the high word. -/
def Main.pair (m : Main) (offLo offHi lowBits : Nat) : Nat :=
  (m.word offLo).toNat / 2 ^ lowBits * 2 ^ lowBits + (m.word offHi).toNat * 2 ^ 32

/-- The code of an island (spec/18_reset.md; fuses and the host-link controller have none of their own and take the
Warden's). -/
def islandCode : Island → Nat
  | .cyl c => c.val
  | .ward w => 0x80 + w.val
  | .warden => 0x90
  | .mc s => 0xA0 + s.val
  | .latch => 0xB0
  | .sysRef => 0xB1
  | .fuse => 0x90
  | .hostLink => 0x90

/-- The wards of a mask, lowest first. -/
def wardsOf (mask : Nat) : List Nat := (List.range 16).filter fun w => mask / 2 ^ w % 2 = 1

/-- The lead ward of a mask (R80). -/
def leadOf (mask : Nat) : Nat := (wardsOf mask).headD 0

/-- A Bool as a number. -/
def b2n (b : Bool) : Nat := if b then 1 else 0

/-- The instance that runs on a ward, with its lead ward. -/
def Main.instOn (m : Main) (w : Nat) : Option (Nat × Inst) :=
  m.insts.find? fun p => p.2.live && decide (p.2.mask / 2 ^ w % 2 = 1)

/-- Codes of the context states (Table 10-2). -/
def ctxStateCode : CtxState → Nat
  | .free => 0 | .bound => 1 | .residentRunning => 2 | .residentBlocked => 3 | .swappedRunnable => 4
  | .swappedBlocked => 5 | .faulted => 6

/-- Codes of the causes (Table 10-3). -/
def ctxCauseCode : CtxCause → Nat
  | .none => 0 | .noWork => 1 | .pageWait => 2 | .serviceWait => 3 | .tearing => 4 | .torn => 5

end Sys2Proof
end

