-- ==== Sys2Proof/Machine/Ops.lean ====
section
/-! DEFINITION. Operations every chapter shares: messages, counters' islands, strikes and snapshots
(spec/21_observation.md R447 to R459), the error log (spec/20_faults.md R434 to R437), host rings, and faults of contexts. -/

namespace Sys2Proof

/-! ## Messages (spec/12_host_interface.md R265) -/

/-- Whether a vector's mask bit is set in the MSI-X table. -/
def Main.masked (m : Main) (v : Nat) : Bool := m.bit (F.MSIX_CTRL_mask v)

/-- An MSI-X message of a vector: sent, or left pending behind its mask bit. -/
def Main.raise (m : Main) (v : Nat) : Main :=
  if m.masked v then { m with pba := if m.pba.contains v then m.pba else m.pba ++ [v] }
  else { m with msgs := m.msgs ++ [v] }

/-! ## Snapshots -/

/-- Whether confidential mode is set (spec/19_security.md R425). -/
def Main.conf (m : Main) : Bool := m.bit F.CONF_MODE_enable

/-- The island code a counter lives in (Table 21-3). -/
def ctrIsland (id inst : Nat) : Nat :=
  if id = 0x01 ∨ id = 0x04 then inst
  else if id < 0x08 then 0x80 + inst
  else if id < 0x18 then inst
  else if id = 0x18 then 0x80 + inst
  else if id = 0x20 then 0xA0 + inst / 32
  else if id = 0x21 then 0xA0 + inst / 512
  else if 0x48 ≤ id ∧ id ≤ 0x4A then 0xB0
  else 0x90

/-- Every counter of an island, from the table of counters. -/
def Main.islandCtrs (m : Main) (code : Nat) : Tab Nat :=
  m.ctr.filter fun p => ctrIsland (p.1 / 4096) (p.1 % 4096) == code

/-- CYL_STATUS as it reads (Table 3-7). -/
def Main.cylStatus (m : Main) (c : Nat) : Word :=
  let t := fun i => m.tum (4 * c + i)
  let on := (List.range 4).map fun i => if (t i).ramp = .rest then 0 else 2 ^ (3 + i)
  BitVec.ofNat 32 (min 3 (Tab.get ctrDef m.fence.suspect c)
    + 4 * b2n (((m.ward (c / 8)).holds.head?.map (· / 4)) == some c) + on.sum
    + 128 * b2n ((List.range 4).any fun i => (t i).swapWait))

/-- The list word of a snapshot (Table 21-2): next entry, firings left, wait cause. -/
def listWord (p : ListPos) : Nat := p.idx % 4096 + p.left % 256 * 4096 + p.cause % 16 * 2 ^ 20

/-- A cylinder's resources in the order of Table 4-4. -/
def cylResources (c : Fin 128) : List Resource :=
  (List.finRange 24).map (.bank c) ++ (List.finRange 4).map (fun i => .tumbler ⟨4 * c.val + i.val, by omega⟩) ++ [.vec c]

/-- A ward's resources in the order of Table 4-4. -/
def wardResources (w : Fin 16) : List Resource :=
  [.ring w] ++ (List.finRange 4).map (.lane w) ++ (List.finRange 16).map (.wsPort w)

/-- Where a resource's list stands on a ward; the start where no instance runs. -/
def Main.listPos (m : Main) (w : Nat) (r : Resource) : ListPos :=
  match m.instOn w with
  | some p => ((p.2.lists.find? fun q => q.1 == r).map (·.2)).getD {}
  | none => {}

/-- Six-byte counters in Id order. -/
def Main.ctrBytes (m : Main) (ids : List Nat) (inst : Nat) : List Byte := ids.flatMap fun i => leBytes 6 (m.counter i inst)

/-- Contexts in a state (Table 10-2); unlisted contexts are FREE. -/
def Main.ctxsIn (m : Main) (st : CtxState) : Nat :=
  let n := (m.ctxs.filter fun p => p.2.state == st).length
  if st = .free then n + (3072 - m.ctxs.length) else n

/-- SVC_STATUS as it reads (Table 13-11). -/
def Main.svcStatus (m : Main) : Word := F.SVC_STATUS_outstanding.into (min 2047 m.svc.out.length) (m.word 0x202c)

/-- MEM_STATUS as it reads awake (Table 6-10): firmware has trained both stacks once stage 3 is reached, or the part is in
Latch mode. -/
def Main.memStatus (m : Main) : Word :=
  let n := fun (st : RegionSt) => min 255 (m.regions.filter fun p => p.2.st == st).length
  let up := b2n (m.fld F.BOOT_STATUS_stage == 3)
  BitVec.ofNat 32 (up + 2 * up + 8 * m.fld F.MEM_STATUS_cfg_err + 2 ^ 16 * n .held + 2 ^ 24 * n .poisoned)

/-- The body of an island's snapshot from window offset 0x20 on (Table 21-2). A controller's frame numbers, full queues and refresh gaps are counts of time and free. -/
def Main.snapBody (m : Main) (code strike : Nat) : List Byte :=
  if h : code < 128 then
    (cylResources ⟨code, h⟩).flatMap (fun r => leBytes 4 (listWord (m.listPos (code / 8) r)))
      ++ leBytes 4 (m.cylStatus code).toNat ++ leBytes 4 (m.word (0x20008 + code * 0x400)).toNat ++ leBytes 4 0
      ++ m.ctrBytes [0x01, 0x04, 0x08, 0x09, 0x10, 0x11, 0x12, 0x13, 0x14, 0x15] code
  else if h : code < 144 then
    let w : Fin 16 := ⟨code - 128, by omega⟩
    let st := match m.instOn w.val with
      | some p => p.2.step % 2 ^ 48 + p.2.round * 2 ^ 48
      | none => 0
    (wardResources w).flatMap (fun r => leBytes 4 (listWord (m.listPos w.val r)))
      ++ leBytes 8 st ++ leBytes 4 0
      ++ m.ctrBytes [0x01] code ++ m.ctrBytes [0x02, 0x03] w.val ++ m.ctrBytes [0x04] code
      ++ m.ctrBytes [0x05, 0x06, 0x07, 0x18] w.val
  else if code = 0x90 then
    leBytes 8 m.kr.step
      ++ ([CtxState.free, .bound, .residentRunning, .residentBlocked, .swappedRunnable, .swappedBlocked, .faulted]).flatMap
          (fun s => leBytes 2 (m.ctxsIn s))
      ++ leBytes 2 0 ++ leBytes 4 m.svcStatus.toNat ++ leBytes 4 m.err.next ++ leBytes 4 m.prot.gen ++ leBytes 4 m.memStatus.toNat
      ++ m.ctrBytes [0x22, 0x23, 0x28, 0x30, 0x31, 0x32, 0x33, 0x58] 0
  else if code = 0xA0 ∨ code = 0xA1 then
    (List.range 32).flatMap (fun c => leBytes 4 (Config.frameNo strike ((code - 0xA0) * 32 + c)))
      ++ leBytes 4 (Config.expFull strike (code - 0xA0)).toNat ++ leBytes 4 (Config.refreshGap strike (code - 0xA0)).toNat
  else []

/-- The islands of the part by code (R451). -/
def islandCodes : List Nat := List.range 0x91 ++ [0xA0, 0xA1, 0xB0]

/-- A snapshot latched for an island with a given body, its origin and source those of the marker that came (R449, R452, R454). An island latches once a strike; an absent one not at
all. -/
def Main.latchSnap (m : Main) (code hop origin source : Nat) (body : List Byte) (ctrs : Tab Nat) : Main :=
  let s := m.strk
  if m.absent.contains code ∨ (s.snaps.any fun p => p.1 == code) then m
  else
    let sn : Snap := { flags := 1 + 4 * b2n (hop == 0), hop := min hop 255, origin := origin, source := source,
                       body := body, ctrs := ctrs }
    let m := { m with strk := { s with snaps := Tab.put (fun _ => {}) code sn s.snaps } }
    if m.bit F.STRIKE_CTL_clear_on_strike then
      { m with ctr := m.ctr.filter fun p => ctrIsland (p.1 / 4096) (p.1 % 4096) != code }
    else m

/-- Whether a source is enabled (R447, R455): in confidential mode only fault strikes fire. -/
def Main.strikeOn (m : Main) (src : Nat) : Bool :=
  match src with
  | 1 => !m.conf
  | 2 => !m.conf && m.bit F.STRIKE_CTL_pin_en
  | 3 => m.bit F.STRIKE_CTL_fault_en
  | _ => !m.conf && m.bit F.STRIKE_CTL_thresh_en

/-- Where a strike of an island starts: at the Warden where the island is absent (log entry 8). -/
def Main.strikeOrigin (m : Main) (origin : Nat) : Nat := if m.absent.contains origin then 0x90 else origin

/-- R452: a strike of an island that the travelling wave has not reached is one strike with it. -/
def Main.strikeJoins (m : Main) (origin : Nat) : Bool :=
  !m.strk.armed && m.strk.busy && m.strk.expect.contains (m.strikeOrigin origin)
    && !(m.strk.snaps.any fun p => p.1 == m.strikeOrigin origin)

/-- An origin latches with ordinal 0. The Latch island's snapshot is taken with the state at hand (Observe.lean). -/
def Main.latchOrigin (m : Main) (src origin : Nat) : Main :=
  if origin = 0xB0 then m else m.latchSnap origin 0 origin src (m.snapBody origin m.strk.fired) (m.islandCtrs origin)

/-- A strike from a source (R447 to R449, R453): fired while armed, the origin latching first with ordinal 0; one with a wave that
has not reached its origin, shown as the Warden sees it (R452); counted as missed otherwise. -/
def Main.strike (m : Main) (src origin : Nat) : Main :=
  let s := m.strk
  let o := m.strikeOrigin origin
  if !m.strikeOn src then m
  else if m.strikeJoins origin then
    Main.latchOrigin (if o = 0x90 then { m with strk := { s with source := src, origin := o } } else m) src o
  else if !s.armed then { m with strk := { s with missed := satAdd 16 s.missed 1 } }
  else
    Main.latchOrigin { m with strk := { s with
      armed := false, busy := true, complete := false, source := src, origin := o, snaps := []
      fired := satAdd 16 s.fired 1, expect := islandCodes.filter fun c => !m.absent.contains c
      outHigh := s.outHigh || m.bit F.STRIKE_CTL_out_en } } src o

/-! ## The error log -/

/-- The fields of an error record (Table 20-2). -/
structure ErrArgs where
  code : Nat
  status : Nat := 0
  ctx : Nat := 0xFFFF
  step : Nat := 0
  round : Nat := 0
  island : Nat := 0x90
  extra : Nat := 0
  aux1 : Nat := 0
  aux2 : Nat := 0
  pasid : Nat := 0
deriving DecidableEq, Repr

/-- Table 20-2's 32 bytes, the phase bit clear. -/
def errBytes (index : Nat) (e : ErrArgs) : List Byte :=
  leBytes 4 index ++ leBytes 1 e.code ++ leBytes 1 e.status ++ leBytes 2 e.ctx ++ leBytes 6 e.step ++ leBytes 2 e.round
    ++ leBytes 1 e.island ++ leBytes 1 0 ++ leBytes 2 e.extra ++ leBytes 4 e.aux1 ++ leBytes 4 e.aux2
    ++ leBytes 4 (e.pasid % 2 ^ 20)

/-- The index after `n` (R434): it wraps past 0xFFFF_FFFF to 1. -/
def nextIndex (n : Nat) : Nat := if n = 0xFFFFFFFF then 1 else n + 1

/-- Window records by slot; nothing where none was written. -/
def winDef : Nat → List Byte := fun _ => []

/-- An event logged (R434, R437): a record in the window, due for the mirror while ERR_CTL.mirror is set, a due record that
it overwrites counted as lost, and a fault strike (R447). -/
def Main.logErr (m : Main) (e : ErrArgs) : Main :=
  let g := m.err
  let n := g.next
  let old := g.due.filter fun i => i % 64 = n % 64
  let m := { m with err := { g with
    next := nextIndex n
    window := Tab.put winDef (n % 64) (errBytes n e) g.window
    due := (g.due.filter fun i => i % 64 ≠ n % 64) ++ (if m.bit F.ERR_CTL_mirror then [n] else [])
    lost := satAdd 16 g.lost old.length } }
  let fires := (m.strk.armed || m.strikeJoins e.island) && m.strikeOn 3
  let m := m.strike 3 e.island
  if fires then { m with strk := { m.strk with errIndex := n } } else m

/-- The order of a ring from its register field, with the value others act as. -/
def ringOrder (v lo hi dflt : Nat) : Nat := if lo ≤ v ∧ v ≤ hi then v else dflt

/-! ## Rings in host memory -/

/-- Whether a ring of `2^order` records is full: head + 1 equals tail, modulo its size. -/
def ringFull (order head tail : Nat) : Bool := (head + 1) % 2 ^ order == tail % 2 ^ order

/-- The place after a record: the phase turns at the end of the ring. -/
def ringNext (order : Nat) (r : RingPos) : RingPos :=
  if r.head + 1 = 2 ^ order then { head := 0, phase := !r.phase } else { r with head := r.head + 1 }

/-! ## Faults of contexts -/

/-- Completion status codes (Table 12-10). -/
def stDone : Nat := 0x00
def stReplayed : Nat := 0x01
def stWidened : Nat := 0x02
def stMemory : Nat := 0x20
def stPlan : Nat := 0x21
def stSkew : Nat := 0x22
def stPoison : Nat := 0x23
def stChecksum : Nat := 0x24
def stProtection : Nat := 0x25
def stTornDown : Nat := 0x26
def stFenced : Nat := 0x27

/-- Whether a status is a fault. -/
def isFault (s : Nat) : Bool := decide (0x20 ≤ s)

/-- The first fault a member meets in a step stands (R101, Table 5-10). -/
def faultMember (st detail : Nat) (x : Member) : Member := if isFault x.status then x else { x with status := st, detail := detail }

/-- Members of an instance faulted: those named by batch member number, or all where none are named (R68, R101). -/
def faultMembers (which : Option (List Nat)) (st detail : Nat) (i : Inst) : Inst :=
  { i with members := i.members.map fun x =>
      match which with
      | some l => if l.contains x.berth then faultMember st detail x else x
      | none => faultMember st detail x }

/-- The first context given a status by a fault of these members, 0xFFFF where none is. -/
def firstCtx (which : Option (List Nat)) (i : Inst) : Nat :=
  match which with
  | some l => ((i.members.find? fun x => l.contains x.berth).map (·.ctx)).getD 0xFFFF
  | none => (i.members.head?.map (·.ctx)).getD 0xFFFF

/-- Tenant of a context for an error record; 0 where there is none. -/
def Main.pasidOf (m : Main) (c : Nat) : Nat := if c < 3072 then (m.ctx c).tenant else 0

end Sys2Proof
end

