-- ==== Sys2Proof/Machine/Rings.lean ====
section
/-! DEFINITION. A context's rings and journal (spec/12_host_interface.md R268, R279 to R284, R289), its completion records, and
the start of a context's teardown (spec/10_keyring.md R247). -/

namespace Sys2Proof

/-- JOURNAL_BASE (Table 12-22). -/
def Main.journalBase (m : Main) : Nat := m.pair 0x5048 0x504c 12

/-- CTX_TABLE_BASE (Table 12-22). -/
def Main.ctxTableBase (m : Main) : Nat := m.pair 0x5050 0x5054 12

/-- COMMIT_LOG base (Table 12-22). -/
def Main.logBase (m : Main) : Nat := m.pair 0x5058 0x505c 12

/-- The commit log's lines: 2^order, order 14 to 20, others as 14 (R282). -/
def Main.logLines (m : Main) : Nat := 2 ^ ringOrder (m.fld F.COMMIT_LOG_LO_order) 14 20 14

/-- A field of a descriptor's bytes (Tables 12-5, 12-7, 12-8). -/
def Desc.field (d : Desc) (off n : Nat) : Nat := leNat ((d.bytes.drop off).take n)

/-- A descriptor's opcode. -/
def Desc.opcode (d : Desc) : Nat := d.field 6 1

/-- A descriptor's tag. -/
def Desc.tag (d : Desc) : Nat := d.field 8 8

/-- dflags[0]: its record does not count under R289. -/
def Desc.noIrq (d : Desc) : Bool := d.field 7 1 % 2 == 1

/-- Table 12-12: the fields of a context line at a place. -/
def Main.lineAddr (m : Main) (c : Nat) : Nat := m.journalBase + c * 64

/-- The accepted field of a context line written (R271). -/
def Main.lineAccepted (m : Main) (c n : Nat) : Main :=
  m.hostWr (m.lineAddr c) (leBytes 6 n ++ leBytes 2 (m.ctx c).incarnation)

/-- The completed field of a context line written. -/
def Main.lineCompleted (m : Main) (c n : Nat) : Main :=
  m.hostWr (m.lineAddr c + 8) (leBytes 6 n ++ leBytes 2 (m.ctx c).incarnation)

/-- The commit, cursor and commit_kind fields of a context line written (Table 12-16, order 4). -/
def Main.lineCommit (m : Main) (c step round cursor kind : Nat) : Main :=
  (m.hostWr (m.lineAddr c + 16) (leBytes 6 step ++ leBytes 2 round)).hostWr (m.lineAddr c + 28)
    (leBytes 2 cursor ++ leBytes 1 kind)

/-- The len_done field of a context line. -/
def Main.lenDone (m : Main) (c : Nat) : Nat := m.host.rdNat (hostKey 0 (m.lineAddr c + 32)) 6

/-- The len_done field of a context line written. -/
def Main.lineLen (m : Main) (c n : Nat) : Main := m.hostWr (m.lineAddr c + 32) (leBytes 6 n)

/-- Table 12-12: a context line written afresh at a bind. -/
def Main.lineFresh (m : Main) (c : Nat) : Main :=
  let x := m.ctx c
  m.hostWr (m.lineAddr c)
    (leBytes 6 0 ++ leBytes 2 x.incarnation ++ leBytes 6 0 ++ leBytes 2 x.incarnation ++ leBytes 8 0
      ++ leBytes 4 x.tenant ++ List.replicate 36 0#8)

/-- Whether hinge H10 is in force in hardware mode (R289, R295). -/
def Main.h10Hardware (m : Main) : Bool := m.fld F.HINGE_NOW_in_force / 2 ^ 9 % 2 == 0

/-- R289: a record counted against its context's armed vector; the message that the first limit reached sends disarms it. -/
def Main.irqRecord (m : Main) (c : Nat) (noIrq : Bool) : Main :=
  let x := m.ctx c
  if noIrq || !x.irqArmed || !m.h10Hardware then m
  else
    let n := x.irqCount + 1
    if max 1 x.entry.modCount ≤ n then (m.setCtx c { x with irqArmed := false, irqCount := 0 }).raise x.entry.vector
    else m.setCtx c { x with irqCount := n }

/-- Table 12-9's 32 bytes. -/
def completionBytes (seq status cflags tag result detail : Nat) : List Byte :=
  leBytes 6 seq ++ leBytes 1 status ++ leBytes 1 cflags ++ leBytes 8 tag ++ leBytes 8 result ++ leBytes 4 detail ++ leBytes 4 0

/-- A completion record written at its place (R268), with the context line's completed field, and counted under R289. -/
def Main.writeRecord (m : Main) (c : Nat) (d : Desc) (status cflags result detail : Nat) : Main :=
  let x := m.ctx c
  let m := m.tenantWr x.tenant (x.entry.cqBase + d.seq % 2 ^ x.entry.cqOrder * 32)
    (completionBytes d.seq status cflags d.tag result detail)
  let m := m.setCtx c { x with written := max x.written d.seq, completed := d.seq }
  (m.lineCompleted c d.seq).irqRecord c d.noIrq

/-- The accepted descriptor a context performs: its oldest. -/
def Ctx.head (x : Ctx) : Option Desc := x.queue.head?

/-- A context with no accepted work outstanding blocks with NO_WORK (Table 10-3); one with work is runnable (R228). -/
def Ctx.settle (x : Ctx) : Ctx :=
  let work := !x.queue.isEmpty || x.chainRecompute
  match x.state with
  | .residentRunning => if work then x else { x with state := .residentBlocked, cause := .noWork }
  | .swappedRunnable => if work then x else { x with state := .swappedBlocked, cause := .noWork }
  | .residentBlocked => if work && x.cause == .noWork then { x with state := .residentRunning, cause := .none } else x
  | .swappedBlocked => if work && x.cause == .noWork then { x with state := .swappedRunnable, cause := .none } else x
  | _ => x

/-- Every accepted descriptor of a context receives CTX_TORN_DOWN, in order (R247, R279). -/
def Main.tornDown (m : Main) (c detail : Nat) : List Desc → Main
  | [] => m
  | d :: ds => Main.tornDown (m.writeRecord c d stTornDown 0 0 detail) c detail ds

/-- The start of a context's teardown (R247, orders 1 and 2): its oldest descriptor takes the fault status, it enters
FAULTED with cause TEARING, and every later accepted descriptor takes CTX_TORN_DOWN. Descriptors whose journal write is
issued are accepted at its read-back and torn down then (R271). -/
def Main.faultCtx (m : Main) (c status detail : Nat) : Main :=
  let x := m.ctx c
  match x.state with
  | .free | .faulted => m
  | _ =>
    let m := match x.head with
      | some d => Main.tornDown (m.writeRecord c d status (b2n x.reExec) 0 detail) c detail (x.queue.drop 1)
      | none => m
    m.updCtx c fun y => { y with
      state := .faulted, cause := .tearing, queue := [], run := none, busy := false, faultDetail := detail
      pendingFault := none, cutIn := false, evict := false, laneStops := [], chainRecompute := false }

/-- A descriptor that must not be performed (R268, R270) faults its context once every earlier one has completed. -/
def Main.checkHead (m : Main) (c : Nat) : Main :=
  match (m.ctx c).head with
  | some d =>
    match d.protErr with
    | some k => m.faultCtx c stProtection k
    | none => m
  | none => m

/-- The oldest descriptor of a context completes: its record is written, it leaves the queue, and the context blocks when
no work is left. -/
def Main.completeHead (m : Main) (c status cflags result detail : Nat) : Main :=
  match (m.ctx c).head with
  | none => m
  | some d =>
    let m := m.writeRecord c d status cflags result detail
    (m.updCtx c fun x => Ctx.settle { x with queue := x.queue.drop 1, run := none, busy := false, reExec := false }).checkHead c

/-- A set-up descriptor ends with a result, or fails with a fault status and no other effect (R274). -/
def Main.setupDone (m : Main) (c result : Nat) : Main := m.completeHead c stDone 0 result 0

/-- A set-up descriptor refused (R274): the context is not faulted. -/
def Main.setupFail (m : Main) (c status detail : Nat) : Main := m.completeHead c status 0 0 detail

/-- The faults of a run's members delivered (R101, R247). -/
def Main.deliver (m : Main) : List Member → Main
  | [] => m
  | x :: xs => Main.deliver (if isFault x.status then m.faultCtx x.ctx x.status x.detail else m) xs

/-! ## Shares (spec/10_keyring.md R237) -/

/-- Sum of the members' rows. -/
def rowsTotal (ms : List Member) : Nat := (ms.map (·.rows)).sum

/-- The member with the most rows, ties to the lower context number. -/
def mostRows : List Member → Option Member
  | [] => none
  | x :: xs =>
    match mostRows xs with
    | none => some x
    | some y => if x.rows > y.rows ∨ (x.rows = y.rows ∧ x.ctx < y.ctx) then some x else some y

/-- One member's charge added to its context (R237); a lane's context keeps its vt (R239). -/
def Main.chargeCtx (m : Main) (c n : Nat) (lane : Bool) : Main :=
  m.updCtx c fun x => { x with
    charged := min (x.charged + n) (2 ^ 48 - 1)
    vt := if lane then x.vt else x.vt + n * 65536 / max 1 x.weight }

/-- R237: the cost of an instance charged to its members, the remainder to the member with the most rows. -/
def Main.charge (m : Main) (cost : Nat) (ms : List Member) (lane : Bool) : Main :=
  let tot := max 1 (rowsTotal ms)
  let m := ms.foldl (fun m x => m.chargeCtx x.ctx (cost * x.rows / tot) lane) m
  let rest := cost - (ms.map fun x => cost * x.rows / tot).sum
  match mostRows ms with
  | some x => if rest = 0 then m else m.chargeCtx x.ctx rest lane
  | none => m

/-! ## Pages freed (spec/09_attention.md R210, R213, Table 9-7) -/

/-- A page freed with a tag, the latest in the order of freeing. -/
def Main.freePage (m : Main) (p : Nat) (tag : Option Nat) : Main :=
  { m with pages := Tab.put pageDef p { st := .free tag, freed := m.freeOrder + 1 } m.pages, freeOrder := m.freeOrder + 1 }

/-- Pages freed one after another. -/
def Main.freePages (m : Main) (tag : Option Nat) : List Nat → Main
  | [] => m
  | p :: ps => Main.freePages (m.freePage p tag) tag ps

/-- The reservations of a run given back: each page FREE with its former tag (R97, R210). -/
def Main.releaseReserved (m : Main) (pick : Nat → Bool) : Main :=
  { m with pages := m.pages.map fun p =>
      match p.2.st with
      | .reserved c tag => if pick c then (p.1, { p.2 with st := .free tag }) else p
      | _ => p }

/-- Every page of a context's streams freed with its tenant's tag (Table 9-7). -/
def Main.freeStreams (m : Main) (c : Nat) : Main :=
  let x := m.ctx c
  let m := m.freePages (some x.tenant) (x.streams.flatMap (·.pages))
  m.updCtx c fun x => { x with streams := [], kvLimit := 0 }

/-- Pages from column `j` upward of every stream of a context freed (R213, Table 9-7): PAGE_DROP counts each column, and
kv_limit becomes 32 j. -/
def Main.dropFrom (m : Main) (c j : Nat) (tag : Option Nat) (scrub : Bool) : Main :=
  let x := m.ctx c
  let cols := (x.streams.map fun s => s.pages.length).foldl max 0 - j
  let ps := x.streams.flatMap fun s => s.pages.drop j
  let m := if scrub then { m with pages := ps.foldl (fun t p => Tab.put pageDef p { st := .scrub } t) m.pages }
           else m.freePages tag ps
  let m := m.updCtx c fun x => { x with
    kvLimit := min x.kvLimit (32 * j), lastDrop := some m.kr.step
    streams := x.streams.map fun s => { s with pages := s.pages.take j, fill := 0 } }
  m.count 0x28 0 cols

/-! ## An instance ended -/

/-- An instance removed from its wards, which reach a step boundary; its wards' open units are discarded (R174). -/
def Main.endInst (m : Main) (lead : Nat) : Main :=
  let i := m.inst lead
  let m := m.setInst lead {}
  (wardsOf i.mask).foldl (fun m w => m.updWard w fun x => { x with roundDone := true, openUnits := [] }) m

/-- R102: an instance aborted whole: nothing of the step becomes visible, its reserved pages go back, its members are
charged and take the status, and its wards reach their boundary. -/
def Main.abortInst (m : Main) (lead st detail : Nat) : Main :=
  let i := faultMembers none st detail (m.inst lead)
  let m := m.releaseReserved fun c => i.members.any fun x => x.ctx == c
  let m := m.charge i.cost i.members (match i.kind with | .lane _ _ => true | _ => false)
  (m.endInst lead).deliver i.members

end Sys2Proof
end

