-- ==== Sys2Proof/Machine/Protect.lean ====
section
/-! DEFINITION. The protection set-up in force and the window check of every DMA (spec/19_security.md R414 to R418). -/

namespace Sys2Proof

/-- An unused tenant slot. -/
def tenantDef : Nat → Tenant := fun _ => {}

/-- A closed window. -/
def windowDef : Nat → Window := fun _ => {}

/-- The slot of a tenant in force. -/
def Main.tenantOf (m : Main) (pasid : Nat) : Option (Nat × Tenant) :=
  m.prot.force.find? fun p => p.2.valid && p.2.pasid == pasid

/-- R417: a range lies wholly within one enabled window. -/
def inWindow (w : Window) (addr n : Nat) : Bool :=
  w.enable && decide (w.base ≤ addr) && decide (addr + n ≤ w.limit + 0x1000)

/-- R417: a DMA under a tenant's PASID is allowed by a set-up. -/
def dmaOkIn (ts : Tab Tenant) (pasid addr n : Nat) : Bool :=
  match ts.find? fun p => p.2.valid && p.2.pasid == pasid with
  | some p => n == 0 || p.2.windows.any fun w => inWindow w.2 addr n
  | none => false

/-- R417: a DMA under a tenant's PASID is allowed by the set-up in force. -/
def Main.dmaOk (m : Main) (pasid addr n : Nat) : Bool := dmaOkIn m.prot.force pasid addr n

/-- Pages RESERVED or OWNED by a tenant (TENANT_HELD). -/
def Main.tenantHeld (m : Main) (pasid : Nat) : Nat :=
  (m.pages.filter fun p =>
    match p.2.st with
    | .reserved c _ => (m.ctx c).tenant == pasid
    | .owned c => (m.ctx c).tenant == pasid
    | _ => false).length

/-- The error record of a refused DMA (Table 20-3, code 0x16). -/
def Main.logDma (m : Main) (c status opcode addr : Nat) : Main :=
  m.logErr { code := 0x16, status := status, ctx := c, step := m.kr.step, extra := opcode, aux1 := addr % 2 ^ 32,
             aux2 := addr / 2 ^ 32, pasid := m.pasidOf c }

end Sys2Proof
end

