-- ==== Sys2Proof/Machine/Tumbler.lean ====
section
/-! DEFINITION. One tile on a tumbler: pins, groups, checksum cells, drain and verdict
(spec/02_number_formats.md R41 to R47, R489; spec/03_tumbler_and_cylinder.md R54, R55, R62 to R65). -/

namespace Sys2Proof

/-- Lengths of a pin's runs under R489. -/
def runLen (c : TileCfg) : Nat :=
  if c.ga ≠ 0 ∧ c.gw ≠ 0 then min c.ga c.gw
  else if c.ga ≠ 0 then c.ga
  else if c.gw ≠ 0 then c.gw
  else 32

/-- Whether a tile computes in integers. -/
def tileInt (c : TileCfg) : Bool := pairClass c.fa == some .integer

/-- Whether a tile's operands are wide floats. -/
def tileWide (c : TileCfg) : Bool := pairClass c.fa == some .wideFloat

/-- The mode of a tile (R54). -/
def tileMode (c : TileCfg) : OpMode := opMode c.fa c.fw

/-- Output rows of a tile (Table 3-1). -/
def tileRows (c : TileCfg) : Nat := modeRows (tileMode c)

/-- The combined exponent of an activation and a weight scale (R42, R45). -/
def combExp (sa sw : Nat) : Int := scaleExp sa + scaleExp sw

/-- A finite exact value as an integer; group sums of integer tiles have exponent 0. -/
def fvInt : FVal → Int
  | .fin n m e => if n then -(m <<< e.toNat : Nat) else (m <<< e.toNat : Nat)
  | _ => 0

/-- R45: the group sum shifted by `d`, to nearest with ties to even on a right shift; true where non-zero bits were lost. -/
def shiftSum (g : Int) (d : Int) : Int × Bool :=
  if 0 ≤ d then (g * (2 ^ d.toNat : Nat), false)
  else
    let n := (-d).toNat
    let q := rneShift g.natAbs n
    (if g < 0 then -(q : Int) else q, g.natAbs % 2 ^ n ≠ 0)

/-- R45: an INT32 sum that saturates; true where it did. -/
def satInt32 (i : Int) : Int × Bool :=
  if i < -2147483648 then (-2147483648, true)
  else if i > 2147483647 then (2147483647, true)
  else (i, false)

/-- One overflow of a float accumulator (R47): a finite sum of finite terms that left the FP32 range. -/
def overflowed (term acc : FVal) (r : Word) : Nat := if term.isFin && acc.isFin && !(f32Val r).isFin then 1 else 0

/-- One product entering a pin. `last` is set on a group's last slice, and `fill` beside it where the end of the reduction
cut the run short: its zero elements give products of +0 (R39, R489), so that such a group is never −0. `ex` is the group's combined exponent and `e0`
the first group's (R42, R44, R45). -/
def pinStep (c : TileCfg) (a w : FVal) (last fill : Bool) (ex e0 : Int) (p : Pin) : Pin :=
  let prod := a.mul w
  if tileWide c then
    let r := f32Round (prod.add (f32Val p.acc))
    { p with acc := r, sats := p.sats + overflowed prod (f32Val p.acc) r }
  else
    let g := match p.grp with
      | none => prod
      | some s => s.add prod
    let g := if fill then g.add (.fin false 0 0) else g
    if !last then { p with grp := some g }
    else if tileInt c then
      let sh := shiftSum (fvInt g) (ex - e0)
      let r := satInt32 (p.acc.toInt + sh.1)
      { acc := BitVec.ofInt 32 r.1, grp := none, sats := p.sats + (if r.2 then 1 else 0), lost := p.lost || sh.2 }
    else
      let r := f32Round ((g.scale ex).add (f32Val p.acc))
      { p with acc := r, grp := none, sats := p.sats + overflowed g (f32Val p.acc) r }

/-- One row of pins taking a slice. -/
def pinRow (c : TileCfg) (av : FVal) (sa : Nat) (e0a : Int) (last fill : Bool) :
    List (FVal × Nat × Int) → List Pin → List Pin
  | (wv, sw, e0w) :: ws, p :: ps =>
    pinStep c av wv last fill (combExp sa sw) (e0a + e0w) p :: pinRow c av sa e0a last fill ws ps
  | _, ps => ps

/-- Every row of pins taking a slice. -/
def pinRows (c : TileCfg) (last fill : Bool) (ws : List (FVal × Nat × Int)) :
    List (FVal × Nat × Int) → List (List Pin) → List (List Pin)
  | (av, sa, e0a) :: as, r :: rs => pinRow c av sa e0a last fill ws r :: pinRows c last fill ws as rs
  | _, rs => rs

/-- R64: an edge element, its value times its scale, exact in FP32 or an infinity. -/
def edgeF32 (v : FVal) (s : Nat) : Word := f32Round (v.scale (scaleExp s))

/-- R64: an edge sum, in increasing index from +0 with one rounding per addition. -/
def edgeSum (l : List Word) : Word := l.foldl f32Add 0#32

/-- R64: one float checksum cell taking a product. -/
def cellF (a b : Word) (k : ChkCell) : ChkCell :=
  { k with c := f32Fma a b k.c
           m := f32RoundUp (((f32Val a).mul (f32Val b)).abs.add (f32Val k.m)) }

/-- R63: one integer checksum cell taking an exact product. -/
def cellX (a b : FVal) (k : ChkCell) : ChkCell := { k with x := k.x.add (a.mul b) }

/-- Cells of a line of operands against one crossing operand each. -/
def cellsWith (f : α → ChkCell → ChkCell) : List α → List ChkCell → List ChkCell
  | a :: as, k :: ks => f a k :: cellsWith f as ks
  | _, ks => ks

/-- The halves of the output rows that the checksum row checks apart: two in narrow mode, one otherwise (R62, R64). -/
def halves (c : TileCfg) (l : List α) : List (List α) :=
  if tileMode c = .narrow then [l.take 64, l.drop 64] else [l]

/-- Zero products and zero scales have no effect on an exact sum. -/
def exSum (l : List FVal) : FVal := l.foldl FVal.add (.fin false 0 0)

/-- The checksum cells taking a slice. -/
def chkSlice (c : TileCfg) (as ws : List (FVal × Nat)) (t : Tile) : Tile :=
  if tileInt c then
    let a := as.map fun p => p.1.scale (scaleExp p.2)
    let w := ws.map fun p => p.1.scale (scaleExp p.2)
    let colSum := exSum w
    let rs := (halves c a).map exSum
    { t with rowCells := cellsWith (fun (p : FVal × FVal) k => cellX p.1 p.2 k)
                           (rs.flatMap fun r => w.map fun x => (r, x)) t.rowCells
             colCells := cellsWith (fun x k => cellX x colSum k) a t.colCells
             corner := cellsWith (fun r k => cellX r colSum k) rs t.corner }
  else
    let a := as.map fun p => edgeF32 p.1 p.2
    let w := ws.map fun p => edgeF32 p.1 p.2
    let colSum := edgeSum w
    let rs := (halves c a).map edgeSum
    { t with rowCells := cellsWith (fun (p : Word × Word) k => cellF p.1 p.2 k)
                           (rs.flatMap fun r => w.map fun x => (r, x)) t.rowCells
             colCells := cellsWith (fun x k => cellF x colSum k) a t.colCells
             corner := cellsWith (fun r k => cellF r colSum k) rs t.corner }

/-- The scale code an operand stands at: its own where the tensor is scaled, 127 otherwise (R489). -/
def effScale (g s : Nat) : Nat := if g = 0 then 127 else s

/-- The least combined exponent a slice brings (R63's e_min). -/
def sliceMin (as ws : List Nat) : Int :=
  let f := fun (l : List Nat) => l.foldl (fun (m : Int) s => min m (scaleExp s)) 128
  f as + f ws

/-- R55: one slice entering a tile. -/
def tileSlice (s : SliceIn) (t : Tile) : Tile :=
  let c := t.cfg
  let as := (s.a.zip s.sa).map fun p => (elemVal c.fa c.zpa p.1, effScale c.ga p.2)
  let ws := (s.w.zip s.sw).map fun p => (elemVal c.fw c.zpw p.1, effScale c.gw p.2)
  let first := t.done = 0
  let e0r := if first then as.map fun p => scaleExp p.2 else t.e0r
  let e0c := if first then ws.map fun p => scaleExp p.2 else t.e0c
  let fill := (t.done + 1) % runLen c ≠ 0 ∧ t.done + 1 = c.k
  let last := (t.done + 1) % runLen c = 0 ∨ fill
  let asE := (as.zip e0r).map fun p => (p.1.1, p.1.2, p.2)
  let wsE := (ws.zip e0c).map fun p => (p.1.1, p.1.2, p.2)
  let mn := sliceMin (as.map (·.2)) (ws.map (·.2))
  let t' := chkSlice c as ws t
  { t' with done := t.done + 1, e0r := e0r, e0c := e0c
            pins := pinRows c last fill wsE asE t.pins
            emin := some (match t.emin with | none => mn | some m => min m mn) }

/-- Sum of words in FP32, in order from +0 (R64). -/
def f32Sum (l : List Word) : Word := l.foldl f32Add 0#32

/-- Sum of magnitudes, each addition rounded towards +∞ (R64). -/
def f32SumUp (l : List Word) : Word :=
  l.foldl (fun m w => f32RoundUp ((f32Val w).abs.add (f32Val m))) 0#32

/-- A column of a list of rows. -/
def colOf (d : α) (rows : List (List α)) (j : Nat) : List α := rows.map fun r => r.getD j d

/-- A fresh tile: every pin at +0 or zero, or at the initial values of R41; checksum cells at R64's starting values. -/
def tileStart (c : TileCfg) (init : Option (List (List Word))) : Tile :=
  let n := tileRows c
  let rows := match init with
    | some r => r
    | none => List.replicate n (List.replicate 64 0#32)
  let hs := halves c rows
  let rowC := hs.flatMap fun h => (List.range 64).map fun j =>
    ({ c := f32Sum (colOf 0#32 h j), m := f32SumUp (colOf 0#32 h j) } : ChkCell)
  { cfg := c, done := 0
    pins := rows.map fun r => r.map fun w => ({ acc := w } : Pin)
    e0r := List.replicate n 0, e0c := List.replicate 64 0
    rowCells := rowC
    colCells := rows.map fun r => { c := f32Sum r, m := f32SumUp r }
    corner := (List.range hs.length).map fun h =>
      let cs := (rowC.drop (64 * h)).take 64
      { c := f32Sum (cs.map (·.c)), m := cs.foldl (fun m k => f32RoundUp ((f32Val k.m).add (f32Val m))) 0#32 }
    emin := none }

/-- The values a tile drains, with the bits an upset turned (physical upsets come with the command). -/
def drainRows (t : Tile) : List (List Word) := t.pins.map fun r => r.map (·.acc)

/-- A line's verdict: pass, fail, or skipped under R65. -/
inductive LineVerdict where
  | pass | fail | skip
deriving DecidableEq, Repr

/-- R64's tolerance test, in exact arithmetic. -/
def floatLine (nr k nd : Nat) (cell : ChkCell) (s : Word) : LineVerdict :=
  let c := f32Val cell.c
  let m := f32Val cell.m
  let v := f32Val s
  if !c.isFin || !m.isFin || !v.isFin then .skip
  else
    let n := nr + k + nd + 128
    let d := (c.add v.neg).abs
    let tau := (m.mul (.fin false n (-24))).add (.fin false n (-149))
    if tau.lt d then .fail else .pass

/-- Whether an exact value fits 96-bit two's complement with least significant bit `2^emin` (R63, R65). -/
def fits96 (emin : Int) (v : FVal) : Bool :=
  match v with
  | .fin n m e =>
    let i := alignTo emin n m (max e emin)
    decide (-(2 ^ 95 : Nat) ≤ i ∧ i < (2 ^ 95 : Nat))
  | _ => false

/-- R63's exact test of a line against its drained values; a value outside the 96-bit domain skips it (R65). -/
def intLine (emin : Int) (bad : Bool) (cell : ChkCell) (vs : List FVal) : LineVerdict :=
  if bad || !(fits96 emin cell.x) || !(fits96 emin (exSum vs)) || vs.any (fun v => !fits96 emin v) then .skip
  else if cell.x.eqv (exSum vs) then .pass else .fail

/-- The exact value of a drained integer (R45, R46). -/
def drainVal (e0a e0w : Int) (w : Word) : FVal := (FVal.ofInt w.toInt).scale (e0a + e0w)

/-- All lines of a tile with their verdicts, rows first, then columns, then the corner, as the drain closes them. -/
def tileLines (t : Tile) (rows : List (List Word)) : List (LineRef × LineVerdict) :=
  let c := t.cfg
  let nr := if tileWide c then c.k else (c.k + runLen c - 1) / runLen c
  let hs := halves c (rows.zip (t.pins.zip t.e0r))
  let h64 := fun (i : Nat) => 64 * i
  if tileInt c then
    let em := t.emin.getD 0
    let vals := fun (r : List Word × List Pin × Int) =>
      (r.1.zip t.e0c).map fun p => drainVal r.2.2 p.2 p.1
    let bad := fun (ps : List Pin) => ps.any fun p => p.sats != 0 || p.lost
    ((rows.zip (t.pins.zip t.e0r)).zip t.colCells).zipIdx.map (fun p =>
      (⟨.row, p.2⟩, intLine em (bad p.1.1.2.1) p.1.2 (vals p.1.1)))
    ++ hs.zipIdx.flatMap (fun h => (List.range 64).map fun j =>
      (⟨.column, j⟩, intLine em (bad (colOf {} (h.1.map (·.2.1)) j))
        (t.rowCells.getD (h64 h.2 + j) {}) (colOf (.fin false 0 0) (h.1.map vals) j)))
    ++ hs.zipIdx.map (fun h =>
      (⟨.corner, 255⟩, intLine em (h.1.any fun r => bad r.2.1) (t.corner.getD h.2 {})
        (h.1.flatMap vals)))
  else
    let ndc := if tileWide c then 32 else 64
    (rows.zip t.colCells).zipIdx.map (fun p =>
      (⟨.row, p.2⟩, floatLine nr c.k 64 p.1.2 (f32Sum p.1.1)))
    ++ hs.zipIdx.flatMap (fun h => (List.range 64).map fun j =>
      (⟨.column, j⟩, floatLine nr c.k ndc (t.rowCells.getD (h64 h.2 + j) {}) (f32Sum (colOf 0#32 (h.1.map (·.1)) j))))
    ++ hs.zipIdx.map (fun h =>
      (⟨.corner, 255⟩, floatLine nr c.k (64 * ndc) (t.corner.getD h.2 {}) (f32Sum (h.1.flatMap (·.1)))))

/-- The first line that fails, if one does: a tile passes when every line that is not skipped passes (R65). -/
def firstFail (ls : List (LineRef × LineVerdict)) : Option LineRef :=
  (ls.find? fun p => p.2 == .fail).map (·.1)

/-- Lines skipped (CHK_SKIP, R65). -/
def skipCount (ls : List (LineRef × LineVerdict)) : Nat := (ls.filter fun p => p.2 == .skip).length

/-- Overflows and saturations of a tile's accumulators so far (ACC_SAT, R47). -/
def satCount (t : Tile) : Nat := (t.pins.map fun r => (r.map (·.sats)).sum).sum

/-- R46: the exact value of drained element (i, j). -/
def drainedVal (d : Drained) (i j : Nat) : FVal :=
  let w := (d.rows.getD i []).getD j 0#32
  if tileInt d.cfg then drainVal (d.e0r.getD i 0) (d.e0c.getD j 0) w else f32Val w

end Sys2Proof
end

