-- ==== Sys2Proof/Machine/Compute.lean ====
section
/-! DEFINITION. Plan slots: lists and tokens (spec/04_bittings.md R84 to R87), the work of a slot
(spec/02 to 09), and its waits (R104). -/

namespace Sys2Proof

/-! ## Lists -/

/-- The entries of a resource's list. -/
def entriesOf (b : Bitting) (r : Resource) : List Entry := ((b.lists.find? fun p => p.1 == r).map (·.2)).getD []

/-- R85: a list position brought to its next firing: loop heads are opened, finished loop bodies repeated or left, and the
end of the list found. `fuel` covers the two levels of nesting. -/
def settleList (es : List Entry) : Nat → ListPos → ListPos
  | 0, p => p
  | f + 1, p =>
    if p.ended then p
    else
      let atEnd := match p.loops with
        | (st, len, _) :: _ => p.idx == st + len
        | [] => false
      if atEnd then
        match p.loops with
        | (st, len, it) :: ls =>
          if it = 0 then settleList es f { p with loops := ls }
          else settleList es f { p with idx := st, loops := (st, len, it - 1) :: ls }
        | [] => p
      else
        match es[p.idx]? with
        | none => { p with ended := true }
        | some e =>
          if e.kind = 2 then { p with ended := true }
          else if e.kind = 1 then
            settleList es f { p with
              idx := p.idx + 1
              loops := (p.idx + 1, e.operand % 256, e.operand / 256 % 65536) :: p.loops }
          else if p.left = 0 then { p with left := e.rep + 1 }
          else p

/-- Enough steps for any two nested loops to open and close. -/
def settleFuel : Nat := 12

/-- The position after one firing (R85): the last slot of the list in the step ends it (Table 4-6, commit_last). -/
def advanceList (es : List Entry) (e : Entry) (p : ListPos) : ListPos :=
  if p.left ≤ 1 then
    let q := settleList es settleFuel { p with idx := p.idx + 1, left := 0, cause := 0 }
    if e.commitLast && q.loops.isEmpty then { q with ended := true } else q
  else { p with left := p.left - 1, cause := 0 }

/-- The first position of a list. -/
def startList (es : List Entry) : ListPos := settleList es settleFuel {}

/-! ## Tokens -/

/-- No token (R86). -/
def noToken : Nat := 0xFFF

/-- A token's state. -/
def tokenOf (ts : List TokenSt) (k : Nat) : Option TokenSt := ts.find? fun t => t.token == k

/-- Buffers of a token that a consuming slot has released. -/
def readsOf (t : TokenSt) (r : Resource) (idx : Nat) : Nat :=
  ((t.reads.find? fun q => q.1 == r && q.2.1 == idx).map (·.2.2)).getD 0

/-- R87: the token holds a filled buffer that the slot has not yet read. A slot that releases reads its own next buffer; one
that does not reads the oldest occupied one (log entry 13). -/
def waitReady (ts : List TokenSt) (k : Nat) (rel : Bool) (r : Resource) (idx : Nat) : Bool :=
  if k = noToken then true
  else match tokenOf ts k with
    | none => false
    | some t => if rel then decide (readsOf t r idx < t.filled) else decide (t.freed < t.filled)

/-- R87: the token a slot signals has a free buffer. -/
def signalReady (ts : List TokenSt) (k : Nat) : Bool :=
  if k = noToken then true
  else match tokenOf ts k with
    | none => false
    | some t => decide (t.filled < t.freed + t.depth)

/-- Buffers at the front that every consumer has released become free, in rotation. -/
def popFree : Nat → TokenSt → TokenSt
  | 0, t => t
  | f + 1, t =>
    match t.out with
    | 0 :: r => popFree f { t with out := r, freed := t.freed + 1 }
    | _ => t

/-- The `n`-th number of a list lowered by one. -/
def decAt : Nat → List Nat → List Nat
  | _, [] => []
  | 0, x :: xs => (x - 1) :: xs
  | n + 1, x :: xs => x :: decAt n xs

/-- One release of a slot's buffer (R87). -/
def releaseTok (r : Resource) (idx : Nat) (t : TokenSt) : TokenSt :=
  let n := readsOf t r idx
  let t := { t with
    out := decAt (n - t.freed) t.out
    reads := (r, idx, n + 1) :: t.reads.filter fun q => !(q.1 == r && q.2.1 == idx) }
  popFree 4 t

/-- One buffer filled (R87). -/
def fillTok (t : TokenSt) : TokenSt := { t with filled := t.filled + 1, out := t.out ++ [t.consumers] }

/-- A token of the list changed. -/
def updTok (k : Nat) (f : TokenSt → TokenSt) (ts : List TokenSt) : List TokenSt :=
  ts.map fun t => if t.token = k then f t else t

/-- Releases and signal of a firing slot. -/
def fireTokens (e : Entry) (r : Resource) (idx : Nat) (rel : Bool) (ts : List TokenSt) : List TokenSt :=
  let ts := if e.relA && rel && e.waitA != noToken then updTok e.waitA (releaseTok r idx) ts else ts
  let ts := if e.relB && rel && e.waitB != noToken then updTok e.waitB (releaseTok r idx) ts else ts
  if e.signal = noToken then ts else updTok e.signal fillTok ts

/-! ## Elements and scales -/

/-- The address a0 bits [23:12] of a coded tensor (R160). -/
def kwTarget (a0 : Nat) : Nat := a0 / 4096 % 4096

/-- Bytes of block `blk` of a coded tensor at a0, gathered over its lines (R157, R160). -/
def Main.kwBlockAt (m : Main) (r : Ref) (f : Fmt) (blk : Nat) : List Byte :=
  match kwShape f with
  | none => []
  | some (mb, _) =>
    let sz := kwBlockSize mb
    (List.range sz).map fun i =>
      let x := blk % 8 * sz + i
      m.byteAt r.mem (r.addr + kwLineOffset mb (kwTarget r.addr) (blk / 8) (x / 64) + x % 64)

/-- The code of element `i` of a slot's elements. -/
def Main.elemCode (m : Main) (e : ElemSrc) (i : Nat) : Nat :=
  let n := e.first + i * e.step
  if e.keyway then
    match kwShape e.fmt with
    | none => 0
    | some (mb, eb) => (kwBlockExpand mb eb (m.kwBlockAt e.ref e.fmt (n / 128))).getD (n % 128) 0
  else packedGet e.fmt (m.byteAt e.ref.mem) e.ref.addr n

/-- A scale block that failed the skew check: tensor, expected index, and the block found (R123). -/
structure Skew where
  tensorId : Nat
  expect : Nat
  found : ScaleBlock
deriving DecidableEq, Repr

/-- The scale code of line `i` of a scale stream, its block checked first (R122). -/
def Main.scaleCode (m : Main) (s : ScaleSrc) (i : Nat) : Except Skew Nat :=
  let per := groupCount s.g s.d0 1
  let no := (s.line + i) * per + s.k / max 1 s.g
  let blk := scaleBlockOf (m.bytesAt { s.base with addr := s.base.addr + 64 * (no / 16) } 64)
  if skewOk s.tensorId (per * s.rest) (no / 16) blk then .ok (blk.scales.getD (no % 16) 127)
  else .error { tensorId := s.tensorId, expect := no / 16, found := blk }

/-- Scale codes of `n` lines. -/
def Main.scaleCodes (m : Main) (cyl : Nat) (s : ScaleIn) (n : Nat) : Except Skew (List Nat) :=
  match s with
  | .unscaled => .ok (List.replicate n 127)
  | .stream q => (List.range n).mapM (m.scaleCode q)
  | .probs h => .ok ((List.range n).map fun r => Tab.get (fun _ => 127) (m.cyl cyl).probScales (2 * r + h.val))

/-- The value of an element with its scale applied, as it reaches a converter or a register (R51). -/
def Main.elemValue (m : Main) (e : ElemSrc) (s : Option ScaleSrc) (i : Nat) : Except Skew FVal :=
  let v := elemVal e.fmt e.zp (m.elemCode e i)
  match s with
  | none => .ok v
  | some q =>
    match m.scaleCode { q with k := q.k + i } 0 with
    | .ok c => .ok (v.scale (scaleExp c))
    | .error k => .error k

/-- Codes written into packed storage from element `first` on (R31). -/
def Main.writeCodes (m : Main) (r : Ref) (f : Fmt) (first : Nat) (cs : List Nat) : Main :=
  let bits := fmtBits f
  let len := cs.length * bits
  let b0 := first * bits / 8
  let sh := first * bits % 8
  let nb := (sh + len + 7) / 8
  let at_ : Ref := { r with addr := r.addr + b0 }
  let old := leNat (m.bytesAt at_ nb)
  let val := (cs.zipIdx.map fun p => p.1 % 2 ^ bits * 2 ^ (bits * p.2)).sum
  let new := old % 2 ^ sh + (val + old / 2 ^ (sh + len) * 2 ^ len) * 2 ^ sh
  m.write at_ (leBytes nb new)

/-- FP32 words written at a place. -/
def Main.writeWords (m : Main) (r : Ref) (ws : List Word) : Main := m.write r (ws.flatMap fun w => leBytes 4 w.toNat)

/-- An FP32 word at a place. -/
def Main.wordAt (m : Main) (r : Ref) (i : Nat) : Word :=
  BitVec.ofNat 32 (leNat (m.bytesAt { r with addr := r.addr + 4 * i } 4))

/-! ## Outcomes of a slot's work -/

/-- What a slot's work answers: done, a wait with its cause (Table 4-9 order, 0 none), an abort of the instance with its
status and log index (R102), or an address that does not exist. -/
inductive WorkOut where
  | done (m : Main)
  | wait (m : Main) (cause : Nat)
  | abort (m : Main) (status detail : Nat)
  | bad

/-- R123: a scale block that fails its check aborts the instance; the error record names tensor, consumer, expected index
and tags found. -/
def Main.skewAbort (m : Main) (lead consumer : Nat) (k : Skew) : WorkOut :=
  let i := m.inst lead
  let n := m.err.next
  .abort (m.logErr { code := 0x21, status := stSkew, ctx := firstCtx none i, step := i.step, round := i.round,
                     island := 0x80 + lead, extra := k.tensorId,
                     aux1 := k.expect % 2 ^ 24 + consumer * 2 ^ 24
                     aux2 := k.found.indexTag + k.found.tensorTag * 2 ^ 24
                     pasid := m.pasidOf (firstCtx none i) }) stSkew n

/-- The cylinder of a tumbler. -/
def tumCyl (n : Nat) : Nat := n / 4

/-! ## Tumbler slots -/

/-- The initial rows of a tile (R41); an integer tile starts at zero (R45). -/
def Main.initRows (m : Main) (cyl : Nat) (o : TileOpen) : Option (List (List Word)) :=
  let n := tileRows o.cfg
  if tileInt o.cfg then none
  else match o.init with
  | .zero => none
  | .mem r => some ((List.range n).map fun i => (List.range 64).map fun j => m.wordAt r (64 * i + j))
  | .attn row0 col0 => some ((List.range n).map fun i =>
      let row := Tab.get (fun _ => ({} : AttnRow)) (m.cyl cyl).rows (row0 + i)
      (List.range 64).map fun j => row.o.getD (col0 + j) 0#32)

/-- Overflows and saturations counted (ACC_SAT, R47). -/
def Main.countSats (m : Main) (cyl n : Nat) : Main := if n = 0 then m else m.count 0x13 cyl n

/-- One slice entering a tumbler (R54, R55, R58, R60): the ramp must have ended, a tile that has all its slices holds the
edge until its swap, and the first slice opens the tile and its guard (R66). -/
def Main.takeSlice (m : Main) (n : Nat) (o : Option TileOpen) (s : SliceIn) : WorkOut :=
  let t := m.tum n
  if t.ramp ≠ .on then .wait m 0
  else
    match t.tile with
    | some x =>
      if x.cfg.k ≤ x.done then .wait (m.setTum n { t with swapWait := true }) 7
      else
        let y := tileSlice s x
        .done ((m.setTum n { t with tile := some y, slices := t.slices ++ [s] }).countSats (tumCyl n) (satCount y - satCount x))
    | none =>
      match o with
      | none => .wait m 0
      | some o =>
        let x := tileStart o.cfg (m.initRows (tumCyl n) o)
        let y := tileSlice s x
        .done ((m.setTum n { t with tile := some y, start := some x, slices := [s], members := o.members
                                    guard := o.guard }).countSats (tumCyl n) (satCount y))

/-- A slice entry: operands and scale codes fetched, their blocks checked before use (R122), then the slice. -/
def Main.sliceWork (m : Main) (lead n : Nat) (o : Option TileOpen) (aCodes : List Nat) (sa : ScaleIn) (w : ElemSrc)
    (sw : ScaleIn) : WorkOut :=
  match m.scaleCodes (tumCyl n) sa aCodes.length with
  | .error k => m.skewAbort lead 0 k
  | .ok ca =>
    match m.scaleCodes (tumCyl n) sw 64 with
    | .error k => m.skewAbort lead 1 k
    | .ok cw => m.takeSlice n o { a := aCodes, sa := ca, w := (List.range 64).map (m.elemCode w), sw := cw }

/-- Rows a slice of a tumbler has: those of its open tile, or of the tile it opens. -/
def Main.sliceRows (m : Main) (n : Nat) (o : Option TileOpen) : Nat :=
  match (m.tum n).tile with
  | some x => tileRows x.cfg
  | none => (o.map fun x => tileRows x.cfg).getD 64

/-- The line of a window buffer slot; what no fill loaded reads as zero (R184). -/
def windowLine (t : Tum) (half chan seg : Nat) : List Byte :=
  Tab.get (fun _ => ([] : List Byte)) t.window (half * 128 + chan * 4 + seg)

/-- R184: a window fill: one scratchpad line into a window buffer slot. -/
def Main.fillWindow (m : Main) (cyl : Nat) (op : FillOp) : Main :=
  let n := 4 * cyl + op.tumbler
  let t := m.tum n
  let bs := (List.range 64).map fun i => m.sp.rd (spKey cyl (op.line * 64 + i))
  m.setTum n { t with window := Tab.put (fun _ => []) (op.half * 128 + op.chan * 4 + op.seg) bs t.window }

/-- R186: the activation codes of one firing of a window slice entry: four segments of T elements of the current channel. -/
def winCodes (t : Tum) (f : Fmt) (zp rows : Nat) (op : WinOp) (kxi chan : Nat) : List Nat :=
  let segs := (List.range 4).flatMap fun sg =>
    let bs := windowLine t op.half chan sg
    (List.range rows).map fun i => if bs.isEmpty then 0 else packedGet f (fun a => bs.getD a 0#8) 0 i
  (List.range rows).map fun r => winElem f zp op segs kxi r

/-- R184, R186: the last firing of the last entry on a half releases it: its channel slots count as unloaded again. -/
def Main.dropHalf (m : Main) (n half : Nat) : Main :=
  let t := m.tum n
  m.setTum n { t with window := t.window.filter fun p => p.1 / 128 ≠ half }

/-! ## Pieces and conversions -/

/-- The drain buffer of a tumbler. -/
def bufOf (t : Tum) (b : Nat) : BufSt := if b = 0 then t.buf0 else t.buf1

/-- R58: a buffer freed by its last reader; a narrow tile frees both. -/
def freeBuf (t : Tum) (b : Nat) : Tum :=
  match bufOf t b with
  | .ready d =>
    if tileMode d.cfg = .narrow then { t with buf0 := .empty, buf1 := .empty }
    else if b = 0 then { t with buf0 := .empty } else { t with buf1 := .empty }
  | _ => t

/-- Whether every drain buffer of the pieces is released (R59). -/
def Main.piecesReady (m : Main) (cyl : Nat) (ps : List Piece) : Bool :=
  ps.all fun p =>
    match p with
    | .drain t b _ _ _ _ => (match bufOf (m.tum (4 * cyl + t.val)) b.val with | .ready _ => true | _ => false)
    | _ => true

/-- The values of a piece. -/
def Main.pieceVals (m : Main) (cyl : Nat) : Piece → Except Skew (List FVal)
  | .drain t b row col n _ =>
    match bufOf (m.tum (4 * cyl + t.val)) b.val with
    | .ready d => .ok ((List.range n).map fun i => drainedVal d row (col + i))
    | _ => .ok []
  | .vreg v lane n => .ok ((List.range n).map fun i => f32Val (Tab.get (fun _ => 0#32) (m.cyl cyl).vregs (256 * v.val + lane + i)))
  | .elems e n s => (List.range n).mapM (m.elemValue e s)

/-- The values of several pieces in order. -/
def Main.piecesVals (m : Main) (cyl : Nat) : List Piece → Except Skew (List FVal)
  | [] => .ok []
  | p :: ps =>
    match m.pieceVals cyl p, Main.piecesVals m cyl ps with
    | .ok a, .ok b => .ok (a ++ b)
    | .error k, _ => .error k
    | _, .error k => .error k

/-- The buffers that pieces read for the last time, freed. -/
def Main.freePieces (m : Main) (cyl : Nat) (ps : List Piece) : Main :=
  ps.foldl (fun m p =>
    match p with
    | .drain t b _ _ _ true => m.setTum (4 * cyl + t.val) (freeBuf (m.tum (4 * cyl + t.val)) b.val)
    | _ => m) m

/-- A tensor's run record in an instance. -/
def tensorRun (i : Inst) (id : Nat) : TensorRun := ((i.tensors.find? fun p => p.1 == id).map (·.2)).getD {}

/-- A tensor's run record replaced. -/
def setTensorRun (i : Inst) (id : Nat) (x : TensorRun) : Inst :=
  { i with tensors := (i.tensors.filter fun p => p.1 != id) ++ [(id, x)] }

/-- Whether a hinge is in force host-assisted (R295): bit h − 1 of HINGE_NOW. -/
def Main.assisted (m : Main) (h : Nat) : Bool := m.fld F.HINGE_NOW_in_force / 2 ^ (h - 1) % 2 == 1

/-- The bitting an instance runs. -/
def Main.bittingOf (m : Main) (i : Inst) : Option Bitting := (m.plan i.handle).bitting

/-- Whether the base of an instance has a companion bound to every context of the instance (R120). -/
def Main.companionOf (m : Main) (i : Inst) : Option Nat :=
  (m.plans.find? fun p => p.2.valid && p.2.role == 1 && p.2.base == i.handle
    && i.members.all fun x => p.2.contexts.contains x.ctx).map (·.1)

/-- R113, R116: a converted group taken into the tensor's statistics, closed and judged with the last one. A misfit of a
WIDEN tensor in a base run awaits its bundle (Table 5-9); without a companion it is an EVENT. -/
def Main.countGroup (m : Main) (lead : Nat) (dst : DstTensor) (g : GroupOut) (assist last : Bool) : Main :=
  let i := m.inst lead
  let x := tensorRun i dst.tensorId
  let scaled := dst.group != 0
  let gt := F.CLIP_THRESH_group_thresh.of (m.ward lead).thresh
  let st := clipAdd scaled gt g x.stat
  let st := if last then clipClose scaled gt st else st
  let mis := last && misfits (F.CLIP_THRESH_tensor_thresh.of (m.ward lead).thresh) gt st
  let i := setTensorRun i dst.tensorId { x with
    stat := st, closed := x.closed || last, misfit := x.misfit || mis, assisted := x.assisted || assist
    firstPass := dst.firstPass, widen := dst.widen }
  let i := if mis && dst.widen && i.kind == .plan then
      if (m.companionOf i).isSome then { i with widenTensor := some dst.tensorId } else { i with noCompanion := true }
    else i
  m.setInst lead i

/-- R106, R110: a first pass's scale and clipped share written into the group's scale block. -/
def Main.writeScale (m : Main) (dst : DstTensor) (no s share : Nat) : Main :=
  let at_ : Ref := { dst.scaleBase with addr := dst.scaleBase.addr + 64 * (no / 16) }
  let old := scaleBlockOf (m.bytesAt at_ 64)
  let fresh := no % 16 = 0
  let sc := if fresh then List.replicate 16 0 else pad16 old.scales
  let sh := if fresh then List.replicate 16 0 else pad16 old.shares
  m.write at_ (scaleBlockBytes { indexTag := no / 16, tensorTag := dst.tensorId, count := expectCount dst.groups (no / 16)
                                 firstPass := true, scales := sc.set (no % 16) s, shares := sh.set (no % 16) share })

/-- The group's scale and its effects: learned scales are read and checked (R108, R122), a first pass finds one (R110) or
asks host software under hinge H3 (R111). -/
def Main.convertScale (m : Main) (lead : Nat) (dst : DstTensor) (no : Nat) (vs : List FVal) : Except WorkOut (Nat × Bool) :=
  if dst.group = 0 then .ok (127, false)
  else if !dst.firstPass then
    let blk := scaleBlockOf (m.bytesAt { dst.scaleBase with addr := dst.scaleBase.addr + 64 * (no / 16) } 64)
    if skewOk dst.tensorId dst.groups (no / 16) blk then .ok (blk.scales.getD (no % 16) 127, false)
    else .error (m.skewAbort lead 2 { tensorId := dst.tensorId, expect := no / 16, found := blk })
  else if (m.ward lead).h3 then
    let i := m.inst lead
    match i.h3Scales.find? fun q => q.1 == dst.tensorId && q.2.1 == no with
    | some q => .ok (q.2.2, true)
    | none =>
      if i.h3Asked.contains (dst.tensorId, no) then .error (.wait m 0)
      else
        let g := scanGroup vs
        let ws := ([g.amax, g.pmax, g.nmax].flatMap fun v => leBytes 4 (f32Round v).toNat) ++ List.replicate 4 0#8
        let hw := firstPassScale dst.fmt dst.zp g
        let r : HingeReq := { hinge := 3, args := [lead, dst.tensorId, no, i.handle, fmtCode dst.fmt, dst.zp, hw]
                              data := List.replicate (16 * (no % 16)) 0#8 ++ ws, step := i.step + i.round * 2 ^ 48 }
        .error (.wait { m.setInst lead { i with h3Asked := (dst.tensorId, no) :: i.h3Asked } with hq := m.hq ++ [r] } 0)
  else .ok (firstPassScale dst.fmt dst.zp (scanGroup vs), false)

/-- A conversion slot: one group, or a run of an unscaled tensor (R50, R110, R112, R113). -/
def Main.convertWork (m : Main) (lead cyl : Nat) (src : List Piece) (dst : DstTensor) (first no : Nat) (last : Bool) : WorkOut :=
  if !m.piecesReady cyl src then .wait m 0
  else
    match m.piecesVals cyl src with
    | .error k => m.skewAbort lead 2 k
    | .ok vs =>
      match m.convertScale lead dst no vs with
      | .error w => w
      | .ok (s, asst) =>
        let g := convertGroup dst.fmt dst.infOk dst.zp s vs
        let m := m.writeCodes dst.base dst.fmt first g.codes
        let m := if dst.group ≠ 0 ∧ dst.firstPass then m.writeScale dst no g.scale (clipShare g.clipped g.counted) else m
        let m := m.count 0x14 cyl g.nans
        let m := if blockScaled dst.fmt then m.countGroup lead dst g asst last else m
        .done (m.freePieces cyl src)

/-! ## Vector slots -/

/-- A vector register's lanes. -/
def vreg (c : Cyl) (v : Nat) : List Word := (List.range 256).map fun i => Tab.get (fun _ => 0#32) c.vregs (256 * v + i)

/-- Lanes of a register replaced from lane 0 on. -/
def setVreg (c : Cyl) (v : Nat) (ws : List Word) : Cyl :=
  { c with vregs := ws.zipIdx.foldl (fun t p => Tab.put (fun _ => 0#32) (256 * v + p.2) p.1 t) c.vregs }

/-- Whether a lane is active under a mask; every lane where none is named. -/
def laneOn (c : Cyl) (k : Option (Fin 8)) (i : Nat) : Bool :=
  match k with
  | none => true
  | some k => (Tab.get (fun _ => (0 : BitVec 256)) c.masks k.val).getLsbD i

/-- A lane operation over the active lanes; a compare also sets a mask (R53, R76). -/
def vecLanes (c : Cyl) (op : VecOp) (d a b x : Nat) (k setK : Option (Fin 8)) : Cyl :=
  let ra := vreg c a
  let rb := vreg c b
  let rx := vreg c x
  let rd := vreg c d
  let res := (List.range 256).map fun i =>
    if laneOn c k i then vecOp op (ra.getD i 0) (rb.getD i 0) (rx.getD i 0) else rd.getD i 0
  let c' := setVreg c d res
  match setK with
  | none => c'
  | some q =>
    let bits := (res.zipIdx.map fun p => if laneOn c k p.2 && p.1 == 0x3F800000#32 then 2 ^ p.2 else 0).sum
    { c' with masks := Tab.put (fun _ => 0) q.val (BitVec.ofNat 256 bits) c'.masks }

/-- A reduction over registers (R77): the result stands in lane 0. -/
def vecReduce (c : Cyl) (op : RedOp) (d : Nat) (srcs : List (Fin 32)) (k : Option (Fin 8)) : Cyl :=
  let rs := srcs.map fun s => redReg op ((vreg c s.val).zipIdx.map fun p => (p.1, laneOn c k p.2))
  setVreg c d [redRegs op rs]

/-- A window operation of R191 over up to 256 channels. -/
def Main.poolWork (m : Main) (lead cyl : Nat) (op : PoolOp) (d lanes full : Nat) (start : Option (Fin 32))
    (px : List (ElemSrc × Option ScaleSrc)) (ws : List ElemSrc) : WorkOut :=
  let c := m.cyl cyl
  let cols : Except Skew (List (List FVal)) :=
    px.mapM fun p => (List.range lanes).mapM fun i => m.elemValue p.1 p.2 i
  match cols with
  | .error k => m.skewAbort lead 2 k
  | .ok cs =>
    let out := (List.range lanes).map fun i =>
      let st := match start with
        | some v => (vreg c v.val).getD i 0#32
        | none => 0#32
      poolLane op st full (cs.zipIdx.map fun q =>
        (f32Round (q.1.getD i .nan), match ws[q.2]? with
          | some w => f32Round (elemVal w.fmt w.zp (m.elemCode w i))
          | none => 0#32))
    .done (m.setCyl cyl (setVreg c d out))

/-! ## Moves -/

/-- A memory move (R70, R150, R190). -/
def Main.moveWork (m : Main) (op : MoveOp) (src : ElemSrc) (dst : Ref) (first : Nat) : Main :=
  let put := fun (m : Main) (i c : Nat) => m.writeCodes dst src.fmt (first + i) [c]
  let z0 := zeroCode src.fmt src.zp
  match op with
  | .copy n st =>
    if st = 1 then m.writeCodes dst src.fmt first ((List.range n).map (m.elemCode src))
    else (List.range n).foldl (fun a i => put a (i * st) (m.elemCode src i)) m
  | .zeros n st =>
    if st = 1 then m.writeCodes dst src.fmt first (List.replicate n z0)
    else (List.range n).foldl (fun a i => put a (i * st) z0) m
  | .fmcEnc n d0 d1 rest => m.write dst (fmcEncode src.fmt n d0 d1 rest (m.elemCode src))
  | .fmcDec n d0 d1 rest =>
    let bytes := m.bytesAt src.ref ((d0 / 8 * (d1 / 8) * rest + 31) / 32 * fmcUnitSize n)
    (fmcDecode src.fmt n d0 d1 rest bytes).foldl (fun a p => put a p.1 p.2) m
  | .s2c b c w h planar =>
    let co := c * b * b
    let wo := (w + b - 1) / b
    let ho := (h + b - 1) / b
    m.writeCodes dst src.fmt first ((List.range (co * wo * ho)).map fun i =>
      let s := s2cSource b c (i % co) (i / co % wo) (i / co / wo)
      if s.2.1 < w ∧ s.2.2 < h then m.elemCode src (pixelIndex planar c w h s) else z0)
  | .c2s b c w h wOut hOut planar =>
    let co := c / (b * b)
    m.writeCodes dst src.fmt first ((List.range (co * wOut * hOut)).map fun i =>
      let s := c2sSource b co (i % co) (i / co % wOut) (i / co / wOut)
      m.elemCode src (pixelIndex planar c w h s))

/-! ## Attention -/

/-- An attention row state. -/
def attnRow (c : Cyl) (r : Nat) : AttnRow := Tab.get (fun _ => {}) c.rows r

/-- An attention row state replaced. -/
def setAttnRow (c : Cyl) (r : Nat) (x : AttnRow) : Cyl := { c with rows := Tab.put (fun _ => {}) r x c.rows }

/-- One row of a softmax block (R199 to R201): its new state, its P′ codes and scales. -/
def Main.softRow (m : Main) (cyl : Nat) (d : Drained) (op : SoftOp) (row0 keys keyPos : Nat) (bits : Option Ref)
    (vFmt : Fmt) (dims : Nat) (i q : Nat) : AttnRow × Probs :=
  let r := if op.first then { o := List.replicate dims 0#32 } else attnRow (m.cyl cyl) (row0 + i)
  let s := (List.range 64).map fun j =>
    let bit := match bits with
      | some b => (m.byteAt b.mem (b.addr + (i * keys + keyPos + j) / 8)).getLsbD ((i * keys + keyPos + j) % 8)
      | none => true
    ((d.rows.getD i []).getD j 0#32, keyAllowed op keys q (keyPos + j) bit)
  softBlock op.c vFmt s r

/-- A softmax block entry (Table 9-2): every row of the drained scores tile, in order. P′ is laid out one line per key
position for the values product. -/
def Main.softWork (m : Main) (cyl : Nat) (op : SoftOp) (t b row0 keys keyPos : Nat) (qs : List Nat) (bits : Option Ref)
    (vFmt : Fmt) (dims : Nat) (dst : Ref) (last : Bool) : WorkOut :=
  match bufOf (m.tum (4 * cyl + t)) b with
  | .ready d =>
    let res := qs.zipIdx.map fun p => m.softRow cyl d op row0 keys keyPos bits vFmt dims p.2 p.1
    let c := res.zipIdx.foldl (fun c p => setAttnRow c (row0 + p.2) p.1.1) (m.cyl cyl)
    let c := { c with probScales := res.zipIdx.foldl (fun tb p =>
      Tab.put (fun _ => 127) (2 * p.2 + 1) (p.1.2.scales.getD 1 127)
        (Tab.put (fun _ => 127) (2 * p.2) (p.1.2.scales.getD 0 127) tb)) c.probScales }
    let m := m.setCyl cyl c
    let rows := tileRows d.cfg
    let f := (res.head?.map (·.2.fmt)).getD .bf16
    let m := (List.range 64).foldl (fun m j =>
      m.writeCodes dst f (j * rows) ((List.range rows).map fun i =>
        (res[i]?.map fun p => p.2.codes.getD j 0).getD 0)) m
    .done (if last then m.setTum (4 * cyl + t) (freeBuf (m.tum (4 * cyl + t)) b) else m)
  | _ => .wait m 0

/-- The drained values product taken back into the rows' partial outputs; a row whose block was masked throughout keeps
its own (R200). -/
def Main.attnTake (m : Main) (cyl t b row0 col0 : Nat) (last : Bool) : WorkOut :=
  match bufOf (m.tum (4 * cyl + t)) b with
  | .ready d =>
    let c := d.rows.zipIdx.foldl (fun c p =>
      let x := attnRow c (row0 + p.2)
      setAttnRow c (row0 + p.2) (if x.idle then x else { x with o := x.o.take col0 ++ p.1 ++ x.o.drop (col0 + 64) })) (m.cyl cyl)
    let m := m.setCyl cyl c
    .done (if last then m.setTum (4 * cyl + t) (freeBuf (m.tum (4 * cyl + t)) b) else m)
  | _ => .wait m 0

/-- The finish of rows (R202, R204): outputs and statistics; each NaN row adds one to ATTN_NAN. -/
def Main.softFinishWork (m : Main) (cyl row0 rows : Nat) (out stats : Ref) : Main :=
  (List.range rows).foldl (fun m i =>
    let x := attnRow (m.cyl cyl) (row0 + i)
    let f := softFinish x
    let m := m.writeWords { out with addr := out.addr + 4 * i * x.o.length } f.1
    let m := m.writeWords { stats with addr := stats.addr + 8 * i } [f.2.1, f.2.2]
    if x.nan then m.count 0x15 cyl 1 else m) m

/-- The backward pass of one row (R222). -/
def Main.attnBackWork (m : Main) (keys dims : Nat) (t dP dO o ml pOut dSOut : Ref) (allowed : List Bool) : Main :=
  let p := (List.range keys).map fun j => backProb (m.wordAt ml 0) (m.wordAt ml 1) (m.wordAt t j) (allowed.getD j false)
  let d := backD ((List.range dims).map (m.wordAt dO)) ((List.range dims).map (m.wordAt o))
  let ds := backDS p ((List.range keys).map (m.wordAt dP)) d
  let nan := (f32Val (m.wordAt ml 0)).isNan || (f32Val (m.wordAt ml 1)).isNan
  (m.writeWords pOut p).writeWords dSOut (if nan then ds.map fun _ => f32Nan else ds)

/-! ## Keys and values -/

/-- First byte of a pool page (R206). -/
def Main.pageAddr (m : Main) (p : Nat) : Nat := (m.fld F.PAGE_POOL_BASE_base + p) * 0x10000

/-- The page a context has reserved for the step and not yet written (R211). -/
def Main.takeReserved (m : Main) (lead c : Nat) : Option (Nat × Main) :=
  let i := m.inst lead
  match i.reserved.find? fun q => q.1 == c with
  | none => none
  | some q => some (q.2, m.setInst lead { i with reserved := i.reserved.erase q })

/-- The version A or B of a slot's header that the step writes: the uncommitted one (R95, R208). -/
def hdrRef (version : Bool) (s : Carried) : Ref := if version then s.a else s.b

/-- Table 9-5's header. -/
def kvHeader (fill pages c layer kv : Nat) : List Byte :=
  leBytes 1 fill ++ List.replicate 3 0#8 ++ leBytes 4 pages ++ leBytes 2 c ++ leBytes 2 layer ++ leBytes 1 kv
    ++ List.replicate 51 0#8

/-- Rows a stream's slot holds after the step's slots so far. -/
def rowsNow (i : Inst) (c s fill : Nat) : Nat :=
  ((i.newRows.find? fun q => q.1 == c && q.2.1 == s).map (·.2.2)).getD fill

/-- Rows of a stream recorded for the step. -/
def setRows (i : Inst) (c s n : Nat) : Inst :=
  { i with newRows := (c, s, n) :: i.newRows.filter fun q => !(q.1 == c && q.2.1 == s) }

/-- A page's key and value rows written whole (R206, R209). -/
def Main.writePage (m : Main) (p w : Nat) (keys vals : List Byte) : Main :=
  (m.write ⟨.stack, m.pageAddr p + pageKeyRow w 0⟩ keys).write ⟨.stack, m.pageAddr p + pageValueRow w 0⟩ vals

/-- One new position's key and value row (R208, R209): appended to the slot; the row that fills the page writes the page
from the slot's rows. The uncommitted header follows. -/
def Main.kvRowWork (m : Main) (lead c si : Nat) (key value : Ref) : WorkOut :=
  let x := m.ctx c
  match x.streams[si]? with
  | none => .wait m 0
  | some s =>
    match s.slot with
    | none => .wait m 0
    | some sl =>
      let i := m.inst lead
      let n := rowsNow i c si s.fill
      let lb := (sl.kvSlot.map fun q => q.2.2.2).getD 0
      let keys : Ref := { sl.a with addr := sl.a.addr + 128 + lb }
      let vals : Ref := { keys with addr := keys.addr + 32 * s.width }
      let m := (m.write { keys with addr := keys.addr + n * s.width } (m.bytesAt key s.width)).write
        { vals with addr := vals.addr + n * s.width } (m.bytesAt value s.width)
      let newPg := (i.newPages.filter fun q => q.1 == c && q.2.1 == si).length
      if n + 1 = 32 then
        match m.takeReserved lead c with
        | none => .wait m 0
        | some (p, m) =>
          let m := m.writePage p s.width (m.bytesAt keys (32 * s.width)) (m.bytesAt vals (32 * s.width))
          let m := m.write { sl.a with addr := sl.a.addr + 128 + 4 * (s.pages.length + newPg) } (leBytes 4 p)
          let i := m.inst lead
          let m := m.setInst lead { setRows i c si 0 with newPages := i.newPages ++ [(c, si, p)] }
          .done (m.write (hdrRef x.version sl) (kvHeader 0 (s.pages.length + newPg + 1) c s.layer s.kvGroup))
      else
        let m := m.setInst lead (setRows i c si (n + 1))
        .done (m.write (hdrRef x.version sl) (kvHeader (n + 1) (s.pages.length + newPg) c s.layer s.kvGroup))

/-- A whole page passed straight from the scratchpad to its pool page and appended to the slot's list (R209). -/
def Main.kvPageWork (m : Main) (lead c si : Nat) (key value : Ref) : WorkOut :=
  let x := m.ctx c
  match x.streams[si]? with
  | none => .wait m 0
  | some s =>
    match m.takeReserved lead c with
    | none => .wait m 0
    | some (p, m) =>
      let m := m.writePage p s.width (m.bytesAt key (32 * s.width)) (m.bytesAt value (32 * s.width))
      let i := m.inst lead
      let newPg := (i.newPages.filter fun q => q.1 == c && q.2.1 == si).length
      let n := s.pages.length + newPg
      let m := m.setInst lead { i with newPages := i.newPages ++ [(c, si, p)] }
      match s.slot with
      | none => .done m
      | some sl => .done ((m.write { sl.a with addr := sl.a.addr + 128 + 4 * n } (leBytes 4 p)).write (hdrRef x.version sl)
          (kvHeader (rowsNow i c si s.fill) (n + 1) c s.layer s.kvGroup))

/-- A page read: an uncorrectable line gives zeros, drops the columns from the page's index on, and keeps the member from
committing (Table 9-7). -/
def Main.kvReadWork (m : Main) (lead c si j : Nat) (ue : Bool) : Main :=
  if !ue then m
  else
    let x := m.ctx c
    let s := x.streams.getD si { layer := 0, kvGroup := 0, width := 64 }
    let i := m.inst lead
    let m := m.logErr { code := 0x15, ctx := 0xFFFF, step := i.step, round := i.round, extra := s.layer
                        aux1 := s.pages.getD j 0, aux2 := 32 * j, pasid := x.tenant }
    let m := m.dropFrom c j (some x.tenant) false
    m.setInst lead { m.inst lead with members := (m.inst lead).members.map fun y => if y.ctx = c then { y with noCommit := true } else y }

/-! ## Host-memory tensors -/

/-- A collective's result (R316, Table 14-6): `contrib` gives every unit's contribution by chain address, this unit's own
being read from `src`. -/
def Main.collectiveWork (m : Main) (lead id : Nat) (contrib : List (List Byte)) (src dst : Ref) : Main :=
  match (m.bittingOf (m.inst lead)).bind fun b => b.collectives.find? fun k => k.id == id with
  | none => m
  | some k =>
    let all := contrib.set (m.fld F.LANIZA_ADDR_addr) (m.bytesAt src k.bytes)
    match k.kind with
    | 1 => m.write dst all.flatten
    | 2 => m.write dst (all.getD k.root [])
    | _ =>
      let word := fun (bs : List Byte) (i : Nat) => BitVec.ofNat 32 (leNat ((bs.drop (4 * i)).take 4))
      let add := fun (i : Nat) =>
        match all with
        | [] => 0#32
        | x :: xs => xs.foldl (fun a b => f32Add a (word b i)) (word x i)
      m.write dst ((List.range (k.bytes / 4)).flatMap fun i => leBytes 4 (add i).toNat)

/-- A member by its berth number. -/
def memberOf (i : Inst) (b : Nat) : Option Member := i.members.find? fun x => x.berth == b

/-- R276, R492: the buffer a member's tier-3 tensor reaches: the RUN's input or output, or the token history in a recompute. -/
def Main.bufferOf (m : Main) (x : Member) (out : Bool) : Nat :=
  let c := m.ctx x.ctx
  if x.recompute then c.entry.histBase + 4 * x.pos0
  else match c.head with
    | some d => d.field (if out then 0x28 else 0x20) 8
    | none => 0

/-- A member given a fault status with the log index of its cause (R101). -/
def Main.faultBerth (m : Main) (lead b st detail : Nat) : Main := m.setInst lead (faultMembers (some [b]) st detail (m.inst lead))

/-- A tier-3 read (R134, R417): bytes of the buffer; a range outside the tenant's windows is not read, gives zeros, and
faults the member at commit. -/
def Main.tier3ReadWork (m : Main) (lead b : Nat) (out : Bool) (off n : Nat) (dst : Ref) : Main :=
  match memberOf (m.inst lead) b with
  | none => m
  | some x =>
    let p := m.pasidOf x.ctx
    let a := m.bufferOf x out + off
    if dmaOkIn (m.ward lead).prot p a n then m.write dst (m.tenantRd p a n)
    else
      let k := m.err.next
      ((m.logDma x.ctx stProtection 1 a).faultBerth lead b stProtection k).write dst (List.replicate n 0#8)

/-- R134: a tier-3 read that times out or that the host refuses: zeros, an error record, and the fault of every member whose rows
the tensor serves, at commit. -/
def Main.tier3BadWork (m : Main) (lead : Nat) (bs : List Nat) (n : Nat) (dst : Ref) : Main :=
  let hit := fun (x : Member) => bs.contains x.berth
  match (m.inst lead).members.find? hit with
  | none => m.write dst (List.replicate n 0#8)
  | some x =>
    let k := m.err.next
    let m := (m.logDma x.ctx stProtection 1 (m.bufferOf x false)).write dst (List.replicate n 0#8)
    m.setInst lead (faultMembers (some bs) stProtection k (m.inst lead))

/-- A tier-3 write (R17, R417): posted to the member's output buffer; a recompute writes none (R285). -/
def Main.tier3WriteWork (m : Main) (lead b off : Nat) (src : Ref) (n : Nat) : Main :=
  match memberOf (m.inst lead) b with
  | none => m
  | some x =>
    let p := m.pasidOf x.ctx
    let a := m.bufferOf x true + off
    if x.recompute then m
    else if dmaOkIn (m.ward lead).prot p a n then m.tenantWr p a (m.bytesAt src n)
    else
      let k := m.err.next
      (m.logDma x.ctx stProtection 1 a).faultBerth lead b stProtection k

/-! ## Weight fetches -/

/-- R173, R174: an expander's open unit after `lines` more of its lines are read; a unit read whole is open no longer. -/
def openUnit (us : List (Nat × Nat × Nat)) (ch unit lines total : Nat) : List (Nat × Nat × Nat) :=
  let n := ((us.find? fun u => u.1 == ch && u.2.1 == unit).map (·.2.2)).getD 0 + lines
  let rest := us.filter fun u => u.1 != ch
  if total ≤ n then rest else (ch, unit, n) :: rest

/-- A channel fetch (R135, R144, R145, R176): lines of a SEALED region may be read; a HELD region holds the slot; a coded
unit's tables are checked before any element is expanded. -/
def Main.fetchWork (m : Main) (lead ward ch : Nat) (region : Option (Fin 8192)) (addr lines : Nat)
    (kw : Option (Nat × Fmt)) : WorkOut :=
  if 0x1200000000 < addr + 64 * lines then .bad
  else
    let held := match region with
      | some r => (m.region r.val).st == RegionSt.held
      | none => false
    if held then
      let i := m.inst lead
      let r := (region.map (·.val)).getD 0
      .wait (m.setInst lead { i with heldRegions := if i.heldRegions.contains r then i.heldRegions else r :: i.heldRegions }) 2
    else
      match kw with
      | none => .done m
      | some (blk, f) =>
        let e := ((kwShape f).map (·.2)).getD 5
        let bad := (List.range 8).find? fun k => !(kwValid f e (kwBlockTable (m.kwBlockAt ⟨.stack, addr⟩ f (blk / 8 * 8 + k))))
        match bad with
        | none => .done (m.updWard ward fun x => { x with openUnits := openUnit x.openUnits ch (blk / 8) lines (((kwShape f).map fun s => kwUnitLines s.1).getD 0) })
        | some k =>
          let i := m.inst lead
          let n := m.err.next
          let m := m.logErr { code := 0x22, status := stPlan, ctx := firstCtx none i, step := i.step, round := i.round
                              island := 0xA0 + ch / 32, extra := (region.map (·.val)).getD 0, aux1 := ch
                              aux2 := blk / 8 * 8 + k, pasid := m.pasidOf (firstCtx none i) }
          .abort (m.setFld F.KEYWAY_STATUS_table_err 1) stPlan n

/-! ## One slot -/

/-- The ward whose instance a resource belongs to. -/
def resWard : Resource → Nat
  | .bank c _ => c.val / 8
  | .tumbler n => n.val / 32
  | .vec c => c.val / 8
  | .ring w => w.val
  | .lane w _ => w.val
  | .wsPort w _ => w.val
  | .chan w _ => w.val

/-- The cylinder a resource lies in, or the ward's first cylinder for ward resources. -/
def resCyl : Resource → Nat
  | .bank c _ => c.val
  | .tumbler n => n.val / 4
  | .vec c => c.val
  | r => resWard r * 8

/-- The tumbler of a resource, 0 where it is none. -/
def tumNo : Resource → Nat
  | .tumbler n => n.val
  | _ => 0

/-- The island code of a resource (Table 1-6). -/
def resIsland : Resource → Nat
  | .bank c _ => c.val
  | .tumbler n => n.val / 4
  | .vec c => c.val
  | r => 0x80 + resWard r

/-- Whether a resource is one that stops for a replay pass (Table 3-5, order 3). -/
def wardResource : Resource → Bool
  | .ring _ | .lane _ _ | .wsPort _ _ | .chan _ _ => true
  | _ => false

/-- Elements a piece brings. -/
def pieceLen : Piece → Nat
  | .drain _ _ _ _ n _ => n
  | .vreg _ _ n => n
  | .elems _ n _ => n

/-- The bytes that `n` elements of packed storage from element `first` on touch (R31). -/
def elemSpan (r : Ref) (f : Fmt) (first n : Nat) : Ref × Nat :=
  let bits := fmtBits f
  ({ r with addr := r.addr + first * bits / 8 }, (first * bits % 8 + n * bits + 7) / 8)

/-- The ranges a move writes. -/
def moveWrites (src : ElemSrc) (dst : Ref) (first : Nat) : MoveOp → List (Ref × Nat)
  | .copy n st => [elemSpan dst src.fmt first ((n - 1) * max 1 st + 1)]
  | .zeros n st => [elemSpan dst src.fmt first ((n - 1) * max 1 st + 1)]
  | .fmcEnc n d0 d1 rest => [(dst, (d0 / 8 * (d1 / 8) * rest + 31) / 32 * fmcUnitSize n)]
  | .fmcDec _ d0 d1 rest => [elemSpan dst src.fmt first (d0 * d1 * rest)]
  | .s2c b c w h _ => [elemSpan dst src.fmt first (c * b * b * ((w + b - 1) / b) * ((h + b - 1) / b))]
  | .c2s b c _ _ wOut hOut _ => [elemSpan dst src.fmt first (c / (b * b) * wOut * hOut)]

/-- The ranges a slot's work writes on chip or in memory, as (place, bytes), for the guard of R66. -/
def Main.workWrites (m : Main) (lead cyl : Nat) (w : SlotWork) : List (Ref × Nat) :=
  match w with
  | .convert src dst first no _ =>
    elemSpan dst.base dst.fmt first ((src.map pieceLen).sum)
      :: (if dst.group ≠ 0 ∧ dst.firstPass then [({ dst.scaleBase with addr := dst.scaleBase.addr + 64 * (no / 16) }, 64)] else [])
  | .vstore _ n dst => [(dst, 4 * n)]
  | .move op src dst first => moveWrites src dst first op
  | .softmax _ t b _ _ _ _ _ vf _ dst _ =>
    match bufOf (m.tum (4 * cyl + t.val)) b.val with
    | .ready d => [(dst, 64 * tileRows d.cfg * fmtBits (convertProbs vf []).fmt / 8)]
    | _ => []
  | .softFinish row0 rows out stats => [(out, 4 * rows * (attnRow (m.cyl cyl) row0).o.length), (stats, 8 * rows)]
  | .attnBack keys _ _ _ _ _ _ pOut dSOut _ => [(pOut, 4 * keys), (dSOut, 4 * keys)]
  | .kvRow c si _ _ =>
    let x := m.ctx c.val
    match x.streams[si]? with
    | none => []
    | some s =>
      match s.slot with
      | none => []
      | some sl =>
        let at_ := sl.a.addr + 128 + (sl.kvSlot.map fun q => q.2.2.2).getD 0 + rowsNow (m.inst lead) c.val si s.fill * s.width
        [({ sl.a with addr := at_ }, s.width), ({ sl.a with addr := at_ + 32 * s.width }, s.width), (hdrRef x.version sl, 64)]
  | .tier3Read _ _ _ n dst => [(dst, n)]
  | .tier3Bad _ n dst => [(dst, n)]
  | .collective _ contrib _ dst => [(dst, (contrib.map (·.length)).sum)]
  | .camRecv sn _ _ dst hdr last =>
    let n := (((Tab.get (fun _ => ({} : CamSensor)) m.cam.sensors sn.val).out.bind fun o => o.lines.head?).map (·.length)).getD 64
    (dst, n) :: (if last then [(hdr, 64)] else [])
  | _ => []

/-- Whether two ranges of one memory meet. -/
def overlaps (a b : Ref × Nat) : Bool :=
  a.1.mem == b.1.mem && decide (a.1.addr < b.1.addr + b.2) && decide (b.1.addr < a.1.addr + a.2)

/-- R66: a slot would write into a guarded range. -/
def Main.guarded (m : Main) (lead cyl : Nat) (w : SlotWork) : Bool :=
  let ws := m.workWrites lead cyl w
  !ws.isEmpty && m.tums.any fun t => (t.2.guard ++ t.2.failed.flatMap (·.guard)).any fun g => ws.any (overlaps g)

/-- Whether `n` elements of a slot exist where it takes them. -/
def srcOk (e : ElemSrc) (n : Nat) : Bool :=
  if e.keyway || n == 0 then refOk e.ref 1
  else
    let r := elemSpan e.ref e.fmt e.first ((n - 1) * e.step + 1)
    refOk r.1 r.2

/-- Whether every place a slot's work names exists. -/
def Main.workOk (m : Main) (lead cyl n : Nat) (w : SlotWork) : Bool :=
  (m.workWrites lead cyl w).all (fun p => refOk p.1 p.2)
    && match w with
      | .move (.copy k _) src _ _ => srcOk src k
      | .move _ src _ _ => refOk src.ref 1
      | .slice o a _ ws _ => srcOk a (m.sliceRows n o) && srcOk ws 64
      | .winSlice _ _ _ _ _ _ _ ws _ => srcOk ws 64
      | .vload _ src => src.all fun p => match p with | .elems e k _ => srcOk e k | _ => true
      | .convert src _ _ _ _ => src.all fun p => match p with | .elems e k _ => srcOk e k | _ => true
      | .collective _ contrib src _ => contrib.all fun x => refOk src x.length
      | _ => true

/-- Whether a resource does a kind of work (Table 1-6, Table 4-4). -/
def workFits (r : Resource) (w : SlotWork) : Bool :=
  match w, r with
  | .pass, _ => true
  | .slice .., .tumbler _ => true
  | .winSlice .., .tumbler _ => true
  | .winFill _, .bank .. => true
  | .convert .., .bank .. => true
  | .convert .., .vec _ => true
  | .convert .., .wsPort .. => true
  | .move .., .bank .. => true
  | .move .., .ring _ => true
  | .move .., .wsPort .. => true
  | .move .., .lane .. => true
  | .fetch .., .chan .. => true
  | .kvRow .., .wsPort .. => true
  | .kvPage .., .chan .. => true
  | .kvRead .., .chan .. => true
  | .tier3Read .., .ring _ => true
  | .tier3Bad .., .ring _ => true
  | .tier3Write .., .ring _ => true
  | .collective .., .ring _ => true
  | .camRecv .., .wsPort .. => true
  | .vload .., .vec _ => true
  | .vstore .., .vec _ => true
  | .vop .., .vec _ => true
  | .vfun .., .vec _ => true
  | .vred .., .vec _ => true
  | .pool .., .vec _ => true
  | .softmax .., .vec _ => true
  | .attnTake .., .vec _ => true
  | .softFinish .., .vec _ => true
  | .attnBack .., .vec _ => true
  | _, _ => false

/-- Whether a list still has the slot's list wait of a full expander queue among its events (R170). -/
def expanderWait (ecc : List EccEvent) : Option Nat :=
  ecc.findSome? fun e => match e with | .expanderFull c => some c.val | _ => none

/-- The work of one slot (spec/02 to 09). `camTake` is the camera's part of a CAM_RECV entry (R362). -/
def Main.doWork (camTake : Main → Nat → SlotWork → Main × Bool) (m : Main) (lead : Nat) (r : Resource) (w : SlotWork)
    (lastFiring : Bool) : WorkOut :=
  let cyl := resCyl r
  let n := tumNo r
  if !m.workOk lead cyl n w then .bad
  else match w with
  | .pass => .done m
  | .slice o a sa ws sw =>
    m.sliceWork lead n o ((List.range (m.sliceRows n o)).map (m.elemCode a)) sa ws sw
  | .winFill op => .done (m.fillWindow cyl op)
  | .winSlice o f zp op kxi chan sa ws sw =>
    match m.sliceWork lead n o (winCodes (m.tum n) f zp (m.sliceRows n o) op kxi chan) sa ws sw with
    | .done m => .done (if op.last && lastFiring then m.dropHalf n op.half else m)
    | x => x
  | .convert src dst first no last => m.convertWork lead cyl src dst first no last
  | .vload v src =>
    if !m.piecesReady cyl src then .wait m 0
    else match m.piecesVals cyl src with
      | .error k => m.skewAbort lead 2 k
      | .ok vs => .done ((m.setCyl cyl (setVreg (m.cyl cyl) v.val (vs.map f32Round))).freePieces cyl src)
  | .vstore v k dst => .done (m.writeWords dst ((vreg (m.cyl cyl) v.val).take k))
  | .vop op d a b x k sk => .done (m.setCyl cyl (vecLanes (m.cyl cyl) op d.val a.val b.val x.val k sk))
  | .vfun f d a k =>
    let c := m.cyl cyl
    let old := vreg c d.val
    .done (m.setCyl cyl (setVreg c d.val ((vreg c a.val).zipIdx.map fun p =>
      if laneOn c k p.2 then vecFun f p.1 else old.getD p.2 0#32)))
  | .vred op d ss k => .done (m.setCyl cyl (vecReduce (m.cyl cyl) op d.val ss k))
  | .pool op d lanes full st px ws => m.poolWork lead cyl op d.val lanes full st px ws
  | .move op src dst first => .done (m.moveWork op src dst first)
  | .softmax op t b row0 keys kp qs bits vf dims dst last =>
    m.softWork cyl op t.val b.val row0 keys kp qs bits vf dims dst last
  | .attnTake t b row0 col0 last => m.attnTake cyl t.val b.val row0 col0 last
  | .softFinish row0 rows out stats => .done (m.softFinishWork cyl row0 rows out stats)
  | .attnBack keys dims t dP dO o ml pOut dSOut al => .done (m.attnBackWork keys dims t dP dO o ml pOut dSOut al)
  | .fetch region addr lines kw =>
    let ch := match r with
      | .chan _ c => c.val
      | _ => 0
    m.fetchWork lead (resWard r) ch region addr lines kw
  | .kvRow c s k v => m.kvRowWork lead c.val s k v
  | .kvPage c s k v => m.kvPageWork lead c.val s k v
  | .kvRead c s j ue => .done (m.kvReadWork lead c.val s j ue)
  | .tier3Read b out off k dst => .done (m.tier3ReadWork lead b out off k dst)
  | .tier3Bad bs n dst => .done (m.tier3BadWork lead bs n dst)
  | .tier3Write b off src k => .done (m.tier3WriteWork lead b off src k)
  | .collective id contrib src dst => .done (m.collectiveWork lead id contrib src dst)
  | .camRecv .. =>
    let (m, taken) := camTake m lead w
    if taken then .done m else .wait m 0

/-- One memory error met by a firing slot (R74, R126, R129): corrections count; an uncorrectable on-chip word faults the
members whose live data it holds, with its error record. -/
def Main.eccEvent (m : Main) (lead : Nat) : EccEvent → Main
  | .spCorrected c => m.count 0x12 c.val 1
  | .wsCorrected w => m.count 0x18 w.val 1
  | .hbmCorrected c => m.count 0x20 c.val 1
  | .spUncorrectable c off ms =>
    let i := m.inst lead
    let k := m.err.next
    let x := firstCtx (some ms) i
    let m := m.logErr { code := 0x12, status := stMemory, ctx := x, step := i.step, round := i.round, island := c.val
                        aux1 := off / 8 * 8, aux2 := off / 0x10000, pasid := m.pasidOf x }
    m.setInst lead (faultMembers (some ms) stMemory k (m.inst lead))
  | .wsUncorrectable w off ms =>
    let i := m.inst lead
    let k := m.err.next
    let x := firstCtx (some ms) i
    let m := m.logErr { code := 0x13, status := stMemory, ctx := x, step := i.step, round := i.round
                        island := 0x80 + w.val, aux1 := off / 8 * 8, aux2 := off / 0x40000, pasid := m.pasidOf x }
    m.setInst lead (faultMembers (some ms) stMemory k (m.inst lead))
  | .expanderFull _ => m

/-- The counter and instance of a wait cause (Table 4-9, Table 21-3). -/
def causeCounter (cause : Nat) (r : Resource) : Option (Nat × Nat) :=
  match cause with
  | 1 => some (0x02, resWard r)
  | 2 => some (0x03, resWard r)
  | 3 => some (0x04, resIsland r)
  | 4 => some (0x05, resWard r)
  | 5 => some (0x06, resWard r)
  | 6 => some (0x07, resWard r)
  | 7 => some (0x08, resCyl r)
  | 8 => some (0x09, resCyl r)
  | _ => none

/-- A list position of an instance replaced. -/
def setPos (i : Inst) (r : Resource) (p : ListPos) : Inst :=
  { i with lists := i.lists.map fun q => if q.1 = r then (r, p) else q }

/-- A slot that cannot fire waits: one attempt counts as one waiting cycle, in KNUCKLE_WAIT where the wait crosses a
knuckle, and in the first cause that applies (R104; log entry 14). -/
def Main.blocked (m : Main) (lead : Nat) (r : Resource) (p : ListPos) (cause : Nat) (crossing : Bool) : Main :=
  let m := if crossing then m.count 0x01 (resIsland r) 1 else m
  let m := match causeCounter cause r with
    | some c => m.count c.1 c.2 1
    | none => m
  let i := m.inst lead
  m.setInst lead { setPos i r { p with cause := cause } with weightWait := i.weightWait || cause == 2 || cause == 4 }

/-- Whether a declared token crosses islands (Table 4-5). -/
def crosses (b : Bitting) (k : Nat) : Bool := (b.tokens.find? fun t => t.token == k).any (·.crossing)

/-- What an attempt to fire a slot answers. -/
inductive SlotOut where
  | next (m : Main)
  | abort (m : Main) (st detail : Nat)
  | bad

/-- Whether a slot's work is what the entry's operand says at this firing, for the operands the spec lays out (Tables 8-3, 8-4, 9-2;
R186: channels fastest, then filter columns). -/
def opFits (e : Entry) (left : Nat) : SlotWork → Bool
  | .winSlice _ _ _ op kxi chan _ _ _ =>
    op == winOpOf e.operand && kxi == (e.rep + 1 - left) / 32 && chan == (e.rep + 1 - left) % 32
  | .winFill op => op == fillOpOf e.operand
  | .softmax op .. => op == softOpOf e.operand
  | _ => true

/-- R145: a channel list stopped while a slot of the instance waits on a HELD region. -/
def chanStopped (i : Inst) : Resource → Bool
  | .chan _ _ => !i.heldRegions.isEmpty
  | _ => false

/-- SLOT_FIRE (R23, R87, R104): the next slot of a resource's list fires when its input tokens hold filled buffers, its output
token has a free one, and nothing else holds it; otherwise it waits. -/
def Main.fireSlot (camTake : Main → Nat → SlotWork → Main × Bool) (m : Main) (lead : Nat) (r : Resource) (w : SlotWork)
    (ecc : List EccEvent) : SlotOut :=
  let i := m.inst lead
  match i.lists.find? fun q => q.1 == r, m.bittingOf i with
  | some (_, p), some b =>
    let es := entriesOf b r
    match es[p.idx]? with
    | none => .next m
    | some e =>
      let ward := m.ward (resWard r)
      if !i.live || p.ended || i.stopped || i.hold || !i.loadedWards.contains (resWard r) || !workFits r w || !opFits e p.left w then .next m
      else
        let okA := waitReady i.tokens e.waitA e.relA r p.idx
        let okB := waitReady i.tokens e.waitB e.relB r p.idx
        let okS := signalReady i.tokens e.signal
        let cross := (!okA && crosses b e.waitA) || (!okB && crosses b e.waitB) || (!okS && crosses b e.signal)
        if wardResource r && !ward.holds.isEmpty then .next (m.blocked lead r p 1 cross)
        else if chanStopped i r then .next (m.blocked lead r p 0 cross)
        else
        let lane := match r with
          | .lane _ _ => true
          | _ => false
        if !(okA && okB && okS) then
          .next (m.blocked lead r p (if lane && !i.heldRegions.isEmpty then 2 else if lane && e.layerFirst then 4 else 0) cross)
        else
          match expanderWait ecc with
          | some ch =>
            if lane then .next (m.blocked lead r p 5 false)
            else .next ((m.count 0x21 (ch * 16 + resWard r) 1).blocked lead r p 0 false)
          | none =>
            if m.guarded lead (resCyl r) w then .next (m.blocked lead r p 3 false)
            else
              let last := decide (p.left ≤ 1)
              match m.doWork camTake lead r w last with
              | .bad => .bad
              | .wait m c => .next (m.blocked lead r p (if c = 2 && !lane then 0 else c) false)
              | .abort m st d => .abort m st d
              | .done m =>
                let win := match w with
                  | .winSlice _ _ _ op _ _ _ _ _ => op.last && last
                  | _ => true
                let m := ecc.foldl (fun m x => m.eccEvent lead x) m
                let i := m.inst lead
                .next (m.setInst lead { setPos i r (advanceList es e p) with
                  tokens := fireTokens e r p.idx win i.tokens })
  | _, _ => .next m

end Sys2Proof
end

