-- ==== Sys2Proof/Machine/Keyring.lean ====
section
/-! DEFINITION. The Keyring (spec/10_keyring.md): balances, list points and rounds, the building of instances, page
reservation (spec/09_attention.md R211 to R214), and switches (R240 to R245). -/

namespace Sys2Proof

/-- A request a unit makes of host software, waiting to be posted (R297). -/
def Main.ask (m : Main) (h : Nat) (args : List Nat) (data : List Byte) (ctx : Nat := 0xFFFF) (step : Nat := 0) : Main :=
  { m with hq := m.hq ++ [({ hinge := h, args := args, data := data, ctx := ctx, step := step } : HingeReq)] }

/-! ## What the Keyring looks at -/

/-- A performance level field: 6 and 7 act as 5 (Table 12-20). -/
def levelOf (v : Nat) : Nat := min 5 v

/-- The cap in force (R290): while THROTTLE_N is asserted, the slower of cap and throttle_level. -/
def Main.capNow (m : Main) : Nat :=
  let c := levelOf (m.fld F.PLEVEL_CTL_cap)
  if m.bit F.PLEVEL_CTL_throttle_pin then max c (levelOf (m.fld F.PLEVEL_CTL_throttle_level)) else c

/-- Whether a ward is fenced. -/
def Main.fencedWard (m : Main) (w : Nat) : Bool := m.fence.fenced / 2 ^ w % 2 == 1

/-- The scheduled wards: unfenced and not set aside as Frame Lanes (R230). -/
def Main.scheduled (m : Main) : List Nat := (List.range 16).filter fun w => !m.fencedWard w && (m.ward w).lane.isNone

/-- Whether a context is in a runnable state (Table 10-2). -/
def Ctx.runnable (x : Ctx) : Bool := x.state == .residentRunning || x.state == .swappedRunnable

/-- Whether a context is resident. -/
def Ctx.resident (x : Ctx) : Bool := x.state == .residentRunning || x.state == .residentBlocked

/-- LANE_CTL.context: values above 3,071 act as 0 (Table 11-6). -/
def Main.laneCtxNo (m : Main) (l : Nat) : Nat :=
  let v := m.fld (F.LANE_CTL_context l)
  if v < 3072 then v else 0

/-- Whether a context runs on a Frame Lane: its LANE_CTL.context with reserve set. -/
def Main.laneCtx (m : Main) (c : Nat) : Bool :=
  (List.range 4).any fun l => m.bit (F.LANE_CTL_reserve l) && m.laneCtxNo l == c

/-- R238: V at a list point: the smallest vt among runnable contexts outside lanes, never lower than before. -/
def Main.newV (m : Main) : Nat :=
  let vs := (m.ctxs.filter fun p => p.2.runnable && !m.laneCtx p.1).map (·.2.vt)
  match vs with
  | [] => m.kr.vmin
  | v :: r => max m.kr.vmin (r.foldl min v)

/-- R238: a context's balance. -/
def Main.balance (m : Main) (c : Nat) : Int := (m.kr.vmin : Int) - ((m.ctx c).vt : Int)

/-- R238: what becoming runnable does to vt. -/
def Main.wakeVt (m : Main) (c : Nat) : Main :=
  m.updCtx c fun x => { x with vt := max x.vt (m.kr.vmin - m.fld F.KEYRING_LIMITS_wake_credit * 2 ^ 20) }

/-- Whether a recompute is pending (R491). -/
def Ctx.recompute (x : Ctx) : Bool := decide (x.kvLimit < x.seqLen)

/-- An ordering of contexts by decreasing balance, ties to the lower number. -/
def Main.insBal (m : Main) (c : Nat) : List Nat → List Nat
  | [] => [c]
  | d :: r => if m.balance d < m.balance c ∨ (m.balance d = m.balance c ∧ c < d) then c :: d :: r else d :: Main.insBal m c r

/-- Contexts by decreasing balance, ties to the lower number. -/
def Main.byBalance (m : Main) (l : List Nat) : List Nat := l.foldr m.insBal []

/-! ## Candidate bittings (R234) -/

/-- Plan records with their bittings. -/
def Main.stored (m : Main) : List (Nat × Plan × Bitting) :=
  m.plans.filterMap fun p => p.2.bitting.bind fun b => if p.2.valid then some (p.1, p.2, b) else none

/-- Whether a bitting names no region that is HELD or POISONED (R234). -/
def Main.regionsUp (m : Main) (b : Bitting) : Bool :=
  b.aux.weights.all fun w => (m.region w.region).st == RegionSt.sealed

/-- The model and mask of a hosted set (R226). -/
def setOf (b : BerthSet) : Nat × Nat := (b.model, b.mask)

/-! ## The chain -/

/-- A chain frame sent from a port that is up. -/
def Main.lzSend (m : Main) (p : Nat) (f : LzFrame) : Main :=
  let st := if p = 0 then m.fld F.LANIZA_STATUS_up_state else m.fld F.LANIZA_STATUS_down_state
  if st < 2 then m else { m with lz := { m.lz with sent := m.lz.sent ++ [(p, f)] } }

/-- The chain's operating generation and length (Table 14-8's registers). -/
def Main.chainOk (m : Main) (b : Bitting) : Bool :=
  let valid := m.bit F.LANIZA_ADDR_valid
  let units := if valid then m.fld F.LANIZA_ADDR_units else 1
  let gen := if valid then m.fld F.LANIZA_GEN_op_gen else 0
  decide (b.minChainGen ≤ gen) && decide (b.chainUnits ≤ max 1 units)
    && b.collectives.all fun k => k.route == 0 || m.bit F.LANIZA_ADDR_ring

/-- R235, R318: whether this unit builds an instance of a bitting: one of a single unit, or a chained one at address 0 while
no walk runs or is due. -/
def Main.mayBuild (m : Main) (b : Bitting) : Bool :=
  decide (b.chainUnits ≤ 1)
    || (m.bit F.LANIZA_ADDR_valid && m.fld F.LANIZA_ADDR_addr == 0 && m.lz.phase == LzPhase.idle && !m.lz.needWalk && m.chainOk b)

/-- Whether a context binds a chained bitting. -/
def Main.chainedCtx (m : Main) (c : Nat) : Bool :=
  m.stored.any fun q => q.2.1.contexts.contains c && decide (1 < q.2.2.chainUnits)

/-- R234's conditions on a bitting for members of a set; `role` is 0 for ordinary work, 2 for a recompute. -/
def Main.candidate (m : Main) (model mask g role : Nat) (ms : List Nat) (q : Nat × Plan × Bitting) : Bool :=
  let b := q.2.2
  b.modelKey == model && b.mask == mask && q.2.1.role == role && (role == 2 || b.layerGroup == g)
    && b.flags / 2 % 2 == 0 && ms.all (fun c => q.2.1.contexts.contains c)
    && decide (m.capNow ≤ b.minPlevel) && m.regionsUp b && m.mayBuild b

/-- The better of two candidates: the one the lead ward holds, then the smaller step_bound, then the earlier stored. -/
def betterPlan (held : Option Nat) (a b : Nat × Plan × Bitting) : Nat × Plan × Bitting :=
  let ha := held == some a.1
  let hb := held == some b.1
  if ha && !hb then a
  else if hb && !ha then b
  else if b.2.2.stepBound < a.2.2.stepBound then b
  else if a.2.2.stepBound < b.2.2.stepBound then a
  else if b.2.1.bindSeq < a.2.1.bindSeq then b else a

/-- The best of a list of candidates. -/
def bestPlan (held : Option Nat) : List (Nat × Plan × Bitting) → Option (Nat × Plan × Bitting)
  | [] => none
  | q :: r => some (r.foldl (betterPlan held) q)

/-- R234: choose_bitting for members and their rows. When the rows exceed every candidate's rows_max, the largest is taken. -/
def Main.choosePlan (m : Main) (model mask g role : Nat) (ms : List Nat) (rows : Nat) : Option (Nat × Plan × Bitting) :=
  let cs := m.stored.filter (m.candidate model mask g role ms)
  let held := (m.ward (leadOf mask)).loaded
  match bestPlan held (cs.filter fun q => decide (q.2.2.rowsMin ≤ rows) && decide (rows ≤ q.2.2.rowsMax)) with
  | some q => some q
  | none =>
    if cs.all fun q => decide (q.2.2.rowsMax < rows) then
      let top := (cs.map fun q => q.2.2.rowsMax).foldl max 0
      bestPlan held (cs.filter fun q => q.2.2.rowsMax == top)
    else none

/-! ## Rows and pages of a member -/

/-- Positions a context's next step may take: a recompute's missing positions, or what its RUN still needs of the present
layer group, limited to what completes a partial page (R209, R215, R233). -/
def Ctx.rowsWanted (x : Ctx) : Nat :=
  let n := if x.recompute then (if x.run.isSome || x.chainRecompute then x.seqLen - x.kvLimit else 0)
    else match x.head, x.run with
      | some d, some r => d.field 0x1C 4 - r.done
      | _, _ => 0
  let fill := (x.streams.map (·.fill)).foldl max 0
  if fill = 0 then n else min n (32 - fill)

/-- R211: pages a context needs for a step of so many rows of a bitting: one for each of the streams it extends that the
step completes, and one for each whole page. -/
def Ctx.need (x : Ctx) (b : Bitting) (berth rows : Nat) : Nat :=
  (b.aux.carried.map fun k =>
    match k.kvSlot with
    | some (l, g, _, _) =>
      if k.member = berth then
        let f := ((x.streams.find? fun s => s.layer == l && s.kvGroup == g).map (·.fill)).getD 0
        (f + rows) / 32
      else 0
    | none => 0).sum

/-- R211: pages usable by a tenant: FREE with its tag first, then untagged, each kind oldest-freed first, within its quota. -/
def Main.usablePages (m : Main) (pasid : Nat) : List Nat :=
  let old := fun (l : List (Nat × Page)) =>
    (l.foldr (fun p (acc : List (Nat × Page)) =>
      (acc.takeWhile fun q => decide (q.2.freed < p.2.freed)) ++ p :: (acc.dropWhile fun q => decide (q.2.freed < p.2.freed))) []).map (·.1)
  let mine := old (m.pages.filter fun p => p.2.st == PageSt.free (some pasid))
  let none_ := old (m.pages.filter fun p => p.2.st == PageSt.free none)
  let quota := ((m.tenantOf pasid).map fun q => q.2.quota).getD 0
  (mine ++ none_).take (quota - m.tenantHeld pasid)

/-- R212: a context's committed page columns. -/
def Ctx.columns (x : Ctx) : Nat := (x.streams.map fun s => s.pages.length).foldl max 0

/-- R212: the tenant of a context is over its quota. -/
def Main.overQuota (m : Main) (pasid : Nat) : Bool :=
  decide (((m.tenantOf pasid).map fun q => q.2.quota).getD 0 < m.tenantHeld pasid)

/-- R212: whether `v` is an eligible victim for requester `r` with a need, `inst` being the instance under build. -/
def Main.eligible (m : Main) (r need : Nat) (inst : List Nat) (v : Nat) : Bool :=
  let x := m.ctx v
  let y := m.ctx r
  m.bit F.KV_POLICY_drop_enable && v != r && !inst.contains v && !x.noDrop
    && (match x.lastDrop with | some s => decide (s + m.fld F.KV_POLICY_cooldown < m.kr.step) | none => true)
    && decide (m.fld F.KV_POLICY_keep_pages < x.columns)
    && (x.tenant == y.tenant
        || decide (m.tenantHeld y.tenant + need ≤ ((m.tenantOf y.tenant).map fun q => q.2.quota).getD 0))

/-- R212: whether victim `a` comes before `b`. -/
def Main.victimBefore (m : Main) (a b : Nat) : Bool :=
  let x := m.ctx a
  let y := m.ctx b
  let oa := m.overQuota x.tenant
  let ob := m.overQuota y.tenant
  if oa != ob then oa
  else
    match m.fld F.KV_POLICY_order with
    | 1 => decide (m.balance a < m.balance b) || (m.balance a == m.balance b && decide (a < b))
    | 2 => decide (y.kvLimit < x.kvLimit) || (x.kvLimit == y.kvLimit && decide (a < b))
    | _ => decide (x.lastCommit < y.lastCommit) || (x.lastCommit == y.lastCommit && decide (a < b))

/-- R212: the victim for a requester. -/
def Main.chooseVictim (m : Main) (r need : Nat) (inst : List Nat) : Option Nat :=
  let es := (m.ctxs.map (·.1)).filter (m.eligible r need inst)
  match es with
  | [] => none
  | v :: vs => some (vs.foldl (fun a b => if m.victimBefore b a then b else a) v)

/-- R213: the top page column of a victim dropped: usable at once by its own tenant, scrubbed first for another. -/
def Main.dropTop (m : Main) (v r : Nat) : Main :=
  let x := m.ctx v
  let m := m.dropFrom v (x.columns - 1) (some x.tenant) (x.tenant != (m.ctx r).tenant)
  if m.chainedCtx v then
    let f := LzFrame.dropNotice v (m.ctx v).kvLimit
    (m.lzSend 0 f).lzSend 1 f
  else m

/-- R214: a context parked with PAGE_WAIT; its reservations are released. -/
def Main.park (m : Main) (c : Nat) : Main :=
  let m := m.releaseReserved (· == c)
  let m := m.updCtx c fun x => { x with
    state := if x.resident then .residentBlocked else .swappedBlocked
    cause := .pageWait, parkOrder := m.kr.parkNext }
  { m with kr := { m.kr with parkNext := m.kr.parkNext + 1 } }

/-- Pages reserved for a context: the first so many usable ones. -/
def Main.reserve (m : Main) (c : Nat) (ps : List Nat) : Main :=
  let t := (m.ctx c).tenant
  ps.foldl (fun m p =>
    let old := m.page p
    let u := m.fld F.PAGE_POOL_BASE_base + p
    let m := { m with lastWriter := Tab.put (fun _ => none) u (some t) m.lastWriter, scrubbed := m.scrubbed.erase u }
    match old.st with
    | .free tag => m.setPage p { old with st := .reserved c tag }
    | _ => m.setPage p { old with st := .reserved c none }) m

/-- R211: one candidate's reservation, with at most `fuel` columns dropped for it. Answers the pages reserved, or none
where it parks (or, under hinge H2, waits for host software). -/
def Main.reserveFor (c need rows : Nat) (inst : List Nat) : Nat → Main → Main × Option (List Nat)
  | 0, m => (m.park c, none)
  | f + 1, m =>
    let us := m.usablePages (m.ctx c).tenant
    if need ≤ us.length then
      let ps := us.take need
      (m.reserve c ps, some ps)
    else if m.assisted 2 then
      let m := m.ask 2 [c, need, us.length, (m.ctx c).tenant] [] c m.kr.step
      let m := { m with kr := { m.kr with h2Wait := some (c, rows) } }
      (m.updCtx c fun x => { x with
        state := if x.resident then .residentBlocked else .swappedBlocked, cause := .serviceWait }, none)
    else
      match m.chooseVictim c need inst with
      | some v => Main.reserveFor c need rows inst f (m.dropTop v c)
      | none => ((m.park c).setFld F.KV_STATUS_exhausted 1, none)

/-! ## Instances (R233) -/

/-- The slot lists of a fresh instance at their first positions. -/
def freshLists (b : Bitting) : List (Resource × ListPos) := b.lists.map fun p => (p.1, startList p.2)

/-- The tokens of a fresh instance. -/
def freshTokens (b : Bitting) : List TokenSt :=
  b.tokens.map fun t => { token := t.token, depth := t.depth, consumers := t.consumers }

/-- The longest prefix of members whose rows sum to at most a bound. -/
def rowsPrefix (bound : Nat) : List (Nat × Nat) → List (Nat × Nat)
  | [] => []
  | (c, n) :: r => if n ≤ bound then (c, n) :: rowsPrefix (bound - n) r else []

/-- A context's berth number in its set. -/
def Ctx.berthNo (x : Ctx) : Nat := (x.berth.map fun b => b.2.2).getD 0

/-- R205, R207: the streams a bitting's page buffer slots declare for a berth, known to the context from then on. -/
def Main.openStreams (m : Main) (c : Nat) (b : Bitting) : Main :=
  m.updCtx c fun x =>
    let add := fun (ss : List Stream) (k : Carried) =>
      match k.kvSlot with
      | some (l, g, w, _) =>
        if k.member ≠ x.berthNo then ss
        else if ss.any fun s => s.layer == l && s.kvGroup == g then
          ss.map fun s => if s.layer = l ∧ s.kvGroup = g then { s with slot := some k } else s
        else ss ++ [{ layer := l, kvGroup := g, width := w, slot := some k }]
      | none => ss
    { x with streams := b.aux.carried.foldl add x.streams }

/-- R213: at a context's next step after a drop, each stream's uncommitted header is reconciled to kv_limit. -/
def Main.reconcile (m : Main) (c : Nat) : Main :=
  let x := m.ctx c
  if !x.recompute then m
  else x.streams.foldl (fun m s =>
    match s.slot with
    | some k => m.write (hdrRef x.version k) (kvHeader 0 (x.kvLimit / 32) c s.layer s.kvGroup)
    | none => m) m

/-- The last byte, plus one, that a step's tier-3 tensor reaches in a buffer, rows advancing by strides[1] from the positions
already committed (R276; log entry 15). -/
def tensorEnd (t : TensorDesc) (done rows : Nat) : Nat :=
  let elem := (fmtOfCode t.fmtCode).elim 4 fun f => (fmtBits f + 7) / 8
  let d := fun i => t.dims.getD i 0
  let s := fun i => t.strides.getD i 0
  if d 0 = 0 ∨ d 1 = 0 ∨ d 2 = 0 ∨ d 3 = 0 then 0
  else t.base % 2 ^ 48 + done * s 1 + (rows - 1) * s 1 + (d 2 - 1) * s 2 + (d 3 - 1) * s 3 + (d 0 - 1) * s 0 + elem

/-- R276, R492: every byte the step would reach in a member's buffers lies inside them. -/
def Main.buffersOk (m : Main) (c : Nat) (b : Bitting) (rows : Nat) : Bool :=
  let x := m.ctx c
  match x.head with
  | none => true
  | some d =>
    let done := (x.run.map (·.done)).getD 0
    b.tensors.all fun t =>
      if t.tier ≠ 3 then true
      else if x.recompute then decide (tensorEnd t 0 rows + 4 * x.kvLimit ≤ 4 * 2 ^ x.entry.histOrder)
      else if t.base / 2 ^ 63 % 2 = 1 then decide (tensorEnd t done rows ≤ d.field 0x34 4)
      else decide (tensorEnd t done rows ≤ d.field 0x30 4)

/-- R103: what a ward's next instance runs under, taken at its step boundary. -/
def Main.takeSettings (m : Main) (w : Nat) : Main :=
  m.updWard w fun x => { x with
    h3 := m.fld F.HINGE_CTL_assist / 4 % 2 == 1, prot := m.prot.written, protGen := m.prot.gen, thresh := m.word 0x8018 }

/-- An instance emitted on a ward set (R233): its lists at their starts, its members in their berths. A bitting whose lists
the wards already hold needs no load (R94). -/
def Main.emit (m : Main) (h : Nat) (b : Bitting) (ms : List (Nat × Nat × List Nat)) (round : Nat) : Main :=
  let lead := leadOf b.mask
  let m := ms.foldl (fun m q => (m.openStreams q.1 b).reconcile q.1) m
  let held := (wardsOf b.mask).filter fun w => (m.ward w).loaded == some h
  let members := ms.map fun q =>
    let x := m.ctx q.1
    ({ ctx := q.1, berth := x.berthNo, rows := q.2.1, recompute := x.recompute,
       pos0 := if x.recompute then x.kvLimit
               else (x.run.map fun r => r.startLen + r.done).getD x.seqLen } : Member)
  let i : Inst := {
    live := true, mask := b.mask, handle := h, members := members, step := m.kr.step, round := round
    loadedWards := held, lists := freshLists b, tokens := freshTokens b
    reExec := ms.any fun q => (m.ctx q.1).reExec
    chained := decide (1 < b.chainUnits), hold := decide (1 < b.chainUnits)
    reserved := ms.flatMap fun q => q.2.2.map fun p => (q.1, p) }
  let m := m.setInst lead i
  let m := (wardsOf b.mask).foldl (fun m w => (m.takeSettings w).updWard w fun x => { x with roundDone := false }) m
  { m with kr := { m.kr with listed := true, rounds := (lead, round) :: m.kr.rounds.filter fun p => p.1 != lead } }

/-- R419: solo tenants share with no other. -/
def Main.soloFilter (m : Main) (first : Nat) (l : List Nat) : List Nat :=
  let solo := fun c => ((m.tenantOf (m.ctx c).tenant).map fun q => q.2.solo).getD false
  if solo first then l.filter fun c => (m.ctx c).tenant == (m.ctx first).tenant else l.filter fun c => !solo c

/-- Contexts of a set with a fault due before their next step begins (R91, R143, R148): they fault now. -/
def Main.dueFaults (m : Main) (l : List Nat) : Main :=
  l.foldl (fun m c =>
    match (m.ctx c).pendingFault with
    | some (st, d) => m.faultCtx c st d
    | none => m) m

/-- A build opened for members of a set in order, cut to a bitting's rows (R233). -/
def Main.beginBuild (m : Main) (j : Job) (q : Nat × Plan × Bitting) (want : List (Nat × Nat)) : Main :=
  let cut := rowsPrefix q.2.2.rowsMax (want.map fun p => (p.1, min p.2 q.2.2.rowsMax))
  { m with kr := { m.kr with build := some { job := j, handle := q.1, cut := cut, todo := cut } } }

/-- R233: build_instance for a hosted set, up to the reservation of pages. -/
def Main.openSet (m : Main) (j : Job) (s : BerthSet) : Main :=
  let res := s.berths.filterMap fun q => q.1
  let m := m.dueFaults (res.filter fun c => (m.ctx c).runnable)
  let r := m.byBalance (res.filter fun c => (m.ctx c).state == CtxState.residentRunning)
  match r with
  | [] => m
  | first :: _ =>
    let re := (m.ctx first).recompute
    let g := (m.ctx first).cursor
    let ms := m.soloFilter first (r.filter fun c =>
      (m.ctx c).recompute == re && (re || (m.ctx c).cursor == g) && decide (0 < (m.ctx c).rowsWanted))
    let want := ms.map fun c => (c, (m.ctx c).rowsWanted)
    match m.choosePlan s.model s.mask g (if re then 2 else 0) ms ((want.map (·.2)).sum) with
    | none => m
    | some q => if ms.isEmpty then m else m.beginBuild j q want

/-- R236: an instance host software named under H1: members that fail R233 are dropped, and the bitting must meet R234. -/
def Main.openGiven (m : Main) (j : Job) (s : BerthSet) (h : Nat) (cs : List Nat) : Main :=
  match m.stored.find? fun q => q.1 == h with
  | none => m
  | some q =>
    let res := s.berths.filterMap fun p => p.1
    let m := m.dueFaults (res.filter fun c => cs.contains c && (m.ctx c).runnable)
    let re := q.2.1.role == 2
    let ok := fun c => res.contains c && (m.ctx c).state == CtxState.residentRunning && (m.ctx c).recompute == re
      && (re || (m.ctx c).cursor == q.2.2.layerGroup) && decide (0 < (m.ctx c).rowsWanted) && q.2.1.contexts.contains c
    match cs.eraseDups.filter ok with
    | [] => m
    | first :: rest =>
      let ms := m.soloFilter first (first :: rest)
      let want := ms.map fun c => (c, (m.ctx c).rowsWanted)
      let rows := (want.map (·.2)).sum
      if !m.candidate s.model s.mask q.2.2.layerGroup q.2.1.role ms q || decide (rows < q.2.2.rowsMin) || q.2.1.role == 1 then m
      else m.beginBuild j q want

/-- Whether a set is hosted on scheduled wards, all at a boundary. -/
def Main.setIdle (m : Main) (s : BerthSet) : Bool :=
  (wardsOf s.mask).all (fun w => m.scheduled.contains w && (m.instOn w).isNone)
    && !(s.berths.any fun q => q.1.any fun c => (m.ctx c).evict)
    && !(m.kr.switches.any fun x => decide (x.mask &&& s.mask ≠ 0) && x.started)
    && !(m.regions.any fun p => p.2.st == RegionSt.held && decide (s.mask / 2 ^ p.2.owner % 2 = 1))

/-- A job taken up, when its set is still idle at a boundary. -/
def Main.openJob (m : Main) (j : Job) : Main :=
  match m.kr.sets.find? fun s => s.model == j.model && s.mask == j.mask with
  | none => m
  | some s =>
    if !m.setIdle s then m
    else
      match j.given with
      | some (h, cs) => m.openGiven j s h cs
      | none => m.openSet j s

/-- The end of build_instance (R233): too few rows are given another bitting; nothing is emitted on a fenced ward, and pages
of an instance that is not emitted go back. -/
def Main.closeBuild (m : Main) (b : Build) : Main :=
  let m := { m with kr := { m.kr with build := none } }
  let free := fun (m : Main) => m.releaseReserved fun c => b.got.any fun p => p.1 == c
  match m.stored.find? fun q => q.1 == b.handle with
  | none => free m
  | some q =>
    let rows := (b.got.map fun p => p.2.1).sum
    let ms := b.got.map (·.1)
    let pick := if rows < q.2.2.rowsMin then m.choosePlan b.job.model b.job.mask q.2.2.layerGroup q.2.1.role ms rows else some q
    match pick, b.got with
    | some q, _ :: _ =>
      if (wardsOf b.job.mask).any m.fencedWard then free m
      else
        let m := m.emit q.1 q.2.2 b.got b.job.round
        if 1 < q.2.2.chainUnits then
          m.lzSend 1 (.membership q.2.2.modelKey q.2.2.mask q.2.2.layerGroup (b.got.map fun p => (0, p.1, p.2.1)))
        else m
    | _, _ => free m

/-- R211, R276: the next member of the build: it faults where a buffer is too short, its pages are reserved, it parks, or the
build waits for host software (R301). -/
def Main.buildMember (m : Main) (b : Build) (c n : Nat) (rest : List (Nat × Nat)) : Main :=
  let set := fun (m : Main) (b : Build) => { m with kr := { m.kr with build := some b } }
  match (m.plan b.handle).bitting with
  | none => set m { b with todo := rest }
  | some bt =>
    if !m.buffersOk c bt n then set (m.faultCtx c stPlan 0) { b with todo := rest }
    else
      let x := m.ctx c
      let r := Main.reserveFor c (x.need bt x.berthNo n) n (b.cut.map (·.1)) (m.ctxs.length * 64 + 1) m
      match r.2 with
      | some ps => set r.1 { b with todo := rest, got := b.got ++ [(c, n, ps)] }
      | none => set r.1 { b with todo := rest }

/-- The list built on, one member, one close or one job at a time, until nothing is left or host software is asked. -/
def Main.runBuild : Nat → Main → Main
  | 0, m => m
  | f + 1, m =>
    if m.kr.h2Wait.isSome then m
    else
      match m.kr.build with
      | some b =>
        match b.todo with
        | [] => Main.runBuild f (m.closeBuild b)
        | (c, n) :: rest => Main.runBuild f (m.buildMember b c n rest)
      | none =>
        match m.kr.jobs with
        | [] => m
        | j :: js => Main.runBuild f (Main.openJob { m with kr := { m.kr with jobs := js } } j)

/-- Steps a list can take. -/
def Main.buildFuel (m : Main) : Nat := 3 * m.kr.jobs.length + 2 * m.ctxs.length + 16

/-- The list built on from where it stands. -/
def Main.goBuild (m : Main) : Main := Main.runBuild m.buildFuel m

/-- R232: the highest balance among a set's runnable residents. -/
def Main.topBalance (m : Main) (s : BerthSet) : Option Int :=
  match m.byBalance ((s.berths.filterMap (·.1)).filter fun c => (m.ctx c).runnable) with
  | [] => none
  | c :: _ => some (m.balance c)

/-- R232: hosted sets by decreasing top balance, ties to the lower lead ward. -/
def Main.setsByBalance (m : Main) : List BerthSet :=
  m.kr.sets.foldr (fun s acc =>
    let before := fun (t : BerthSet) =>
      match m.topBalance t, m.topBalance s with
      | some a, some b => decide (b < a) || (a == b && decide (leadOf t.mask < leadOf s.mask))
      | some _, none => true
      | none, some _ => false
      | none, none => decide (leadOf t.mask < leadOf s.mask)
    acc.takeWhile before ++ s :: acc.dropWhile before) []

/-! ## Switches (R240) -/

/-- Bytes of the carried ranges a berth declares. -/
def carriedBytes (b : Bitting) (member : Nat) : Nat :=
  ((b.aux.carried.filter fun k => k.member == member).map (·.size)).sum

/-- The most batch members any bitting of a pair declares (R226). -/
def Main.setSize (m : Main) (model mask : Nat) : Nat :=
  ((m.stored.filter fun q => q.2.2.modelKey == model && q.2.2.mask == mask).map fun q =>
    (q.2.2.aux.rowMembers.foldl max 0) + 1).foldl max 0

/-- The hosted set of a model and mask. -/
def Main.hosted (m : Main) (model mask : Nat) : Option BerthSet := m.kr.sets.find? fun s => s.model == model && s.mask == mask

/-- R240: who a switch of `c` into a mask displaces. -/
def Main.displaced (m : Main) (model mask : Nat) : List Nat :=
  match m.hosted model mask with
  | some s =>
    if s.berths.any fun q => q.1.isNone then []
    else
      let rs := (m.byBalance (s.berths.filterMap (·.1))).reverse
      match rs.find? (fun c => (m.ctx c).state == CtxState.residentBlocked) with
      | some c => [c]
      | none =>
        match rs.find? (fun c => (m.ctx c).runnable && !(m.ctx c).restoreGuard) with
        | some c => [c]
        | none => rs.take 1
  | none => (m.kr.sets.filter fun s => decide (s.mask &&& mask ≠ 0)).flatMap fun s => s.berths.filterMap (·.1)

/-- R240: whether the switch is allowed. -/
def Main.switchOk (m : Main) (c : Nat) (d : List Nat) : Bool :=
  let margin : Int := (m.fld F.KEYRING_CFG_swap_margin : Int) * 2 ^ 20
  d.all (fun v => (m.ctx v).state == CtxState.residentBlocked)
    || d.all fun v => !(m.ctx v).runnable || (decide (m.balance v + margin < m.balance c) && !(m.ctx v).restoreGuard)

/-- Masks of a context's bittings for the model its work names, none holding a fenced or set-aside ward. -/
def Main.masksOf (m : Main) (c : Nat) : List (Nat × Nat) :=
  let x := m.ctx c
  let key := (x.head.map fun d => d.field 0x10 8).getD 0
  let work := x.chainRecompute || (x.head.map fun d => d.opcode == 1).getD false
  if !work || m.laneCtx c then []
  else ((m.stored.filter fun q => q.2.1.contexts.contains c && q.2.1.role != 1
      && (x.chainRecompute || q.2.2.modelKey == key) && q.2.2.flags / 2 % 2 == 0
      && (wardsOf q.2.2.mask).all m.scheduled.contains).map fun q => (q.2.2.modelKey, q.2.2.mask)).eraseDups

/-- Bytes a switch into a set moves: the displaced contexts' ranges. -/
def Main.switchBytes (m : Main) (model mask : Nat) : Nat :=
  ((m.displaced model mask).map fun v =>
    match (m.ctx v).berth with
    | some (key, ms, b) => (((m.stored.filter fun q => q.2.2.modelKey == key && q.2.2.mask == ms).map fun q => carriedBytes q.2.2 b).foldl max 0)
    | none => 0).sum

/-- The part as it will stand after a recorded switch, as far as R240 looks: berths, residents and guards. -/
def Main.planSwitch (m : Main) (s : Switch) : Main :=
  let leave := fun (q : Option Nat × Option Nat) => if q.1.any s.displaced.contains then (none, q.2) else q
  let gone := fun (t : BerthSet) => { t with berths := t.berths.map leave }
  let mine := fun (t : BerthSet) => t.model == s.model && t.mask == s.mask
  let sets := m.kr.sets.map gone
  let sets := if sets.any mine then sets
    else (sets.filter fun t => decide (t.mask &&& s.mask = 0))
      ++ [{ model := s.model, mask := s.mask, berths := List.replicate (m.setSize s.model s.mask) (none, none) }]
  let seat := fun (t : BerthSet) =>
    if mine t then
      match t.berths.findIdx? fun q => q.1.isNone with
      | some b => { t with berths := t.berths.set b (some s.ctx, none) }
      | none => t
    else t
  { m.updCtx s.ctx (fun x => { x with state := .residentRunning, restoreGuard := true }) with kr := { m.kr with sets := sets.map seat } }

/-- R240: one swapped runnable context tested against the mask that moves the fewest bytes, and its switch recorded. At a list
point the switches settled before it count as taken; a cut-in is tested again after those before it (Table 10-6). -/
def Main.trySwitch (m : Main) (c : Nat) (listPoint : Bool) : Main :=
  let v := if listPoint then m.kr.switches.foldl Main.planSwitch m else m
  let qs := if m.kr.switches.any fun s => s.ctx == c then [] else m.masksOf c
  match qs with
  | [] => m
  | q :: r =>
    let best := r.foldl (fun a b => if v.switchBytes b.1 b.2 < v.switchBytes a.1 a.2 then b else a) q
    let d := v.displaced best.1 best.2
    if !v.switchOk c d then m
    else
      let sw : Switch := { ctx := c, mask := best.2, model := best.1, displaced := d, atListPoint := listPoint, go := !m.assisted 8 }
      let m := { m with kr := { m.kr with switches := m.kr.switches ++ [sw] } }
      let m := if m.assisted 8 then
          (m.ask 8 [c, best.2, d.length] (d.flatMap fun v => leBytes 2 v) c m.kr.step).updCtx c fun x => { x with
            state := .swappedBlocked, cause := .serviceWait }
        else m
      if listPoint then m else (m.updCtx c fun x => { x with cutIn := true }).count 0x32 0 1

/-- R232: settle_switches at a list point. -/
def Main.settleSwitches (m : Main) : Main :=
  (m.byBalance ((m.ctxs.filter fun p => p.2.state == CtxState.swappedRunnable).map (·.1))).foldl (fun m c => m.trySwitch c true) m

/-- R241: a cut-in marked between list points for a context that became runnable. -/
def Main.cutIn (m : Main) (c : Nat) : Main :=
  if m.bit F.KEYRING_CFG_swap_enable && m.bit F.KEYRING_CFG_enable && !m.acceptStop && (m.ctx c).state == .swappedRunnable then m.trySwitch c false
  else m

/-! ## Boundaries -/

/-- Changes that wait for a context's next boundary (R103, R249): its share. -/
def Main.takeShares (m : Main) : Main :=
  { m with ctxs := m.ctxs.filterMap fun p =>
      let x := match p.2.nextShare with
        | some (w, nd) => { p.2 with weight := w, noDrop := nd, nextShare := none }
        | none => p.2
      if x = ctxDef p.1 then none else some (p.1, x) }

/-- The pages a parked context needs (R214). -/
def Main.parkNeed (m : Main) (c : Nat) : Nat :=
  let x := m.ctx c
  let n := x.rowsWanted
  match x.berth with
  | some (key, ms, b) =>
    ((m.stored.filter fun q => q.2.2.modelKey == key && q.2.2.mask == ms && q.2.1.contexts.contains c).map
      fun q => x.need q.2.2 b n).foldl max 0
  | none => (x.streams.map fun s => (s.fill + n) / 32).sum

/-- Whether a parked context's need is met. -/
def Main.parkMet (m : Main) (c : Nat) : Bool := decide (m.parkNeed c ≤ (m.usablePages (m.ctx c).tenant).length)

/-- R214: parked contexts in the order they parked; each whose need is met becomes runnable. The others' PAGE_WAIT counts
grow once a step (`tally`). -/
def Main.checkParked (m : Main) (tally : Bool) : Main :=
  let parked := m.ctxs.filter fun p => p.2.cause == CtxCause.pageWait
  let order := parked.foldr (fun p acc =>
    (acc.takeWhile fun q => decide (q.2.parkOrder < p.2.parkOrder)) ++ p :: (acc.dropWhile fun q => decide (q.2.parkOrder < p.2.parkOrder))) []
  order.foldl (fun m p =>
    if m.parkMet p.1 then
      (m.updCtx p.1 fun x => { x with
        state := if x.state = .residentBlocked then .residentRunning else .swappedRunnable, cause := .none }).wakeVt p.1
    else if tally then (m.updCtx p.1 fun x => { x with pageWaits := x.pageWaits + 1 }).count 0x29 p.1 1 else m) m

/-- The round number a set's next instance takes in the present step (R231). -/
def Main.nextRound (m : Main) (lead : Nat) : Nat := ((m.kr.rounds.find? fun p => p.1 == lead).map (·.2 + 1)).getD 0

/-- Whether the list of the present step is still being built. -/
def Main.building (m : Main) : Bool := m.kr.h1Wait || m.kr.build.isSome || !m.kr.jobs.isEmpty

/-- The step number that follows: 48 bits, and 0 is never used (R230). -/
def nextStep (n : Nat) : Nat := if (n + 1) % 2 ^ 48 = 0 then 1 else (n + 1) % 2 ^ 48

/-- R230: whether the present cycle is a list point once recovery has given a step number (Table 12-18, order 7): every scheduled ward has finished a round of the step, or, when the
last list gave nothing, an event came that may make an instance possible. None is reached during a sleep entry (R379). -/
def Main.listPoint (m : Main) : Bool :=
  m.bit F.KEYRING_CFG_enable && !m.building && !m.acceptStop && m.kr.step != 0 &&
    (if m.kr.listed then m.scheduled.all fun w => (m.ward w).roundDone else m.kr.event || m.kr.step == 1
      || m.ctxs.any fun p => p.2.cause == CtxCause.pageWait && m.parkMet p.1)

/-- R246: at the list point after a fence, contexts whose every bitting includes a fenced ward: runnable ones fault with
CTX_FAULT_WARD_FENCED naming the fence's record. -/
def Main.fenceFaults (m : Main) : Main :=
  if m.fence.fenced = 0 then m
  else
    (m.ctxs.map (·.1)).foldl (fun m c =>
      let x := m.ctx c
      let bs := m.stored.filter fun q => q.2.1.contexts.contains c
      let hit := fun (b : Bitting) => decide (b.mask &&& m.fence.fenced ≠ 0)
      if x.runnable && !bs.isEmpty && bs.all (fun q => hit q.2.2) then
        let w := (wardsOf (((bs.head?.map fun q => q.2.2.mask).getD 0) &&& m.fence.fenced)).headD 0
        m.faultCtx c stFenced (Tab.get ctrDef m.fence.details w)
      else m) m

/-- Residents marked for saving: those of sets that hold a fenced or set-aside ward, and those marked for evicting. -/
def Main.markSaves (m : Main) : Main :=
  let bad := fun (s : BerthSet) => (wardsOf s.mask).any fun w => !m.scheduled.contains w
  (m.kr.sets.filter bad).foldl (fun m s => (s.berths.filterMap (·.1)).foldl (fun m c =>
    m.updCtx c fun x => { x with evict := true }) m) m

/-- R251, R252: at a list point the wards of lanes leave the scheduled wards, and those of lanes given up return. -/
def Main.takeLanes (m : Main) : Main :=
  (List.range 16).foldl (fun m w => m.updWard w fun x => { x with
    lane := (List.range 4).find? fun l => (m.lane l).ward == w && ((m.lane l).st != LaneSt.idle || (m.lane l).saving) }) m

/-- R232: one instance for each hosted set, in order. -/
def Main.listAll (m : Main) : Main :=
  let js := m.setsByBalance.map fun s => ({ model := s.model, mask := s.mask, round := 0 } : Job)
  Main.goBuild { m with kr := { m.kr with jobs := js } }

/-- CTX_BALANCE (Table 10-12): (V − vt) ÷ 2^20, signed, saturating. -/
def Main.balanceWord (m : Main) (c : Nat) : Nat :=
  let b := (m.balance c).fdiv (2 ^ 20 : Nat)
  (BitVec.ofInt 32 (max (-(2 ^ 31 : Nat) : Int) (min (2 ^ 31 - 1) b))).toNat

/-- A context's entry of an H1 request (Table 13-5). -/
def Main.summary (m : Main) (c : Nat) : List Byte :=
  let x := m.ctx c
  let mask := if x.resident then (x.berth.map fun b => b.2.1).getD 0 else 0
  leBytes 2 c ++ leBytes 2 mask ++ leBytes 2 (if x.resident then x.berthNo else 0) ++ leBytes 2 x.cursor
    ++ leBytes 2 x.rowsWanted ++ leBytes 2 0 ++ leBytes 4 (m.balanceWord c)

/-- LIST_POINT (R230 to R232): the step advances past a step whose list gave an instance; switches are settled; one instance
is built for each hosted set in order. Under hinge H1 host software is asked for the list (R236). -/
def Main.doListPoint (m : Main) : Main :=
  let m := if m.kr.listed then { m with kr := { m.kr with step := nextStep m.kr.step, rounds := [] } } else m
  let m := { m with kr := { m.kr with listed := false, event := false } }
  let m := m.h9Defer.foldl (fun m a => m.ask 9 a []) { m with h9Defer := [] }
  let m := (m.takeLanes.takeShares.checkParked true).fenceFaults
  let m := { m with kr := { m.kr with vmin := m.newV } }
  let m := m.markSaves.settleSwitches
  let m := m.scheduled.foldl (fun m w => m.updWard w fun x => { x with roundDone := true }) m
  if m.assisted 1 then
    let run := m.ctxs.filter fun p => p.2.runnable && !m.laneCtx p.1
    let m := m.ask 1 [run.length] (run.flatMap fun p => m.summary p.1) 0xFFFF m.kr.step
    { m with kr := { m.kr with h1Wait := true } }
  else m.listAll

/-- ROUND_BUILD (R231): a set that reached its boundary before the next list point gets a further round. -/
def Main.doRound (m : Main) (w : Nat) : Main :=
  match m.kr.sets.find? fun s => decide (s.mask / 2 ^ w % 2 = 1) with
  | none => m
  | some s =>
    if !m.bit F.KEYRING_CFG_enable || !m.kr.listed || !m.setIdle s || m.building
        || m.scheduled.all (fun w => (m.ward w).roundDone) then m
    else
      let j : Job := { model := s.model, mask := s.mask, round := m.nextRound (leadOf s.mask) }
      Main.goBuild { m with kr := { m.kr with jobs := [j] } }

end Sys2Proof
end

