-- ==== Sys2Proof/Machine/Boundary.lean ====
section
/-! DEFINITION. Frame Lane records and stops (spec/11_frame_lane.md), bindings released and contexts torn down (spec/10_keyring.md
R247, R248), fences (spec/20_faults.md R438, R439), and the changes that wait for a step boundary (spec/04_bittings.md R103). -/

namespace Sys2Proof

/-! ## Journal records of plans and regions (Table 12-13) -/

/-- A set of context numbers as Table 12-13's 384 bytes. -/
def ctxBits (cs : List Nat) : List Byte :=
  (List.range 384).map fun i => BitVec.ofNat 8 (((List.range 8).map fun j => if cs.contains (8 * i + j) then 2 ^ j else 0).sum)

/-- A plan record's 512 bytes. -/
def planRecord (p : Plan) : List Byte :=
  leBytes 8 p.container ++ leBytes 4 p.size ++ leBytes 4 p.crc ++ leBytes 4 (p.pasid % 2 ^ 20) ++ leBytes 1 p.role
    ++ leBytes 1 (b2n p.valid) ++ leBytes 2 p.base ++ leBytes 8 p.bindSeq ++ List.replicate 32 0#8 ++ ctxBits p.contexts
    ++ List.replicate 64 0#8

/-- The plan record of a handle written into the journal area. -/
def Main.journalPlan (m : Main) (h : Nat) : Main := m.hostWr (m.journalBase + 0x30000 + h * 512) (planRecord (m.plan h))

/-- Codes of the region states (Table 12-13). -/
def regionCode : RegionSt → Nat
  | .free => 0 | .loading => 1 | .sealed => 2 | .held => 3 | .poisoned => 4

/-- The region record of a region written into the journal area. -/
def Main.journalRegion (m : Main) (r : Nat) : Main :=
  let x := m.region r
  m.hostWr (m.journalBase + 0x230000 + r * 64)
    (leBytes 8 x.base ++ leBytes 8 x.size ++ leBytes 8 x.golden ++ leBytes 4 (x.pasid % 2 ^ 20) ++ leBytes 1 x.owner
      ++ leBytes 1 (regionCode x.st) ++ List.replicate 34 0#8)

/-- A region set to a state, with its journal record. -/
def Main.putRegion (m : Main) (r : Nat) (x : Region) : Main := (m.setRegion r x).journalRegion r

/-! ## Bindings released -/

/-- A plan record that no context binds leaves the plan area (R90). -/
def Main.dropPlan (m : Main) (h : Nat) : Main :=
  let m := m.setPlan h {}
  let clear := fun (p : Nat × Ward) => (p.1, if p.2.loaded = some h then { p.2 with loaded := none } else p.2)
  { m with wards := m.wards.map clear }.journalPlan h

/-- One binding released; the plan leaves the area with its last context. -/
def Main.unbindOne (m : Main) (h c : Nat) : Main :=
  let p := m.plan h
  if !p.contexts.contains c then m
  else
    let cs := p.contexts.erase c
    if cs.isEmpty then m.dropPlan h else (m.setPlan h { p with contexts := cs }).journalPlan h

/-- A binding released with its companion (R119, R272). -/
def Main.unbindPlan (m : Main) (h c : Nat) : Main :=
  let comps := (m.plans.filter fun p => p.2.valid && p.2.role == 1 && p.2.base == h && p.2.contexts.contains c).map (·.1)
  (h :: comps).foldl (fun m k => m.unbindOne k c) m

/-- Every binding of a context released (R247, order 5). -/
def Main.unbindAll (m : Main) (c : Nat) : Main :=
  ((m.plans.filter fun p => p.2.contexts.contains c).map (·.1)).foldl (fun m h => m.unbindOne h c) m

/-- A bitting unbound from every context; each receives a status before its next step begins (R93, R143, R148, R418). -/
def Main.unbindFault (m : Main) (h st detail : Nat) (who : Nat → Bool) : Main :=
  let cs := (m.plan h).contexts.filter who
  cs.foldl (fun m c =>
    (m.unbindPlan h c).updCtx c fun x => if x.pendingFault.isNone then { x with pendingFault := some (st, detail) } else x) m

/-! ## Carried ranges -/

/-- A range of a memory set to zero. -/
def Main.zeroRange (m : Main) (r : Ref) (n : Nat) : Main :=
  match r.mem with
  | .sp c => { m with sp := Mem.zero (spKey c.val r.addr) n m.sp }
  | .ws w => { m with ws := Mem.zero (wsKey w.val r.addr) n m.ws }
  | .stack => { m with stack := Mem.zero r.addr n m.stack }
  | .host p => { m with host := Mem.zero (hostKey p r.addr) n m.host }

/-- The carried ranges a berth declares: those of the first stored bitting of the pair that names the member (R226). -/
def Main.carriedOf (m : Main) (model mask member : Nat) : List Carried :=
  ((m.stored.filter fun q => q.2.2.modelKey == model && q.2.2.mask == mask).findSome? fun q =>
    let l := q.2.2.aux.carried.filter fun k => k.member == member
    if l.isEmpty then none else some l).getD []

/-- Both versions of a carried range zeroed (R244). A page buffer slot holds its headers inside the one range (R207). -/
def Main.zeroCarried (m : Main) (k : Carried) : Main :=
  if k.kvSlot.isSome then m.zeroRange k.a k.size else (m.zeroRange k.a k.size).zeroRange k.b k.size

/-- A context's berth freed in its set, its last tenant kept (R244). -/
def Main.leaveBerth (m : Main) (c : Nat) : Main :=
  let t := (m.ctx c).tenant
  let m := m.updCtx c fun x => { x with berth := none }
  { m with kr := { m.kr with sets := m.kr.sets.map fun s =>
      { s with berths := s.berths.map fun q => if q.1 = some c then (none, some t) else q } } }

/-- Orders 3 to 5 of a teardown (R247): pages, berth and images, bindings. -/
def Main.tearDown (m : Main) (c : Nat) : Main :=
  let x := m.ctx c
  let m := (m.releaseReserved (· == c)).freeStreams c
  let m := match x.berth with
    | some (model, mask, b) => ((m.carriedOf model mask b).foldl Main.zeroCarried m).leaveBerth c
    | none => m
  let m := m.updCtx c fun x => { x with imageValid := false, seqLen := 0, kvLimit := 0 }
  let drop := fun (s : Switch) =>
    if s.ctx = c then none else some { s with displaced := s.displaced.erase c, saving := s.saving.erase c }
  let m := { m with kr := { m.kr with switches := m.kr.switches.filterMap drop } }
  m.unbindAll c

/-! ## Lane records (R260) -/

/-- Table 11-3's 16 bytes. -/
def laneRecord (r : LaneRec) (phase : Bool) : List Byte :=
  leBytes 6 r.slot ++ leBytes 1 r.kind ++ leBytes 1 r.status ++ leBytes 1 r.cause ++ leBytes 1 (b2n phase)
    ++ leBytes 2 r.run ++ leBytes 4 0

/-- A lane's result ring: base and order (Table 11-8). -/
def Main.laneRing (m : Main) (l : Nat) : Nat × Nat :=
  (m.pair (0x40010 + l * 0x100) (0x40014 + l * 0x100) 6, ringOrder (m.fld (F.LANE_RING_LO_ring_order l)) 6 16 6)

/-- One record written to the ring, or dropped and counted; its slots counted by kind and cause. -/
def Main.laneWrite (m : Main) (l : Nat) (r : LaneRec) : Main :=
  let x := m.lane l
  let (base, order) := m.laneRing l
  let p := (m.ctx ((m.lane l).ctxNo)).tenant
  let m := match r.kind with
    | 0 => m.count 0x38 l 1
    | 1 => m.count 0x39 (l * 8 + r.cause) 1
    | 2 => m.count 0x3A (l * 8 + r.cause) r.run
    | _ => m
  let m := if r.kind = 1 ∧ r.cause = 0 then
      m.logErr { code := 0x71, step := r.slot, ctx := 0xFFFF, extra := l, aux1 := r.slot % 2 ^ 32, aux2 := r.slot / 2 ^ 32 }
    else m
  if ringFull order x.head (m.fld (F.LANE_RING_IDX_tail l)) then m.updLane l fun y => { y with dropped := satAdd 16 y.dropped 1 }
  else
    let m := m.tenantWr p (base + x.head * 16) (laneRecord r x.phase)
    let nx := ringNext order { head := x.head, phase := x.phase }
    let m := m.updLane l fun y => { y with head := nx.head, phase := nx.phase }
    if m.bit (F.LANE_CTL_miss_irq l) && (r.kind == 1 || r.kind == 2) then m.raise (m.fld (F.LANE_CTL_miss_vector l)) else m

/-- The records in front that are ready go to the ring, in slot order. -/
def Main.laneFlush (m : Main) (l : Nat) : Main :=
  let rs := (m.lane l).recs
  let out := rs.takeWhile (·.ready)
  out.foldl (fun m r => m.laneWrite l r)
    (m.updLane l fun y => { y with recs := rs.dropWhile (·.ready) })

/-- The open run of missed slots closed into its record; runs above 65,535 slots take several. -/
def Main.laneCloseMiss (m : Main) (l : Nat) : Main :=
  match (m.lane l).miss with
  | none => m
  | some (first, n, cause) =>
    let c := if cause = 0xFF then 0 else cause
    let recs := (List.range ((n + 65534) / 65535)).map fun i =>
      ({ slot := first + 65535 * i, kind := 2, status := 0, cause := c, run := min 65535 (n - 65535 * i), ready := true } : LaneRec)
    (m.updLane l fun y => { y with miss := none, recs := y.recs ++ recs }).laneFlush l

/-- The record of a slot whose step committed or aborted, given its status. -/
def Main.laneSettle (m : Main) (l slot status : Nat) : Main :=
  (m.updLane l fun y => { y with recs := y.recs.map fun r =>
    if r.slot = slot ∧ r.kind ≤ 1 ∧ !r.ready then { r with status := status, ready := true } else r }).laneFlush l

/-- The lane that has a ward set aside. -/
def Main.laneOf (m : Main) (w : Nat) : Option Nat := (m.ward w).lane

/-- A lane at its end: RESERVED again, or idle when reserve was cleared; an idle lane's ward returns to the scheduled wards at
the next list point (R252). -/
def Main.laneLeave (m : Main) (l : Nat) : Main :=
  if (m.lane l).unreserve then
    let m := m.updLane l fun y => { y with st := .idle, saving := false, unreserve := false, listsLoaded := false }
    { m with kr := { m.kr with event := true } }
  else m.updLane l fun y => { y with st := .reserved, listsLoaded := false }

/-- R252: a stopping lane with nothing left to commit returns to RESERVED, or to idle when reserve was cleared; its start
descriptor completes with DONE. -/
def Main.laneDrained (m : Main) (l : Nat) : Main :=
  let x := m.lane l
  if x.st = .stopping ∧ x.cur.isNone ∧ x.staged.isEmpty then
    let c := (m.lane l).ctxNo
    let m := m.laneCloseMiss l
    let m := match (m.ctx c).head with
      | some d => if d.seq = x.startSeq then m.completeHead c stDone (b2n (m.ctx c).reExec) (x.lastCommitted.getD (2 ^ 64 - 1)) 0 else m
      | none => m
    m.laneLeave l
  else m

/-- A lane told to stop: no further step starts (R252). -/
def Main.laneHalt (m : Main) (l : Nat) : Main :=
  if (m.lane l).st = .running then (m.updLane l fun y => { y with st := .stopping }).laneDrained l else m

/-- Table 11-4: a lane stopped by a fault of its context: staged steps that have not committed are dropped. -/
def Main.laneFault (m : Main) (l st detail : Nat) : Main :=
  let x := m.lane l
  let w := x.ward
  let i := m.inst w
  let m := (m.setInst w {}).laneCloseMiss l
  let m := match x.cur with
    | some k =>
      let late := decide (k < x.tick)
      let cause := if !late then 0 else if i.throttled then 1 else if i.replayHeld then 2 else if i.weightWait then 3 else 0
      let r : LaneRec := { slot := k, kind := b2n late, status := st, cause := cause, run := 1, ready := true }
      (m.charge i.cost i.members true).updLane l fun y => { y with recs := y.recs ++ [r] }
    | none => m
  let m := { m with log := { m.log with pipe := m.log.pipe.filter fun k => k.live || !(k.kind == 1 && k.inst.mask == 2 ^ w) } }
  let m := m.updLane l fun y => { y with cur := none, staged := [], recs := y.recs.map fun r => { r with ready := true, status := st } }
  let m := m.laneFlush l
  let m := if x.st = .running ∨ x.st = .stopping then m.faultCtx ((m.lane l).ctxNo) st detail else m
  (m.updLane l fun y => { y with st := .stopping }).laneLeave l

/-! ## Suspects and fences -/

/-- R438: a ward to be fenced from its next boundary; the error record names the mask after. -/
def Main.fenceWard (m : Main) (w why : Nat) : Main :=
  if (m.ward w).fencePending ∨ m.fencedWard w then m
  else
    let k := m.err.next
    let m := m.updWard w fun x => { x with fencePending := true }
    let mask := m.fence.fenced ||| (((List.range 16).map fun v => if (m.ward v).fencePending then 2 ^ v else 0).sum)
    let m := { m with fence := { m.fence with
      details := Tab.put ctrDef w k m.fence.details
      clock := if why = 1 then m.fence.clock ||| 2 ^ w else m.fence.clock } }
    m.logErr { code := 0x42, island := 0x80 + w, aux1 := why, aux2 := mask }

/-- R438: a cylinder marked suspect; the third marking fences its ward. -/
def Main.markSuspect (m : Main) (cyl tumbler : Nat) : Main :=
  let n := Tab.get ctrDef m.fence.suspect cyl + 1
  let m := { m with fence := { m.fence with suspect := Tab.put ctrDef cyl n m.fence.suspect } }
  let m := m.logErr { code := 0x41, island := cyl, extra := tumbler, aux1 := n }
  if n = 3 then m.fenceWard (cyl / 8) 0 else m

/-! ## Hinges and scrubbing -/

/-- R295: a hinge swung at its function's next unit of work. -/
def Main.swing (m : Main) (h : Nat) : Main :=
  let want := m.fld F.HINGE_CTL_assist / 2 ^ (h - 1) % 2
  let now := m.fld F.HINGE_NOW_in_force
  m.setFld F.HINGE_NOW_in_force (now - now / 2 ^ (h - 1) % 2 * 2 ^ (h - 1) + want * 2 ^ (h - 1))

/-- 64 KiB units from a byte address on. -/
def unitsOf (base n : Nat) : List Nat := (List.range ((n + 0xFFFF) / 0x10000)).map fun i => base / 0x10000 + i

/-- Bytes of a region with its check tail, rounded up to 64 KiB (R132). -/
def regionBytes (size : Nat) : Nat := (size + size / 4096 * 4 + 0xFFFF) / 0x10000 * 0x10000

/-- Whether a region number is in use: not FREE, or kept for a LOAD whose units are still scrubbed. -/
def regionUsed (x : Region) : Bool := x.st != RegionSt.free || x.ctx.isSome

/-- The tenant of a unit's last writer (R420). -/
def Main.writerOf (m : Main) (u : Nat) : Option Nat := Tab.get (fun _ => none) m.lastWriter u

/-- A range entered for scrubbing (R423): at once, or after host software's answer under H9. -/
def Main.wantScrub (m : Main) (kind pasid : Nat) (us : List Nat) : Main :=
  let m := m.swing 9
  let go := !m.assisted 9
  let new := us.filter fun u => !(m.scrubWant.any fun p => p.1 == u)
  let m := { m with scrubWant := m.scrubWant ++ new.map fun u => (u, go) }
  if go ∨ new.isEmpty then m
  else m.ask 9 [kind, new.headD 0 * 0x10000, new.length, (m.writerOf (new.headD 0)).getD 0, pasid] []

/-! ## Changes at a boundary -/

/-- Whether a context is a member of a running instance. -/
def Main.running (m : Main) (c : Nat) : Bool := m.insts.any fun p => p.2.live && p.2.members.any fun x => x.ctx == c

/-- The lane that holds a ward or is taking it (R251). -/
def Main.laneTaking (m : Main) (w : Nat) : Option Nat :=
  (List.range 4).find? fun l => (m.lane l).ward == w && ((m.lane l).st != LaneSt.idle || (m.lane l).saving)

/-- Whether a lane's last started step has committed. -/
def Main.laneQuiet (m : Main) (w : Nat) : Bool :=
  match m.laneTaking w with
  | some l => (m.lane l).cur.isNone && (m.lane l).staged.isEmpty
  | none => true

/-- An instance of a lead ward aborted (R102); a lane's step stops its lane (Table 11-4). -/
def Main.abortRun (m : Main) (lead st detail : Nat) : Main :=
  match (m.inst lead).kind with
  | .lane l _ => m.laneFault l.val st detail
  | _ => m.abortInst lead st detail

/-- A pending fence of a ward that stands at its boundary (R439, Table 11-4). -/
def Main.settleFence (m : Main) (w : Nat) : Main :=
  if !(m.ward w).fencePending || (m.instOn w).isSome || !m.laneQuiet w then m
  else
    let m := m.updWard w fun x => { x with fencePending := false }
    let m := { m with fence := { m.fence with fenced := m.fence.fenced ||| 2 ^ w }, kr := { m.kr with event := true } }
    match m.laneTaking w with
    | some l =>
      let m := m.updLane l fun y => { y with unreserve := true }
      (m.laneFault l stFenced (Tab.get ctrDef m.fence.details w)).setFld (F.LANE_CTL_reserve l) 0
    | none => m

/-- R439: a fenced ward whose residents are saved is clamped and switched off. -/
def Main.settlePower (m : Main) (w : Nat) : Main :=
  if m.fencedWard w && (m.ward w).powered && (m.instOn w).isNone
      && !(m.kr.sets.any fun s => decide (s.mask / 2 ^ w % 2 = 1) && s.berths.any fun q => q.1.isSome) then
    let m := m.updWard w fun x => { x with powered := false, loaded := none }
    { m with absent := (0x80 + w) :: (List.range 8).map (fun i => 8 * w + i) ++ m.absent
             kr := { m.kr with sets := m.kr.sets.filter fun s => decide (s.mask / 2 ^ w % 2 = 0) } }
  else m

/-- R248: a context unbound from its tenant at its boundary. -/
def Main.settleUnbind (m : Main) (c : Nat) : Main :=
  let x := m.ctx c
  if !x.unbindPending || m.running c then m
  else
    let m := Main.tornDown m c 0 x.queue
    (m.tearDown c).setCtx c {}

/-- R250: shares written take effect at a context's boundary. -/
def Main.settleShare (m : Main) (c : Nat) : Main :=
  match (m.ctx c).nextShare with
  | some (w, nd) => if m.running c then m else m.updCtx c fun x => { x with weight := w, noDrop := nd, nextShare := none }
  | none => m

/-- R415: whether a ward still runs under an older set-up. -/
def Main.protPending (m : Main) : Bool :=
  m.insts.any fun p => p.2.live && (wardsOf p.2.mask).any fun w => (m.ward w).protGen != m.prot.gen

/-- R418: whether a stored bitting names a region that its contexts' tenant may not use. -/
def Main.unpublished (m : Main) (p : Plan) : Bool :=
  (p.bitting.map fun b => b.aux.weights.any fun w =>
    let r := m.region w.region
    r.st != RegionSt.free && r.pasid != p.pasid && !(((m.tenantOf r.pasid).map fun q => q.2.publish).getD false)).getD false

/-- R415, R418: the set-up in force once no ward is pending. -/
def Main.settleProt (m : Main) : Main :=
  if m.protPending || m.prot.force == m.prot.written then m
  else
    let gone := (m.prot.force.filter fun p => p.2.valid && !(Tab.get tenantDef m.prot.written p.1).valid).map (·.2.pasid)
    let m := { m with prot := { m.prot with force := m.prot.written } }
    let m := ((m.plans.filter fun p => p.2.valid && m.unpublished p.2).map (·.1)).foldl
      (fun m h => m.unbindFault h stPlan 0 fun c => (m.plan h).contexts.contains c) m
    let m := { m with pages := m.pages.map fun p =>
        match p.2.st with
        | .free (some t) => if gone.contains t then (p.1, { p.2 with st := .scrub }) else p
        | _ => p }
    let inRegion := fun (u : Nat) => m.regions.any fun p => regionUsed p.2 && (unitsOf p.2.base (regionBytes p.2.size)).contains u
    let inPool := fun (u : Nat) => decide (m.fld F.PAGE_POOL_BASE_base ≤ u)
      && decide (u < m.fld F.PAGE_POOL_BASE_base + m.fld F.PAGE_POOL_SIZE_pages)
    let us := (m.lastWriter.filter fun p => (p.2.map gone.contains).getD false && !inRegion p.1 && !inPool p.1
      && !m.scrubbed.contains p.1).map (·.1)
    if us.isEmpty then m else m.wantScrub 0 0 us

/-- R295: hinge H3 in force once every ward has taken its mode. -/
def Main.settleH3 (m : Main) : Main :=
  let want := m.fld F.HINGE_CTL_assist / 4 % 2
  let late := m.insts.any fun p => p.2.live && (wardsOf p.2.mask).any fun w => b2n (m.ward w).h3 != want
  if late then m
  else
    let now := m.fld F.HINGE_NOW_in_force
    m.setFld F.HINGE_NOW_in_force (now - now / 4 % 2 * 4 + want * 4)

/-- A chain notice that waits for a context's boundary (R221, R319): pages at and above a new kv_limit freed, or the whole
sequence to be recomputed, its uncompleted descriptor from its first layer group. -/
def Main.settleChain (m : Main) (c : Nat) : Main :=
  let x := m.ctx c
  if m.running c ∨ (x.pendingDrop.isNone ∧ !x.pendingResync) then m
  else
    let m := match x.pendingDrop with
      | some kv => (if kv < x.kvLimit then m.dropFrom c (kv / 32) (some x.tenant) false else m).updCtx c fun y => { y with pendingDrop := none }
      | none => m
    if !x.pendingResync then m
    else
      let m := m.freePages (some x.tenant) (x.streams.flatMap (·.pages))
      let m := m.updCtx c fun y => { y with
        pendingResync := false, kvLimit := 0, streams := y.streams.map fun s => { s with pages := [], fill := 0 }
        seqLen := (y.run.map (·.startLen)).getD y.seqLen
        cursor := (y.head.map fun d => d.field 0x18 2).getD y.cursor
        run := y.run.map fun r => { r with group := (y.head.map fun d => d.field 0x18 2).getD r.group, done := 0 }
        chainRecompute := decide (0 < y.seqLen) }
      let m := m.updCtx c Ctx.settle
      { m with kr := { m.kr with event := true } }

/-- R103: everything that waits for a step boundary, for the wards and contexts that stand at one. -/
def Main.settle (m : Main) : Main :=
  let m := (List.range 16).foldl Main.settleFence m
  let m := (List.range 16).foldl Main.settlePower m
  let m := (m.ctxs.map (·.1)).foldl (fun m c => ((m.settleShare c).settleChain c).settleUnbind c) m
  m.settleProt.settleH3

end Sys2Proof
end

