-- ==== Sys2Proof/Machine/Desc.lean ====
section
/-! DEFINITION. Doorbells, acceptance and the descriptors that need no engine (spec/12_host_interface.md R268 to R276, R289). -/

namespace Sys2Proof

/-- Recovery has not run since the last reset (Table 12-21). -/
def Main.recoveryNeeded (m : Main) : Bool := m.bit F.HOST_STATUS_recovery_needed

/-! ## Becoming runnable -/

/-- Whether some bitting is bound to a context. -/
def Main.hasPlan (m : Main) (c : Nat) : Bool := m.plans.any fun p => p.2.valid && p.2.contexts.contains c

/-- A context's state after an acceptance or a bind (R228, R229, R238, R241): one that becomes runnable takes its wake
credit and may be cut in. -/
def Main.wake (m : Main) (c : Nat) : Main :=
  let x := m.ctx c
  let y := if x.state = .bound ∧ !x.queue.isEmpty ∧ m.hasPlan c then { x with state := CtxState.swappedRunnable } else x.settle
  let m := { m.setCtx c y with kr := { m.kr with event := true } }
  if y.runnable && !x.runnable then (m.wakeVt c).cutIn c else m

/-! ## Doorbells (R269, R270) -/

/-- An sq_seq taken: ignored at or below accepted; one more than the ring's length ahead is a doorbell error. -/
def Main.takeSq (m : Main) (c sq : Nat) : Main :=
  let x := m.ctx c
  if sq ≤ x.accepted ∨ !x.entry.ok ∨ x.state = .free ∨ x.state = .faulted then m
  else if x.accepted + 2 ^ x.entry.sqOrder < sq then
    if x.dbErr.isSome then m
    else
      let k := m.err.next
      let m := m.logErr { code := 0x64, status := stProtection, ctx := c, step := m.kr.step, extra := 1
                          aux1 := (x.accepted + 1) % 2 ^ 32, aux2 := sq % 2 ^ 32, pasid := x.tenant }
      m.updCtx c fun y => { y with dbErr := some k }
  else m.setCtx c { x with sqSeq := sq }

/-- SQ_DB: a 64-bit write; kept while recovery is needed (R292). -/
def Main.sqDb (m : Main) (c : Nat) (v : DWord) (bytes : Nat) : Main :=
  if bytes ≠ 8 then m
  else if m.recoveryNeeded then m.updCtx c fun x => { x with sqKept := some (v.toNat % 2 ^ 48) }
  else m.takeSq c (v.toNat % 2 ^ 48)

/-- A cq_seq taken: ignored below the last one, or above the highest record written. -/
def Main.takeCq (m : Main) (c cq : Nat) : Main :=
  m.updCtx c fun x => if cq < x.cqSeq ∨ x.written < cq then x else { x with cqSeq := cq, needCq := false }

/-- CQ_DB. -/
def Main.cqDb (m : Main) (c : Nat) (v : DWord) (bytes : Nat) : Main :=
  if bytes ≠ 8 then m
  else if m.recoveryNeeded then m.updCtx c fun x => { x with cqKept := some (v.toNat % 2 ^ 48) }
  else m.takeCq c (v.toNat % 2 ^ 48)

/-- IRQ_ARM (R289, R303). -/
def Main.irqArm (m : Main) (c : Nat) (v : DWord) (bytes : Nat) : Main :=
  if bytes ≠ 8 ∨ !v.getLsbD 0 ∨ !m.h10Hardware then m else m.updCtx c fun x => { x with irqArmed := true, irqCount := 0 }

/-- IRQ_HOLDOFF_EXPIRY (R289): the delay after the first counted record of an armed vector ends. -/
def Main.irqHoldoff (m : Main) (c : Nat) : Main :=
  let x := m.ctx c
  if x.irqArmed && decide (0 < x.irqCount) && m.h10Hardware then
    (m.setCtx c { x with irqArmed := false, irqCount := 0 }).raise x.entry.vector
  else m

/-! ## Acceptance (R271) -/

/-- The numbers a context may accept now: at most 16, after the accepted one, up to sq_seq and the free record places. -/
def Ctx.eligible (x : Ctx) : List Nat :=
  let top := min x.sqSeq (x.cqSeq + 2 ^ x.entry.cqOrder)
  (List.range (min 16 (top - x.accepted))).map fun i => x.accepted + 1 + i

/-- Descriptors read in order, each checked under R268; the first that fails ends the reading. -/
def Main.readDescs (m : Main) (c : Nat) : List Nat → Main × List Desc
  | [] => (m, [])
  | n :: ns =>
    let x := m.ctx c
    let a := x.entry.sqBase + n % 2 ^ x.entry.sqOrder * 64
    if !m.dmaOk x.tenant a 64 then
      let k := m.err.next
      (m.logDma c stProtection 0 a, [{ seq := n, bytes := [], protErr := some k }])
    else
      let bs := m.tenantRd x.tenant a 64
      let found := leNat (bs.take 6)
      if found ≠ n then
        let k := m.err.next
        (m.logErr { code := 0x64, status := stProtection, ctx := c, step := m.kr.step, extra := 0, aux1 := n % 2 ^ 32
                    aux2 := found % 2 ^ 32, pasid := x.tenant }, [{ seq := n, bytes := bs, protErr := some k }])
      else
        let r := Main.readDescs m c ns
        (r.1, { seq := n, bytes := bs } :: r.2)

/-- DESCRIPTOR_READ (R268, R270, R271): up to 16 eligible descriptors are read and checked, and the accept journal line is
written for the last of them. `refused`: the host refuses the read. -/
def Main.descriptorRead (m : Main) (c : Nat) (refused : Bool) : Main :=
  let x := m.ctx c
  if m.recoveryNeeded || m.acceptStop || !x.entry.ok || x.needCq || !x.reading.isEmpty || x.state == .free || x.state == .faulted then m
  else
    let put := fun (m : Main) (ds : List Desc) =>
      match ds.getLast? with
      | some d => (m.updCtx c fun x => { x with reading := ds, issued := d.seq }).lineAccepted c d.seq
      | none => m
    match x.dbErr with
    | some k =>
      if x.accepted + 1 ≤ x.cqSeq + 2 ^ x.entry.cqOrder then
        put (m.updCtx c fun x => { x with dbErr := none }) [{ seq := x.accepted + 1, bytes := [], protErr := some k }]
      else m
    | none =>
      match x.eligible with
      | [] => m
      | n :: ns =>
        if refused then
          let k := m.err.next
          put (m.logDma c stProtection 0 (x.entry.sqBase + n % 2 ^ x.entry.sqOrder * 64))
            [{ seq := n, bytes := [], protErr := some k }]
        else
          let r := m.readDescs c (n :: ns)
          put r.1 r.2

/-- R273: a LANE_STOP takes effect at its acceptance; one whose LANE_START has not been reached is recorded (Table 12-23). -/
def Main.stopAccepted (m : Main) (c : Nat) (d : Desc) : Main :=
  if d.opcode ≠ 8 ∨ d.protErr.isSome then m
  else
    let l := d.field 0x10 1
    if 3 < l ∨ m.laneCtxNo l ≠ c then m
    else
      match (m.lane l).st with
      | .running => m.laneHalt l
      | .stopping => m
      | _ => m.updCtx c fun x => { x with laneStops := x.laneStops ++ [d.seq] }

/-- ACCEPT_READBACK (R271): the descriptors that the journal write covers are accepted; those of a context faulted meanwhile
take CTX_TORN_DOWN. -/
def Main.acceptReadback (m : Main) (c : Nat) : Main :=
  let x := m.ctx c
  match x.reading.getLast? with
  | none => m
  | some d =>
    let m := m.setCtx c { x with reading := [], accepted := d.seq }
    if x.state = .faulted then Main.tornDown m c x.faultDetail x.reading
    else
      let new := x.reading.zipIdx.map fun p => { p.1 with stamp := m.stamps + p.2 }
      let m := { m with stamps := m.stamps + new.length }
      let m := m.updCtx c fun y => { y with queue := y.queue ++ new }
      let m := x.reading.foldl (fun m d => m.stopAccepted c d) (m.wake c)
      m.checkHead c

/-! ## Descriptors without an engine -/

/-- The oldest descriptor of a context that may be performed now (R273): at a boundary, or with no berth in a running
instance, and not started yet. -/
def Main.due (m : Main) (c opcode : Nat) : Option Desc :=
  let x := m.ctx c
  match x.head with
  | some d =>
    if d.opcode = opcode ∧ d.protErr.isNone ∧ !x.busy ∧ !m.running c ∧ x.state ≠ .faulted ∧ x.state ≠ .free then some d else none
  | none => none

/-- R272, R491: a context's sequence ended: its pages FREE, kv_limit and the length 0, len_done 0 in its line. -/
def Main.endSequence (m : Main) (c : Nat) : Main :=
  let cols := (m.ctx c).columns
  let m := (m.freeStreams c).count 0x28 0 cols
  (m.updCtx c fun x => { x with seqLen := 0 }).lineLen c 0

/-- Whether a bound bitting serves a layer group of a model for a context. -/
def Main.serves (m : Main) (c key g : Nat) : Bool :=
  m.stored.any fun q => q.2.1.contexts.contains c && q.2.1.role == 0 && q.2.2.modelKey == key && q.2.2.layerGroup == g
    && q.2.2.flags / 2 % 2 == 0

/-- RUN (R275): the oldest descriptor starts: END_SEQ first where it asks, then the checks; its layer groups run in later
steps. -/
def Main.startRun (m : Main) (c : Nat) : Main :=
  match m.due c 1 with
  | none => m
  | some d =>
    if (m.ctx c).run.isSome then m
    else
      let m := if d.field 0x38 1 % 2 = 1 then m.endSequence c else m
      let x := m.ctx c
      let first := d.field 0x18 2
      let last := d.field 0x1A 2
      let n := d.field 0x1C 4
      let ok := decide (0 < n) && decide (first ≤ last) && decide (x.seqLen + n ≤ 2 ^ x.entry.histOrder)
        && (List.range (last - first + 1)).all fun i => m.serves c (d.field 0x10 8) (first + i)
      if !ok then m.faultCtx c stPlan 0
      else
        let m := m.setCtx c { x with cursor := first, run := some { seq := d.seq, group := first, startLen := x.seqLen } }
        { m with kr := { m.kr with event := true } }

/-- UNBIND (R272, R119): a binding released with its companion; a handle not bound to the context is refused. -/
def Main.doUnbind (m : Main) (c : Nat) : Main :=
  match m.due c 3 with
  | none => m
  | some d =>
    let h := d.field 0x10 2
    if (m.plan h).contexts.contains c then (m.unbindPlan h c).setupDone c 0 else m.setupFail c stPlan 0

/-- END_SEQ (R272). -/
def Main.doEndSeq (m : Main) (c : Nat) : Main :=
  match m.due c 9 with
  | none => m
  | some _ => (m.endSequence c).setupDone c 0 |>.lineLen c 0

/-- UNKNOWN_OPCODE (R272, Table 12-6): refused as a failed set-up descriptor. -/
def Main.doUnknown (m : Main) (c : Nat) : Main :=
  match (m.ctx c).head with
  | some d => if 1 ≤ d.opcode ∧ d.opcode ≤ 9 then m else
      match m.due c d.opcode with
      | some _ => m.setupFail c stPlan 0
      | none => m
  | none => m

end Sys2Proof
end

