-- ==== Sys2Proof/Machine/Bind.lean ====
section
/-! DEFINITION. Binding a bitting (spec/04_bittings.md R80 to R91): reading its container, the checks of Table 4-7 and of the
chapters that add to it, and its place in the plan area. -/

namespace Sys2Proof

/-! ## Reading the container -/

/-- A number in a container. -/
def conNat (bs : List Byte) (off n : Nat) : Nat := leNat ((bs.drop off).take n)

/-- A section entry of the header (R81): type, count, offset, size, reserved. -/
structure Section where
  type : Nat
  count : Nat
  off : Nat
  size : Nat
  reserved : Nat
deriving DecidableEq, Repr

/-- The twelve section entries. -/
def sectionsOf (bs : List Byte) : List Section :=
  (List.range 12).map fun i =>
    let a := 0x40 + 16 * i
    { type := conNat bs a 2, count := conNat bs (a + 2) 2, off := conNat bs (a + 4) 4, size := conNat bs (a + 8) 4
      reserved := conNat bs (a + 12) 4 }

/-- The used section of a type. -/
def sectionOf (ss : List Section) (t : Nat) : Option Section := ss.find? fun s => s.type == t

/-- A tensor descriptor's fields (Table 4-3). -/
def tensorAt (bs : List Byte) (a : Nat) : TensorDesc where
  id := conNat bs a 2
  fmtCode := conNat bs (a + 2) 1
  group := conNat bs (a + 3) 1
  zp := conNat bs (a + 4) 1
  qflags := conNat bs (a + 5) 1
  tier := conNat bs (a + 6) 1
  owner := conNat bs (a + 7) 1
  base := conNat bs (a + 8) 8
  dims := (List.range 4).map fun i => conNat bs (a + 0x10 + 4 * i) 4
  strides := (List.range 4).map fun i => conNat bs (a + 0x20 + 4 * i) 4
  scaleBase := conNat bs (a + 0x30) 8

/-- A token declaration's fields (Table 4-5). -/
def tokenAt (bs : List Byte) (a : Nat) : TokenDecl :=
  let v := conNat bs a 8
  { token := v % 4096, depth := v / 2 ^ 12 % 4 + 1, consumers := v / 2 ^ 14 % 64, prodWard := v / 2 ^ 20 % 64
    prodKind := v / 2 ^ 26 % 64, crossing := v / 2 ^ 32 % 2 == 1 }

/-- A list entry's fields (Table 4-6). -/
def entryAt (bs : List Byte) (a : Nat) : Entry :=
  let v := conNat bs a 8
  { op := v % 64, kind := v / 64 % 4, rep := v / 2 ^ 8 % 256, waitA := v / 2 ^ 16 % 4096, waitB := v / 2 ^ 28 % 4096
    signal := v / 2 ^ 40 % 4096, relA := v / 2 ^ 52 % 2 == 1, relB := v / 2 ^ 53 % 2 == 1, layerFirst := v / 2 ^ 54 % 2 == 1
    commitLast := v / 2 ^ 55 % 2 == 1, operand := conNat bs (a + 8) 8 }

/-- A collective's fields (Table 14-5). -/
def collectiveAt (bs : List Byte) (a : Nat) : Collective where
  id := conNat bs a 2
  kind := conNat bs (a + 2) 1
  minGen := conNat bs (a + 3) 1
  src := conNat bs (a + 4) 2
  dst := conNat bs (a + 6) 2
  bytes := conNat bs (a + 8) 4
  root := conNat bs (a + 12) 1
  route := conNat bs (a + 13) 1
  wait := conNat bs (a + 14) 2
  signal := conNat bs (a + 16) 2

/-- The items of a section, each of `n` bytes. -/
def itemsOf (ss : List Section) (t n : Nat) (f : Nat → α) : List α :=
  match sectionOf ss t with
  | some s => (List.range s.count).map fun i => f (s.off + n * i)
  | none => []

/-- A container's fields (R80). -/
def readBitting (bs : List Byte) (aux : ContainerAux) : Bitting :=
  let ss := sectionsOf bs
  { size := conNat bs 8 4, crc := conNat bs 12 4, version := conNat bs 4 2, modelKey := conNat bs 0x10 8
    layerGroup := conNat bs 0x18 2, batchClass := conNat bs 0x1A 1, minPlevel := conNat bs 0x1B 1, mask := conNat bs 0x1C 2
    steppingMin := conNat bs 0x1E 1, minChainGen := conNat bs 0x1F 1, chainUnits := conNat bs 0x20 1, flags := conNat bs 0x21 1
    rowsMin := conNat bs 0x22 2, rowsMax := conNat bs 0x24 2, stepBound := conNat bs 0x28 4, loadChannels := conNat bs 0x30 8
    compiler := conNat bs 0x38 4, tensors := itemsOf ss 2 64 (tensorAt bs), tokens := itemsOf ss 1 8 (tokenAt bs)
    lists := aux.dir.map fun q => (q.1, (List.range q.2.2).map fun i => entryAt bs (q.2.1 + 16 * i))
    collectives := itemsOf ss 9 32 (collectiveAt bs), aux := aux }

/-! ## Table 4-7's checks of the container -/

/-- magic, version, sizes, crc and reserved header fields (R80, R83). -/
def headerOk (bs : List Byte) (b : Bitting) : Bool :=
  let major := b.version / 256
  let minor := b.version % 256
  conNat bs 0 4 == 0x474E5442 && major == 1 && decide (minor ≤ 2) && conNat bs 6 2 == 0x100
    && b.size == bs.length && b.size % 64 == 0 && decide (b.size ≤ 0x4000000) && decide (0x100 ≤ b.size)
    && b.crc == crc32 (bs.take 12 ++ List.replicate 4 0#8 ++ bs.drop 16)
    && conNat bs 0x26 2 == 0 && conNat bs 0x2C 4 == 0 && conNat bs 0x3C 4 == 0 && b.flags / 8 == 0
    && (minor != 0 || (b.minChainGen == 0 && b.chainUnits == 1)) && (decide (2 ≤ minor) || b.flags / 4 % 2 == 0)

/-- Sections (R81): mandatory ones present, types unique and known, every one aligned and inside the container. -/
def sectionsOk (bs : List Byte) (b : Bitting) : Bool :=
  let ss := (sectionsOf bs).filter fun s => s.type != 0
  let ts := ss.map (·.type)
  let unit := fun t => if t = 1 ∨ t = 7 then 8 else if t = 2 then 64 else if t ≤ 5 then 16 else 32
  decide ts.Nodup && (List.range 8).all (fun i => ts.contains (i + 1)) && ts.all (fun t => decide (1 ≤ t ∧ t ≤ 9))
    && (ts.contains 9 == decide (1 < b.chainUnits))
    && ss.all (fun s => s.off % 64 == 0 && decide (0x100 ≤ s.off) && decide (s.off + s.size ≤ bs.length) && s.reserved == 0
        && (s.type == 3 || s.type == 4 || s.type == 5 || decide (unit s.type * s.count ≤ s.size)))
    && b.aux.dir.all (fun q => decide (q.2.1 + 16 * q.2.2 ≤ bs.length))

/-- Fields of the header in range: mask, rows, class, level, units. -/
def rangesOk (m : Main) (b : Bitting) : Bool :=
  let n := (wardsOf b.mask).length
  decide (b.mask ≠ 0) && (n == 1 || n == 2 || n == 4 || n == 8 || n == 16)
    && decide (1 ≤ b.rowsMin ∧ b.rowsMin ≤ b.rowsMax ∧ b.rowsMax ≤ 4096) && decide (b.batchClass ≤ 15) && decide (b.minPlevel ≤ 5)
    && decide (1 ≤ b.chainUnits ∧ b.chainUnits ≤ 16) && decide (b.steppingMin ≤ m.fld F.DEV_ID_stepping)

/-- Whether a qflag of a tensor is set. -/
def TensorDesc.q (t : TensorDesc) (k : Nat) : Bool := t.qflags / 2 ^ k % 2 == 1

/-- A tensor's format. -/
def TensorDesc.fmt (t : TensorDesc) : Option Fmt := fmtOfCode t.fmtCode

/-- One tensor descriptor (R82): codes in range, reserved fields zero, and the rules of R37, R39, R82, R107, R108, R118,
R155, R184, R489. -/
def tensorOk (bs : List Byte) (b : Bitting) (t : TensorDesc) (a : Nat) : Bool :=
  match t.fmt with
  | none => false
  | some f =>
    let bl := blockScaled f
    let g := groupLen t.group
    let rest := (t.dims.drop 1).foldl (· * ·) 1
    decide (t.group ≤ 3) && t.qflags / 32 == 0 && decide (t.tier ≤ 3) && decide (t.owner ≤ 15) && conNat bs (a + 0x38) 8 == 0
      && (hasZeroPoint f || t.zp == 0) && (bl || t.group == 0) && (t.group != 0 || t.scaleBase == 0)
      && (t.group == 0 || decide (blockCount (groupCount g (t.dims.headD 0) rest) ≤ 2 ^ 24))
      && (!t.q 1 || (b.aux.converted.contains t.id && t.group != 0))
      && (!t.q 2 || (widened f).isSome)
      && (t.q 4 || ((f == .e4m3 || f == .e5m2 || f == .bf16 || f == .fp16) && t.tier == 2
            && b.aux.weights.any fun w => w.tensorId == t.id))
      && (!b.aux.transposed.contains t.id || t.group == 0 || t.q 3)
      && (!b.aux.windowed.contains t.id || t.group == 0 || t.group == 1)
      && (t.tier != 3 || t.base / 2 ^ 48 % 2 ^ 15 == 0)

/-- All tensor descriptors: ids unique, each in order, and pairs of one class (R30). -/
def tensorsOk (bs : List Byte) (b : Bitting) : Bool :=
  let off := ((sectionOf (sectionsOf bs) 2).map (·.off)).getD 0
  let find := fun i => b.tensors.find? fun t => t.id == i
  decide (b.tensors.map (·.id)).Nodup
    && b.tensors.zipIdx.all (fun p => tensorOk bs b p.1 (off + 64 * p.2))
    && b.aux.pairs.all (fun p =>
      match (find p.1).bind TensorDesc.fmt, (find p.2).bind TensorDesc.fmt with
      | some x, some y => pairOk x y
      | _, _ => false)
    && b.aux.maskIds.all (fun i => (find i).isSome)
    && b.aux.rowWidths.all (fun w => w % 64 == 0 && decide (64 ≤ w ∧ w ≤ 1024))

/-- R85: loops nest to a depth of two, bodies of 1 to 255 entries lie inside their list or outer body. `ends` are the ends of
the open loops. -/
def loopsOk (n : Nat) : List Entry → Nat → List Nat → Bool
  | [], _, _ => true
  | e :: es, i, ends =>
    let open_ := ends.filter fun x => decide (i < x)
    if e.kind = 3 then false
    else if e.kind = 1 then
      let stop := i + 1 + e.operand % 256
      decide (1 ≤ e.operand % 256) && decide (stop ≤ n) && decide (open_.length < 2) && open_.all (fun x => decide (stop ≤ x))
        && loopsOk n es (i + 1) (stop :: open_)
    else loopsOk n es (i + 1) open_

/-- R84: every list belongs to a resource of the mask, once, its reserved bits clear, and the sets fit their caches. -/
def listsOk (bs : List Byte) (b : Bitting) : Bool :=
  let rs := b.lists.map (·.1)
  let sum := fun (p : Resource → Bool) => ((b.lists.filter fun q => p q.1).map fun q => q.2.length).sum
  decide rs.Nodup && rs.all (fun r => (wardsOf b.mask).contains (resWard r))
    && b.lists.all (fun q => loopsOk q.2.length q.2 0 [])
    && b.aux.dir.all (fun q => (List.range q.2.2).all fun i => conNat bs (q.2.1 + 16 * i + 7) 1 == 0)
    && (wardsOf b.mask).all (fun w =>
      (List.range 8).all (fun k => decide (sum (fun r => !wardResource r && resCyl r == 8 * w + k) ≤ 4096))
      && decide (sum (fun r => match r with | .ring v | .lane v _ | .wsPort v _ => v.val == w | _ => false) ≤ 8192))
    && b.lists.all (fun q => match q.1 with
      | .chan _ ch => decide (q.2.length ≤ 256) && (b.loadChannels / 2 ^ ch.val % 2 == 0 || q.2.all fun e => e.kind == 2)
      | _ => true)

/-- R89: for each port, each client's entries match its uses one for one. -/
def portsOk (b : Bitting) : Bool :=
  let ports := (b.aux.portNames.map (·.1)) ++ b.aux.portUses.flatMap (·.2)
  let clients := (b.aux.portUses.map (·.1)) ++ b.aux.portNames.flatMap (·.2)
  ports.all fun p => clients.all fun c =>
    (((b.aux.portNames.filter fun q => q.1 == p).flatMap (·.2)).count c)
      == (((b.aux.portUses.filter fun q => q.1 == c).flatMap (·.2)).count p)

/-- Tokens declared once, in range, and every one a slot names is declared (R86). -/
def tokensOk (b : Bitting) : Bool :=
  let ts := b.tokens.map (·.token)
  decide ts.Nodup && b.tokens.all (fun t => t.token != noToken && decide (1 ≤ t.consumers ∧ t.consumers ≤ 63))
    && decide (b.tokens.length ≤ 4095)
    && b.lists.all (fun q => q.2.all fun e =>
      e.kind != 0 || [e.waitA, e.waitB, e.signal].all fun k => k == noToken || ts.contains k)

/-! ## The dependency graph (R88) -/

/-- Firings of a list with its loops, an upper bound. -/
def firingBound : List Entry → Nat → Nat
  | [], _ => 0
  | e :: es, mul => if e.kind = 1 then firingBound es (mul * (e.operand / 256 % 65536 + 1)) else mul * (e.rep + 1) + firingBound es mul

/-- One list fired once, where its tokens allow. -/
def dryFire (b : Bitting) (r : Resource) (s : List (Resource × ListPos) × List TokenSt) :
    Option (List (Resource × ListPos) × List TokenSt) :=
  match s.1.find? fun q => q.1 == r with
  | none => none
  | some (_, p) =>
    if p.ended then none
    else
      let es := entriesOf b r
      match es[p.idx]? with
      | none => none
      | some e =>
        if waitReady s.2 e.waitA e.relA r p.idx && waitReady s.2 e.waitB e.relB r p.idx && signalReady s.2 e.signal then
          some (s.1.map (fun q => if q.1 = r then (r, advanceList es e p) else q), fireTokens e r p.idx true s.2)
        else none

/-- The lists run with nothing but their tokens: a graph without a cycle always has a slot that can fire. -/
def dryRun (b : Bitting) : Nat → List (Resource × ListPos) × List TokenSt → List (Resource × ListPos) × List TokenSt
  | 0, s => s
  | f + 1, s =>
    match b.lists.findSome? fun q => dryFire b q.1 s with
    | some s' => dryRun b f s'
    | none => s

/-- R88: the graph is acyclic exactly when every list ends; the counts are met when no buffer is left held. -/
def acyclic (b : Bitting) : Bool :=
  let fuel := (b.lists.map fun q => firingBound q.2 1).sum + 1
  let s := dryRun b fuel (freshLists b, freshTokens b)
  s.1.all (fun q => q.2.ended) && s.2.all fun t => t.out.isEmpty

/-! ## Checks against the part's state -/

/-- Carried ranges (R95, R96, R207, R243): whole lines, versions apart, images within a slot and a slot pair within the
save area, and the ROW_MAP covers the rows. -/
def carriedOk (m : Main) (c : Nat) (b : Bitting) : Bool :=
  let units := (let v := m.fld F.KEYRING_CFG_image_units; if v = 0 then 16 else v)
  let members := (b.aux.rowMembers.foldl max 0) + 1
  b.aux.carried.all (fun k => k.size % 64 == 0 && decide (k.a ≠ k.b) && refOk k.a k.size
      && (k.kvSlot.isSome || (refOk k.b k.size && !overlaps (k.a, k.size) (k.b, k.size))) && decide (k.member < members))
    && !b.aux.writesCommitted && decide (b.rowsMax ≤ b.aux.rowMembers.length) && decide (members ≤ 4096)
    && (List.range members).all (fun x => decide (64 + carriedBytes b x ≤ units * 0x10000))
    && (b.aux.carried.isEmpty || decide ((c + 1) * 2 * units ≤ m.fld F.SAVE_AREA_SIZE_size))

/-- R226: bittings of one model and mask declare the same ranges for the members they share. -/
def Main.sameCarried (m : Main) (b : Bitting) : Bool :=
  m.stored.all fun q =>
    let o := q.2.2
    o.modelKey != b.modelKey || o.mask != b.mask
      || b.aux.carried.all fun k => (o.aux.carried.filter fun j => j.member == k.member).isEmpty || o.aux.carried.contains k

/-- R138, R169, R418: weight objects lie in SEALED regions of the tenant or published ones, owned inside the mask, and agree
with their descriptors. -/
def Main.weightsOk (m : Main) (pasid : Nat) (b : Bitting) : Bool :=
  b.aux.weights.all fun w =>
    let r := m.region w.region
    decide (w.region < 8192) && r.st == RegionSt.sealed && decide (w.off + w.size ≤ r.size)
      && (wardsOf b.mask).contains r.owner && w.owner == r.owner
      && (r.pasid == pasid || ((m.tenantOf r.pasid).map fun q => q.2.publish).getD false)
      && (b.tensors.all fun t => t.id != w.tensorId || t.q 4 == w.keywayRaw)

/-- R315: the collectives of a bitting. -/
def collectivesOk (b : Bitting) : Bool :=
  let ts := b.tokens.map (·.token)
  decide (b.collectives.map (·.id)).Nodup
    && b.collectives.all fun k => decide (1 ≤ k.kind ∧ k.kind ≤ 3) && decide (k.minGen ≤ b.minChainGen) && k.bytes % 64 == 0
      && decide (k.route ≤ 1) && ts.contains k.wait && ts.contains k.signal

/-- The ring cycles of a lane's period by level (Table 11-1). -/
def lanePeriod (level : Nat) : Nat := [1400, 1200, 1000, 800, 600, 300].getD level 300

/-- R254: a Frame Lane plan. -/
def laneOk (b : Bitting) : Bool :=
  b.flags / 2 % 2 == 0
    || ((wardsOf b.mask).length == 1 && b.chainUnits == 1 && b.minChainGen == 0 && b.flags % 2 == 0
        && b.tensors.all (fun t => t.tier != 3 && !t.q 2) && decide (b.stepBound ≤ lanePeriod b.minPlevel) && !b.aux.writesPages)

/-- R119: a companion agrees with its base but for the formats, zero points, strides and scale sources of the WIDEN tensors. -/
def companionOk (bs base : List Byte) (b o : Bitting) : Bool :=
  let types := fun (l : List Byte) => ((sectionsOf l).filter fun s => s.type != 0).map (·.type)
  bs.take 8 == base.take 8 && (bs.drop 0x10).take 0x18 == (base.drop 0x10).take 0x18
    && (bs.drop 0x30).take 8 == (base.drop 0x30).take 8
    && (types bs).all (types base).contains && (types base).all (types bs).contains
    && b.tensors.length == o.tensors.length
    && o.tensors.all fun t =>
      match b.tensors.find? fun u => u.id == t.id with
      | none => false
      | some u =>
        if t.q 2 then
          u.fmt == (t.fmt.bind widened) && !u.q 2 && u.group == t.group && u.tier == t.tier && u.owner == t.owner
            && u.base == t.base && u.dims == t.dims
        else u == t

/-- The checks of a bind's role (R119, R215, R492). -/
def Main.roleOk (m : Main) (c role base : Nat) (bs : List Byte) (b : Bitting) : Bool :=
  match role with
  | 0 => true
  | 1 =>
    let p := m.plan base
    match p.bitting with
    | some o => p.valid && p.contexts.contains c && p.role == 0 && companionOk bs p.bytes b o
        && !(m.plans.any fun q => q.2.valid && q.2.role == 1 && q.2.base == base && decide (q.2.bytes ≠ bs))
    | none => false
  | 2 => b.tensors.all (fun t => t.tier != 3 || t.base / 2 ^ 63 % 2 == 0)
      && !(m.stored.any fun q => q.2.1.role == 2 && q.2.1.contexts.contains c && q.2.2.modelKey == b.modelKey)
  | _ => false

/-- Every check of Table 4-7 at bind, with those the chapters add. -/
def Main.bindOk (m : Main) (c role base : Nat) (bs : List Byte) (b : Bitting) : Bool :=
  headerOk bs b && sectionsOk bs b && rangesOk m b && tensorsOk bs b && tokensOk b && listsOk bs b && portsOk b && acyclic b
    && carriedOk m c b && m.sameCarried b && m.weightsOk (m.ctx c).tenant b && m.chainOk b && collectivesOk b && laneOk b
    && b.aux.wholeUnits && b.aux.shapeRules && m.roleOk c role base bs b

/-! ## The plan area -/

/-- The first gap of the plan area that holds so many bytes. -/
def Main.planGap (m : Main) (n : Nat) : Option Nat :=
  let top := m.fld F.PLAN_AREA_SIZE_size * 0x10000
  let used := (m.plans.filter fun p => p.2.valid).map fun p => (p.2.addr, p.2.size)
  let fits := fun a => decide (a + n ≤ top) && used.all fun u => decide (a + n ≤ u.1) || decide (u.1 + u.2 ≤ a)
  ((0 :: used.map fun u => u.1 + u.2).filter fits).foldl (fun o a => match o with
    | some b => some (min a b)
    | none => some a) none

/-- The lowest plan handle not in use. -/
def Main.freeHandle (m : Main) : Option Nat := (List.range (min 4096 (m.plans.length + 1))).find? fun h => !(m.plan h).valid

/-- A checked container stored, or shared where one with equal bytes stands under the same role (R90). -/
def Main.storePlan (m : Main) (c container role base : Nat) (bs : List Byte) (b : Bitting) : Option (Main × Nat) :=
  let same := m.plans.find? fun p => p.2.valid && p.2.role == role && (role != 1 || p.2.base == base) && p.2.bytes == bs
    && p.2.pasid == (m.ctx c).tenant
  match same with
  | some (h, p) =>
    some ((m.setPlan h { p with contexts := if p.contexts.contains c then p.contexts else p.contexts ++ [c] }).journalPlan h, h)
  | none =>
    match m.freeHandle, m.planGap bs.length with
    | some h, some a =>
      let m := m.write ⟨.stack, m.fld F.PLAN_AREA_BASE_base * 0x10000 + a⟩ bs
      let m := { m with bindSeq := m.bindSeq + 1 }
      some ((m.setPlan h { valid := true, bitting := some b, bytes := bs, addr := a, container := container, size := bs.length
                           crc := b.crc, pasid := (m.ctx c).tenant, role := role, base := if role = 1 then base else 0
                           bindSeq := m.bindSeq, contexts := [c] }).journalPlan h, h)
    | _, _ => none

/-- BIND (R90, R417): the copy of the container into the plan area begins; a source outside the tenant's windows, or one the
host refuses, fails the bind. -/
def Main.startBind (m : Main) (c : Nat) (refused : Bool) : Main :=
  match m.due c 2 with
  | none => m
  | some d =>
    let a := d.field 0x10 8
    let n := d.field 0x18 4
    if refused || !m.dmaOk (m.ctx c).tenant a n then
      let k := m.err.next
      (m.logDma c stProtection 2 a).setupFail c stProtection k
    else if m.fld F.PLAN_AREA_SIZE_size = 0 ∨ n < 0x100 ∨ 0x4000000 < n then m.setupFail c stPlan 0
    else m.updCtx c fun x => { x with busy := true }

/-- BIND_COPY_DONE (R90, R91): the copied container is checked; it is bound under its handle, or the bind is refused and the
earlier bindings stand. -/
def Main.bindCopyDone (m : Main) (c : Nat) (aux : ContainerAux) : Main :=
  let x := m.ctx c
  match x.head with
  | none => m
  | some d =>
    if d.opcode ≠ 2 ∨ !x.busy then m
    else
      let bs := m.tenantRd x.tenant (d.field 0x10 8) (d.field 0x18 4)
      let b := readBitting bs aux
      let role := d.field 0x1C 1
      let base := d.field 0x1E 2
      if !m.bindOk c role base bs b then m.setupFail c stPlan 0
      else
        match m.storePlan c (d.field 0x10 8) role base bs b with
        | some (m, h) =>
          let m := (m.setupDone c h).wake c
          { m with kr := { m.kr with event := true } }
        | none => m.setupFail c stPlan 0

end Sys2Proof
end

