-- ==== Sys2Proof/Machine/Switching.lean ====
section
/-! DEFINITION. Switches, saves and restores of contexts (spec/10_keyring.md R240 to R245), teardown and release (R247, R248), and
the binding of contexts to tenants (spec/19_security.md R414, R416; spec/12_host_interface.md R267). -/

namespace Sys2Proof

/-! ## Images (R243, Table 10-5) -/

/-- Bytes of an image slot. -/
def Main.slotBytes (m : Main) : Nat :=
  let v := m.fld F.KEYRING_CFG_image_units
  (if v = 0 then 16 else v) * 0x10000

/-- Address of an image slot of a context. -/
def Main.slotAddr (m : Main) (c slot : Nat) : Nat :=
  m.fld F.SAVE_AREA_BASE_base * 0x10000 + (2 * c + slot) * m.slotBytes

/-- Zero bytes up to a whole line. -/
def pad64 (bs : List Byte) : List Byte := bs ++ List.replicate ((64 - bs.length % 64) % 64) 0#8

/-- The committed version of a carried range (R95). -/
def committedRef (version : Bool) (k : Carried) : Ref := if version then k.b else k.a

/-- The rate of a range's lossy form: its tensor, where the bitting permits one (R152). -/
def lossyTensor (b : Bitting) (k : Carried) : Option TensorDesc :=
  if b.flags / 4 % 2 = 0 ∨ k.kvSlot.isSome then none
  else (b.tensors.find? fun t => t.id == k.tensorId).filter fun t =>
    (t.fmtCode == 7 || t.fmtCode == 8) && t.dims.getD 0 0 % 8 == 0 && t.dims.getD 1 0 % 8 == 0
      && decide (0 < t.dims.getD 0 0 * t.dims.getD 1 0)

/-- Extents of a lossy range. -/
def lossyDims (t : TensorDesc) : Nat × Nat × Nat := (t.dims.getD 0 0, t.dims.getD 1 0, t.dims.getD 2 1 * t.dims.getD 3 1)

/-- Parts of a page buffer slot after its headers: page list, key rows, value rows. -/
def slotParts (k : Carried) (w lb : Nat) : Ref × Ref × Ref :=
  let l : Ref := { k.a with addr := k.a.addr + 128 }
  let ks : Ref := { k.a with addr := k.a.addr + 128 + lb }
  (l, ks, { ks with addr := ks.addr + 32 * w })

/-- The bytes an image holds of one range: its 6-bit form, the parts of a page buffer slot in use (R208), or the range. -/
def Main.rangeSave (m : Main) (version : Bool) (b : Bitting) (k : Carried) : List Byte :=
  let src := committedRef version k
  match k.kvSlot with
  | some (_, _, w, lb) =>
    let h := m.bytesAt src 64
    let fill := leNat (h.take 1) % 32
    let pages := leNat ((h.drop 4).take 4)
    let p := slotParts k w lb
    pad64 (h ++ m.bytesAt p.1 (4 * pages) ++ m.bytesAt p.2.1 (fill * w) ++ m.bytesAt p.2.2 (fill * w))
  | none =>
    match lossyTensor b k with
    | some t =>
      let d := lossyDims t
      pad64 (fmcEncode (if t.fmtCode = 7 then .int8 else .uint8) 6 d.1 d.2.1 d.2.2 fun i => (m.byteAt src.mem (src.addr + i)).toNat)
    | none => m.bytesAt src k.size

/-- A range of an image restored into the committed version; answers the bytes that follow it. -/
def Main.rangeRestore (m : Main) (version : Bool) (b : Bitting) (k : Carried) (bs : List Byte) : Main × List Byte :=
  let dst := committedRef version k
  match k.kvSlot with
  | some (_, _, w, lb) =>
    let h := bs.take 64
    let fill := leNat (h.take 1) % 32
    let pages := leNat ((h.drop 4).take 4)
    let p := slotParts k w lb
    let n := 64 + 4 * pages + 2 * fill * w
    let r := bs.drop 64
    let m := (((m.write dst h).write p.1 (r.take (4 * pages))).write p.2.1 ((r.drop (4 * pages)).take (fill * w))).write p.2.2
      ((r.drop (4 * pages + fill * w)).take (fill * w))
    (m, bs.drop ((n + 63) / 64 * 64))
  | none =>
    match lossyTensor b k with
    | some t =>
      let d := lossyDims t
      let n := ((d.1 / 8 * (d.2.1 / 8) * d.2.2 + 31) / 32) * fmcUnitSize 6
      let es := fmcDecode (if t.fmtCode = 7 then .int8 else .uint8) 6 d.1 d.2.1 d.2.2 (bs.take n)
      (es.foldl (fun m e => m.write { dst with addr := dst.addr + e.1 } (leBytes 1 e.2)) m, bs.drop ((n + 63) / 64 * 64))
    | none => (m.write dst (bs.take k.size), bs.drop k.size)

/-- The ranges of an image restored in order. -/
def Main.rangesRestore (m : Main) (version : Bool) (b : Bitting) : List Carried → List Byte → Main
  | [], _ => m
  | k :: ks, bs =>
    let r := m.rangeRestore version b k bs
    Main.rangesRestore r.1 version b ks r.2

/-- The first stored bitting of a model and mask that declares a member. -/
def Main.berthBitting (m : Main) (model mask member : Nat) : Option Bitting :=
  ((m.stored.filter fun q => q.2.2.modelKey == model && q.2.2.mask == mask).find? fun q =>
    q.2.2.aux.carried.any fun k => k.member == member).map (·.2.2)

/-- An image's bytes: header, then ranges in CARRIED order. -/
def Main.imageBytes (m : Main) (c model mask member : Nat) : List Byte :=
  let x := m.ctx c
  let ks := m.carriedOf model mask member
  let ob := m.berthBitting model mask member
  let body := match ob with
    | some b => ks.flatMap (m.rangeSave x.version b)
    | none => []
  let lossy := (ob.map fun b => ks.any fun k => (lossyTensor b k).isSome).getD false
  let hdr := fun crc =>
    leBytes 4 0x474D494B ++ leBytes 2 c ++ leBytes 2 ks.length ++ leBytes 4 (x.tenant % 2 ^ 20) ++ leBytes 4 crc
      ++ leBytes 8 model ++ leBytes 2 mask ++ leBytes 2 member
      ++ leBytes 1 (b2n x.version + 2 * b2n lossy + 4 * b2n x.recompute) ++ List.replicate 3 0#8
      ++ leBytes 8 x.imageCommit ++ leBytes 4 x.kvLimit ++ leBytes 4 (64 + body.length) ++ List.replicate 16 0#8
  hdr (crc32c (hdr 0 ++ body)) ++ body

/-- Why an image cannot be restored (Table 20-3, code 0x14): 1 magic, 2 context, 3 tenant, 4 crc. -/
def Main.imageFault (m : Main) (c : Nat) : Option Nat :=
  let x := m.ctx c
  let a := m.slotAddr c x.imageSlot
  let h := m.bytesAt ⟨.stack, a⟩ 64
  let n := leNat ((h.drop 0x2C).take 4)
  let all := m.bytesAt ⟨.stack, a⟩ (min n m.slotBytes)
  if leNat (h.take 4) ≠ 0x474D494B then some 1
  else if leNat ((h.drop 4).take 2) ≠ c then some 2
  else if leNat ((h.drop 8).take 4) ≠ x.tenant then some 3
  else if leNat ((h.drop 12).take 4) ≠ crc32c (all.take 12 ++ List.replicate 4 0#8 ++ all.drop 16) then some 4
  else none

/-! ## Switches (Table 10-4) -/

/-- A switch record of a context changed. -/
def Main.updSwitch (m : Main) (c : Nat) (f : Switch → Switch) : Main :=
  { m with kr := { m.kr with switches := m.kr.switches.map fun s => if s.ctx = c then f s else s } }

/-- A switch record removed. -/
def Main.dropSwitch (m : Main) (c : Nat) : Main :=
  { m.updCtx c (fun x => { x with cutIn := false }) with
    kr := { m.kr with switches := m.kr.switches.filter fun s => decide (s.ctx ≠ c), event := true } }

/-- The wards of a switch and of the sets it displaces. -/
def Main.switchWards (m : Main) (s : Switch) : List Nat :=
  (List.range 16).filter fun w => decide (s.mask / 2 ^ w % 2 = 1)
    || s.displaced.any fun c => ((m.ctx c).berth.map fun b => decide (b.2.1 / 2 ^ w % 2 = 1)).getD false

/-- The set that will host a switch's context, and its berth there. -/
def Main.switchBerth (m : Main) (s : Switch) : Nat :=
  ((m.hosted s.model s.mask).map fun t => (t.berths.findIdx? fun q => q.1.isNone).getD 0).getD 0

/-- R244, order 3: whole banks of a set that changes hands between tenants, or one berth's ranges; then the restore begins. -/
def Main.zeroAndRestore (m : Main) (s : Switch) : Main :=
  let t := (m.ctx s.ctx).tenant
  let ws := wardsOf s.mask
  let m := match m.hosted s.model s.mask with
    | some h =>
      let b := m.switchBerth s
      match (h.berths.getD b (none, none)).2 with
      | some old => if old = t then m else (m.carriedOf s.model s.mask b).foldl Main.zeroCarried m
      | none => m
    | none =>
      let others := ws.any fun w => (m.ward w).tenants.any fun o => decide (o ≠ t)
      let m := if others then
          let clear := fun (m : Main) (w : Nat) => { m with
            ws := Mem.zero (wsKey w 0) 0x400000 m.ws
            sp := (List.range 8).foldl (fun (sp : Mem) k => Mem.zero (spKey (8 * w + k) 0) 0x180000 sp) m.sp }
          ws.foldl clear m
        else m
      let m := if others then ws.foldl (fun (m : Main) (w : Nat) => m.updWard w fun x => { x with tenants := [] }) m else m
      let fresh : BerthSet := { model := s.model, mask := s.mask, berths := List.replicate (m.setSize s.model s.mask) (none, none) }
      let keep := m.kr.sets.filter fun (h : BerthSet) => decide (h.mask &&& s.mask = 0)
      { m with kr := { m.kr with sets := keep ++ [fresh] } }
  m.updSwitch s.ctx fun q => { q with restoring := true, zeroWait := false }

/-- Order 3 reached: under H9 a berth that passes between tenants waits for host software's answer (R423). -/
def Main.afterSaves (m : Main) (c : Nat) : Main :=
  match m.kr.switches.find? fun s => s.ctx == c with
  | none => m
  | some s =>
    if !s.started || !s.saving.isEmpty || s.restoring || s.zeroWait then m
    else
      let t := (m.ctx c).tenant
      let m := m.swing 9
      let old := ((wardsOf s.mask).flatMap fun w => (m.ward w).tenants).find? fun o => decide (o ≠ t)
      match old with
      | some o =>
        if m.assisted 9 then (m.updSwitch c fun q => { q with zeroWait := true }).ask 9 [2, 0, 0, o, t, c] [] c
        else m.zeroAndRestore s
      | none => m.zeroAndRestore s

/-- Whether another switch of the same wards goes first: one under way, one settled at the list point, in the order settled, and then
the cut-ins by decreasing balance (Table 10-6). -/
def Main.switchBefore (m : Main) (s : Switch) (o : Switch) : Bool :=
  let ws := m.switchWards s
  let pos := fun (c : Nat) => (m.kr.switches.findIdx? fun q => q.ctx == c).getD 0
  o.ctx != s.ctx && (m.switchWards o).any ws.contains
    && (o.started || (o.atListPoint && (!s.atListPoint || decide (pos o.ctx < pos s.ctx)))
      || (!o.atListPoint && !s.atListPoint
        && (decide (m.balance s.ctx < m.balance o.ctx) || (m.balance s.ctx == m.balance o.ctx && decide (o.ctx < s.ctx)))))

/-- Whether the residents that a settled switch displaces still make room for it. -/
def Main.switchFits (m : Main) (s : Switch) (d : List Nat) : Bool :=
  match m.hosted s.model s.mask with
  | some t => !d.isEmpty || t.berths.any fun q => q.1.isNone
  | none => (m.displaced s.model s.mask).all d.contains

/-- SWITCH (R240 to R242): at the boundary of the sets concerned a settled switch, or a cut-in that passes its test again, begins: the
displaced residents are to be saved, or the restore begins at once. -/
def Main.startSwitch (m : Main) (c : Nat) : Main :=
  match m.kr.switches.find? fun s => s.ctx == c with
  | none => m
  | some s =>
    let d := if s.atListPoint then s.displaced.filter (fun v => (m.ctx v).resident) else m.displaced s.model s.mask
    let busy := fun (q : Switch) => (m.switchWards q).any fun w => (m.instOn w).isSome
    if s.started || !s.go || busy s || (!s.atListPoint && busy { s with displaced := d }) || m.kr.switches.any (m.switchBefore s) then m
    else if (m.ctx c).state ≠ .swappedRunnable ∨ !(wardsOf s.mask).all m.scheduled.contains
        ∨ !(if s.atListPoint then m.switchFits s d else m.switchOk c d) then m.dropSwitch c
    else (m.updSwitch c fun q => { q with displaced := d, saving := d, started := true }).afterSaves c

/-- SAVE_COMPLETE (R243): the last write of an image is acknowledged: it is the newest, the context is swapped, its berth
free. The cycles are charged to the context the switch restores (R239). `bad` is an uncorrectable word met in the range saved
(Table 10-6). -/
def Main.saveComplete (m : Main) (c cycles : Nat) (bad : Option EccEvent) : Main :=
  let x := m.ctx c
  let sw := m.kr.switches.find? fun s => s.started && s.saving.contains c
  let idle := match x.berth with
    | some b => (wardsOf b.2.1).all fun w => (m.instOn w).isNone
    | none => false
  if !x.resident || !(sw.isSome || (x.evict && idle)) then m
  else
    let m := match sw with
      | some s => (m.chargeCtx s.ctx cycles false).updSwitch s.ctx fun q => { q with saving := q.saving.erase c }
      | none => m
    let m := match bad with
      | some e =>
        let k := m.err.next
        let rec_ : ErrArgs := match e with
          | .wsUncorrectable w off _ => { code := 0x13, status := stMemory, ctx := c, step := m.kr.step, island := 0x80 + w.val
                                          aux1 := off / 8 * 8, aux2 := off / 0x40000, pasid := x.tenant }
          | .spUncorrectable s off _ => { code := 0x12, status := stMemory, ctx := c, step := m.kr.step, island := s.val
                                          aux1 := off / 8 * 8, aux2 := off / 0x10000, pasid := x.tenant }
          | _ => { code := 0x12, status := stMemory, ctx := c, step := m.kr.step, pasid := x.tenant }
        (m.logErr rec_).faultCtx c stMemory k
      | none =>
        match x.berth with
        | some (model, mask, b) =>
          let slot := if x.imageValid then 1 - x.imageSlot else 0
          let m := m.updCtx c fun y => { y with imageCommit := y.lastCommit }
          let m := m.write ⟨.stack, m.slotAddr c slot⟩ (m.imageBytes c model mask b)
          let m := m.updCtx c fun y => { y with
            imageSlot := slot, imageValid := true, evict := false
            state := if y.state = CtxState.residentRunning then .swappedRunnable else .swappedBlocked }
          (m.leaveBerth c).count 0x30 0 1
        | none => m
    let m := { m with kr := { m.kr with event := true } }
    match sw with
    | some s => (m.afterSaves s.ctx).settle
    | none => m.settle

/-- RESTORE_COMPLETE (R242, order 4): the newest image is read into the committed version of the berth, or zeros are written;
the context is resident. An image that fails its checks, or a line of it, faults the context. -/
def Main.restoreComplete (m : Main) (c cycles : Nat) (ue : Bool) : Main :=
  match m.kr.switches.find? fun s => s.ctx == c && s.restoring with
  | none => m
  | some s =>
    let b := m.switchBerth s
    let x := m.ctx c
    let why := if !x.imageValid then none else if ue then some 0 else m.imageFault c
    let m := m.dropSwitch c
    match why with
    | some w =>
      let k := m.err.next
      (m.logErr { code := 0x14, status := stMemory, ctx := c, step := m.kr.step, aux1 := m.slotAddr c x.imageSlot / 0x10000
                  aux2 := w, pasid := x.tenant }).faultCtx c stMemory k
    | none =>
      let ks := m.carriedOf s.model s.mask b
      let a := m.slotAddr c x.imageSlot
      let h := m.bytesAt ⟨.stack, a⟩ 64
      let version := x.imageValid && leNat ((h.drop 0x1C).take 1) % 2 == 1
      let m := match x.imageValid, m.berthBitting s.model s.mask b with
        | true, some bt =>
          m.rangesRestore version bt ks (m.bytesAt ⟨.stack, a + 64⟩ (leNat ((h.drop 0x2C).take 4) - 64))
        | _, _ => ks.foldl (fun (m : Main) (k : Carried) => m.write k.a (List.replicate (if k.kvSlot.isSome then 64 else k.size) 0#8)) m
      let m := m.updCtx c fun y => { y with
        version := version, berth := some (s.model, s.mask, b), restoreGuard := true, cutIn := false
        state := if y.state = .swappedBlocked then .residentBlocked else .residentRunning }
      let seat := fun (t : BerthSet) =>
        if t.model = s.model ∧ t.mask = s.mask then { t with berths := t.berths.set b (some c, some x.tenant) } else t
      let m := { m with kr := { m.kr with sets := m.kr.sets.map seat, event := true } }
      let m := (wardsOf s.mask).foldl (fun m w => m.updWard w fun y =>
        { y with tenants := if y.tenants.contains x.tenant then y.tenants else x.tenant :: y.tenants }) m
      (m.count 0x31 0 1).chargeCtx c cycles false

/-! ## Teardown and release -/

/-- TEARDOWN_DONE (R247, orders 3 to 6). -/
def Main.teardownDone (m : Main) (c : Nat) : Main :=
  let x := m.ctx c
  if x.state = .faulted ∧ x.cause = .tearing ∧ x.reading.isEmpty ∧ !m.running c then
    let m := (m.tearDown c).updCtx c fun y => { y with cause := .torn }
    { m with kr := { m.kr with event := true } }
  else m

/-- The context CTX_SELECT shows: values above 3,071 act as 0. -/
def Main.selected (m : Main) : Nat :=
  let v := m.fld F.CTX_SELECT_context
  if v < 3072 then v else 0

/-- A released context's entry: FREE. -/
def Main.freeCtx (m : Main) (c : Nat) : Main := m.setCtx c {}

/-- CTX_CMD release (R247): ignored before TORN. -/
def Main.ctxRelease (m : Main) : Main :=
  let c := m.selected
  let x := m.ctx c
  if x.state = .faulted ∧ x.cause = .torn then m.freeCtx c else m

/-- CTX_CMD evict (R250): the selected resident is marked for saving. -/
def Main.ctxEvict (m : Main) : Main :=
  let c := m.selected
  if (m.ctx c).resident then m.updCtx c (fun x => { x with evict := true }) else m

/-! ## Binding a context to a tenant -/

/-- A context table entry as read (Table 12-3), valid with every field in its range. -/
def Main.readEntry (m : Main) (c : Nat) : CtxEntry :=
  let k := hostKey 0 (m.ctxTableBase + 64 * c)
  let n := fun off len => m.host.rdNat (k + off) len
  let e : CtxEntry := { sqBase := n 0 8, cqBase := n 8 8, histBase := n 0x10 8, sqOrder := n 0x18 1, cqOrder := n 0x19 1
                        histOrder := n 0x1A 1, vector := n 0x1C 2, modCount := n 0x1E 1, modHoldoff := n 0x20 2 }
  let ok := n 0x1B 1 % 2 == 1 && e.sqBase % 64 == 0 && e.cqBase % 32 == 0 && e.histBase % 64 == 0
    && decide (4 ≤ e.sqOrder ∧ e.sqOrder ≤ 16) && decide (4 ≤ e.cqOrder ∧ e.cqOrder ≤ 16)
    && decide (10 ≤ e.histOrder ∧ e.histOrder ≤ 24) && decide (e.vector ≤ 2047)
  if ok then { e with ok := true } else {}

/-- Fields of a context line (Table 12-12). -/
def Main.lineField (m : Main) (c off n : Nat) : Nat := m.host.rdNat (hostKey 0 (m.lineAddr c + off)) n

/-- Whether a context's line is zero. -/
def Main.lineZero (m : Main) (c : Nat) : Bool := (m.host.rdN (hostKey 0 (m.lineAddr c)) 64).all (· == 0#8)

/-- CTX_BIND with op bind (R267, R414, R416; Table 12-12): a FREE context is bound to a valid slot. Its entry is read; its line
is written afresh, or kept by a rebind before recovery. -/
def Main.ctxBind (m : Main) (v : Word) : Main :=
  let c := F.CTX_BIND_context.of v
  let s := F.CTX_BIND_slot.of v
  let t := Tab.get tenantDef m.prot.written s
  if 3072 ≤ c ∨ (m.ctx c).state ≠ .free ∨ !t.valid then m.setFld F.PROT_STATUS_cfg_err 1
  else
    let e := m.readEntry c
    let m := { m with prot := { m.prot with gen := (m.prot.gen + 1) % 2 ^ 32 } }
    let m := if e.ok then m else (m.setFld F.HOST_STATUS_ctx_err 1).setFld F.HOST_STATUS_ctx_err_context c
    let inc := m.lineField c 6 2
    let re := m.recoveryNeeded && !m.lineZero c && m.lineField c 0x18 4 % 2 ^ 20 == t.pasid
    let x : Ctx := { state := .bound, tenant := t.pasid, slot := some s, entry := e }
    let m := if re then m.setCtx c { x with
          rebound := true, incarnation := inc, accepted := m.lineField c 0 6, issued := m.lineField c 0 6
          completed := m.lineField c 8 6, written := m.lineField c 8 6, sqKept := (m.ctx c).sqKept, cqKept := (m.ctx c).cqKept }
      else (m.setCtx c { x with incarnation := (inc + 1) % 2 ^ 16 }).lineFresh c
    m.settle

/-- CTX_BIND with op unbind (R248): at the context's next boundary. -/
def Main.ctxUnbind (m : Main) (v : Word) : Main :=
  let c := F.CTX_BIND_context.of v
  let x := m.ctx c
  if 3072 ≤ c ∨ x.state = .free ∨ x.state = .faulted then m
  else
    let m := { m with prot := { m.prot with gen := (m.prot.gen + 1) % 2 ^ 32 } }
    (m.updCtx c fun y => { y with unbindPending := true }).settle

end Sys2Proof
end

