-- ==== Sys2Proof/Machine/Lanes.lean ====
section
/-! DEFINITION. Frame Lanes (spec/11_frame_lane.md R251 to R262): setting a ward aside, starting and stopping a lane, its ticks
and its input. -/

namespace Sys2Proof

/-! ## Setting a ward aside -/

/-- Whether a ward has residents on any hosted set. -/
def Main.hasResidents (m : Main) (w : Nat) : Bool :=
  m.kr.sets.any fun s => decide (s.mask / 2 ^ w % 2 = 1) && s.berths.any fun q => q.1.isSome

/-- LANE_CTL's fields that are written at any time (Table 11-6). -/
def Main.laneCtlRw (m : Main) (l : Nat) (v : Word) : Main :=
  (m.setFld (F.LANE_CTL_miss_irq l) ((F.LANE_CTL_miss_irq l).of v)).setFld (F.LANE_CTL_miss_vector l) ((F.LANE_CTL_miss_vector l).of v)

/-- LANE_RESERVE (R251): a write of LANE_CTL with reserve set. -/
def Main.laneReserve (m : Main) (l : Nat) (v : Word) : Main :=
  if !(F.LANE_CTL_reserve l).of v == 1 then m
  else if m.bit F.PROT_CTL_lock then m.laneCtlRw l v
  else if m.bit (F.LANE_CTL_reserve l) then
    (m.laneCtlRw l v).setFld (F.LANE_CTL_context l) ((F.LANE_CTL_context l).of v)
  else
    let w := (F.LANE_CTL_ward l).of v
    let c := (F.LANE_CTL_context l).of v
    let c := if c < 3072 then c else 0
    let other := (m.laneTaking w).any (fun k => k != l) || (m.laneOf w).any (fun k => k != l)
    if m.fencedWard w || other || (m.lane l).st != LaneSt.idle || (m.ctx c).state == CtxState.free then
      m.setFld (F.LANE_STATUS_cfg_err l) 1
    else
      let m := ((m.laneCtlRw l v).setFld (F.LANE_CTL_reserve l) 1).setFld (F.LANE_CTL_ward l) w
      let m := m.setFld (F.LANE_CTL_context l) ((F.LANE_CTL_context l).of v)
      let m := m.updLane l fun x => { x with saving := true, unreserve := false, ward := w, ctxNo := c }
      let res := (m.kr.sets.filter fun s => decide (s.mask / 2 ^ w % 2 = 1)).flatMap fun s => s.berths.filterMap (·.1)
      let m := res.foldl (fun (m : Main) (k : Nat) => m.updCtx k fun x => { x with evict := true }) m
      { m with kr := { m.kr with event := true } }

/-- LANE_RESERVED (R251): the ward is out of the schedule, at its boundary, and every resident's save has ended. -/
def Main.laneReserved (m : Main) (l : Nat) : Main :=
  let x := m.lane l
  if x.saving && x.st == LaneSt.idle && m.laneOf x.ward == some l && (m.instOn x.ward).isNone && !m.hasResidents x.ward then
    m.setLane l { x with st := .reserved, saving := false }
  else m

/-- LANE_UNRESERVE (R252): reserve cleared. A running lane stops first; the ward returns at the next list point. -/
def Main.laneUnreserve (m : Main) (l : Nat) : Main :=
  if m.bit F.PROT_CTL_lock || !m.bit (F.LANE_CTL_reserve l) then m
  else
    let m := (m.setFld (F.LANE_CTL_reserve l) 0).updLane l fun x => { x with unreserve := true }
    match (m.lane l).st with
    | .running => m.laneHalt l
    | .stopping => m
    | _ => m.laneLeave l

/-! ## Start and stop -/

/-- R254: whether a bitting may run on a lane's ward. -/
def lanePlanOk (b : Bitting) (w : Nat) : Bool := b.flags / 2 % 2 == 1 && b.mask == 2 ^ w && laneOk b

/-- The slot a restarted lane goes on from (R262): after the last lane step its context line records. -/
def Main.laneResume (m : Main) (c : Nat) : Option Nat :=
  if (m.ctx c).reExec && m.lineField c 0x1E 1 == 1 then some (m.lineField c 0x10 6) else none

/-- LANE_START (R252, R253): refused with CTX_FAULT_PLAN, completed at once where its stop came first (Table 12-23), or the
lane runs; its first tick follows the load of its lists. -/
def Main.laneStart (m : Main) (c : Nat) : Main :=
  match m.due c 7 with
  | none => m
  | some d =>
    let h := d.field 0x10 2
    let l := d.field 0x12 1
    let x := m.lane l
    let p := m.plan h
    let ok := decide (l ≤ 3) && x.st == LaneSt.reserved && m.laneCtxNo l == c && p.valid && p.contexts.contains c
      && (p.bitting.map fun b => lanePlanOk b x.ward).getD false
    if !ok then m.setupFail c stPlan 0
    else
      let done := m.laneResume c
      let y := m.ctx c
      let stop := y.queue.find? fun q => q.opcode == 8 && decide (d.seq < q.seq) && q.field 0x10 1 == l && y.laneStops.contains q.seq
      match stop with
      | some q =>
        let m := m.updCtx c fun z => { z with laneStops := z.laneStops.erase q.seq }
        m.completeHead c stDone (b2n y.reExec) (done.getD (2 ^ 64 - 1)) 0
      | none =>
        let ring := d.field 0x30 8
        let m := if ring = 0 then m
          else (m.setWord (0x40010 + l * 0x100) (BitVec.ofNat 32 ring &&& 0xFFFFFFDF#32)).setWord (0x40014 + l * 0x100) (BitVec.ofNat 32 (ring / 2 ^ 32))
        let first := (done.map (· + 1)).getD 0
        let m := m.setLane l { x with
          st := .running, handle := h, startSeq := d.seq, ctxNo := c, bufOrder := min 4 (d.field 0x13 1)
          input := d.field 0x18 8, result := d.field 0x20 8, inStride := d.field 0x28 4, outStride := d.field 0x2C 4
          level := (p.bitting.map fun b => levelOf b.minPlevel).getD 5, tick := 0, nextSlot := first, cur := none, staged := []
          inputReady := [], badInput := [], miss := none, lastCommitted := done, recs := [], dropped := 0, head := 0, phase := true
          resync := false, listsLoaded := false }
        let m := m.updCtx c fun z => { z with busy := true }
        if done.isSome then
          m.laneWrite l { slot := first, kind := 3, status := 0, cause := 6, run := 0, ready := true }
        else m

/-- LANE_STOP reached in its turn (R253, R273): its effect came at its acceptance. -/
def Main.laneStop (m : Main) (c : Nat) : Main :=
  match m.due c 8 with
  | none => m
  | some d =>
    let l := d.field 0x10 1
    let m := m.updCtx c fun x => { x with laneStops := x.laneStops.erase d.seq }
    if 3 < l ∨ m.laneCtxNo l ≠ c then m.setupFail c stPlan 0 else m.setupDone c 0

/-! ## Ticks -/

/-- A missed slot joins the open run of its cause, or opens one (R260). Cause 0xFF waits for the late step that blocked it. -/
def Main.laneMiss (m : Main) (l k cause : Nat) : Main :=
  match (m.lane l).miss with
  | some (f, n, c) =>
    if c = cause then m.updLane l fun x => { x with miss := some (f, n + 1, c) }
    else (m.laneCloseMiss l).updLane l fun x => { x with miss := some (k, 1, cause) }
  | none => m.updLane l fun x => { x with miss := some (k, 1, cause) }

/-- A lane step started at its tick: its lists at their starts, all rows of the bitting its context's (R254). -/
def Main.laneStep (m : Main) (l k : Nat) (b : Bitting) : Main :=
  let x := m.lane l
  let m := (m.laneCloseMiss l).takeSettings x.ward
  let bad := (x.badInput.find? fun p => p.1 == k).map (·.2)
  let mem : Member := { ctx := x.ctxNo, berth := 0, rows := b.rowsMax, pos0 := 0, recompute := false,
                        status := if bad.isSome then stProtection else 0, detail := bad.getD 0 }
  let i : Inst := {
    live := true, kind := .lane ⟨l % 4, by omega⟩ k, mask := 2 ^ x.ward, handle := x.handle, members := [mem], step := k
    loadedWards := [x.ward], lists := freshLists b, tokens := freshTokens b, reExec := (m.ctx x.ctxNo).reExec }
  (m.setInst x.ward i).updLane l fun y => { y with
    cur := some k, inputReady := y.inputReady.erase k, badInput := y.badInput.filter fun p => p.1 != k }

/-- LANE_TICK (R256, Table 11-2): tick k. Step k starts when the cap allows it, step k − 1 is ready, its input stands ready and
fewer than four steps are staged; otherwise slot k is missed with the first cause that applies. -/
def Main.laneTick (m : Main) (l : Nat) : Main :=
  let x := m.lane l
  if x.st ≠ .running ∨ !x.listsLoaded then m
  else if (m.ward x.ward).fencePending then m.settle
  else
    match (m.plan x.handle).bitting with
    | none => m
    | some b =>
      let k := x.nextSlot
      let m := m.updLane l fun y => { y with tick := k, nextSlot := (k + 1) % 2 ^ 48 }
      if x.level < m.capNow then m.laneMiss l k 1
      else if x.cur.isSome then m.laneMiss l k 0xFF
      else if !x.inputReady.contains k then m.laneMiss l k 4
      else if 4 ≤ x.staged.length then m.laneMiss l k 5
      else m.laneStep l k b

/-- LANE_INPUT_FETCH_DONE (R258, R134, R417): the input of a coming slot stands in its buffer. One that the host refuses, or
that lies outside the tenant's windows, is zeros, and the context takes CTX_FAULT_PROTECTION at that step's commit. With no
host address the camera or microphone path writes the buffer, with the bytes of `path`. -/
def Main.laneInput (m : Main) (l slot : Nat) (refused : Bool) (path : List Byte) : Main :=
  let x := m.lane l
  let busy := x.cur.any fun k => k % 4 == slot % 4
  if x.st ≠ .running ∨ slot < x.nextSlot ∨ x.nextSlot + 4 ≤ slot ∨ busy ∨ x.inputReady.contains slot then m
  else
    let ready := fun (m : Main) => m.updLane l fun y => { y with inputReady := y.inputReady ++ [slot] }
    match (m.plan x.handle).bitting.bind fun b => b.aux.laneIn with
    | none => ready m
    | some (r, n) =>
      let dst : Ref := { r with addr := r.addr + slot % 4 * n }
      if x.input = 0 then ready (m.write dst (path.take n))
      else
        let p := (m.ctx x.ctxNo).tenant
        let a := x.input + slot % 2 ^ x.bufOrder * x.inStride
        if refused || !m.dmaOk p a n then
          let k := m.err.next
          let m := (m.logDma x.ctxNo stProtection 7 a).write dst (List.replicate n 0#8)
          ready (m.updLane l fun y => { y with badInput := y.badInput ++ [(slot, k)] })
        else ready (m.write dst (m.tenantRd p a n))

/-- R255: a cap slower than a running lane's level reaches the step under way (Table 11-2, THROTTLE). -/
def Main.throttleLanes (m : Main) : Main :=
  let slow := fun (l : Nat) => decide ((m.lane l).level < m.capNow)
  { m with insts := m.insts.map fun p =>
      match p.2.kind with
      | .lane l _ => (p.1, { p.2 with throttled := p.2.throttled || slow l.val })
      | _ => p }

end Sys2Proof
end

