-- ==== Sys2Proof/Machine/Memory.lean ====
section
/-! DEFINITION. Stacked memory (spec/06_memory_tiers.md): areas, regions and their loads (R131 to R139, spec/12_host_interface.md
R277), holds and refetches (R143 to R149), the host's CXL.mem accesses (R136, spec/19_security.md R424), and scrubbing between
tenants (R420 to R423). -/

namespace Sys2Proof

/-! ## Units -/

/-- Whether two ranges of units, each given by first and length, meet; an empty one meets nothing. -/
def spanHits (a n b k : Nat) : Bool := decide (0 < n) && decide (0 < k) && decide (a < b + k) && decide (b < a + n)

/-- The three areas, in units: plan area, page pool, save area. -/
def Main.areas (m : Main) : List (Nat × Nat) :=
  [(m.fld F.PLAN_AREA_BASE_base, m.fld F.PLAN_AREA_SIZE_size), (m.fld F.PAGE_POOL_BASE_base, m.fld F.PAGE_POOL_SIZE_pages),
   (m.fld F.SAVE_AREA_BASE_base, m.fld F.SAVE_AREA_SIZE_size)]

/-- Units of stacked memory: 72 GiB (R130). -/
def stackUnits : Nat := 0x120000

/-- Whether a range of units meets a region in use. -/
def Main.hitsRegion (m : Main) (a n : Nat) : Bool :=
  m.regions.any fun p => regionUsed p.2 && spanHits a n (p.2.base / 0x10000) (regionBytes p.2.size / 0x10000)

/-- AREA_REGISTER_WRITE (R154): an area's base or size changes only while the area is empty, fits, and meets nothing else. A
new page pool starts in SCRUB. -/
def Main.areaWrite (m : Main) (off : Nat) (v : Word) : Main :=
  let k := (off - 0x6008) / 8
  if off < 0x6008 ∨ 0x601C < off ∨ off % 4 ≠ 0 ∨ m.bit F.PROT_CTL_lock then m
  else
    let m' := m.setWord off (v &&& 0x1FFFFF#32)
    let a := m'.areas.getD k (0, 0)
    let others := m'.areas.zipIdx.filter fun p => p.2 != k
    let empty := match k with
      | 0 => m.plans.all (fun p => !p.2.valid) && m.ctxs.all fun p => !(p.2.busy && (p.2.head.map Desc.opcode) == some 2)
      | 1 => (List.range (m.fld F.PAGE_POOL_SIZE_pages)).all fun p => (match (m.page p).st with | .free _ => true | _ => false)
      | _ => m.ctxs.all fun p => !p.2.imageValid
    let ok := empty && decide (a.1 + a.2 ≤ stackUnits) && (k != 1 || decide (a.2 ≤ 0x100000))
      && !(others.any fun o => spanHits a.1 a.2 o.1.1 o.1.2) && !m.hitsRegion a.1 a.2
    if !ok then m.setFld F.MEM_STATUS_cfg_err 1
    else if k = 1 then { m' with pages := [] } else m'

/-! ## Scrubbing -/

/-- Units that a tenant may not receive unscrubbed (R420). -/
def Main.dirty (m : Main) (pasid : Nat) (us : List Nat) : List Nat :=
  us.filter fun u => m.writerOf u != some pasid && !m.scrubbed.contains u

/-- The pool page of a unit, if it is one. -/
def Main.pageOfUnit (m : Main) (u : Nat) : Option Nat :=
  let b := m.fld F.PAGE_POOL_BASE_base
  if b ≤ u ∧ u < b + m.fld F.PAGE_POOL_SIZE_pages then some (u - b) else none

/-- FREE pages without a tag. -/
def Main.untagged (m : Main) : Nat := (m.pages.filter fun p => p.2.st == PageSt.free none).length

/-- SCRUB_START (R421, R423): the engine begins a unit that waits for it: one that passes between tenants, a page in SCRUB, or
the oldest-freed tagged page while untagged FREE pages are below low_water. -/
def Main.scrubStart (m : Main) (u : Nat) : Main :=
  if m.scrub.contains u then m
  else
    match m.scrubWant.find? fun p => p.1 == u with
    | some p => if p.2 then { m with scrub := m.scrub ++ [u] } else m
    | none =>
      match m.pageOfUnit u with
      | none => m
      | some p =>
        let start := fun (m : Main) =>
          let m := m.wantScrub 1 0 [u]
          if m.assisted 9 then m else { m with scrub := m.scrub ++ [u] }
        match (m.page p).st with
        | .scrub => start m
        | .free (some _) =>
          let older := m.pages.any fun q => decide (q.2.freed < (m.page p).freed) && (match q.2.st with | .free (some _) => true | _ => false)
          if m.untagged < m.fld F.SCRUB_CTL_low_water ∧ !older then start (m.setPage p { (m.page p) with st := .scrub }) else m
        | _ => m

/-- A region whose units are all scrubbed enters LOADING (R423); with open_only its LOAD completes at once (R277). -/
def Main.openRegion (m : Main) (r : Nat) : Main :=
  let x := m.region r
  let us := unitsOf x.base (regionBytes x.size)
  if x.st ≠ .free ∨ x.ctx.isNone ∨ m.scrubWant.any (fun p => us.contains p.1) then m
  else
    let m := { m with
      lastWriter := us.foldl (fun t u => Tab.put (fun _ => none) u (some x.pasid) t) m.lastWriter
      scrubbed := m.scrubbed.filter fun u => !us.contains u }
    let c := x.ctx.getD 0
    if x.openOnly then (m.putRegion r { x with st := .loading, ctx := none }).setupDone c r
    else m.putRegion r { x with st := .loading }

/-- SCRUB_UNIT_DONE (R421): every write of the oldest unit under way is acknowledged: it is zero, counted, and usable. -/
def Main.scrubDone (m : Main) : Main :=
  match m.scrub with
  | [] => m
  | u :: us =>
    let m := { m with
      scrub := us, stack := Mem.zero (u * 0x10000) 0x10000 m.stack, scrubbed := u :: m.scrubbed.erase u
      scrubWant := m.scrubWant.filter fun p => p.1 != u }
    let m := m.count 0x58 0 1
    let m := match m.pageOfUnit u with
      | some p => (match (m.page p).st with | .scrub => m.freePage p none | _ => m)
      | none => m
    ((m.regions.filter fun p => p.2.ctx.isSome).map (·.1)).foldl Main.openRegion m

/-! ## Loads (R137, R277) -/

/-- The lowest region number not in use. -/
def Main.freeRegion (m : Main) : Option Nat := (List.range (min 8192 (m.regions.length + 1))).find? fun r => !regionUsed (m.region r)

/-- LOAD (R277): opens a region and starts its load, opens it for the host's writes, or starts to seal it; refused before
anything is written where its operands do not hold. -/
def Main.startLoad (m : Main) (c : Nat) : Main :=
  match m.due c 4 with
  | none => m
  | some d =>
    let p := (m.ctx c).tenant
    let base := d.field 0x18 8
    let size := d.field 0x20 8
    let owner := d.field 0x28 1
    let openOnly := d.field 0x29 1 % 2 == 1
    let seal_ := d.field 0x29 1 / 2 % 2 == 1
    let r := d.field 0x2A 2
    if openOnly && seal_ then m.setupFail c stPlan 0
    else if seal_ then
      let x := m.region r
      if x.st = .loading ∧ x.openOnly ∧ x.pasid = p ∧ x.ctx.isNone then
        (m.putRegion r { x with ctx := some c, loaded := 0, golden := d.field 0x10 8 }).updCtx c fun y => { y with busy := true }
      else m.setupFail c stPlan 0
    else
      let us := regionBytes size / 0x10000
      let ok := base % 0x10000 == 0 && decide (0 < size) && size % 4096 == 0 && decide (owner ≤ 15)
        && decide (base + regionBytes size ≤ 0x1200000000)
        && !(m.areas.any fun a => spanHits (base / 0x10000) us a.1 a.2) && !m.hitsRegion (base / 0x10000) us
      match m.freeRegion with
      | none => m.setupFail c stPlan 0
      | some r =>
        if !ok then m.setupFail c stPlan 0
        else
          let m := m.setRegion r { st := .free, base := base, size := size, golden := d.field 0x10 8, pasid := p, owner := owner
                                   openOnly := openOnly, ctx := some c }
          let m := m.updCtx c fun y => { y with busy := true }
          let todo := m.dirty p (unitsOf base (regionBytes size))
          (if todo.isEmpty then m else m.wantScrub 0 p todo).openRegion r

/-- A load that fails: the region is FREE and the LOAD fails with a status (R137, R277). -/
def Main.loadFail (m : Main) (r st detail : Nat) : Main :=
  let x := m.region r
  let m := m.putRegion r {}
  match x.ctx with
  | some c => m.setupFail c st detail
  | none => m

/-- The check-tail entry of a granule: its place. -/
def tailAddr (x : Region) (g : Nat) : Nat := x.base + x.size + 4 * g

/-- LOAD_ENGINE_READ (R137, R277, R417): the next granule of the golden copy arrives. It is written with its check-tail CRC;
for a seal it is compared with the stored granule instead. -/
def Main.loadRead (m : Main) (r : Nat) : Main :=
  let x := m.region r
  if x.st ≠ .loading ∨ x.ctx.isNone ∨ x.size / 4096 ≤ x.loaded then m
  else
    let a := x.golden + 4096 * x.loaded
    let c := x.ctx.getD 0xFFFF
    if !m.dmaOk x.pasid a 4096 then
      let k := m.err.next
      (m.logDma c stProtection 4 a).loadFail r stProtection k
    else
      let bs := m.tenantRd x.pasid a 4096
      let at_ := x.base + 4096 * x.loaded
      if x.openOnly && decide (m.bytesAt ⟨.stack, at_⟩ 4096 ≠ bs) then m.loadFail r stMemory 0
      else
        let m := if x.openOnly then m else m.write ⟨.stack, at_⟩ bs
        (m.write ⟨.stack, tailAddr x x.loaded⟩ (leBytes 4 (crc32c bs))).setRegion r { x with loaded := x.loaded + 1 }

/-- REGION_SEAL (R137): every write of the load and its check tail is acknowledged: the region is SEALED, its LOAD done. -/
def Main.regionSeal (m : Main) (r : Nat) : Main :=
  let x := m.region r
  if x.st ≠ .loading ∨ x.loaded < x.size / 4096 then m
  else
    match x.ctx with
    | none => m
    | some c =>
      let m := (m.putRegion r { x with st := .sealed, ctx := none, openOnly := false }).setupDone c r
      { m with kr := { m.kr with event := true } }

/-- LOAD_TIMEOUT (R137): the golden copy cannot be read in time, or the host refuses it. -/
def Main.loadTimeout (m : Main) (r : Nat) (refused : Bool) : Main :=
  let x := m.region r
  if x.st ≠ .loading ∨ x.ctx.isNone then m
  else if refused then
    let k := m.err.next
    (m.logDma (x.ctx.getD 0xFFFF) stMemory 4 (x.golden + 4096 * x.loaded)).loadFail r stMemory k
  else m.loadFail r stMemory 0

/-! ## Holds and refetches -/

/-- Whether a stored bitting names a region. -/
def Main.planNames (p : Plan) (r : Nat) : Bool := (p.bitting.map fun b => b.aux.weights.any fun w => w.region == r).getD false

/-- A FREE that waited for a HELD region takes effect (R138): the oldest descriptor of the context that waits. -/
def Main.freeNow (m : Main) (r c : Nat) : Main := (m.putRegion r {}).setupDone c 0

/-- FREEs that wait on a region no longer HELD. -/
def Main.freeWaiters (m : Main) (r : Nat) : Main :=
  let ws := m.ctxs.filter fun p => p.2.busy && (match p.2.head with | some d => d.opcode == 5 && d.field 0x10 2 == r | none => false)
  ws.foldl (fun m p =>
    if (m.plans.any fun q => q.2.valid && Main.planNames q.2 r) || (m.region r).st == .free || (m.region r).pasid != (m.ctx p.1).tenant
    then m.setupFail p.1 stPlan 0 else m.freeNow r p.1) m

/-- R148: a region poisoned: waiting instances abort, and every bitting that names it is unbound. -/
def Main.poison (m : Main) (r granule attempts : Nat) : Main :=
  let k := m.err.next
  let m := m.logErr { code := 0x23, status := stPoison, ctx := 0xFFFF, step := m.kr.step, extra := r, aux1 := granule, aux2 := attempts
                      pasid := (m.region r).pasid }
  let m := m.putRegion r { (m.region r) with st := .poisoned, refetch := [], written := false, source := none }
  let waiting := (m.insts.filter fun p => p.2.live && p.2.heldRegions.contains r).map (·.1)
  let m := waiting.foldl (fun (m : Main) (lead : Nat) => m.abortRun lead stPoison k) m
  let hs := (m.plans.filter fun p => p.2.valid && Main.planNames p.2 r).map (·.1)
  let m := hs.foldl (fun m h => m.unbindFault h stPoison k fun _ => true) m
  Main.freeWaiters { m.settle with kr := { m.settle.kr with event := true } } r

/-- The request for a refetch source under H5 (R144, Table 13-5). -/
def Main.askSource (m : Main) (r : Nat) : Main :=
  let x := m.region r
  match x.refetch with
  | (g, tries, _) :: _ => if x.assisted then m.ask 5 [r, g, x.golden + 4096 * g, x.pasid, tries + 1] [] else m
  | [] => m

/-- Refetch attempts allowed (Table 6-14). -/
def Main.attemptsMax (m : Main) : Nat := max 1 (m.fld F.REFETCH_CTL_attempts)

/-- R147: an attempt at the first granule of a region's list fails for a cause; the last one poisons the region. -/
def Main.attemptFail (m : Main) (r cause : Nat) : Main :=
  let x := m.region r
  match x.refetch with
  | [] => m
  | (g, tries, ch) :: rest =>
    let m := (m.count 0x23 0 1).logErr { code := 0x32, step := m.kr.step, extra := r, aux1 := g, aux2 := cause, pasid := x.pasid }
    if m.attemptsMax ≤ tries + 1 then m.poison r g (tries + 1)
    else (m.setRegion r { x with refetch := (g, tries + 1, ch) :: rest, written := false, source := none }).askSource r

/-- HOLD_BEGIN (R144, orders 1 and 2): a region with an uncorrectable line is HELD and the granule joins its refetch list;
`lead` is the instance whose slot met the line. -/
def Main.holdBegin (m : Main) (r granule channel : Nat) (lead : Option Nat) : Main :=
  let x := m.region r
  if x.st ≠ .sealed ∧ x.st ≠ .held then m
  else
    let m := if x.st = .sealed then m.swing 5 else m
    let m := m.logErr { code := 0x31, step := m.kr.step, extra := r, aux1 := granule, aux2 := channel, pasid := x.pasid
                        island := 0xA0 + channel / 32 }
    let fresh := !(x.refetch.any fun q => q.1 == granule)
    let first := x.refetch.isEmpty
    let m := m.putRegion r { x with
      st := .held, assisted := if x.st = .sealed then m.assisted 5 else x.assisted
      refetch := if fresh then x.refetch ++ [(granule, 0, channel)] else x.refetch }
    let m := match lead with
      | some l =>
        let i := m.inst l
        if i.live then m.setInst l { i with heldRegions := if i.heldRegions.contains r then i.heldRegions else r :: i.heldRegions } else m
      | none => m
    if first then m.askSource r else m

/-- REFETCH_GRANULE_ARRIVAL (R144, orders 5 to 7; R147): the granule is checked against its check tail and written. Under H5
it comes from the source host software named. -/
def Main.refetchArrival (m : Main) (r : Nat) (tailOk refused : Bool) : Main :=
  let x := m.region r
  match x.refetch with
  | [] => m
  | (g, _, _) :: _ =>
    if x.st ≠ .held ∨ x.written ∨ (x.assisted ∧ x.source.isNone) then m
    else
      let src := x.source.getD (x.golden + 4096 * g, x.pasid)
      if refused || !m.dmaOk src.2 src.1 4096 then m.attemptFail r 5
      else
        let bs := m.tenantRd src.2 src.1 4096
        if !tailOk then m.attemptFail r 2
        else if crc32c bs ≠ leNat (m.bytesAt ⟨.stack, tailAddr x g⟩ 4) then m.attemptFail r 1
        else (m.write ⟨.stack, x.base + 4096 * g⟩ bs).setRegion r { x with written := true }

/-- REFETCH_VERIFY (R144, orders 8 and 9; R146): a clean verify read fills the withheld lines; with the list empty the region
is SEALED again. -/
def Main.refetchVerify (m : Main) (r : Nat) (clean : Bool) : Main :=
  let x := m.region r
  match x.refetch with
  | [] => m
  | (g, _, _) :: rest =>
    if x.st ≠ .held ∨ !x.written then m
    else if !clean ∨ crc32c (m.bytesAt ⟨.stack, x.base + 4096 * g⟩ 4096) ≠ leNat (m.bytesAt ⟨.stack, tailAddr x g⟩ 4) then
      m.attemptFail r 3
    else
      let m := m.count 0x22 0 1
      if rest.isEmpty then
        let m := m.putRegion r { x with st := .sealed, refetch := [], written := false, source := none }
        let lift := fun (p : Nat × Inst) => (p.1, { p.2 with heldRegions := p.2.heldRegions.erase r })
        let m := { m with insts := m.insts.map lift, kr := { m.kr with event := true } }
        m.freeWaiters r
      else (m.setRegion r { x with refetch := rest, written := false, source := none }).askSource r

/-- REFETCH_TIMEOUT (R147): an attempt runs once its source is known; under H5 host software names it first. -/
def Main.refetchTimeout (m : Main) (r : Nat) : Main :=
  let x := m.region r
  if x.st = .held ∧ !x.written ∧ !(x.assisted ∧ x.source.isNone) then m.attemptFail r 0 else m

/-- FREE (R138): refused while a bound bitting names the region, it is not in use, it belongs to another tenant or its LOAD
runs; a HELD region keeps it waiting; otherwise the region is FREE. -/
def Main.startFree (m : Main) (c : Nat) : Main :=
  match m.due c 5 with
  | none => m
  | some d =>
    let r := d.field 0x10 2
    let x := m.region r
    if 8192 ≤ r ∨ m.plans.any (fun p => p.2.valid && Main.planNames p.2 r) ∨ x.st = .free ∨ x.pasid ≠ (m.ctx c).tenant
        ∨ (x.st = .loading ∧ (x.ctx.isSome ∨ !x.openOnly)) then m.setupFail c stPlan 0
    else if x.st = .held then m.updCtx c fun y => { y with busy := true }
    else m.freeNow r c

/-! ## CXL.mem -/

/-- The region whose data holds a range. -/
def Main.regionAt (m : Main) (a n : Nat) : Option (Nat × Region) :=
  m.regions.find? fun p => p.2.st != RegionSt.free && decide (p.2.base ≤ a) && decide (a + n ≤ p.2.base + p.2.size)

/-- CXL_MEM_WRITE (R136): accepted only into a LOADING region that host software opened; any other is logged. -/
def Main.cxlWrite (m : Main) (a : Nat) (bs : List Byte) (pasid : Nat) : Main :=
  match m.regionAt a bs.length with
  | some (_, x) =>
    if x.st = .loading ∧ x.openOnly then m.write ⟨.stack, a⟩ bs
    else m.logErr { code := 0x61, step := m.kr.step, aux1 := a % 2 ^ 32, aux2 := a / 2 ^ 32, pasid := pasid }
  | none => m.logErr { code := 0x61, step := m.kr.step, aux1 := a % 2 ^ 32, aux2 := a / 2 ^ 32, pasid := pasid }

/-- CXL_MEM_READ (R424): served from a SEALED or LOADING region while cxlmem_read is set and confidential mode is clear;
otherwise zeros, and a record. -/
def Main.cxlRead (m : Main) (a n pasid : Nat) : Main :=
  let ok := match m.regionAt a n with
    | some (_, x) => (x.st == RegionSt.sealed || x.st == RegionSt.loading) && m.bit F.PROT_CTL_cxlmem_read && !m.conf
    | none => false
  if ok then { m with resp := m.bytesAt ⟨.stack, a⟩ n }
  else { m.logErr { code := 0x62, step := m.kr.step, aux1 := a % 2 ^ 32, aux2 := a / 2 ^ 32, pasid := pasid } with
    resp := List.replicate n 0#8 }

end Sys2Proof
end

