-- ==== Sys2Proof/Machine/Recovery.lean ====
section
/-! DEFINITION. Recovery after a reset (spec/12_host_interface.md R282, R287, R288, Table 12-18). -/

namespace Sys2Proof

/-! ## The commit log read back -/

/-- A member entry of a record (Table 12-15). -/
structure LogMember where
  ctx : Nat
  flags : Nat
  status : Nat
  seq : Nat
  cursor : Nat
  positions : Nat
deriving DecidableEq, Repr

/-- A sound record (Table 12-14), with the line of its header. -/
structure LogRec where
  line : Nat
  sealNo : Nat
  step : Nat
  round : Nat
  kind : Nat
  members : List LogMember
deriving DecidableEq, Repr

/-- One line of the commit log. -/
def Main.logLine (m : Main) (i : Nat) : List Byte := m.host.rdN (hostKey 0 (m.logBase + i % m.logLines * 64)) 64

/-- A number in a list of bytes. -/
def numAt (bs : List Byte) (off n : Nat) : Nat := leNat ((bs.drop off).take n)

/-- A member entry from its 16 bytes. -/
def logMember (bs : List Byte) : LogMember :=
  { ctx := numAt bs 0 2, flags := numAt bs 2 1, status := numAt bs 3 1, seq := numAt bs 4 6, cursor := numAt bs 10 2
    positions := numAt bs 12 4 }

/-- The record whose header line is line `i`, when its magic and crc are sound (R282). -/
def Main.logRecAt (m : Main) (i : Nat) : Option LogRec :=
  let h := m.logLine i
  if numAt h 0 4 ≠ 0x54494D43 then none
  else
    let n := numAt h 0x1A 2
    let lines := (n + 3) / 4
    if 4096 < n ∨ m.logLines < lines + 1 then none
    else
      let body := (List.range lines).flatMap fun j => m.logLine (i + m.logLines - lines + j)
      if crc32c (body ++ h.take 4 ++ List.replicate 4 0#8 ++ h.drop 8) ≠ numAt h 4 4 then none
      else some { line := i, sealNo := numAt h 8 8, step := numAt h 16 6, round := numAt h 22 2, kind := numAt h 0x1E 1
                  members := (List.range n).map fun j => logMember ((body.drop (16 * j)).take 16) }

/-- A record put in its place by increasing seal. -/
def insSeal (r : LogRec) : List LogRec → List LogRec
  | [] => [r]
  | q :: t => if r.sealNo < q.sealNo then r :: q :: t else q :: insSeal r t

/-- Every sound record, in increasing seal. -/
def Main.soundRecords (m : Main) : List LogRec := ((List.range m.logLines).filterMap m.logRecAt).foldr insSeal []

/-! ## Order 3 -/

/-- Whether a context line shows an older commit than a record: an earlier step of its kind, or a commit of the other kind
whose record, if the log still holds it, has a lower seal. -/
def Main.lineOlder (m : Main) (all : List LogRec) (r : LogRec) (c : Nat) : Bool :=
  let step := m.lineField c 0x10 6
  let round := m.lineField c 0x16 2
  let kind := m.lineField c 0x1E 1
  if kind = r.kind then decide (step < r.step ∨ (step = r.step ∧ round < r.round))
  else
    match all.find? fun q => q.kind == kind && q.step == step && q.round == round && q.members.any fun x => x.ctx == c with
    | some q => decide (q.sealNo < r.sealNo)
    | none => true

/-- CTX_TORN_DOWN written with detail 0 for the accepted, uncompleted descriptors of a context, by its line and rings. -/
def Main.tornAccepted (m : Main) (c pasid : Nat) (e : CtxEntry) : Main :=
  let done := m.lineField c 8 6
  let acc := m.lineField c 0 6
  (List.range (min (acc - done) (2 ^ e.cqOrder))).foldl (fun (m : Main) (j : Nat) =>
    let n := done + 1 + j
    let tag := m.host.rdNat (hostKey (pasid + 1) (e.sqBase + n % 2 ^ e.sqOrder * 64 + 8)) 8
    let m := m.tenantWr pasid (e.cqBase + n % 2 ^ e.cqOrder * 32) (completionBytes n stTornDown 0 tag 0 0)
    m.hostWr (m.lineAddr c + 8) (leBytes 6 n)) m

/-- Order 4 of Table 12-16 applied to one member of a record: its completion record when its descriptor finished, then its
context line. A fault status carries detail 0 and cflags[1], and later accepted descriptors take CTX_TORN_DOWN. -/
def Main.redoMember (m : Main) (all : List LogRec) (r : LogRec) (x : LogMember) : Main :=
  let c := x.ctx
  let y := m.ctx c
  let done := m.lineField c 8 6
  if 3072 ≤ c ∨ !y.rebound ∨ !m.lineOlder all r c ∨ x.seq ≤ done ∨ m.lineField c 0 6 < x.seq then m
  else
    let fault := isFault x.status
    let m :=
      if x.flags / 2 % 2 = 1 then
        let e := y.entry
        let tag := m.host.rdNat (hostKey (y.tenant + 1) (e.sqBase + x.seq % 2 ^ e.sqOrder * 64 + 8)) 8
        let result := if fault then 0 else r.step + r.round * 2 ^ 48
        let m := m.tenantWr y.tenant (e.cqBase + x.seq % 2 ^ e.cqOrder * 32)
          (completionBytes x.seq x.status (x.flags / 4 % 2 + 2 * b2n fault) tag result 0)
        let m := m.hostWr (m.lineAddr c + 8) (leBytes 6 x.seq)
        if fault then m.tornAccepted c y.tenant e else m.lineLen c (m.lenDone c + x.positions)
      else m
    m.lineCommit c r.step r.round x.cursor r.kind

/-- RECOVER (R287, order 3): a write of HOST_CTL.recover while recovery is needed: the sound records are applied in
increasing seal, and the log goes on after the highest. -/
def Main.doRecover (m : Main) : Main :=
  if !m.recoveryNeeded then m
  else
    let all := m.soundRecords
    let m := all.foldl (fun (m : Main) (r : LogRec) => r.members.foldl (fun (m : Main) x => m.redoMember all r x) m) m
    let m := match all.getLast? with
      | some r => { m with log := { nextSeal := r.sealNo + 1, nextLine := (r.line + 1) % m.logLines, pipe := [] } }
      | none => { m with log := {} }
    m.setFld F.HOST_STATUS_recovering 1

/-! ## Orders 4 to 8 -/

/-- A region rebuilt from its journal record (order 4): reloaded, or poisoned at granule `bad` or where its golden copy lies
outside the tenant's windows. -/
def Main.reloadRegion (bad : List (Nat × Nat)) (m : Main) (r : Nat) : Main :=
  let k := hostKey 0 (m.journalBase + 0x230000 + r * 64)
  let n := fun off len => m.host.rdNat (k + off) len
  let x : Region := { base := n 0 8, size := n 8 8, golden := n 0x10 8, pasid := n 0x18 4, owner := n 0x1C 1 }
  match n 0x1D 1 with
  | 1 => m.putRegion r {}
  | 4 => m.setRegion r { x with st := .poisoned }
  | 2 | 3 =>
    let us := unitsOf x.base (regionBytes x.size)
    let m := (m.zeroRange ⟨.stack, x.base⟩ (regionBytes x.size)).count 0x58 0 us.length
    let m := { m with lastWriter := us.foldl (fun t u => Tab.put (fun _ => none) u (some x.pasid) t) m.lastWriter }
    let fail := match bad.find? fun p => p.1 == r with
      | some p => some (p.2, 0)
      | none => if m.dmaOk x.pasid x.golden x.size then none else some (0, 5)
    match fail with
    | some (g, cause) =>
      let m := m.setRegion r { x with st := .held, refetch := [(g, 0, 0)] }
      Nat.repeat (fun (m : Main) => if (m.region r).st = .held then m.attemptFail r cause else m) m.attemptsMax m
    | none =>
      let m := (List.range (x.size / 4096)).foldl (fun (m : Main) (g : Nat) =>
        let bs := m.tenantRd x.pasid (x.golden + 4096 * g) 4096
        (m.write ⟨.stack, x.base + 4096 * g⟩ bs).write ⟨.stack, tailAddr x g⟩ (leBytes 4 (crc32c bs))) m
      m.putRegion r { x with st := .sealed }
  | _ => m

/-- The contexts of a plan record's set. -/
def ctxsOfBits (bs : List Byte) : List Nat :=
  (List.range 3072).filter fun c => (bs.getD (c / 8) 0#8).getLsbD (c % 8)

/-- A plan record's container copied again (order 5): a container whose crc does not match is unbound, and its contexts
receive CTX_FAULT_PLAN at their next RUN. -/
def Main.recopyPlan (aux : List (Nat × ContainerAux)) (m : Main) (h : Nat) : Main :=
  let k := hostKey 0 (m.journalBase + 0x30000 + h * 512)
  let n := fun off len => m.host.rdNat (k + off) len
  if n 0x15 1 = 0 then m
  else
    let size := n 8 4
    let crc := n 0xC 4
    let pasid := n 0x10 4
    let bs := m.tenantRd pasid (n 0 8) size
    let a := ((aux.find? fun p => p.1 == h).map (·.2)).getD
      { dir := [], carried := [], rowMembers := [], weights := [], pairs := [], converted := [], transposed := [], windowed := []
        portNames := [], portUses := [], writesCommitted := false, writesPages := false, wholeUnits := true, shapeRules := true
        maskIds := [], rowWidths := [] }
    let b := readBitting bs a
    let cs := (ctxsOfBits (m.host.rdN (k + 0x40) 384)).filter fun c => (m.ctx c).rebound
    let p : Plan := { valid := true, bitting := some b, bytes := bs, container := n 0 8, size := size, crc := crc, pasid := pasid
                      role := n 0x14 1, base := n 0x16 2, bindSeq := n 0x18 8, contexts := cs }
    let m := { m with bindSeq := max m.bindSeq p.bindSeq }
    let ok := crc32 (bs.take 12 ++ List.replicate 4 0#8 ++ bs.drop 16) == crc && b.crc == crc && m.dmaOk pasid p.container size
    match m.planGap size, ok with
    | some at_, true =>
      (m.write ⟨.stack, m.fld F.PLAN_AREA_BASE_base * 0x10000 + at_⟩ bs).setPlan h { p with addr := at_ }
    | _, _ => (m.setPlan h p).unbindFault h stPlan 0 fun _ => true

/-- A rebound context rebuilt (order 6), its doorbells kept since the reset acted on (order 8). -/
def Main.rebuildCtx (m : Main) (c : Nat) : Main :=
  let x := m.ctx c
  if !x.rebound then m
  else
    let acc := m.lineField c 0 6
    let done := m.lineField c 8 6
    let r := m.readDescs c ((List.range (acc - done)).map fun i => done + 1 + i)
    let q := r.2
    let stops := (q.filter fun d => d.opcode == 8 && d.protErr.isNone).map (·.seq)
    let m := r.1.updCtx c fun y => { y with
      accepted := acc, issued := acc, completed := done, written := done, queue := q, laneStops := stops, reExec := !q.isEmpty
      cursor := m.lineField c 0x1C 2, seqLen := m.lenDone c, kvLimit := 0, imageValid := false, streams := [], needCq := true
      state := if q.isEmpty then .swappedBlocked else .swappedRunnable, cause := if q.isEmpty then .noWork else .none }
    let m := if q.isEmpty then m else m.wakeVt c
    let m := match x.cqKept with
      | some v => m.takeCq c v
      | none => m
    let m := match x.sqKept with
      | some v => m.takeSq c v
      | none => m
    (m.updCtx c fun y => { y with cqKept := none, sqKept := none }).checkHead c

/-- The accepted descriptors of a context that its host did not rebind (R286). -/
def Main.dropUnbound (m : Main) (c : Nat) : Main :=
  if (m.ctx c).rebound || m.lineZero c then m
  else if (m.ctx c).state ≠ .free then m
  else m.tornAccepted c (m.lineField c 0x18 4 % 2 ^ 20) (m.readEntry c)

/-- The highest step recorded: among the log's records of kind 0 and the context lines whose commit_kind is 0 (order 7). -/
def Main.lastStep (m : Main) : Nat :=
  let a := ((m.soundRecords.filter fun r => r.kind == 0).map (·.step)).foldl max 0
  ((List.range 3072).filter fun c => m.lineField c 0x1E 1 == 0).foldl (fun n c => max n (m.lineField c 0x10 6)) a

/-- RECOVERY_COMPLETE (R287, orders 4 to 8). `aux` gives the facts of each container copied again, `bad` the granule at which a
region's golden copy could not be read. -/
def Main.recoveryDone (m : Main) (aux : List (Nat × ContainerAux)) (bad : List (Nat × Nat)) : Main :=
  if !m.bit F.HOST_STATUS_recovering then m
  else
    let m := { m with lastWriter := [], scrubbed := [], pages := [], plans := [], regions := [] }
    let m := (List.range 4096).foldl (Main.recopyPlan aux) m
    let m := (List.range 8192).foldl (Main.reloadRegion bad) m
    let m := (List.range 3072).foldl (fun (m : Main) (c : Nat) => (m.dropUnbound c).rebuildCtx c) m
    let m := { m with kr := { m.kr with step := nextStep m.lastStep, listed := false, rounds := [], event := true } }
    let m := (m.setFld F.HOST_STATUS_recovering 0).setFld F.HOST_STATUS_recovery_needed 0
    let m := if m.wakeHeld then m.wakeEnd else m
    { m with
      ctxs := m.ctxs.map fun p => (p.1, { p.2 with rebound := false })
      lz := { m.lz with resyncDue := m.lz.resyncDue || m.ctxs.any fun p => m.chainedCtx p.1 } }

end Sys2Proof
end

