-- ==== Sys2Proof/Machine/Commit.lean ====
section
/-! DEFINITION. The commit of a plan instance or lane step (spec/04_bittings.md R98 to R101, spec/12_host_interface.md R282, R283),
with its tensor records (spec/05_quantisation.md R114, R117) and the widening that replaces one (R120, R121). -/

namespace Sys2Proof

/-! ## Plan loading and the done and ready bundles -/

/-- PLAN_LOAD_END (R94): the ward's caches hold the lists of the bitting that is to run on it. A line of the plan area that is
uncorrectable (its channel and address) unbinds the bitting instead: the instance does not start, and each context that bound
it receives CTX_FAULT_PLAN before its next step (R143). -/
def Main.planLoadEnd (m : Main) (w cycles : Nat) (bad : Option (Nat × Nat)) : Main :=
  match m.instOn w with
  | some (lead, i) =>
    if i.loadedWards.contains w then m
    else if let some (ch, line) := bad then
      let k := m.err.next
      let m := m.logErr { code := 0x17, status := stPlan, ctx := firstCtx none i, step := i.step, round := i.round
                          extra := i.handle, aux1 := ch, aux2 := line % 2 ^ 32, pasid := m.pasidOf (firstCtx none i) }
      let m := m.releaseReserved fun c => i.members.any fun x => x.ctx == c
      ((m.endInst lead).unbindFault i.handle stPlan k fun _ => true).settle
    else
      ((m.setInst lead { i with loadedWards := w :: i.loadedWards }).updWard w fun x => { x with loaded := some i.handle }).count 0x07 w cycles
  | none =>
    match m.laneOf w with
    | some l =>
      let x := m.lane l
      if x.st = .running ∧ !x.listsLoaded then
        ((m.updLane l fun y => { y with listsLoaded := true }).updWard w fun y => { y with loaded := some x.handle }).count 0x07 w cycles
      else m
    | none => m

/-- Whether a resource lies in a cylinder. -/
def inCyl (c : Nat) (r : Resource) : Bool := !wardResource r && resCyl r == c

/-- Whether a resource belongs to a ward itself. -/
def inWard (w : Nat) (r : Resource) : Bool := wardResource r && resWard r == w

/-- Whether the lists of some resources have fired their last slots. -/
def listsEnded (i : Inst) (p : Resource → Bool) : Bool := i.lists.all fun q => !p q.1 || q.2.ended

/-- Whether a buffer still awaits a verdict. -/
def bufHeld : BufSt → Bool
  | .held _ => true
  | _ => false

/-- Whether every verdict of a cylinder is settled (R98, order 1). -/
def Main.verdictsSettled (m : Main) (c : Nat) : Bool :=
  (List.range 4).all fun k =>
    let t := m.tum (4 * c + k)
    t.tile.isNone && t.failed.isEmpty && !bufHeld t.buf0 && !bufHeld t.buf1

/-- DONE_BUNDLE (R98, order 1; R237): a cylinder of the set is done; its cycles since the instance's start are the cost. -/
def Main.doneBundle (m : Main) (c cycles : Nat) : Main :=
  match m.instOn (c / 8) with
  | some (lead, i) =>
    if i.stopped || i.doneCyls.contains c || !listsEnded i (inCyl c) || !m.verdictsSettled c then m
    else m.setInst lead { i with doneCyls := c :: i.doneCyls, cost := i.cost + cycles }
  | none => m

/-- A lane step at its ready point (R256 to R258): staged, made or late, its ward free for the next tick. -/
def Main.laneReady (m : Main) (l slot w : Nat) (i : Inst) : Main :=
  let x := m.lane l
  let late := decide (slot < x.tick)
  let cause := if !late then 0 else if i.throttled then 1 else if i.replayHeld then 2 else if i.weightWait then 3 else 0
  let miss := match x.miss with
    | some (f, n, 0xFF) => some (f, n, cause)
    | o => o
  let rec_ : LaneRec := { slot := slot, kind := b2n late, status := 0, cause := cause, run := 1, ready := false }
  let m := (m.setInst w {}).setLane l { x with
    cur := none, miss := miss, recs := x.recs ++ [rec_]
    staged := x.staged ++ [{ slot := slot, inst := { i with staged := true }, cause := cause }] }
  m.laneDrained l

/-- R317: at address 0, GO is sent once this unit's wards and READY from every other unit have come. -/
def Main.lzGo (m : Main) (lead : Nat) : Main :=
  let i := m.inst lead
  let n := ((m.bittingOf i).map (·.chainUnits)).getD 1
  if i.staged && i.chained && !i.chainGo && decide (n ≤ i.readyFrom.length + 1) then
    (m.setInst lead { i with chainGo := true }).lzSend 1 (.go i.mask)
  else m

/-- READY_BUNDLE (R98, orders 2 and 3): a ward with all eight done bundles, its own lists ended and its writes
acknowledged is ready; the last ward of the set stages the step. -/
def Main.readyBundle (m : Main) (w : Nat) : Main :=
  match m.instOn w with
  | some (lead, i) =>
    if i.stopped || i.staged || i.widenTensor.isSome || i.readyWards.contains w
        || !((List.range 8).all fun k => i.doneCyls.contains (8 * w + k)) || !listsEnded i (inWard w) then m
    else
      let i := { i with readyWards := w :: i.readyWards }
      let all := (wardsOf i.mask).all i.readyWards.contains
      match i.kind with
      | .lane l slot => if all then m.laneReady l.val slot w i else m.setInst lead i
      | _ =>
        let m := m.setInst lead { i with staged := all }
        if !all || !i.chained then m
        else if m.fld F.LANIZA_ADDR_addr = 0 then m.lzGo lead
        else m.lzSend 0 (.ready (m.fld F.LANIZA_ADDR_addr) i.mask)
  | none => m

/-! ## The commit record -/

/-- What a commit does to one member (Table 12-15): its flags, status, descriptor, cursor and positions after it. A fault
finishes the member's descriptor with its status (R101); a member that an uncorrectable page keeps from committing starts its
RUN again (Table 9-7). -/
def Main.memberOutcome (m : Main) (i : Inst) (x : Member) : CommitMember :=
  let c := m.ctx x.ctx
  let seq := (c.head.map (·.seq)).getD 0
  let re := 4 * b2n c.reExec
  let run : RunProg := c.run.getD { seq := seq, group := c.cursor, startLen := c.seqLen }
  let d := c.head
  let first := (d.map fun d => d.field 0x18 2).getD 0
  let last := (d.map fun d => d.field 0x1A 2).getD 0
  let total := (d.map fun d => d.field 0x1C 4).getD 0
  let wid := run.widened || i.widened
  let rep := run.replayed || x.replayed
  let st := if wid then stWidened else if rep then stReplayed else stDone
  if isFault x.status then
    { ctx := x.ctx, flags := b2n c.version + 2 + re, status := x.status, detail := x.detail, seq := seq, cursor := c.cursor
      positions := run.done }
  else if x.noCommit then
    { ctx := x.ctx, flags := b2n c.version + re, status := 0, detail := 0, seq := seq, cursor := first, positions := 0 }
  else
    match i.kind with
    | .lane _ _ =>
      { ctx := x.ctx, flags := b2n (!c.version) + re, status := st, detail := 0, seq := seq, cursor := c.cursor, positions := x.rows }
    | _ =>
      if x.recompute then
        { ctx := x.ctx, flags := b2n (!c.version) + re + 8 * b2n (decide (c.seqLen ≤ c.kvLimit + x.rows)), status := st, detail := 0
          seq := seq, cursor := c.cursor, positions := run.done }
      else
        let done := run.done + x.rows
        let groupEnds := decide (total ≤ done)
        let fin := groupEnds && c.cursor == last
        { ctx := x.ctx, flags := b2n (!c.version) + 2 * b2n fin + re, status := st, detail := 0, seq := seq
          cursor := if groupEnds && !fin then c.cursor + 1 else c.cursor, positions := done }

/-- Table 12-15's 16 bytes. -/
def memberBytes (k : CommitMember) : List Byte :=
  leBytes 2 k.ctx ++ leBytes 1 k.flags ++ leBytes 1 k.status ++ leBytes 6 k.seq ++ leBytes 2 k.cursor ++ leBytes 4 k.positions

/-- Table 12-14's header line with a given crc. -/
def headerLine (crc sealNo step round mask members handle kind : Nat) : List Byte :=
  leBytes 4 0x54494D43 ++ leBytes 4 crc ++ leBytes 8 sealNo ++ leBytes 6 step ++ leBytes 2 round ++ leBytes 2 mask
    ++ leBytes 2 members ++ leBytes 2 handle ++ leBytes 1 kind ++ List.replicate 33 0#8

/-- A record's bytes (R282): member lines first, the header line last; the crc covers every line with its own field zero. -/
def recordBytes (k : Commit) : List Byte :=
  let body := k.members.flatMap memberBytes
  let body := body ++ List.replicate ((64 - body.length % 64) % 64) 0#8
  let hdr := fun crc => headerLine crc k.sealNo k.step k.round k.inst.mask k.members.length k.inst.handle k.kind
  body ++ hdr (crc32c (body ++ hdr 0))

/-- The commit log's lines written from a line on, modulo the ring. -/
def Main.logWrite (m : Main) (line : Nat) : List Byte → Nat → Main
  | _, 0 => m
  | bs, n + 1 => Main.logWrite (m.hostWr (m.logBase + line % m.logLines * 64) (bs.take 64)) (line + 1) (bs.drop 64) n

/-- The lane mover writes a lane step's result to its host location (R258), within the tenant's windows (R417). -/
def Main.laneResult (m : Main) (l slot : Nat) : Main :=
  let x := m.lane l
  match (m.plan x.handle).bitting.bind fun b => b.aux.laneOut with
  | none => m
  | some (r, n) =>
    let c := (m.lane l).ctxNo
    let p := (m.ctx c).tenant
    let a := x.result + slot % 2 ^ x.bufOrder * x.outStride
    if m.dmaOk p a n then m.tenantWr p a (m.bytesAt { r with addr := r.addr + slot % 4 * n } n)
    else
      let k := m.err.next
      let m := m.logDma c stProtection 7 a
      m.updLane l fun y => { y with staged := y.staged.map fun q =>
        if q.slot = slot then { q with inst := faultMembers none stProtection k q.inst } else q }

/-- COMMIT_RECORD_WRITE (R283, order 2): the record of a staged step goes to the commit log once it has room. A lane's steps
go in slot order. -/
def Main.commitRecordWrite (m : Main) (w : Nat) : Main :=
  let used := (m.log.pipe.map (·.lines)).sum
  let put := fun (m : Main) (i : Inst) (step round kind : Nat) =>
    let ms := i.members.map (m.memberOutcome i)
    let lines := 1 + (ms.length + 3) / 4
    if m.logLines < used + lines then m
    else
      let k : Commit := { sealNo := m.log.nextSeal, inst := i, step := step, round := round, kind := kind, members := ms
                          line := m.log.nextLine, lines := lines, live := false }
      let m := m.logWrite k.line (recordBytes k) lines
      { m with log := { nextSeal := k.sealNo + 1, nextLine := (k.line + lines) % m.logLines, pipe := m.log.pipe ++ [k] } }
  match m.laneOf w with
  | some l =>
    let sent := m.log.pipe.filter fun k => k.kind == 1 && k.inst.mask == 2 ^ w
    match ((m.lane l).staged.drop sent.length).head? with
    | some q =>
      let m := m.laneResult l q.slot
      match (m.lane l).staged.find? fun y => y.slot == q.slot with
      | some q => put m q.inst q.slot 0 1
      | none => m
    | none => m
  | none =>
    let i := m.inst w
    if i.live && i.staged && (!i.chained || i.chainGo) && !(m.log.pipe.any fun k => !k.live && k.kind == 0 && k.inst.mask == i.mask) then
      put m i i.step i.round 0
    else m

/-! ## Tensor records -/

/-- One tensor record written to its ring, or dropped and counted (R114). -/
def Main.clipRecord (m : Main) (bytes : Nat → List Byte) : Main :=
  if !m.bit F.CLIP_STAT_CTL_enable then m
  else
    let order := ringOrder (m.fld F.CLIP_STAT_CTL_ring_order) 4 16 4
    if ringFull order m.clip.head (m.fld F.CLIP_STAT_TAIL_tail) then
      (m.setFld F.CLIP_EVENT_ring_overflow 1).setFld F.CLIP_EVENT_dropped (satAdd 16 (m.fld F.CLIP_EVENT_dropped) 1)
    else
      let m := m.hostWr (m.pair 0x8008 0x800c 6 + m.clip.head * 32) (bytes (128 * b2n m.clip.phase))
      { m with clip := ringNext order m.clip }

/-- The records of a run's converted tensors at its commit, and the EVENT of each misfit (R114, R117). -/
def Main.tensorRecords (m : Main) (i : Inst) : Main :=
  match m.bittingOf i with
  | none => m
  | some b =>
    let comp := i.kind == .companion
    (i.tensors.filter fun p => p.2.closed).foldl (fun m p =>
      let x := p.2
      let flags := b2n x.firstPass + 2 * b2n x.misfit + 4 * b2n x.widen + 16 * b2n comp
        + 32 * b2n (i.noCompanion && x.misfit && x.widen) + 64 * b2n x.assisted
      let m := m.clipRecord fun ph => tensorRecord i.step b.modelKey b.layerGroup p.1 (leadOf i.mask) (flags + ph) x.stat
      if x.misfit then
        let m := m.setFld F.CLIP_EVENT_misfit 1
        let m := if i.noCompanion && x.widen then m.setFld F.CLIP_EVENT_no_companion 1 else m
        if m.bit F.CLIP_STAT_CTL_event_irq then m.raise (m.fld F.CLIP_STAT_CTL_event_vector) else m
      else m) m

/-! ## The commit point -/

/-- Pages and rows of a member's streams committed (R97, R208): written pages join their streams, the rest go back. -/
def Main.commitPages (m : Main) (i : Inst) (c : Nat) : Main :=
  let mine := i.newPages.filter fun q => q.1 == c
  let m := mine.foldl (fun m q => m.setPage q.2.2 { st := .owned c, freed := (m.page q.2.2).freed }) m
  m.updCtx c fun x => { x with streams := x.streams.zipIdx.map fun p =>
    let ps := (mine.filter fun q => q.2.1 == p.2).map (·.2.2)
    { p.1 with pages := p.1.pages ++ ps, fill := rowsNow i c p.2 p.1.fill } }

/-- Context line of a member at order 4 of Table 12-16 when its descriptor did not finish. -/
def Main.commitLine (m : Main) (k : Commit) (x : CommitMember) : Main := m.lineCommit x.ctx k.step k.round x.cursor k.kind

/-- One member of a live commit (Table 4-8, order 5; Table 12-16, order 4). -/
def Main.commitMember (m : Main) (k : Commit) (x : CommitMember) (mem : Member) : Main :=
  let c := x.ctx
  let lane := k.kind == 1
  let y := m.ctx c
  if y.state = .faulted ∨ y.state = .free then m
  else if isFault x.status then
    let m := m.releaseReserved (· == c)
    let m := (m.faultCtx c x.status x.detail)
    m.commitLine k x
  else if mem.noCommit then
    let start := (y.run.map (·.startLen)).getD y.seqLen
    let m := m.releaseReserved (· == c)
    let m := if start < y.kvLimit then m.dropFrom c (start / 32) (some y.tenant) false else m
    let m := m.updCtx c fun z => { z with
      seqLen := start, cursor := x.cursor, lastCommit := if lane then z.lastCommit else k.step, restoreGuard := false
      run := z.run.map fun r => { r with group := x.cursor, done := 0 } }
    m.commitLine k x
  else
    let m := (m.commitPages k.inst c).releaseReserved (· == c)
    let m := m.updCtx c fun z => { z with
      version := x.flags % 2 == 1, lastCommit := if lane then z.lastCommit else k.step, restoreGuard := false, cursor := x.cursor }
    if lane then m.commitLine k x
    else if mem.recompute then
      let m := m.updCtx c fun z => { z with
        kvLimit := min z.seqLen (z.kvLimit + mem.rows), chainRecompute := z.chainRecompute && decide (z.kvLimit + mem.rows < z.seqLen)
        run := z.run.map fun r => { r with widened := r.widened || x.status == stWidened, replayed := r.replayed || x.status == stReplayed } }
      (m.updCtx c Ctx.settle).commitLine k x
    else
      let lastG := (y.head.map fun d => d.field 0x1A 2).getD 0
      let m := if y.cursor = lastG then m.updCtx c fun z => { z with
          kvLimit := if z.kvLimit = z.seqLen then z.kvLimit + mem.rows else z.kvLimit, seqLen := z.seqLen + mem.rows } else m
      let moved := x.cursor != y.cursor
      let m := m.updCtx c fun z => { z with run := z.run.map fun r => { r with
        group := x.cursor, done := if moved then 0 else x.positions
        widened := r.widened || x.status == stWidened, replayed := r.replayed || x.status == stReplayed } }
      if x.flags / 2 % 2 = 1 then
        let m := m.completeHead c x.status (b2n (x.flags / 4 % 2 == 1)) (k.step + k.round * 2 ^ 48) 0
        let m := m.commitLine k x
        m.lineLen c (m.lenDone c + x.positions)
      else m.commitLine k x

/-- R303: a notice for each context whose completion records the commit wrote. -/
def Main.notices (m : Main) (k : Commit) (before : Main) : Main :=
  if !m.assisted 10 then m
  else k.members.foldl (fun m x =>
    let n := (m.ctx x.ctx).completed - (before.ctx x.ctx).completed
    if n = 0 then m else m.ask 10 [n, (m.ctx x.ctx).completed] [] x.ctx (k.step + k.round * 2 ^ 48)) m

/-- COMMIT_POINT (R98, orders 4 and 5; R283, orders 3 and 4): the oldest record not yet live goes live. -/
def Main.commitPoint (m : Main) : Main :=
  match m.log.pipe.find? fun k => !k.live with
  | none => m
  | some k =>
    let m := m.swing 10
    let before := m
    let mark := fun (q : Commit) => if q.sealNo = k.sealNo then { q with live := true } else q
    let m := { m with log := { m.log with pipe := m.log.pipe.map mark } }
    let m := m.tensorRecords k.inst
    let m := (k.members.zip k.inst.members).foldl (fun m p => m.commitMember k p.1 p.2) m
    let m := m.charge k.inst.cost k.inst.members (k.kind == 1)
    let m := m.notices k before
    let bad := k.members.find? fun x => isFault x.status
    let m := match k.inst.kind with
      | .lane l slot =>
        let m := (m.updLane l.val fun y => { y with
          staged := y.staged.filter fun q => q.slot != slot, lastCommitted := some slot }).laneSettle l.val slot
            (((k.members.head?).map fun (q : CommitMember) => q.status).getD 0)
        match bad with
        | some x => m.laneFault l.val x.status x.detail
        | none => m.laneDrained l.val
      | _ => m.endInst (leadOf k.inst.mask)
    let m := m.settle
    let was := (m.ctxs.filter fun p => p.2.cause == CtxCause.pageWait).map (·.1)
    was.foldl Main.cutIn (m.checkParked false)

/-- COMMIT_RETIRE (R283, order 5): the oldest live record's lines may be used again. -/
def Main.commitRetire (m : Main) : Main :=
  match m.log.pipe with
  | k :: rest => if k.live then { m with log := { m.log with pipe := rest } } else m
  | [] => m

/-! ## Widening (Table 5-9) -/

/-- MISFIT_BUNDLE (R120, order 3): every ward of the set stops without commit, the trigger's record is written, and the
run's pages stay reserved. -/
def Main.misfitBundle (m : Main) (w : Nat) : Main :=
  match m.instOn w with
  | some (lead, i) =>
    match i.widenTensor, m.bittingOf i with
    | some t, some b =>
      match m.companionOf i with
      | none => m.setInst lead { i with widenTensor := none, noCompanion := true }
      | some _ =>
        let x := tensorRun i t
        let flags := b2n x.firstPass + 2 + 4 + 8 + 64 * b2n x.assisted
        let m := m.clipRecord fun ph => tensorRecord i.step b.modelKey b.layerGroup t (leadOf i.mask) (flags + ph) x.stat
        m.setInst lead { i with stopped := true, widenTensor := none }
    | _, _ => m
  | none => m

/-- R124: no failed tile of an instance's wards waits for its replay. -/
def Main.replaysOver (m : Main) (i : Inst) : Bool :=
  (wardsOf i.mask).all fun w => (m.ward w).holds.isEmpty && (List.range 32).all fun t => (m.tum (32 * w + t)).failed.isEmpty

/-- COMPANION_START (R120, order 4; R121): the companion starts in the same step from the same committed versions, with the
base run's reservations and its cost so far. -/
def Main.companionStart (m : Main) (w : Nat) : Main :=
  match m.instOn w with
  | some (lead, i) =>
    if !i.stopped || !m.replaysOver i then m
    else
      match m.companionOf i with
      | none => m
      | some h =>
        match (m.plan h).bitting with
        | none => m
        | some b =>
          let m := (List.range 512).foldl (fun m t => if i.mask / 2 ^ (t / 32) % 2 = 1 then m.setTum t {} else m) m
          let m := { m with hq := m.hq.filter fun q => !(q.hinge == 3 && q.args.head? == some lead) }
          let held := (wardsOf i.mask).filter fun v => (m.ward v).loaded == some h
          m.setInst lead { i with
            kind := .companion, handle := h, stopped := false, widened := true, lists := freshLists b, tokens := freshTokens b
            loadedWards := held, doneCyls := [], readyWards := [], staged := false, tensors := [], widenTensor := none
            newPages := [], newRows := [], h3Asked := [], h3Scales := []
            reserved := i.reserved ++ i.newPages.map fun q => (q.1, q.2.2) }
  | none => m

end Sys2Proof
end

