-- ==== Sys2Proof/Machine/Laniza.lean ====
section
/-! DEFINITION. The Laniza chain on one unit (spec/14_laniza_chain.md R308 to R322): ports, walks, chained instances and the wake
pattern. -/

namespace Sys2Proof

/-! ## The unit -/

/-- The firmware's lowest generation. -/
def Main.ownFloor (m : Main) : Nat := Config.genFloor (m.word 0x4).toNat % 256

/-- The firmware's highest generation, never below 1 (R321). -/
def Main.ownMax (m : Main) : Nat := max 1 (Config.genTop (m.word 0x4).toNat % 256)

/-- Whether a port is trained. -/
def Main.portUp (m : Main) (p : Nat) : Bool :=
  decide (2 ≤ if p = 0 then m.fld F.LANIZA_STATUS_up_state else m.fld F.LANIZA_STATUS_down_state)

/-- R311: whether the unit is a head. -/
def Main.isHead (m : Main) : Bool := m.bit F.LANIZA_STATUS_head_pin || (m.lz.headOut && !m.portUp 0)

/-- Whether a chained instance runs here. -/
def Main.chainedRuns (m : Main) : Bool := m.insts.any fun p => p.2.live && p.2.chained

/-- The unit identity of Table 14-4. -/
def Main.unitId (m : Main) : Nat :=
  Config.serial % 2 ^ 48 + Config.stepping % 2 ^ 8 * 2 ^ 48 + m.ownMax % 2 ^ 8 * 2 ^ 56

/-- Bound bittings that the chain no longer serves are unbound with CTX_FAULT_PLAN (R93, R313). -/
def Main.chainRecheck (m : Main) (keep : Bitting → Bool) : Main :=
  ((m.stored.filter fun q => decide (1 < q.2.2.chainUnits) && !keep q.2.2).map (·.1)).foldl
    (fun (m : Main) (h : Nat) => m.unbindFault h stPlan 0 fun _ => true) m

/-! ## Walks (Table 14-2) -/

/-- A walk's end on this unit, whatever its outcome. -/
def Main.walkOver (m : Main) : Main :=
  { m.setFld F.LANIZA_STATUS_walk_busy 0 with lz := { m.lz with phase := .idle, restQuiet := false, addrs := [] } }

/-- R313: a failed walk on this unit: no valid address, no generation, no chained bitting. -/
def Main.walkLost (m : Main) : Main :=
  (((m.setFld F.LANIZA_ADDR_valid 0).setFld F.LANIZA_GEN_op_gen 0).walkOver).chainRecheck fun _ => false

/-- A walk that this unit finds failed: its flag is set, and every unit is told. -/
def Main.walkFail (m : Main) (flag : Fld) : Main :=
  let f : LzFrame := .confirm 0 false 0 [] true
  (((m.setFld flag 1).lzSend 0 f).lzSend 1 f).walkLost

/-- Order 7 (R312): the result of a walk taken; bound bittings are checked again, and RESYNC follows a recovery (R319). -/
def Main.walkTake (m : Main) (units : Nat) (ring : Bool) (gen : Nat) (addrs : List Nat) : Main :=
  let m := (m.setFld F.LANIZA_ADDR_units units).setFld F.LANIZA_ADDR_ring (b2n ring)
  let m := (m.setFld F.LANIZA_ADDR_addr (addrs.getD (m.fld F.LANIZA_ADDR_position) 0 % 16)).setFld F.LANIZA_ADDR_host_assigned (b2n m.lz.host)
  let m := ((m.setFld F.LANIZA_ADDR_valid 1).setFld F.LANIZA_GEN_op_gen (gen % 256)).walkOver
  let m := { m with lz := { m.lz with needWalk := false } }
  let m := m.chainRecheck m.chainOk
  let m := { m with kr := { m.kr with event := true } }
  if m.lz.resyncDue then
    let f := LzFrame.resync ((m.ctxs.map (·.1)).filter m.chainedCtx)
    let m := (m.lzSend 0 f).lzSend 1 f
    { m with lz := { m.lz with resyncDue := false } }
  else m

/-- Order 6 (R320): the head computes the operating generation and confirms, or the walk fails. -/
def Main.walkFinish (m : Main) (units : Nat) (ring : Bool) (floorMax maxMin : Nat) (addrs : List Nat) : Main :=
  if maxMin < floorMax then m.walkFail F.LANIZA_STATUS_no_common_gen
  else if !decide addrs.Nodup then m.walkFail F.LANIZA_STATUS_dup_addr
  else (m.lzSend 1 (.confirm units ring maxMin addrs false)).walkTake units ring maxMin addrs

/-- Orders 3 to 5: an address taken and WALK passed on; the last unit returns END, or finishes where it is the head. -/
def Main.walkPass (m : Main) (a : Nat) (host : Bool) : Main :=
  let pos := m.fld F.LANIZA_ADDR_position
  let addrs := m.lz.addrs ++ [a]
  let z := m.lz
  let m := { m with lz := { z with phase := .walking, addrs := addrs, host := host } }
  if m.portUp 1 then m.lzSend 1 (.walk (pos + 1) z.floorMax z.maxMin addrs)
  else if m.isHead then m.walkFinish (pos + 1) false z.floorMax z.maxMin addrs
  else m.lzSend 0 (.walkEnd (pos + 1) z.floorMax z.maxMin addrs)

/-- R314: the unit's address: its position, or what host software gives under H7. -/
def Main.walkAddress (m : Main) (port : Nat) : Main :=
  let pos := m.fld F.LANIZA_ADDR_position
  if m.assisted 7 then { m.ask 7 [port, pos, m.unitId] [] with lz := { m.lz with phase := .asking } } else m.walkPass pos false

/-- Order 3 at the head. -/
def Main.walkHead (m : Main) : Main :=
  let m := m.setFld F.LANIZA_ADDR_position 0
  Main.walkAddress { m with lz := { m.lz with floorMax := m.ownFloor, maxMin := m.ownMax, addrs := [], reached := true } } 1

/-- Chained instances that START has not let leave their boundary are given up: their pages go back. -/
def Main.dropHeld (m : Main) : Main :=
  ((m.insts.filter fun p => p.2.live && p.2.hold).map (·.1)).foldl (fun (m : Main) (l : Nat) =>
    let i := m.inst l
    (m.releaseReserved fun c => i.members.any fun x => x.ctx == c).endInst l) m

/-- Order 2 on this unit: once its chained steps have ended QUIESCE goes on, the last unit returns QUIESCED, and the head
sends WALK when QUIESCED is back. -/
def Main.walkQuiet (m : Main) : Main :=
  let m := if m.lz.phase = .quiescing then m.dropHeld else m
  if m.lz.phase ≠ .quiescing ∨ m.chainedRuns then m
  else if m.isHead then (if m.lz.restQuiet then m.walkHead else m)
  else
    let m := { m with lz := { m.lz with phase := .quiet } }
    if m.portUp 1 then m.lzSend 1 .quiesce else m.lzSend 0 .quiesced

/-- A walk begun (R312, order 1): at a head; another unit asks for one upstream. During a walk past order 2 it starts again at
order 3. -/
def Main.walkStart (m : Main) : Main :=
  if !m.isHead then m.lzSend 0 .rewalk
  else if m.lz.phase = .asking ∨ m.lz.phase = .walking then m.walkHead
  else if m.lz.phase ≠ .idle then m
  else
    let m := (m.swing 7).setFld F.LANIZA_STATUS_walk_busy 1
    let m := { m with lz := { m.lz with phase := .quiescing, restQuiet := !m.portUp 1 } }
    (m.lzSend 1 .quiesce).walkQuiet

/-! ## Chained instances cut short (R318) -/

/-- One chained instance cut short: no status, no commit; its pages go back and its members stay runnable. -/
def Main.chainCut (m : Main) (lead : Nat) : Main :=
  let i := m.inst lead
  if !i.live || !i.chained then m
  else
    let m := m.releaseReserved fun c => i.members.any fun x => x.ctx == c
    let m := { m with log := { m.log with pipe := m.log.pipe.filter fun k => k.live || k.inst.mask != i.mask } }
    let m := (((m.endInst lead).count 0x41 0 1).setFld F.LANIZA_STATUS_chain_abort 1)
    Main.settle { m with lz := { m.lz with needWalk := true } }

/-- Every chained instance cut short. -/
def Main.chainCutAll (m : Main) : Main := ((m.insts.filter fun p => p.2.chained).map (·.1)).foldl Main.chainCut m

/-! ## Commands -/

/-- LANIZA_PORT_CHANGE (R309, R312, R318): a port trains, retrains or goes down (codes of LANIZA_STATUS.up_state). -/
def Main.portChange (m : Main) (p st : Nat) : Main :=
  let f := if p = 0 then F.LANIZA_STATUS_up_state else F.LANIZA_STATUS_down_state
  let en := if p = 0 then m.bit F.LANIZA_CTL_up_en else m.bit F.LANIZA_CTL_down_en
  let st := if en then st else 0
  let old := m.fld f
  if old = st then m
  else
    let m := m.setFld f st
    let m := { m with lz := { m.lz with failUp := if p = 0 then 0 else m.lz.failUp, failDown := if p = 1 then 0 else m.lz.failDown } }
    let m := if st < 2 ∧ 2 ≤ old then m.chainCutAll else m
    if st = 1 then m else m.walkStart

/-- HEAD_UP_TIMEOUT (R311). -/
def Main.headUp (m : Main) : Main :=
  if m.bit F.LANIZA_STATUS_head_pin || m.portUp 0 then m
  else
    let m := { m with lz := { m.lz with headOut := true } }
    if m.portUp 1 then m.walkStart else m

/-- NO_HEAD_TIMEOUT (R311, R313). -/
def Main.noHead (m : Main) : Main := if m.isHead || m.lz.reached then m else (m.setFld F.LANIZA_STATUS_no_head 1).walkLost

/-- LANIZA_REWALK (R312, R324): ignored during a walk. -/
def Main.rewalk (m : Main) : Main := if m.lz.phase = .idle then m.walkStart else m

/-- QUIESCE arrives (R312, order 2). In a ring it comes back to the head, whose walk then goes on. -/
def Main.quiesce (m : Main) : Main :=
  if m.isHead then
    if m.lz.phase = .quiescing then Main.walkQuiet { m with lz := { m.lz with restQuiet := true, failUp := 0 } } else m
  else if m.lz.phase = .quiescing then m
  else
    let m := (m.swing 7).setFld F.LANIZA_STATUS_walk_busy 1
    Main.walkQuiet { m with lz := { m.lz with phase := .quiescing, failUp := 0 } }

/-- QUIESCED arrives from downstream. -/
def Main.quiesced (m : Main) : Main :=
  let m := { m with lz := { m.lz with failDown := 0 } }
  if m.isHead then
    if m.lz.phase = .quiescing then Main.walkQuiet { m with lz := { m.lz with restQuiet := true } } else m
  else m.lzSend 0 .quiesced

/-- WALK arrives (R312, orders 4 and 5; Table 14-3). -/
def Main.walk (m : Main) (pos floorMax maxMin : Nat) (addrs : List Nat) : Main :=
  let m := { m with lz := { m.lz with reached := true, failUp := 0 } }
  if m.isHead && m.lz.phase == LzPhase.walking then m.walkFinish pos true floorMax maxMin addrs
  else if m.bit F.LANIZA_STATUS_head_pin then m.walkFail F.LANIZA_STATUS_dup_head
  else if 16 ≤ pos then m.walkFail F.LANIZA_STATUS_too_many
  else
    let m := (m.setFld F.LANIZA_STATUS_walk_busy 1).setFld F.LANIZA_ADDR_position pos
    Main.walkAddress { m with lz := { m.lz with
      floorMax := max floorMax m.ownFloor, maxMin := min maxMin m.ownMax, addrs := addrs } } 0

/-- END arrives from downstream (R312, order 5). -/
def Main.walkEnd (m : Main) (units floorMax maxMin : Nat) (addrs : List Nat) : Main :=
  let m := { m with lz := { m.lz with failDown := 0 } }
  if m.isHead then
    if m.lz.phase = .walking then m.walkFinish units false floorMax maxMin addrs else m
  else m.lzSend 0 (.walkEnd units floorMax maxMin addrs)

/-- CONFIRM arrives (R312, order 7; R313): taken and passed on, away from where it came. -/
def Main.confirm (m : Main) (units : Nat) (ring : Bool) (gen : Nat) (addrs : List Nat) (failed viaUp : Bool) : Main :=
  let m := { m with lz := { m.lz with failUp := if viaUp then 0 else m.lz.failUp, failDown := if viaUp then m.lz.failDown else 0 } }
  if m.lz.phase = .idle then m
  else
    let m := m.lzSend (b2n viaUp) (.confirm units ring gen addrs failed)
    if failed then m.walkLost else m.walkTake units ring gen addrs

/-- The H7 answer or its timeout (R314). -/
def Main.h7Take (m : Main) (addr : Option Nat) : Main :=
  if m.lz.phase ≠ .asking then m
  else
    match addr with
    | some a => m.walkPass a true
    | none => m.walkPass (m.fld F.LANIZA_ADDR_position) false

/-- CHAIN_MEMBERSHIP (R235, R221): at this unit's boundary its members' pages are reserved and the instance stands ready for
START; a member that cannot reserve parks, and the others' pages go back. -/
def Main.chainMembers (m : Main) (h : Nat) (members : List (Nat × Nat × Nat)) : Main :=
  match m.stored.find? fun q => q.1 == h with
  | none => m
  | some q =>
    let b := q.2.2
    match m.hosted b.modelKey b.mask with
    | none => m
    | some s =>
      let mine := (members.filter fun x => x.1 == m.fld F.LANIZA_ADDR_addr).map fun x => (x.2.1, x.2.2)
      let res := s.berths.filterMap (·.1)
      let ok := mine.all fun p => res.contains p.1 && (m.ctx p.1).state == CtxState.residentRunning && q.2.1.contexts.contains p.1
      if b.chainUnits ≤ 1 ∨ !m.bit F.LANIZA_ADDR_valid ∨ m.lz.needWalk ∨ m.lz.phase ≠ .idle ∨ !m.setIdle s ∨ !ok ∨ mine.isEmpty
          ∨ m.building ∨ !m.bit F.KEYRING_CFG_enable then m
      else
        let step := fun (a : Main × List (Nat × Nat × List Nat)) (p : Nat × Nat) =>
          let x := a.1.ctx p.1
          let r := Main.reserveFor p.1 (x.need b x.berthNo p.2) p.2 (mine.map (·.1)) (a.1.ctxs.length * 64 + 1) a.1
          match r.2 with
          | some ps => (r.1, a.2 ++ [(p.1, p.2, ps)])
          | none => (r.1, a.2)
        let r := mine.foldl step (m, [])
        if r.2.length = mine.length then r.1.emit h b r.2 (r.1.nextRound (leadOf b.mask))
        else r.1.releaseReserved fun c => mine.any fun p => p.1 == c

/-- CHAIN_START (R317, R221, R324): the unit's sets leave their boundary. Members of sequences that faulted on another unit take
CTX_FAULT_PLAN at their next RUN; those that parked on another unit park here. -/
def Main.chainStart (m : Main) (lead : Nat) (faulted parked : List Nat) : Main :=
  let i := m.inst lead
  if !i.live || !i.hold then m
  else
    let gone := fun (c : Nat) => faulted.contains c || parked.contains c
    let here := (i.members.map (·.ctx)).filter gone
    let m := m.releaseReserved here.contains
    let m := here.foldl (fun (m : Main) (c : Nat) =>
      if faulted.contains c then m.updCtx c fun x => { x with pendingFault := some (stPlan, 0) } else m.park c) m
    let left := i.members.filter fun x => !gone x.ctx
    let m := if m.fld F.LANIZA_ADDR_addr = 0 then m.lzSend 1 (.start i.mask) else m
    if left.isEmpty then (m.endInst lead).settle
    else m.setInst lead { i with hold := false, members := left, reserved := i.reserved.filter fun p => !gone p.1 }

/-- CHAIN_READY (R317): a unit's READY reaches address 0. -/
def Main.chainReady (m : Main) (lead unit : Nat) : Main :=
  let i := m.inst lead
  let m := { m with lz := { m.lz with failDown := 0 } }
  if !i.live || !i.chained || m.fld F.LANIZA_ADDR_addr ≠ 0 || unit = 0 || i.readyFrom.contains unit then m
  else (m.setInst lead { i with readyFrom := unit :: i.readyFrom }).lzGo lead

/-- CHAIN_GO (R317): the unit may commit. -/
def Main.chainGo (m : Main) (lead : Nat) : Main :=
  let i := m.inst lead
  if i.live && i.chained && i.staged then (m.setInst lead { i with chainGo := true }).lzSend 1 (.go i.mask) else m

/-- CHAIN_GO_TIMEOUT (R318): GO has not come within down_timeout of READY. -/
def Main.chainTimeout (m : Main) (lead : Nat) : Main :=
  let i := m.inst lead
  if i.live && i.chained && i.staged && !i.chainGo then (m.chainCut lead).walkQuiet else m

/-- CHAIN_DROP_NOTICE (R221). -/
def Main.chainDrop (m : Main) (c kv : Nat) : Main :=
  if (m.ctx c).state = .free then m else (m.updCtx c fun x => { x with pendingDrop := some kv }).settle

/-- CHAIN_RESYNC (R319). -/
def Main.chainResync (m : Main) (cs : List Nat) : Main :=
  let mine := cs.filter fun c => (m.ctx c).state != CtxState.free && m.chainedCtx c
  Main.settle (mine.foldl (fun (m : Main) (c : Nat) => m.updCtx c fun x => { x with pendingResync := true }) m)

/-- LANIZA_SEND_WAKE (R322): the wake pattern on each port whose neighbour is in low-power idle. -/
def Main.sendWake (m : Main) (upIdle downIdle : Bool) : Main :=
  let put := fun (m : Main) (p : Nat) => ({ m with lz := { m.lz with sent := m.lz.sent ++ [(p, LzFrame.wake)] } } : Main)
  let m := if upIdle then put m 0 else m
  if downIdle then put m 1 else m

/-- LANIZA_FRAME_CRC_FAIL (R308): a frame fails its CRC and is sent again; the 64th failure in a row takes the port down. -/
def Main.frameFail (m : Main) (p : Nat) : Main :=
  let n := (if p = 0 then m.lz.failUp else m.lz.failDown) + 1
  if !m.portUp p then m
  else if 64 ≤ n then m.portChange p 0
  else
    let m := m.count 0x40 p 1
    { m with lz := { m.lz with failUp := if p = 0 then n else m.lz.failUp, failDown := if p = 1 then n else m.lz.failDown } }

end Sys2Proof
end

