-- ==== Sys2Proof/Machine/Audio.lean ====
section
/-! DEFINITION. The Latch island by itself: the hasp and its outputs, sample numbers, the pre-roll ring, the spool, blocks and
wake records (spec/15_listening.md). -/

namespace Sys2Proof

/-! ## Registers of the audio block -/

/-- The stored word of an audio register. -/
def Latch.word (a : Latch) (off : Nat) : Word := Tab.get regReset a.regs off

/-- An audio register replaced. -/
def Latch.setWord (a : Latch) (off : Nat) (w : Word) : Latch := { a with regs := Tab.put regReset off w a.regs }

/-- A field of an audio register. -/
def Latch.fld (a : Latch) (f : Fld) : Nat := f.of (a.word f.off)

/-- A one-bit field. -/
def Latch.bit (a : Latch) (f : Fld) : Bool := a.fld f != 0

/-- A field replaced. -/
def Latch.setFld (a : Latch) (f : Fld) (v : Nat) : Latch := a.setWord f.off (f.into v (a.word f.off))

/-! ## The hasp (R344 to R347) -/

/-- The part is muted while MUTE_N is asserted or mute is 1 (R344). -/
def Hasp.muted (h : Hasp) : Bool := h.pin || h.mute

/-- The outputs that the hasp drives: while muted the clocks are low, the microphones' power is off and MUTE_LED is on. `run`
says which groups' clocks would run otherwise. -/
def Hasp.drive (h : Hasp) (run0 run1 : Bool) : Hasp :=
  { h with led := h.muted, micPwr := !h.muted, clk0 := !h.muted && run0, clk1 := !h.muted && run1 }

/-- Whether a group's path runs: enabled, AUD_CLK present, and for group 1 not in S3, S4 or Latch mode (R329, R488). -/
def Latch.pathOn (a : Latch) (g1off : Bool) (g : Nat) : Bool :=
  a.bit (F.PDM_GRP_enable g) && !a.audStop && !(g == 1 && g1off)

/-- Whether the wake path runs (R328, R330). -/
def Latch.wakeOn (a : Latch) : Bool := a.bit F.WAKE_CFG_enable && a.pathOn false 0

/-- A path that has stopped: its next block carries the gap flag (R330). -/
def AudPath.stop (p : AudPath) : AudPath := if p.ran then { p with ran := false, gap := true } else p

/-- Outputs and paths after a change: clocks driven, a clock that starts makes its decimators settle (R327), stopped paths
marked. -/
def Latch.redrive (a : Latch) (g1off : Bool) : Latch :=
  let h := a.hasp.drive (a.pathOn g1off 0) (a.pathOn g1off 1)
  let settle := h.settle != 0
  { a with
    hasp := h
    settle0 := if h.clk0 && !a.hasp.clk0 then settle else a.settle0 && h.clk0
    settle1 := if h.clk1 && !a.hasp.clk1 then settle else a.settle1 && h.clk1
    g0 := if a.pathOn g1off 0 then a.g0 else a.g0.stop
    g1 := if a.pathOn g1off 1 then a.g1 else a.g1.stop
    wake := if a.wakeOn then a.wake else a.wake.stop }

/-! ## PSRAM (R469) -/

/-- A range of PSRAM, by offset: inside the fitted size of one channel. -/
def Latch.psramOk (a : Latch) (off n : Nat) : Bool :=
  if off < 0x4000000 then decide (off + n ≤ a.psram0 * 0x100000)
  else decide (off + n ≤ 0x4000000 + a.psram1 * 0x100000)

/-- Pairs the spool's region holds: none where it is disabled or not fitted (R332, R469). -/
def Latch.spoolPairs (a : Latch) : Nat :=
  let n := a.fld F.SPOOL_CFG_size * 0x10000
  if a.psramOk (a.fld F.SPOOL_CFG_base * 0x10000) n then n / 8 else 0

/-- Where the pair of a sample number lies in the spool's region. -/
def Latch.spoolAddr (a : Latch) (n : Nat) : Nat := a.fld F.SPOOL_CFG_base * 0x10000 + n % a.spoolPairs * 8

/-! ## Sample sets -/

/-- A 24-bit sample sign-extended to 32 bits. -/
def ext24 (v : Nat) : Nat := if v % 2 ^ 24 < 2 ^ 23 then v % 2 ^ 24 else v % 2 ^ 24 + 0xFF000000

/-- Sample numbers are 48 bits wide. -/
def sampleAdd (n k : Nat) : Nat := (n + k) % 2 ^ 48

/-- Pairs a block of so many channels holds (R341). -/
def blockSets (channels : Nat) : Nat := 4032 / (4 * max 1 channels)

/-- A sample set taken into a stream: a gap closes the block being filled; a full block waits. Nothing is taken while
`limit` blocks wait: the set is lost and a gap follows (log entry 40). -/
def AStream.push (cap limit num : Nat) (muted spool : Bool) (set : List Nat) (st : AStream) : AStream :=
  if !st.running then st
  else if limit ≤ st.full.length then { st with gap := true }
  else
    let st := if st.gap then
        match st.part with
        | some p => { st with part := none, full := st.full ++ [p] }
        | none => st
      else st
    let p := st.part.getD { first := num, gap := st.gap }
    let p := { p with muted := p.muted || muted, spool := p.spool || spool, sets := p.sets ++ [set] }
    if cap ≤ p.sets.length then { st with part := none, gap := false, full := st.full ++ [p] }
    else { st with part := some p, gap := false }

/-- Blocks a stream of the wake pair lets wait (R476). -/
def wakeLimit : Nat := 8

/-- Blocks a capture stream lets wait (log entry 40). -/
def capLimit : Nat := 16

/-- A wake pair goes to the running stream, or to the spool while the stream has spooled pairs to deliver or its buffer is full
(R341, R476), or to the spool that a candidate started (R332). -/
def Latch.takePair (a : Latch) (num : Nat) (muted : Bool) (x y : Nat) : Latch :=
  let streaming := a.stream.running || a.sdio.stream.running
  let st := if a.stream.running then a.stream else a.sdio.stream
  let toSpool := match a.spool with
    | some sp => !streaming || decide (0 < sp.count) || decide (wakeLimit ≤ st.full.length)
    | none => streaming && decide (wakeLimit ≤ st.full.length)
  if !toSpool then
    if a.stream.running then { a with stream := a.stream.push (blockSets 2) wakeLimit num muted false [x, y] }
    else { a with sdio := { a.sdio with stream := a.sdio.stream.push (blockSets 2) wakeLimit num muted false [x, y] } }
  else
    let cap := a.spoolPairs
    let sp := a.spool.getD { first := num }
    if sp.stopped ∨ cap ≤ sp.count then
      let a := if 0 < cap then a.setFld F.WAKE_STATUS_spool_overflow 1 else a
      let a := if cap = 0 then a else { a with spool := some { sp with stopped := true } }
      let a := if a.sdio.stream.running then { a with sdio := { a.sdio with lost := true } } else a
      if 0 < cap then a
      else { a with
        stream := { a.stream with gap := a.stream.gap || a.stream.running }
        sdio := { a.sdio with stream := { a.sdio.stream with gap := a.sdio.stream.gap || a.sdio.stream.running } } }
    else
      let q := if muted && !sp.quiet.contains (num / 160) then sp.quiet ++ [num / 160] else sp.quiet
      { a with
        psram := Mem.wrN (a.spoolAddr num) (leBytes 4 x ++ leBytes 4 y) a.psram
        spool := some { sp with count := sp.count + 1, quiet := q } }

/-- Spooled pairs go to the running stream while its buffer has room; the spool ends once all are delivered (R332). -/
def Latch.pump : Nat → Latch → Latch
  | 0, a => a
  | n + 1, a =>
    let st := if a.stream.running then a.stream else a.sdio.stream
    match a.spool with
    | none => a
    | some sp =>
      if !st.running then a
      else if sp.count = 0 then
        let st := { st with gap := st.gap || sp.stopped }
        if a.stream.running then { a with spool := none, stream := st } else { a with spool := none, sdio := { a.sdio with stream := st } }
      else if wakeLimit ≤ st.full.length then a
      else
        let at2 := a.spoolAddr sp.first
        let st := st.push (blockSets 2) wakeLimit sp.first (sp.quiet.contains (sp.first / 160)) true
          [a.psram.rdNat at2 4, a.psram.rdNat (at2 + 4) 4]
        let a := { a with spool := some { sp with first := sampleAdd sp.first 1, count := sp.count - 1 } }
        Latch.pump n (if a.stream.running then { a with stream := st } else { a with sdio := { a.sdio with stream := st } })

/-- Enough rounds of `pump` to empty the spool. -/
def Latch.pumpAll (a : Latch) : Latch := Latch.pump ((a.spool.map (·.count)).getD 0 + 1) a

/-- A block laid out in 4,096 bytes (Table 15-4). -/
def blockBytes (channels source : Nat) (phase : Bool) (b : ABlock) : List Byte :=
  let body := b.sets.flatMap fun s => s.flatMap (leBytes 4)
  let bytes := leBytes 6 b.first ++ leBytes 2 b.sets.length ++ leBytes 1 channels ++ leBytes 1 source
    ++ leBytes 1 (b2n b.gap + 2 * b2n b.muted + 4 * b2n b.spool + 128 * b2n phase) ++ List.replicate 53 0#8 ++ body
  bytes ++ List.replicate (4096 - bytes.length) 0#8

/-- Enabled microphones of a group. -/
def Latch.mics (a : Latch) (g : Nat) : Nat := (List.range 16).countP fun i => a.fld (F.PDM_GRP_mic_en g) / 2 ^ i % 2 == 1

/-! ## Frames (R327, R330, R331) -/

/-- Sample sets of a group for one frame of 10 ms: 160 or 480, zeros while muted or settling. -/
def Latch.groupFrame (a : Latch) (g : Nat) (sets : List (List Nat)) : Latch :=
  let muted := a.hasp.muted
  let silent := muted || (if g = 0 then a.settle0 else a.settle1)
  let n := if a.bit (F.PDM_GRP_rate g) then 480 else 160
  let ch := a.mics g
  let p := if g = 0 then a.g0 else a.g1
  let cap := if g = 0 then a.cap0 else a.cap1
  let cap := { cap with gap := cap.gap || (cap.running && p.gap) }
  let value := fun (i j : Nat) => if silent then 0 else ext24 ((sets.getD i []).getD j 0)
  let cap := if ch = 0 then cap
    else (List.range n).foldl (fun st i =>
      AStream.push (blockSets ch) capLimit (sampleAdd p.next i) muted false ((List.range ch).map (value i)) st) cap
  let p := { p with ran := true, next := sampleAdd p.next n, gap := p.gap && !cap.running }
  if g = 0 then { a with g0 := p, cap0 := cap } else { a with g1 := p, cap1 := cap }

/-- The wake pair's 160 samples of one frame: into the pre-roll ring, and to the stream or the spool. -/
def Latch.wakeSamples (a : Latch) (pairs : List (Nat × Nat)) : Latch :=
  let muted := a.hasp.muted
  let silent := muted || a.settle0
  let n0 := a.wake.next
  let pair := fun (i : Nat) => if silent then (0, 0) else ((pairs.getD i (0, 0)).1, (pairs.getD i (0, 0)).2)
  let gap := a.wake.gap
  let a := if gap then { a with
      stream := { a.stream with gap := a.stream.gap || a.stream.running }
      sdio := { a.sdio with stream := { a.sdio.stream with gap := a.sdio.stream.gap || a.sdio.stream.running } } } else a
  let a := (List.range 160).foldl (fun (a : Latch) i =>
    let num := sampleAdd n0 i
    let x := ext24 (pair i).1
    let y := ext24 (pair i).2
    let a := { a with preroll := Mem.wrN (num % 40000 * 8) (leBytes 4 x ++ leBytes 4 y) a.preroll }
    if a.stream.running || a.sdio.stream.running || a.spool.isSome then a.takePair num muted x y else a) a
  let streaming := a.stream.running || a.sdio.stream.running
  let quiet := (if muted then n0 / 160 :: a.quiet else a.quiet).take 250
  ({ a with quiet := quiet, wake := { ran := true, next := sampleAdd n0 160, gap := gap && !streaming } } : Latch).pumpAll

/-! ## Stage 0 (R333, R340) -/

/-- VLD_CFG.vld_min: 0 acts as 3. -/
def Latch.vldMin (a : Latch) : Nat := (let v := a.fld F.VLD_CFG_vld_min; if v = 0 then 3 else v)

/-- A frame judged, the trigger it makes, and the candidate raised. `frame` is its number. -/
def Latch.stage0 (a : Latch) (frame : Nat) (voice : Bool) : Latch :=
  let ok := voice && !a.hasp.muted && !a.settle0
  let a := { a with judged := ((frame, ok) :: a.judged).take 8 }
  let hits := a.judged.filter (·.2)
  if hits.length < a.vldMin then a
  else if a.cand.isSome ∨ (16 ≤ a.fifo.length ∧ a.fifo.all (fun r => r.outcome == 0)) then
    { a with vldBusy := satAdd 48 a.vldBusy 1 }
  else
    let first := (hits.map (·.1)).foldl min frame
    let end_ := (frame + 1) * 160
    let start := max (first * 160 - a.fld F.VLD_CFG_lookback * 160) (end_ - 40000)
    let start := match a.prevLast with
      | some l => max start (l + 1)
      | none => start
    { a with
      cand := some { number := a.candNext, first := start, next := start / 160, rep := start }
      candNext := (a.candNext + 1) % 2 ^ 32 }

/-! ## Stage 1 (R334) -/

/-- A Q7.8 score as a signed number. -/
def q78 (v : Nat) : Int := sext 16 (v % 2 ^ 16)

/-- KW_CFG.window: 0 acts as 200. -/
def Latch.kwWindow (a : Latch) : Nat := (let v := a.fld F.KW_CFG_window; if v = 0 then 200 else v)

/-- Scores of the candidate's next frames, in order, each with the first sample reported: the candidate that passes carries
them. -/
def Latch.stage1 : List (Nat × Nat) → Latch → Latch
  | [], a => a
  | (score, rep) :: rest, a =>
    match a.cand with
    | none => a
    | some c =>
      if c.st ≠ .stage1 ∨ a.image.isNone ∨ a.wake.next / 160 ≤ c.next ∨ c.first / 160 + a.kwWindow ≤ c.next then a
      else if q78 (a.fld F.KW_CFG_thresh) ≤ q78 score then
        { a with cand := some { c with st := .verdict, rep := max c.first rep, last := c.next * 160 + 159, score1 := score % 2 ^ 16 } }
      else Latch.stage1 rest { a with cand := some { c with next := c.next + 1 } }

/-- The spool started at a pass (R332): the pairs that the ring still holds from the candidate's first sample on; none while a
stream runs, which has delivered them. -/
def Latch.startSpool (a : Latch) (first : Nat) : Latch :=
  let first := max first (a.wake.next - 40000)
  if a.stream.running || a.sdio.stream.running || a.spoolPairs == 0 then { a with spool := none }
  else
    let n := a.wake.next - first
    let fit := min n a.spoolPairs
    let a := if fit < n then a.setFld F.WAKE_STATUS_spool_overflow 1 else a
    let ps := (List.range fit).foldl (fun (p : Mem) i =>
      Mem.wrN (a.spoolAddr (first + i)) (Mem.rdN a.preroll ((first + i) % 40000 * 8) 8) p) a.psram
    { a with psram := ps, spool := some { first := first, count := fit, stopped := decide (fit < n), quiet := a.quiet } }

/-! ## Wake records (R342, R343) -/

/-- A record enters the Latch FIFO; when it is full the oldest record whose outcome is not 0 gives way. -/
def Latch.putRecord (a : Latch) (r : WakeRec) : Latch :=
  let a := if a.fifo.isEmpty then { a with sdio := { a.sdio with int2 := a.sdio.int2 ||| 1 } } else a
  if a.fifo.length < 16 then { a with fifo := a.fifo ++ [r] }
  else
    let a := { a with wakeDrop := satAdd 48 a.wakeDrop 1 }
    match a.fifo.find? fun q => q.outcome != 0 with
    | some q => { a with fifo := a.fifo.erase q ++ [r] }
    | none => a

/-- A record's 32 bytes (Table 15-5). -/
def recordOf (r : WakeRec) (phase : Bool) : List Byte :=
  leBytes 4 r.cand ++ leBytes 6 r.first ++ leBytes 6 r.last ++ leBytes 2 r.score1 ++ leBytes 2 r.score2 ++ leBytes 1 r.state
    ++ leBytes 1 r.outcome ++ leBytes 1 (r.wflags % 128 + 128 * b2n phase) ++ List.replicate 9 0#8

/-- The open candidate ends with an outcome: its record is queued when it had passed stage 1. -/
def Latch.closeCand (a : Latch) (outcome score2 wflags : Nat) : Latch :=
  match a.cand with
  | none => a
  | some c =>
    let a := { a with cand := none, prevLast := if c.st = .stage1 then a.prevLast else some c.last, w0On := false }
    let a := if outcome = 0 then a else { a with spool := none }
    if c.st = .stage1 then a
    else a.putRecord { cand := c.number, first := c.rep, last := c.last, score1 := c.score1, score2 := score2, state := c.state
                       outcome := outcome, wflags := wflags ||| 8 * b2n (a.bit F.WAKE_STATUS_spool_overflow) }

/-- Entry to mute (R346). -/
def Latch.enterMute (a : Latch) : Latch :=
  let a := { a with preroll := [] }
  let a := a.closeCand 3 0x8000 0
  { a with spool := none, w0On := false }

/-- A change of the hasp's inputs takes effect: outputs are driven, and an entry to mute clears what was heard. -/
def Latch.haspTake (a : Latch) (h : Hasp) (g1off : Bool) : Latch :=
  let entered := h.muted && !a.hasp.muted
  let a := ({ a with hasp := { h with led := a.hasp.led, micPwr := a.hasp.micPwr, clk0 := a.hasp.clk0, clk1 := a.hasp.clk1 } } : Latch).redrive g1off
  if entered then a.enterMute else a

/-- A write of HASP_CTL (R345): mute set; or cleared, but for MUTE_N asserted. -/
def Hasp.write (h : Hasp) (v : Word) : Hasp :=
  let h := { h with settle := F.HASP_CTL_settle_ms.of v }
  if v.getLsbD 0 then { h with mute := true }
  else if h.pin then { h with unmuteRefused := true }
  else { h with mute := false }

/-- An edge of MUTE_N (R345, R347). -/
def Hasp.edge (h : Hasp) (asserted : Bool) : Hasp :=
  { h with pin := asserted, mute := h.mute || asserted, pinChanged := true }

/-- A write of PDM_GRPg (R326): ignored with cfg_err while the group runs or when D lies outside its range. -/
def Latch.pdmWrite (a : Latch) (g : Nat) (v : Word) (g1off : Bool) : Latch :=
  let d := (F.PDM_GRP_decim g).of v
  let ok := if (F.PDM_GRP_rate g).of v = 0 then decide (64 ≤ d ∧ d ≤ 300) else decide (22 ≤ d ∧ d ≤ 100)
  if a.bit (F.PDM_GRP_enable g) || !ok then a.setFld F.WAKE_STATUS_cfg_err 1
  else (a.setWord (0xa010 + 4 * g) (v &&& 0xffff07ff#32)).redrive g1off

end Sys2Proof
end

