-- ==== Sys2Proof/Machine/Camera.lean ====
section
/-! DEFINITION. Cameras: receivers, pipelines, statistics, delivery, and the I3C controllers (spec/16_camera.md). -/

namespace Sys2Proof

/-! ## State by sensor -/

/-- An unlisted sensor: no frame. -/
def camDef : Nat → CamSensor := fun _ => {}

/-- A logical sensor. -/
def Main.sensor (m : Main) (s : Nat) : CamSensor := Tab.get camDef m.cam.sensors s

/-- A logical sensor replaced. -/
def Main.setSensor (m : Main) (s : Nat) (x : CamSensor) : Main :=
  { m with cam := { m.cam with sensors := Tab.put camDef s x m.cam.sensors } }

/-- The sixteen register words of a sensor as they stand (Table 16-7). -/
def Main.camWords (m : Main) (s : Nat) : List Nat := (List.range 16).map fun i => (m.word (0xb100 + 0x40 * s + 4 * i)).toNat

/-- Fields of a sensor's words. -/
def csType (c : List Nat) : Nat := bitsOf (c.getD 0 0) 9 7
def csBayer (c : List Nat) : Nat := bitsOf (c.getD 0 0) 11 10
def csPipe (c : List Nat) : Nat := bitsOf (c.getD 0 0) 12 12
def csX0 (c : List Nat) : Nat := bitsOf (c.getD 1 0) 15 0
def csY0 (c : List Nat) : Nat := bitsOf (c.getD 1 0) 31 16
def csW (c : List Nat) : Nat := bitsOf (c.getD 2 0) 15 0
def csH (c : List Nat) : Nat := bitsOf (c.getD 2 0) 31 16
def csOutW (c : List Nat) : Nat := bitsOf (c.getD 3 0) 15 0
def csOutH (c : List Nat) : Nat := bitsOf (c.getD 3 0) 31 16
def csTnr (c : List Nat) : Bool := bitsOf (c.getD 4 0) 0 0 == 1
def csTnrBase (c : List Nat) : Nat := bitsOf (c.getD 4 0) 6 1
def csTnrUnits (c : List Nat) : Nat := bitsOf (c.getD 4 0) 13 7
def csYuv (c : List Nat) : Bool := csType c == 4
/-- Sixteen-bit coefficient `i` of the words from `w` on. -/
def csHalf (c : List Nat) (w i : Nat) : Nat := bitsOf (c.getD (w + i / 2) 0) (16 * (i % 2) + 15) (16 * (i % 2))

/-! ## Lines (R355, Table 16-1) -/

/-- The CSI-2 data type of a sensor type (Table 16-1). -/
def typeDt (t : Nat) : Option Nat := [0x2A, 0x2B, 0x2C, 0x2D, 0x1E][t]?

/-- Pixels of a packed CSI-2 line: RAW8; RAW10, RAW12 and RAW14 with the low bits after each group of pixels; YUV422 as U Y V Y. -/
def unpackLine (t : Nat) (bs : List Byte) : List Nat :=
  let b := fun i => (bs.getD i 0#8).toNat
  let n := bs.length
  match t with
  | 1 => (List.range (n / 5 * 4)).map fun i => b (i / 4 * 5 + i % 4) * 4 + b (i / 4 * 5 + 4) / 4 ^ (i % 4) % 4
  | 2 => (List.range (n / 3 * 2)).map fun i => b (i / 2 * 3 + i % 2) * 16 + b (i / 2 * 3 + 2) / 16 ^ (i % 2) % 16
  | 3 => (List.range (n / 7 * 4)).map fun i =>
      let low := b (i / 4 * 7 + 4) + 256 * b (i / 4 * 7 + 5) + 65536 * b (i / 4 * 7 + 6)
      b (i / 4 * 7 + i % 4) * 64 + low / 64 ^ (i % 4) % 64
  | _ => (List.range n).map b

/-- The part of a line inside the crop window: pixels of Bayer data; for YUV422 the U Y V Y bytes of the window's pixels. -/
def cropLine (c : List Nat) (px : List Nat) : List Nat :=
  if csYuv c then (List.range (2 * csW c)).map fun i => px.getD (2 * csX0 c + i) 0
  else (List.range (csW c)).map fun i => px.getD (csX0 c + i) 0

/-- Zeros for one row of the window. -/
def zeroRow (c : List Nat) : List Nat := List.replicate (if csYuv c then 2 * csW c else csW c) 0

/-! ## Planes and stages 1 to 3 (Table 16-2) -/

/-- An index brought to the nearest one inside `0 .. n - 1` of its own colour. -/
def edgeIdx (yuv : Bool) (n : Nat) (i : Int) : Nat :=
  if yuv then (max 0 (min (n - 1 : Int) i)).toNat
  else
    let p := (i % 2).toNat
    if i < 0 then p else if (n : Int) ≤ i then n - 2 + p else i.toNat

/-- A value of a plane. -/
def pixel (rows : List (List Nat)) (x y : Nat) : Nat := (rows.getD y []).getD x 0

/-- Stage 1 at one pixel: the same-colour neighbours weighted by likeness. -/
def snrPixel (yuv : Bool) (k w h : Nat) (rows : List (List Nat)) (x y : Nat) : Nat :=
  let c := pixel rows x y
  let d := if yuv then 1 else 2
  let r : List Int := if yuv then [-2, -1, 0, 1, 2] else [-1, 0, 1]
  let ns := r.flatMap fun (i : Int) => r.map fun (j : Int) =>
    pixel rows (edgeIdx yuv w ((x : Int) + d * j)) (edgeIdx yuv h ((y : Int) + d * i))
  let wt := fun (v : Nat) => 16 - (if v < c then c - v else v - c) * k / 256
  let sw := (ns.map wt).sum
  let swx := (ns.map fun v => wt v * v).sum
  (2 * swx + sw) / (2 * sw)

/-- Stage 1 over a plane of width `w` and height `h`. -/
def snrPlane (on yuv : Bool) (k w h : Nat) (rows : List (List Nat)) : List (List Nat) :=
  if !on then rows
  else (List.range h).map fun y => (List.range w).map fun x => snrPixel yuv k w h rows x y

/-- Stage 2 at one pixel with its reference. -/
def tnrPixel (floor gain r x : Nat) : Nat :=
  let d := if x < r then r - x else x - r
  let a := min 256 (floor + d * gain / 16)
  let s := (d * a + 128) / 256
  if x < r then r - s else min 65535 (r + s)

/-- Stage 2 over a row of values with their references, or unchanged. -/
def tnrRow (on : Bool) (floor gain : Nat) (ref : Option (List Nat)) (xs : List Nat) : List Nat :=
  match on, ref with
  | true, some r => xs.zipIdx.map fun p => tnrPixel floor gain (r.getD p.2 0) p.1
  | _, _ => xs

/-- Stage 3 at one Bayer pixel. -/
def blackLevel (c : List Nat) (phase v : Nat) : Nat := min 65535 (((v - csHalf c 5 phase) * csHalf c 7 phase + 2048) / 4096)

/-- Rows cut from one list of values. -/
def rowsFrom (w : Nat) : Nat → List Nat → List (List Nat)
  | 0, _ => []
  | h + 1, xs => xs.take w :: rowsFrom w h (xs.drop w)

/-- A frame's planes before stage 1: Bayer data as one plane; for YUV422 Y, U and V as v16 := v × 257. -/
def planesOf (c : List Nat) (rows : List (List Nat)) : List (List (List Nat)) :=
  if csYuv c then
    let pick := fun (off step : Nat) (n : Nat) => rows.map fun r => (List.range n).map fun i => r.getD (off + step * i) 0 * 257
    [pick 1 2 (csW c), pick 0 4 (csW c / 2), pick 2 4 (csW c / 2)]
  else [rows]

/-- The width of plane `p`. -/
def planeW (c : List Nat) (p : Nat) : Nat := if csYuv c && p != 0 then csW c / 2 else csW c

/-- What stages 1 and 2 make of a frame, and its new reference. -/
def frontStages (c : List Nat) (ref : Option (List Nat)) (rows : List (List Nat)) : List (List (List Nat)) × List Nat :=
  let k := bitsOf (c.getD 0 0) 21 14
  let on := bitsOf (c.getD 0 0) 13 13 == 1
  let ps := (planesOf c rows).zipIdx.map fun p => snrPlane on (csYuv c) k (planeW c p.2) (csH c) p.1
  let flat := ps.flatMap fun p => p.flatten
  let out := tnrRow (csTnr c) (bitsOf (c.getD 4 0) 22 14) (bitsOf (c.getD 4 0) 31 23) ref flat
  let cut := fun (p : Nat) =>
    let before := ((List.range p).map fun i => planeW c i * csH c).sum
    rowsFrom (planeW c p) (csH c) (out.drop before)
  ((List.range (if csYuv c then 3 else 1)).map cut, out)

/-- v16 after stage 3, or after stage 2 for YUV422 (R361). -/
def statPlanes (c : List Nat) (ps : List (List (List Nat))) : List (List (List Nat)) :=
  if csYuv c then ps
  else ps.map fun p => p.zipIdx.map fun r => r.1.zipIdx.map fun v => blackLevel c (r.2 % 2 * 2 + v.2 % 2) v.1

/-! ## Stages 4 to 9 -/

/-- Stages 4 to 7 at one pixel: red, green, blue. -/
def colourPixel (m : Main) (c : List Nat) (p : List (List Nat)) (x y : Nat) : List Nat :=
  let ds : List Int := [-2, -1, 0, 1, 2]
  let win := ds.flatMap fun (i : Int) => ds.map fun (j : Int) =>
    pixel p (edgeIdx false (csW c) ((x : Int) + j)) (edgeIdx false (csH c) ((y : Int) + i))
  let rgb := Config.demosaic (csBayer c) (y % 2 * 2 + x % 2) win
  let g := (List.range 3).map fun i => min 65535 ((min 65535 (rgb.getD i 0) * csHalf c 9 i + 2048) / 4096)
  let mixed := (List.range 3).map fun i =>
    let s := ((List.range 3).map fun j => sext 16 (csHalf c 11 (3 * i + j)) * (g.getD j 0 : Int)).sum
    (max 0 (min 65535 ((s + 2048) / 4096))).toNat
  let lut := fun (i : Nat) =>
    if i = 256 then bitsOf (m.word 0xb02c).toNat (16 * csPipe c + 15) (16 * csPipe c)
    else bitsOf (m.word (0xb800 + csPipe c * 0x200 + i / 2 * 4)).toNat (16 * (i % 2) + 15) (16 * (i % 2))
  mixed.map fun v =>
    let i := v / 256
    (max 0 (min 65535 ((lut i : Int) + (((lut (i + 1) : Int) - lut i) * (v % 256 : Nat) + 128) / 256))).toNat

/-- The three planes before stage 8, at full resolution. -/
def Main.fullPlanes (m : Main) (c : List Nat) (ps : List (List (List Nat))) : List (List (List Nat)) :=
  if csYuv c then
    ps.zipIdx.map fun p => p.1.map fun r => (List.range (csW c)).map fun x => r.getD (if p.2 = 0 then x else x / 2) 0
  else
    let px := (List.range (csH c)).map fun y => (List.range (csW c)).map fun x => colourPixel m c (ps.getD 0 []) x y
    (List.range 3).map fun i => px.map fun r => r.map fun v => v.getD i 0

/-- Stage 8 over one plane. -/
def scalePlane (w h ow oh : Nat) (p : List (List Nat)) : List (List Nat) :=
  let fx := max 1 (w / max 1 ow)
  let fy := max 1 (h / max 1 oh)
  let bw := w / fx
  let bh := h / fy
  let box := (List.range bh).map fun y => (List.range bw).map fun x =>
    let s := ((List.range fy).map fun j => ((List.range fx).map fun i => pixel p (x * fx + i) (y * fy + j)).sum).sum
    (2 * s + fx * fy) / (2 * (fx * fy))
  (List.range oh).map fun y => (List.range ow).map fun x =>
    let px := Config.samplePos bw ow x
    let py := Config.samplePos bh oh y
    let at2 := fun (i j : Nat) => pixel box (min (bw - 1) (px / 256 + i)) (min (bh - 1) (py / 256 + j))
    let a := px % 256
    let b := py % 256
    min 65535 ((at2 0 0 * (256 - a) * (256 - b) + at2 1 0 * a * (256 - b) + at2 0 1 * (256 - a) * b + at2 1 1 * a * b + 32768) / 65536)

/-- Stage 9 at one value: UINT8, or FP16 of v16 ÷ 65,535. -/
def outBytes (fp16 : Bool) (v : Nat) : List Byte :=
  if fp16 then
    let q := v * 2 ^ 40 / 65535
    let exact := v * 2 ^ 40 % 65535 == 0
    match floatLayout .fp16 with
    | some l => leBytes 2 (toFloat .fp16 l false (stickyOf q exact (-40))).code
    | none => []
  else leBytes 1 ((2 * v + 257) / 514)

/-- Sixty-four bytes to a line, a row beginning a line of its own. -/
def linesOf : Nat → List Byte → List (List Byte)
  | 0, _ => []
  | n + 1, bs => if bs.isEmpty then [] else (bs.take 64 ++ List.replicate (64 - (bs.take 64).length) 0#8) :: linesOf n (bs.drop 64)

/-- A frame's output lines: plane by plane, row by row (R362). -/
def Main.outLines (m : Main) (c : List Nat) (ps : List (List (List Nat))) : List (List Byte) :=
  let fp16 := bitsOf (c.getD 0 0) 22 22 == 1
  (m.fullPlanes c ps).flatMap fun p =>
    (scalePlane (csW c) (csH c) (csOutW c) (csOutH c) p).flatMap fun r =>
      let bs := r.flatMap (outBytes fp16)
      linesOf (bs.length + 1) bs

/-! ## Statistics (R360, R361) -/

/-- The statistics channel of a pixel: R, Gr, Gb, B by Bayer order and phase. -/
def bayerChan (order phase : Nat) : Nat :=
  ([[0, 1, 2, 3], [1, 0, 3, 2], [2, 3, 0, 1], [3, 2, 1, 0]].getD order []).getD phase 0

/-- The values of statistics channel `h`, with their places. -/
def chanPixels (c : List Nat) (ps : List (List (List Nat))) (h : Nat) : List (Nat × Nat × Nat) :=
  if csYuv c then
    if h = 3 then []
    else (ps.getD h []).zipIdx.flatMap fun r => r.1.zipIdx.map fun v => (if h = 0 then v.2 else 2 * v.2, r.2, v.1)
  else
    (ps.getD 0 []).zipIdx.flatMap fun r =>
      (r.1.zipIdx.filter fun v => bayerChan (csBayer c) (r.2 % 2 * 2 + v.2 % 2) == h).map fun v => (v.2, r.2, v.1)

/-- A histogram: 256 bins, saturating. -/
def histogram (vs : List Nat) : List Nat :=
  (List.range 256).map fun b => min (2 ^ 32 - 1) (vs.countP fun v => v / 256 == b)

/-- A zone entry (Table 16-4). -/
def zoneBytes (c : List Nat) (chans : List (List (Nat × Nat × Nat))) (sat : List (Nat × Nat)) (zx zy : Nat) : List Byte :=
  let inX := fun (x : Nat) => decide (zx * csW c / 32 ≤ x) && decide (x < (zx + 1) * csW c / 32)
  let inY := fun (y : Nat) => decide (zy * csH c / 24 ≤ y) && decide (y < (zy + 1) * csH c / 24)
  let mean := fun (l : List (Nat × Nat × Nat)) =>
    let k := l.filter fun p => inX p.1 && inY p.2.1
    (k.map fun p => p.2.2).sum / max 1 k.length
  let g := fun i => chans.getD i []
  let avgs := if csYuv c then [mean (g 0), mean (g 1), mean (g 2)] else [mean (g 0), mean (g 1 ++ g 2), mean (g 3)]
  avgs.flatMap (leBytes 2) ++ leBytes 2 (min 0xFFFF (sat.countP fun p => inX p.1 && inY p.2))

/-- The frame header (Table 16-5). -/
def camHeader (frame s flags rows tflags ow oh emb idx phase : Nat) : List Byte :=
  leBytes 6 frame ++ leBytes 1 s ++ leBytes 1 flags ++ leBytes 2 rows ++ leBytes 2 tflags ++ leBytes 2 ow ++ leBytes 2 oh
    ++ leBytes 2 emb ++ leBytes 2 idx ++ leBytes 1 phase ++ List.replicate 43 0#8

/-- The statistics record (Table 16-3). -/
def statsRecord (c : List Nat) (header : List Byte) (raw : List (List Nat)) (ps : List (List (List Nat))) (emb : List Byte) :
    List Byte :=
  let chans := (List.range 4).map (chanPixels c ps)
  let satAt := bitsOf (c.getD 0 0) 31 23 * 32
  let sat := raw.zipIdx.flatMap fun r =>
    let px := if csYuv c then (List.range (csW c)).map fun i => r.1.getD (2 * i + 1) 0 else r.1
    (px.zipIdx.filter fun v => decide (satAt ≤ v.1)).map fun v => (v.2, r.2)
  header ++ (chans.flatMap fun l => (histogram (l.map fun p => p.2.2)).flatMap (leBytes 4))
    ++ ((List.range 24).flatMap fun zy => (List.range 32).flatMap fun zx => zoneBytes c chans sat zx zy)
    ++ List.replicate 1984 0#8 ++ emb.take 4096 ++ List.replicate (4096 - emb.length) 0#8

/-! ## Frames -/

/-- Whether the camera runs. -/
def Main.camOn (m : Main) : Bool := m.bit F.CAM_CTL_enable

/-- The enabled logical sensor that a port serves for a virtual channel (R352, R353). -/
def Main.camSensorAt (m : Main) (port vc : Nat) : Option Nat :=
  let on := (List.range 16).filter fun s => m.bit (F.CAM_LS_SRC_enable s) && m.fld (F.CAM_LS_SRC_port s) == port
  let served := if m.bit (F.CAM_PORT_merged port) then on else on.take 1
  if m.camOn && m.bit (F.CAM_PORT_enable port) then served.find? fun s => m.fld (F.CAM_LS_SRC_vc s) == vc else none

/-- The run a lead ward's instance is: its ward, step and round. -/
def Main.runOf (m : Main) (lead : Nat) : Nat × Nat × Nat := (lead, (m.inst lead).step, (m.inst lead).round)

/-- Whether a recorded run still goes on. -/
def Main.runLive (m : Main) (r : Nat × Nat × Nat) : Bool := (m.inst r.1).live && m.runOf r.1 == r

/-- I3C commands held for a frame start of the sensor are freed (R366). -/
def Main.i3cFrame (m : Main) (s : Nat) : Main :=
  { m with cam := { m.cam with i3c := m.cam.i3c.map fun p =>
    (p.1, { p.2 with cmds := p.2.cmds.map fun e => if bitsOf e.word 23 20 = s then { e with freed := true } else e }) } }

/-- A frame closes (R355, R357, R359, R360, R363): missing rows become zeros; its statistics record is written; a claimed frame's
lines wait for their entries. `late` names output lines that found the queue full. -/
def Main.camClose (m : Main) (s : Nat) (short : Bool) (late : List Nat) : Main :=
  let x := m.sensor s
  if !x.inFrame then m
  else
    let c := x.cfg
    let missing := csH c - x.rows.length
    let isShort := short || decide (0 < missing)
    let rows := x.rows ++ List.replicate missing (zeroRow c)
    let (ps, ref) := frontStages c x.ref rows
    let fresh := csTnr c && x.ref.isNone
    let claim := x.claim.filter m.runLive
    let hit := claim.isSome && !late.isEmpty
    let flags := b2n x.bad + 2 * b2n isShort + 4 * b2n x.long + 8 * b2n x.ovf + 16 * b2n hit + 128 * b2n claim.isNone
    let m := if claim.isNone then m.count 0x54 s 1 else m
    let order := ringOrder (m.fld F.CAM_STATS_LO_order) 4 12 6
    let r := m.cam.stats
    let on := m.bit F.CAM_CTL_stats_en
    let full := ringFull order r.head (m.fld F.CAM_STATS_IDX_tail)
    let emb := x.emb.take 4096
    let idx := if on && !full then r.head else 0xFFFF
    let header := camHeader x.frame s flags x.rows.length (b2n fresh) (csOutW c) (csOutH c) emb.length idx (b2n r.phase)
    let m := if !on then m
      else if full then m.count 0x55 0 1
      else
        let m := m.hostWr (m.pair 0xb020 0xb024 14 + r.head * 16384) (statsRecord c header rows (statPlanes c ps) emb)
        let m := { m with cam := { m.cam with stats := ringNext order r } }
        if m.bit F.CAM_CTL_stats_irq then m.raise (m.fld F.CAM_CTL_vector) else m
    let out := claim.map fun (l, st, rd) =>
      ({ lead := l, step := st, round := rd, header := header
         lines := (m.outLines c (statPlanes c ps)).zipIdx.map fun p =>
           if late.contains p.2 then List.replicate 64 0#8 else p.1 } : CamOut)
    let spoilt := isShort || x.ovf || hit
    m.setSensor s { x with
      inFrame := false, rows := [], emb := [], claim := none, out := out.or x.out
      ref := if csTnr c && !spoilt then some ref else none }

/-- CSI_FRAME_START (R354, R362): the frame number grows; the frame is claimed when a CAM_RECV entry waits. -/
def Main.frameStart (m : Main) (port vc : Nat) : Main :=
  match m.camSensorAt port vc with
  | none => m.count 0x53 port 1
  | some s =>
    let m := m.camClose s true []
    let x := m.sensor s
    let wait := x.waiting.filter m.runLive
    let claim := if x.out.isSome then none else wait
    (m.setSensor s { x with
      frame := (x.frame + 1) % 2 ^ 48, cfg := m.camWords s, owner := m.fld (F.CAM_LS_OWNER_pasid s), inFrame := true, line := 0
      rows := [], bad := false, long := false, ovf := false, emb := [], claim := claim
      waiting := if claim.isSome then none else wait }).i3cFrame s

/-- CSI_LONG_PACKET (R351, R355, R357): a line cropped, replaced where its CRC failed, or discarded on overflow; embedded data
kept. -/
def Main.longPacket (m : Main) (port vc dt : Nat) (payload : List Byte) (crcOk full : Bool) : Main :=
  let known := [0x2A, 0x2B, 0x2C, 0x2D, 0x1E, 0x12].contains dt
  match m.camSensorAt port vc with
  | none => m.count 0x53 port 1
  | some s =>
    let x := m.sensor s
    let c := x.cfg
    if !known ∨ (dt ≠ 0x12 ∧ typeDt (csType (m.camWords s)) ≠ some dt) then m.count 0x53 port 1
    else
      let m := if crcOk then m else m.count 0x52 port 1
      if !x.inFrame then m
      else if dt = 0x12 then m.setSensor s { x with emb := x.emb ++ payload }
      else
        let y := x.line
        let x := { x with line := y + 1, ovf := x.ovf || full }
        if y < csY0 c ∨ x.ovf then m.setSensor s x
        else if csY0 c + csH c ≤ y then m.setSensor s { x with long := true }
        else
          let n := x.rows.length
          let row := if crcOk then cropLine c (unpackLine (csType c) payload)
                     else if n < 2 then zeroRow c else x.rows.getD (n - 2) (zeroRow c)
          m.setSensor s { x with rows := x.rows ++ [row], bad := x.bad || !crcOk }

/-- CSI_FRAME_END. -/
def Main.frameEnd (m : Main) (port vc : Nat) (late : List Nat) : Main :=
  match m.camSensorAt port vc with
  | none => m.count 0x53 port 1
  | some s => m.camClose s false late

/-- CSI_HEADER_ERROR (R351): a corrected header, or a discarded packet. -/
def Main.headerError (m : Main) (port : Nat) (corrected : Bool) : Main := m.count (if corrected then 0x50 else 0x51) port 1

/-- CAM_RECV_TIMEOUT (R363): a waiting entry and the rest of its frame's entries receive zero lines, the header flagged absent. -/
def Main.recvTimeout (m : Main) (s : Nat) : Main :=
  let x := m.sensor s
  match x.waiting.filter m.runLive with
  | none => m
  | some (l, st, rd) =>
    let c := m.camWords s
    m.setSensor s { x with
      waiting := none
      out := some { lead := l, step := st, round := rd, absent := true
                    header := camHeader x.frame s 0x20 0 0 (csOutW c) (csOutH c) 0 0xFFFF 0 } }

/-! ## Delivery (R362 to R364) -/

/-- Whether a destination descriptor holds the sensor's output (R364, Table 8-1). -/
def camDstOk (c : List Nat) (t : TensorDesc) : Bool :=
  t.fmtCode == (if bitsOf (c.getD 0 0) 22 22 == 1 then fmtCode .fp16 else fmtCode .uint8)
    && t.dims.getD 0 0 == csOutW c && t.dims.getD 1 0 == csOutH c && t.dims.getD 2 0 == 3 && t.dims.getD 3 1 == 1

/-- A CAM_RECV entry notes that it waits for the first line of a frame. -/
def Main.camWait (m : Main) (lead s : Nat) : Main :=
  let x := m.sensor s
  if (x.out.map fun o => (o.lead, o.step, o.round)) = some (m.runOf lead) ∨ x.claim = some (m.runOf lead) then m
  else m.setSensor s { x with waiting := some (m.runOf lead) }

/-- The next line of a claimed frame goes to a CAM_RECV entry; nothing while the frame is still under way. The last entry writes
the header and ends the claim. -/
def Main.camTake (m : Main) (lead : Nat) (w : SlotWork) : Option Main :=
  match w with
  | .camRecv sn b id dst hdr last =>
    let s := sn.val
    let x := m.sensor s
    match x.out with
    | none => none
    | some o =>
      if (o.lead, o.step, o.round) != m.runOf lead then none
      else
        let i := m.inst lead
        let t := (m.bittingOf i).bind fun bt => bt.tensors.find? fun t => t.id == id
        let shape := match t with
          | some t => camDstOk (if x.cfg.isEmpty then m.camWords s else x.cfg) t
          | none => false
        let ctx := (memberOf i b).map (·.ctx)
        let owner := (ctx.map fun c => (m.ctx c).tenant == (if o.absent then m.fld (F.CAM_LS_OWNER_pasid s) else x.owner)).getD false
        let bad := o.mismatch || !shape || !owner
        let m := if owner || o.mismatch then m else m.faultBerth lead b stProtection 0
        let line := if bad || o.absent then List.replicate 64 0#8 else o.lines.headD (List.replicate 64 0#8)
        let m := m.write dst line
        let head := if bad then o.header.set 7 ((o.header.getD 7 0#8) ||| 0x40#8) else o.header
        let m := if last then m.write hdr head else m
        some (m.setSensor s { x with out := if last then none else some { o with lines := o.lines.drop 1, mismatch := bad } })
  | _ => none

/-- A CAM_RECV entry's turn: a line taken, or the entry waits for one. -/
def Main.camStep (m : Main) (lead : Nat) (w : SlotWork) : Main × Bool :=
  match m.camTake lead w with
  | some n => (n, true)
  | none =>
    match w with
    | .camRecv sn .. => (m.camWait lead sn.val, false)
    | _ => (m, false)

/-! ## Enabling a sensor (R352, R356, R359, R361) -/

/-- Whether a sensor with these words may be enabled beside the others. -/
def Main.camMayEnable (m : Main) (s : Nat) (c : List Nat) : Bool :=
  let others := (List.range 16).filter fun t => t != s && m.bit (F.CAM_LS_SRC_enable t)
  let port := bitsOf (c.getD 0 0) 2 1
  let vc := bitsOf (c.getD 0 0) 6 3
  let mates := others.filter fun t => m.fld (F.CAM_LS_SRC_pipe t) == csPipe c
  let lo := csTnrBase c
  let hi := csTnrBase c + csTnrUnits c
  let refPx := if csYuv c then 2 * csW c * csH c else csW c * csH c
  decide (csType c ≤ 4) && !(others.any fun t => m.fld (F.CAM_LS_SRC_port t) == port && m.fld (F.CAM_LS_SRC_vc t) == vc)
    && decide (mates.length < 4) && decide (csW c ≤ 4096)
    && decide (64 ≤ csW c) && decide (48 ≤ csH c) && csW c % 2 == 0 && csH c % 2 == 0 && csX0 c % 2 == 0 && csY0 c % 2 == 0
    && decide (csOutW c ≤ csW c) && decide (csOutH c ≤ csH c) && decide (csW c ≤ 16 * csOutW c) && decide (csH c ≤ 16 * csOutH c)
    && (!csTnr c || (decide (hi ≤ 64) && decide (refPx ≤ 32768 * csTnrUnits c)
      && !(mates.any fun t => m.bit (F.CAM_LS_TNR_tnr_en t)
          && decide (lo < m.fld (F.CAM_LS_TNR_base t) + m.fld (F.CAM_LS_TNR_units t)) && decide (m.fld (F.CAM_LS_TNR_base t) < hi))))

/-- A write of CAM_LS_SRC (R352, R354): an enable maps the sensor or is refused; a sensor disabled ends its frame short. -/
def Main.lsEnable (m : Main) (s : Nat) (v : Word) : Main :=
  let off := 0xb100 + 0x40 * s
  let was := m.bit (F.CAM_LS_SRC_enable s)
  if v.toNat % 2 = 0 then (m.camClose s true []).setWord off v
  else if m.camMayEnable s (v.toNat :: (m.camWords s).drop 1) then
    let m := m.setWord off v
    if was then m else m.setSensor s { m.sensor s with frame := 0, ref := none, inFrame := false, waiting := (m.sensor s).waiting }
  else m.setFld F.CAM_STATUS_cfg_err 1

/-- Entry to S2 or deeper ends every frame short and makes references invalid (Table 16-8). -/
def Main.camSleep (m : Main) : Main :=
  let m := (List.range 16).foldl (fun m s => if (m.sensor s).inFrame then m.camClose s true [] else m) m
  { m with cam := { m.cam with sensors := m.cam.sensors.map fun p => (p.1, { p.2 with ref := none }), i3c := [] } }

/-- Exit from S1: frames in progress end short, and references stay valid (Table 16-8). -/
def Main.camWake (m : Main) : Main :=
  (List.range 16).foldl (fun (m : Main) s =>
    if (m.sensor s).inFrame then
      let n := m.camClose s true []
      n.setSensor s { n.sensor s with ref := (m.sensor s).ref }
    else m) m

/-! ## I3C (R365, R366) -/

/-- An idle controller. -/
def i3cDef : Nat → I3c := fun _ => {}

/-- A controller. -/
def Main.i3c (m : Main) (c : Nat) : I3c := Tab.get i3cDef m.cam.i3c c

/-- A controller replaced. -/
def Main.setI3c (m : Main) (c : Nat) (x : I3c) : Main := { m with cam := { m.cam with i3c := Tab.put i3cDef c x m.cam.i3c } }

/-- Whether a command waits for a frame start. -/
def Main.i3cHeld (m : Main) (e : I3cEntry) : Bool :=
  bitsOf e.word 19 19 == 1 && !e.freed && m.bit (F.CAM_LS_SRC_enable (bitsOf e.word 23 20))

/-- I3C_CMD: a command queued while an entry is free. -/
def Main.i3cCmd (m : Main) (c : Nat) (v : Word) : Main :=
  let x := m.i3c c
  if m.bit (F.I3C_CTL_enable c) && decide (x.cmds.length < 8) then m.setI3c c { x with cmds := x.cmds ++ [{ word := v.toNat % 2 ^ 24 }] }
  else m

/-- A write of I3C_DATA: four bytes enter the transmit FIFO of 64 as far as it has room. -/
def Main.i3cData (m : Main) (c : Nat) (v : Word) : Main :=
  let x := m.i3c c
  m.setI3c c { x with tx := (x.tx ++ leBytes 4 v.toNat).take 64 }

/-- I3C_CMD_DONE: the oldest command that nothing holds ends; a failure flushes the command FIFO and sets err. -/
def Main.i3cDone (m : Main) (c : Nat) (ok : Bool) (data : List Byte) : Main :=
  let x := m.i3c c
  match x.cmds with
  | [] => m
  | e :: rest =>
    if m.i3cHeld e then m
    else if !ok then (m.setI3c c { x with cmds := [] }).setFld (F.I3C_STAT_err c) 1
    else
      let n := bitsOf e.word 15 8
      if bitsOf e.word 7 7 = 1 then m.setI3c c { x with cmds := rest, rx := (x.rx ++ data.take n).take 64 }
      else m.setI3c c { x with cmds := rest, tx := x.tx.drop n }

/-- I3C_IBI: an in-band interrupt with its payload. -/
def Main.i3cIbi (m : Main) (c addr : Nat) (payload : List Byte) : Main :=
  if !m.bit (F.I3C_CTL_enable c) then m
  else
    let p := payload.take 4
    let m := m.setI3c c { m.i3c c with ibi := p }
    let m := m.setWord (0xbe10 + 0x40 * c) (BitVec.ofNat 32 (addr % 128 + leNat (p.take 3) * 256))
    m.setFld (F.I3C_STAT_ibi c) 1

/-- I3C_HOT_JOIN. -/
def Main.i3cHotJoin (m : Main) (c : Nat) : Main :=
  if m.bit (F.I3C_CTL_enable c) then m.setFld (F.I3C_STAT_hot_join c) 1 else m

end Sys2Proof
end

