-- ==== Sys2Proof/Machine/State.lean ====
section
/-! DEFINITION. The state of the block, its faults and refusals, and the state after reset. -/

namespace Sys2Proof.Machine

/-- The state of the block. -/
structure State where
  pending : List Instr
  free : Nat
  mn : Main
  la : Latch
  rc : ResetCtl
deriving DecidableEq, Repr

/-- Why the block stops with a fault. -/
inductive Fault where
  /-- Raised by the named operation on an address that the spec says does not exist. Safe: no claim holds of what follows. -/
  | badAddress (where_ : String)
deriving DecidableEq, Repr

/-- Why a command is refused. -/
inductive Refusal where
  /-- A command without a meaning yet. Safe. -/
  | notModelled (mnemonic : String)
deriving DecidableEq, Repr

/-- The block right after reset. -/
def State.reset : State := { pending := [], free := 0, mn := {}, la := {}, rc := {} }

end Sys2Proof.Machine
end

