-- ==== Sys2Proof/Machine/Gate.lean ====
section
/-! DEFINITION. Who can be reached when: the host's BAR0, the Warden's side, the Latch island, in every power state and in Latch
mode (spec/22_registers.md R463, spec/20_faults.md R441), and the wake sources (spec/17_power.md R383 to R386). -/

namespace Sys2Proof

/-- The power state: 0 awake, 1 to 4 for S1 to S4 (Table 17-10). A part whose exit from S4 waits for recovery is awake. -/
def Main.sleepState (m : Main) : Nat := if m.wakeHeld then 0 else m.fld F.SLEEP_STATUS_state

/-- An entry, or a wake before its order 8, is in progress. -/
def Main.sleepBusy (m : Main) : Bool := !m.wakeHeld && m.bit F.SLEEP_STATUS_busy

/-- Whether the Latch island is in reset. -/
def ResetCtl.latchHeld (r : ResetCtl) : Bool := r.wait.contains 0xB0 || r.phase == .dead

/-- Whether the Warden is in reset: by a reset under way, or by Latch mode (R441). -/
def ResetCtl.wardenHeld (r : ResetCtl) : Bool :=
  r.latchMode || r.phase == .dead || r.phase == .rails || r.phase == .retryWait || r.phase == .stretch || r.wait.contains 0x90

/-- Whether the host can reach BAR0: the host-link controller released, and not Latch mode, in which every memory request
completes with Unsupported Request (Table 20-4). -/
def ResetCtl.barUp (r : ResetCtl) : Bool := !r.wardenHeld && !r.linkHeld

/-- Codes of the islands of ward `w` (R451). -/
def wardCodes (w : Nat) : List Nat := (0x80 + w) :: (List.range 8).map fun i => 8 * w + i

/-- The islands that take no part in a strike (R451): in reset, clamped by sleep or Latch mode, or fenced and switched off. -/
def Machine.State.absentNow (s : Machine.State) : List Nat :=
  let fenced := (List.range 16).flatMap fun w => if s.mn.fencedWard w && !(s.mn.ward w).powered then wardCodes w else []
  let blk := match s.rc.blk with
    | some (q, .held) | some (q, .waitClock) => if q.isl < 128 then [q.isl] else if q.isl < 0x90 then wardCodes (q.isl - 0x80) else []
    | _ => []
  if s.rc.wardenHeld || s.mn.sleepState != 0 then islandCodes.filter fun c => c != 0xB0 || s.rc.latchHeld
  else
    let waiting := (s.rc.wait.filter fun c => decide (0x80 ≤ c) && decide (c < 0x90)).flatMap fun c => wardCodes (c - 0x80)
    let mcs := s.rc.wait.filter fun c => c == 0xA0 || c == 0xA1
    islandCodes.filter (fenced ++ blk ++ waiting ++ mcs).contains

/-- The state with its list of absent islands brought up to date. -/
def Machine.State.sync (s : Machine.State) : Machine.State := { s with mn := { s.mn with absent := s.absentNow } }

/-- The Warden's side runs: released, awake. Outside it the commands of its engines find nothing to act on. -/
def Machine.State.wardenUp (s : Machine.State) : Bool := !s.rc.wardenHeld && s.mn.sleepState == 0

/-- The state with its Warden side replaced. -/
def Machine.State.onMn (s : Machine.State) (f : Main → Main) : Machine.State := { s with mn := f s.mn }

/-- An effect of the Warden's side: none while it is down. What it powers or fences shows in the islands that are absent. -/
def Machine.State.warden (s : Machine.State) (f : Main → Main) : Machine.State := if s.wardenUp then (s.onMn f).sync else s

/-- LAST_WAKE for a source found from a sleep state (R384). -/
def Main.noteWake (m : Main) (src fromSt aborted : Nat) : Main :=
  let n := m.fld F.LAST_WAKE_count
  let n := if aborted = 0 then satAdd 8 n 1 else n
  m.setWord 0x300c (BitVec.ofNat 32 (src + 16 * fromSt + 128 * aborted + 2 ^ 24 * n))

/-- An entry given up before its clamps (R379): list points, cut-ins and acceptance restart. -/
def Main.sleepAbandon (m : Main) (result : Nat) (blocker : Nat) : Main :=
  let m := ((m.setFld F.SLEEP_STATUS_busy 0).setFld F.SLEEP_STATUS_result result).setFld F.SLEEP_STATUS_blocker blocker
  { m with acceptStop := false, kr := { m.kr with event := true } }

/-- The states in which a wake source counts (Table 17-6). -/
def wakeIn (src st : Nat) : Bool := if src ≤ 2 then decide (2 ≤ st) else decide (1 ≤ st)

/-- Whether a source may wake the part (R383). -/
def Main.wakeEnabled (m : Main) (src : Nat) : Bool :=
  decide (7 ≤ src) || m.fld F.WAKE_EN_enable / 2 ^ (src - 1) % 2 == 1

/-- A wake source is detected (R383 to R386): during an entry, before its clamps, it abandons the entry; in a sleep state it is
recorded and the wake begins; once a wake is under way it is flagged in `also`. An exit from S3 or S4 runs the boot flow. -/
def Machine.State.wakeFrom (s : Machine.State) (src : Nat) : Machine.State :=
  let m := s.mn
  let st := m.sleepState
  if !m.wakeEnabled src || s.rc.wardenHeld then s
  else if st = 0 then
    if m.wakeHeld then { s with mn := m.setFld F.LAST_WAKE_also (m.fld F.LAST_WAKE_also ||| 2 ^ (src - 1)) }
    else if m.sleepBusy then { s with mn := (m.noteWake src 0 1).sleepAbandon 4 0 } else s
  else if !wakeIn src st then s
  else if m.sleepBusy then
    { s with mn := m.setFld F.LAST_WAKE_also (m.fld F.LAST_WAKE_also ||| 2 ^ (src - 1)) }
  else
    let m := (m.noteWake src st 0).setFld F.SLEEP_STATUS_busy 1
    if 3 ≤ st then
      { s with mn := m.setFld F.BOOT_STATUS_stage 1, rc := { s.rc with wakeBoot := true, ready := false, fetching := false } }
    else { s with mn := m }

/-- A host access to a register or doorbell of the Warden's domain: in S1 to S4 it is wake source 4 and has no other effect
(R463). -/
def Machine.State.hostWarden (s : Machine.State) (f : Main → Main) : Machine.State :=
  if !s.rc.barUp then s
  else if s.mn.sleepState = 0 then (s.onMn f).sync
  else s.wakeFrom 4

/-- A host access to the Warden's domain with an effect on the whole state. -/
def Machine.State.hostDo (s : Machine.State) (f : Machine.State → Machine.State) : Machine.State :=
  if !s.rc.barUp then s else if s.mn.sleepState = 0 then f s else s.wakeFrom 4

/-- A host access to a register that the Latch island or the reset controller holds: it takes effect in every power state, and
is wake source 4 in S1 to S4. -/
def Machine.State.hostLatch (s : Machine.State) (f : Machine.State → Machine.State) : Machine.State :=
  if !s.rc.barUp then s else f (if s.mn.sleepState = 0 then s else s.wakeFrom 4)

end Sys2Proof
end

