-- ==== Sys2Proof/Machine/Compress.lean ====
section
/-! DEFINITION. Keyway compress passes (spec/07_keyway.md R165 to R168): the engine's queue, its blocks under hinge H4, its output and
report. -/

namespace Sys2Proof

/-- The modes of a COMPRESS descriptor (Table 12-8); other codes act as auto. -/
def kwModeOf : Nat → KwMode
  | 0 => .coded | 1 => .raw | _ => .auto

/-- Operands of a COMPRESS descriptor (Table 12-8). -/
structure KwOps where
  source : Nat
  dest : Nat
  report : Nat
  elements : Nat
  fmt : Nat
  mode : KwMode
  target : Nat
deriving DecidableEq, Repr

/-- The operands read from the descriptor. -/
def kwOps (d : Desc) : KwOps :=
  { source := d.field 0x10 8, dest := d.field 0x18 8, report := d.field 0x20 8, elements := d.field 0x28 4, fmt := d.field 0x2C 1
    mode := kwModeOf (d.field 0x2D 1), target := d.field 0x2E 2 % 4096 }

/-- Bits of one element of a format code. -/
def codeBits (c : Nat) : Nat := (fmtOfCode c).elim 0 fmtBits

/-- Bytes of the raw tensor. -/
def KwOps.rawBytes (o : KwOps) : Nat := (o.elements * codeBits o.fmt + 7) / 8

/-- Element codes packed in bytes, low bits first (R34). -/
def unpackCodes (bits n : Nat) (bs : List Byte) : List Nat :=
  let x := leNat bs
  (List.range n).map fun i => x / 2 ^ (bits * i) % 2 ^ bits

/-- COMPRESS (R165): the pass joins the engine's queue; a format code that Table 4-3 does not list is refused. -/
def Main.startCompress (m : Main) (c : Nat) : Main :=
  match m.due c 6 with
  | none => m
  | some d =>
    if (fmtOfCode (kwOps d).fmt).isNone then m.setupFail c stPlan 0
    else
      let m := m.updCtx c fun x => { x with busy := true }
      { m with kw := { m.kw with queue := m.kw.queue ++ [{ ctx := c, seq := d.seq, stamp := d.stamp }] } }

/-- Whether a job's descriptor is still its context's oldest. -/
def Main.kwLive (m : Main) (j : KwJob) : Bool :=
  let x := m.ctx j.ctx
  x.busy && (x.head.map (·.seq)) == some j.seq

/-- The element codes of a job's source. -/
def Main.kwSource (m : Main) (j : KwJob) (o : KwOps) : List Nat :=
  unpackCodes (codeBits o.fmt) o.elements (m.tenantRd (m.ctx j.ctx).tenant o.source o.rawBytes)

/-- Blocks of a pass that its tables are found for: none of a format that Keyway does not code, or of a tensor with
a NaN or an infinity (R155, R164). -/
def Main.kwBlocksOf (m : Main) (j : KwJob) (o : KwOps) : List (List Nat) :=
  match fmtOfCode o.fmt with
  | some f =>
    let raws := m.kwSource j o
    if (kwShape f).isNone || raws.any (kwSpecial f) then [] else chunksOf 128 (raws.length / 128 + 1) raws
  | none => []

/-- The request for the next block's table under hinge H4 (Table 13-5). -/
def Main.kwAsk (m : Main) : Main :=
  match m.kw.running with
  | none => m
  | some j =>
    match (m.ctx j.ctx).head with
    | none => m
    | some d =>
      let o := kwOps d
      let k := j.tables.length
      match (m.kwBlocksOf j o)[k]?, (fmtOfCode o.fmt).bind kwShape with
      | some raws, some (mm, e) =>
        let counts := (List.range 256).flatMap fun c => leBytes 1 (countOf c (raws.map (kwExp mm e)))
        m.ask 4 [o.fmt, k] counts j.ctx
      | _, _ => m

/-- COMPRESS_PASS_START (R166, R167): the oldest accepted pass starts when the engine is idle and enabled; hinge H4 takes its
mode. Passes whose context has gone are dropped. -/
def Main.passStart (m : Main) : Main :=
  if m.kw.running.isSome || !m.bit F.KEYWAY_CTL_compress_enable then m
  else
    let q := m.kw.queue.filter m.kwLive
    let m := { m with kw := { m.kw with queue := q } }
    match q with
    | [] => m
    | a :: r =>
      let j := r.foldl (fun a b => if b.stamp < a.stamp then b else a) a
      let m := m.swing 4
      let m := { m with kw := { m.kw with running := some j, queue := q.erase j, assisted := m.assisted 4 } }
      if m.kw.assisted then m.kwAsk else m

/-- A block's table under H4: what host software returned, or the hardware's own (R162); the next block is asked about. -/
def Main.kwTake (m : Main) (block : Nat) (table : Option (List Nat)) : Main :=
  match m.kw.running with
  | none => m
  | some j =>
    match (m.ctx j.ctx).head with
    | none => m
    | some d =>
      let o := kwOps d
      match (m.kwBlocksOf j o)[block]?, (fmtOfCode o.fmt).bind fun f => (kwShape f).map fun s => (f, s) with
      | some raws, some (f, mm, e) =>
        if j.tables.length ≠ block ∨ j.ended then m
        else
          let t := table.getD (kwTable mm e raws)
          if !kwValid f e t then { m with kw := { m.kw with running := some { j with tables := j.tables ++ [(block, t)], ended := true } } }
          else Main.kwAsk { m with kw := { m.kw with running := some { j with tables := j.tables ++ [(block, t)] } } }
      | _, _ => m

/-- COMPRESS_PASS_DONE (R166, R168, R417): the pass writes its output, then its report, and its descriptor completes with the
granules written. A DMA that the host refuses, or one outside the tenant's windows, fails the descriptor. -/
def Main.passDone (m : Main) (refused : Bool) : Main :=
  match m.kw.running with
  | none => m
  | some j =>
    let idle := { m with kw := { m.kw with running := none } }
    match (m.ctx j.ctx).head with
    | none => idle
    | some d =>
      if !m.kwLive j then idle
      else
        let o := kwOps d
        let p := (m.ctx j.ctx).tenant
        let fail := fun (a : Nat) =>
          let k := m.err.next
          ({ (m.logDma j.ctx stProtection 6 a) with kw := { m.kw with running := none } } : Main).setupFail j.ctx stProtection k
        if refused || !m.dmaOk p o.source o.rawBytes then fail o.source
        else if m.kw.assisted && !j.ended && decide (j.tables.length < (m.kwBlocksOf j o).length) then m
        else
          match fmtOfCode o.fmt with
          | none => idle
          | some f =>
            let raws := m.kwSource j o
            let tables := fun b => (j.tables.find? fun t => t.1 == b).map (·.2)
            let r := kwPass f o.mode o.target (m.fld F.KEYWAY_CTL_auto_raw_thresh) tables (m.tenantRd p o.source o.rawBytes) raws
            if !m.dmaOk p o.dest r.output.length then fail o.dest
            else if !m.dmaOk p o.report 32 then fail o.report
            else
              let m := m.tenantWr p o.dest r.output
              let m := m.tenantWr p o.report (kwReport o.target o.fmt m.kw.assisted r)
              let m := { m with kw := { m.kw with running := none, passes := (m.kw.passes + 1) % 2 ^ 32 } }
              m.setupDone j.ctx ((r.output.length + 4095) / 4096)

end Sys2Proof
end

