-- ==== Sys2Proof/Machine/Hinge.lean ====
section
/-! DEFINITION. The service ring and the answers of the hinges (spec/13_hinges.md R293 to R305). Hinge H6 belongs to the Latch
island and is finished there. -/

namespace Sys2Proof

/-! ## Posting (R296, R297) -/

/-- The rings' order (Table 13-9). -/
def Main.svcOrder (m : Main) : Nat := ringOrder (m.fld F.SVC_CTL_order) 4 10 8

/-- A request's payload (Table 13-5). -/
def payload (r : HingeReq) : List Byte :=
  let a := fun i => r.args.getD i 0
  let bs := match r.hinge with
    | 1 => leBytes 4 (a 0)
    | 2 => leBytes 2 (a 0) ++ leBytes 4 (a 1) ++ leBytes 4 (a 2) ++ leBytes 4 (a 3)
    | 3 => leBytes 2 (a 1) ++ leBytes 1 (a 4) ++ leBytes 1 (a 5) ++ leBytes 4 (a 2 / 16) ++ leBytes 1 1 ++ leBytes 1 (a 0)
    | 4 => leBytes 4 (a 0 % 256) ++ leBytes 4 (a 1)
    | 5 => leBytes 4 (a 0 % 65536) ++ leBytes 4 (a 1) ++ leBytes 8 (a 2) ++ leBytes 4 (a 3) ++ leBytes 1 (a 4)
    | 6 => leBytes 4 (a 0 % 256) ++ leBytes 4 (a 1) ++ leBytes 6 (a 2) ++ leBytes 6 (a 3) ++ leBytes 2 (a 4)
    | 7 => leBytes 1 (a 0) ++ leBytes 7 (a 1 % 256) ++ leBytes 8 (a 2)
    | 8 => leBytes 2 (a 0) ++ leBytes 2 (a 1) ++ leBytes 2 (a 2)
    | 9 => leBytes 8 (a 0 % 256) ++ leBytes 8 (a 1) ++ leBytes 4 (a 2) ++ leBytes 4 (a 3) ++ leBytes 4 (a 4)
    | _ => leBytes 8 (a 0 % 65536) ++ leBytes 6 (a 1)
  bs ++ List.replicate (48 - bs.length) 0#8

/-- Table 13-3's 64 bytes. -/
def requestBytes (n : Nat) (r : HingeReq) : List Byte :=
  leBytes 4 n ++ leBytes 1 r.hinge ++ leBytes 1 (b2n (r.hinge == 10) + 2 * b2n (!r.data.isEmpty)) ++ leBytes 2 r.ctx
    ++ leBytes 8 r.step ++ payload r

/-- Whether an H3 request has lapsed: its instance was aborted, widened or reset (Table 13-6). -/
def Main.lapsed (m : Main) (r : HingeReq) : Bool :=
  r.hinge == 3 &&
    (let i := m.inst (r.args.getD 0 0)
     !(i.live && i.handle == r.args.getD 3 0 && r.step == i.step + i.round * 2 ^ 48
        && i.h3Asked.contains (r.args.getD 1 0, r.args.getD 2 0)))

/-- SVC_REQUEST_POST (R297): the oldest request is posted when numbering goes on and its slot is free: its data slot, its record,
its message. -/
def Main.svcPost (m : Main) : Main :=
  match m.hq with
  | [] => m
  | r :: rest =>
    if !m.bit F.SVC_CTL_enable then m
    else
      let s := m.svc
      let last := decide (0xFFFFFFFF < s.nextReq)
      let n := if last then 1 else s.nextReq
      let size := 2 ^ m.svcOrder
      let free := if last then s.out.isEmpty else !(s.out.any fun p => p.1 + size == n)
      if !free then m.setFld F.SVC_STATUS_full 1
      else
        let k := n % size
        let m := m.hostWr (m.pair 0x2020 0x2024 16 + k * 0x10000) r.data
        let m := m.hostWr (m.pair 0x2010 0x2014 12 + k * 64) (requestBytes n r)
        let s := { s with nextReq := n + 1, out := if r.hinge = 10 then s.out else s.out ++ [(n, r)]
                          timedOut := if last then [] else s.timedOut }
        let m := { m with hq := rest, svc := s }
        if m.bit F.SVC_CTL_irq then m.raise (m.fld F.SVC_CTL_vector) else m

/-! ## Answers (R298, R299) -/

/-- The verdicts of a hinge (Table 13-5). -/
def verdictOk (h v : Nat) : Bool := if h = 5 then decide (v ≤ 2) else decide (v ≤ 1)

/-- One answer read: taken for its outstanding request, or ignored with a flag. -/
def Main.readAnswer (m : Main) (a : Nat) : Main :=
  let k := a % 2 ^ m.svcOrder
  let bs := m.host.rdN (hostKey 0 (m.pair 0x2018 0x201c 12 + k * 64)) 64
  let num := leNat ((bs.drop 4).take 4)
  let h := leNat ((bs.drop 8).take 1)
  let m := { m with svc := { m.svc with lastAns := a } }
  match m.svc.out.find? fun p => p.1 == num with
  | none => if m.svc.timedOut.contains num then m.setFld F.SVC_STATUS_late 1 else m.setFld F.SVC_STATUS_bad_answer 1
  | some (_, r) =>
    if r.hinge ≠ h ∨ !verdictOk h (leNat ((bs.drop 9).take 1)) then m.setFld F.SVC_STATUS_bad_answer 1
    else
      let out := m.svc.out.filter fun p => p.1 != num
      if m.lapsed r then { m.setFld F.SVC_STATUS_late 1 with svc := { m.svc with out := out } }
      else
        let slot := if h = 1 then m.host.rdN (hostKey 0 (m.pair 0x2020 0x2024 16 + num % 2 ^ m.svcOrder * 0x10000 + 0xC000)) 0x4000 else []
        { m with svc := { m.svc with out := out, answers := m.svc.answers ++ [(num, r, bs ++ slot)] } }

/-- The number after an answer number: 0 is skipped. -/
def nextAnswer (a : Nat) : Nat := if a = 0xFFFFFFFF then 1 else a + 1

/-- Answers read in number order up to one, at most a ring of them. -/
def Main.readAnswers (m : Main) (upTo : Nat) : Nat → Main
  | 0 => m
  | f + 1 => if m.svc.lastAns = upTo then m else Main.readAnswers (m.readAnswer (nextAnswer m.svc.lastAns)) upTo f

/-- How far an answer number lies ahead of the last one read. -/
def answerAhead (last v : Nat) : Nat := if last ≤ v then v - last else v + 0xFFFFFFFF - last

/-- SVC_DB_WRITE (R298): answers read up to the number written; a number more than a ring ahead, and any write while the ring is
disabled (R305), read nothing. -/
def Main.svcDb (m : Main) (v : Word) : Main :=
  let a := v.toNat
  let n := answerAhead m.svc.lastAns a
  if !m.bit F.SVC_CTL_enable ∨ a = 0 ∨ 2 ^ m.svcOrder < n then m else m.readAnswers a n

/-- The answer read for a request of a hinge, taken away; a service-ring answer is an event of R230. -/
def Main.takeAnswer (m : Main) (h num : Nat) : Option (Main × HingeReq × List Byte) :=
  (m.svc.answers.find? fun p => p.1 == num && p.2.1.hinge == h).map fun p =>
    ({ m with svc := { m.svc with answers := m.svc.answers.filter fun q => q.1 != num }, kr := { m.kr with event := true } },
     p.2.1, p.2.2)

/-- An answer's verdict. -/
def verdict (bs : List Byte) : Nat := leNat ((bs.drop 9).take 1)

/-! ## H1 and H2: the list -/

/-- The instances of an H1 answer: handle, mask, contexts (Table 13-5). -/
def h1Instances : Nat → List Byte → List (Nat × Nat × List Nat)
  | 0, _ => []
  | n + 1, bs =>
    let k := leNat ((bs.drop 4).take 2)
    let cs := (List.range k).map fun i => leNat ((bs.drop (8 + 2 * i)).take 2)
    (leNat (bs.take 2), leNat ((bs.drop 2).take 2), cs) :: h1Instances n (bs.drop (8 + (2 * k + 7) / 8 * 8))

/-- R236: the list built from host software's instances, or by the hardware. -/
def Main.h1Take (m : Main) (given : Option (List (Nat × Nat × List Nat))) : Main :=
  if !m.kr.h1Wait then m
  else
    let m := { m with kr := { m.kr with h1Wait := false, event := true } }
    match given with
    | none => m.listAll
    | some l =>
      let js := l.filterMap fun g =>
        (m.stored.find? fun q => q.1 == g.1 && q.2.2.mask == g.2.1).map fun q =>
          ({ model := q.2.2.modelKey, mask := g.2.1, round := 0, given := some (g.1, g.2.2) } : Job)
      Main.goBuild { m with kr := { m.kr with jobs := js } }

/-- R217: the victims host software named, checked against R212 and dropped in order until the need is met; the requester
reserves or parks, and the list goes on. -/
def Main.h2Take (m : Main) (victims : List Nat) : Main :=
  match m.kr.h2Wait with
  | none => m
  | some (c, n) =>
    let m := { m with kr := { m.kr with h2Wait := none, event := true } }
    let x := m.ctx c
    if x.cause ≠ .serviceWait then m.goBuild
    else
    let m := m.setCtx c { x with
      state := if x.state = .residentBlocked then .residentRunning else if x.state = .swappedBlocked then .swappedRunnable else x.state
      cause := .none }
    let x := m.ctx c
    match m.kr.build.bind fun b => ((m.plan b.handle).bitting.map fun bt => (b, bt)) with
    | none => m.park c
    | some (b, bt) =>
      let need := x.need bt x.berthNo n
      let inst := b.cut.map (·.1)
      let m := victims.foldl (fun (m : Main) (v : Nat) =>
        if need ≤ (m.usablePages x.tenant).length ∨ !m.eligible c need inst v then m else m.dropTop v c) m
      let us := m.usablePages x.tenant
      let m := if need ≤ us.length then
          let m := m.reserve c (us.take need)
          { m with kr := { m.kr with build := some { b with got := b.got ++ [(c, n, us.take need)] } } }
        else m.park c
      m.goBuild

/-! ## H3 to H5, H8 and H9 -/

/-- R111: a group's scale byte arrives, or the hardware's is taken. -/
def Main.h3Take (m : Main) (r : HingeReq) (scale : Option Nat) : Main :=
  let lead := r.args.getD 0 0
  if m.lapsed r then m
  else
    let i := m.inst lead
    m.setInst lead { i with h3Scales := (r.args.getD 1 0, r.args.getD 2 0, scale.getD (r.args.getD 6 127)) :: i.h3Scales }

/-- R144, R147: where a refetch granule comes from, or its region poisoned. -/
def Main.h5Take (m : Main) (r : HingeReq) (v : Nat) (addr pasid : Nat) : Main :=
  let k := r.args.getD 0 0
  let x := m.region k
  match x.refetch with
  | (g, tries, _) :: _ =>
    if x.st ≠ .held ∨ g ≠ r.args.getD 1 0 ∨ tries + 1 ≠ r.args.getD 4 0 ∨ x.source.isSome then m
    else if v = 2 then m.poison k g tries
    else m.setRegion k { x with source := some (if v = 1 then (addr, pasid) else (x.golden + 4096 * g, x.pasid)) }
  | [] => m

/-- R245: a switch goes, or is dropped. -/
def Main.h8Take (m : Main) (r : HingeReq) (go : Bool) : Main :=
  let c := r.args.getD 0 0
  match m.kr.switches.find? fun s => s.ctx == c && !s.go with
  | none => m
  | some _ =>
    let m := m.updCtx c fun x => if x.cause = .serviceWait then { x with state := .swappedRunnable, cause := .none } else x
    if go then m.updSwitch c fun s => { s with go := true } else m.dropSwitch c

/-- R302, R423: a range is scrubbed now, or deferred and posted again at the next list point. -/
def Main.h9Take (m : Main) (r : HingeReq) (now : Bool) : Main :=
  if !now then { m with h9Defer := m.h9Defer ++ [r.args] }
  else if r.args.getD 0 0 = 2 then
    match m.kr.switches.find? fun s => s.ctx == r.args.getD 5 0 && s.zeroWait with
    | some s => m.zeroAndRestore s
    | none => m
  else
    let b := r.args.getD 1 0 / 0x10000
    let n := r.args.getD 2 0
    { m with scrubWant := m.scrubWant.map fun p => if b ≤ p.1 ∧ p.1 < b + n then (p.1, true) else p }

/-! ## Timeouts (R300) -/

/-- The timeout outcome of a request (Table 13-5). H6 is the Latch island's. -/
def Main.hingeDefault (m : Main) (r : HingeReq) : Main :=
  match r.hinge with
  | 1 => m.h1Take none
  | 2 => m.h2Take []
  | 3 => m.h3Take r none
  | 4 => m.kwTake (r.args.getD 1 0) none
  | 5 => m.h5Take r 0 0 0
  | 7 => m.h7Take none
  | 8 => m.h8Take r true
  | 9 => m.h9Take r true
  | _ => m

/-- A request's timeout: counted, and acted on. -/
def Main.hingeExpire (m : Main) (r : HingeReq) : Main :=
  if r.hinge = 10 then m else (m.count 0x34 r.hinge 1).hingeDefault r

/-- HINGE_TIMEOUT (R300): an outstanding request, or with number 0 the oldest one not yet posted, times out. Answers the request
with the machine. -/
def Main.hingeTimeout (m : Main) (num : Nat) : Main × Option HingeReq :=
  if num = 0 then
    match m.hq with
    | r :: rest => (Main.hingeExpire { m with hq := rest } r, some r)
    | [] => (m, none)
  else
    match m.svc.out.find? fun p => p.1 == num with
    | some (_, r) =>
      (Main.hingeExpire { m with svc := { m.svc with
        out := m.svc.out.filter fun p => p.1 != num, timedOut := m.svc.timedOut ++ [num] } } r, some r)
    | none => (m, none)

/-- Every request outstanding or waiting takes its timeout outcome at once (R305). Answers the requests with the machine. -/
def Main.svcDrain (m : Main) : Main × List HingeReq :=
  let rs := m.svc.out.map (·.2) ++ m.hq
  (rs.foldl Main.hingeExpire { m with hq := [], svc := { m.svc with out := [], timedOut := m.svc.timedOut ++ m.svc.out.map (·.1) } }, rs)

/-- The requests that wait, each given its timeout outcome in turn; one may raise another. -/
def Main.lapseAll : Nat → Main → Main
  | 0, m => m
  | f + 1, m =>
    match m.hq with
    | [] => m
    | r :: rest => Main.lapseAll f (Main.hingeExpire { m with hq := rest } r)

/-- R305: while SVC_CTL.enable is clear nothing is posted: a request that an effect has raised since `m` takes its timeout outcome at
once. -/
def Main.lapseNew (n m : Main) : Main :=
  if m.hq.length < n.hq.length && !n.bit F.SVC_CTL_enable then Main.lapseAll (n.hq.length + n.ctxs.length + 64) n else n

/-- SVC_ENABLE_CLEAR (R305): a write that clears SVC_CTL.enable. -/
def Main.svcClear (m : Main) : Main × List HingeReq := (m.setFld F.SVC_CTL_enable 0).svcDrain

/-- A write of SVC_CTL (R296, R306): numbering starts when enable goes from 0 to 1; order is ignored while enable is set. -/
def Main.svcCtlWrite (m : Main) (v : Word) : Main × List HingeReq :=
  let was := m.bit F.SVC_CTL_enable
  let on := F.SVC_CTL_enable.of v == 1
  let m := (m.setFld F.SVC_CTL_irq (F.SVC_CTL_irq.of v)).setFld F.SVC_CTL_vector (F.SVC_CTL_vector.of v)
  let m := if was then m else m.setFld F.SVC_CTL_order (F.SVC_CTL_order.of v)
  if was && !on then m.svcClear
  else if !was && on then ({ m.setFld F.SVC_CTL_enable 1 with svc := {} }, [])
  else (m, [])

/-- HINGE_CTL_WRITE (R295): the modes wanted are written; those whose function stands at its point of effect swing now. -/
def Main.hingeCtl (m : Main) (v : Word) : Main := (m.setFld F.HINGE_CTL_assist (F.HINGE_CTL_assist.of v)).settle

end Sys2Proof
end

