-- ==== Sys2Proof/Machine/Power.lean ====
section
/-! DEFINITION. Levels and heat (spec/17_power.md R369 to R373, spec/12_host_interface.md R290), and entry to sleep (R374 to
R382). -/

namespace Sys2Proof

/-! ## Levels and heat -/

/-- An unlisted island: no thermal limit, temperature 0. -/
def thermDef : Nat → Therm := fun _ => {}

/-- An island's heat. -/
def Main.thermOf (m : Main) (code : Nat) : Therm := Tab.get thermDef m.therm code

/-- The ward of a cylinder or ring island. -/
def islandWard (code : Nat) : Option Nat := if code < 128 then some (code / 8) else if code < 0x90 then some (code - 0x80) else none

/-- The running Frame Lane of an island (R370). -/
def Main.islandLane (m : Main) (code : Nat) : Option Nat :=
  match islandWard code with
  | none => none
  | some w =>
    match (m.ward w).lane with
    | some l => if (m.lane l).st = .running ∨ (m.lane l).st = .stopping then some l else none
    | none => none

/-- The level an island runs at (R370): the slower of the cap in force and its thermal level; a running lane's own. -/
def Main.islandLevel (m : Main) (code : Nat) : Nat :=
  match m.islandLane code with
  | some l => (m.lane l).level
  | none => max m.capNow (m.thermOf code).lvl

/-- A change of the cap in force: lanes meet it under R255, and it is an event of R230. -/
def Main.capChanged (m : Main) (before : Nat) : Main :=
  let m := m.throttleLanes
  if m.capNow = before then m else { m with kr := { m.kr with event := true } }

/-- PLEVEL_CAP_WRITE (R290): the cap is written. -/
def Main.capWrite (m : Main) (v : Word) : Main :=
  (m.setWord 0x3000 (maskMerge 0x3F (m.word 0x3000) v)).capChanged m.capNow

/-- THROTTLE_N changes (R290). -/
def Main.throttlePin (m : Main) (on : Bool) : Main := (m.setFld F.PLEVEL_CTL_throttle_pin (b2n on)).capChanged m.capNow

/-- Whether an island has levels: cylinders, ward rings and the Warden (R369). -/
def levelled : Island → Bool
  | .cyl _ => true
  | .ward _ => true
  | .warden => true
  | _ => false

/-- The alert of R373: THERM_STATUS.alert and the message. -/
def Main.alert (m : Main) : Main :=
  let m := m.setFld F.THERM_STATUS_alert 1
  if m.bit F.THERM_CTL_irq then m.raise (m.fld F.THERM_CTL_vector) else m

/-- An island's new temperature. -/
def Main.setTemp (m : Main) (code : Nat) (t : Int) : Main :=
  { m with therm := Tab.put thermDef code { m.thermOf code with temp := t } m.therm }

/-- THERMAL_LEVEL_STEP (R373): above limit the thermal level falls one step; hyst degrees below limit it rises one step. An
island of a running lane is never lowered; alert is set instead. -/
def Main.thermStep (m : Main) (isl : Island) (t : Int) : Main :=
  if !levelled isl then m
  else
    let code := islandCode isl
    let m := m.setTemp code t
    let x := m.thermOf code
    let limit : Int := m.fld F.THERM_CTL_limit
    let hyst : Int := (let h := m.fld F.THERM_CTL_hyst; if h = 0 then 5 else h)
    if limit < t then
      if (m.islandLane code).isSome then m.setFld F.THERM_STATUS_alert 1
      else { m with therm := Tab.put thermDef code { x with lvl := min 5 (x.lvl + 1) } m.therm }
    else if t ≤ limit - hyst then { m with therm := Tab.put thermDef code { x with lvl := x.lvl - 1 } m.therm }
    else m

/-- THERMAL_ALERT (R373): an island, or while asleep the die, at or above alert. -/
def Machine.State.thermAlert (s : Machine.State) (isl : Island) (t : Int) : Machine.State :=
  if t < (s.mn.fld F.THERM_CTL_alert : Int) then s
  else
    let s := if levelled isl && s.wardenUp then s.onMn fun m => m.setTemp (islandCode isl) t else s
    let s := { s with la := { s.la with alertPin := true } }
    let s := if s.rc.wardenHeld then s.onMn fun m => m.setFld F.THERM_STATUS_alert 1 else s.onMn Main.alert
    s.wakeFrom 8

/-! ## Entry (R378, R379) -/

/-- The block that refuses a target, lowest code first (Table 17-5). -/
def Main.sleepRefuse (m : Main) (target : Nat) : Option Nat :=
  let lane := (List.range 4).find? fun l => (m.lane l).st == .running || (m.lane l).st == .stopping
  match lane with
  | some l => some (0xA0 + l)
  | none => if target = 4 ∧ (m.regions.any fun p => p.2.st == .loading) then some 0xB0 else none

/-- The blocks that delay an entry, lowest code first (Table 17-5). -/
def Main.sleepDelays (m : Main) (blkBusy : Option Nat) : List Nat :=
  let wards := (List.range 16).filter fun w => (m.instOn w).isSome || blkBusy == some w
  let copy := m.ctxs.any fun p => p.2.busy && (p.2.head.any fun d => d.opcode == 2)
  let load := m.regions.any fun p =>
    (p.2.st == .loading && !p.2.openOnly) || !p.2.refetch.isEmpty || (p.2.st == .free && p.2.ctx.isSome)
  wards.map (0x80 + ·)
    ++ (if m.kr.switches.any fun k => k.started then [0x90] else [])
    ++ (if load || copy then [0xB0] else [])
    ++ (if m.kw.running.isSome then [0xB1] else [])
    ++ (if m.svc.out.isEmpty then [] else [0xB2])
    ++ (if m.lz.phase != .idle || (m.insts.any fun p => p.2.live && p.2.chained) then [0xB3] else [])
    ++ (if m.log.pipe.isEmpty && !(m.ctxs.any fun p => !p.2.reading.isEmpty) then [] else [0xB4])

/-- The ward a block reset in progress or queued holds up (Table 17-8). -/
def ResetCtl.blkWard (r : ResetCtl) : Option Nat :=
  let q := (r.blk.map (·.1)).or r.queue.head?
  q.bind fun q => islandWard q.isl

/-- SLEEP_GO (R378): a permitted go stops acceptance and polls every block; one that refuses ends the entry. -/
def Machine.State.sleepGo (s : Machine.State) (v : Word) : Machine.State :=
  let m := s.mn
  let t := F.SLEEP_CTL_target.of v
  if m.sleepBusy || m.wakeHeld || m.sleepState != 0 || t == 0 || decide (4 < t) || (t == 3 && !m.bit F.SLEEP_IMG_enable) then
    { s with mn := m.setFld F.SLEEP_STATUS_result 5 }
  else
    let m := m.setWord 0x3004 (maskMerge 0xffff07 (m.word 0x3004) v)
    let m := ((m.setFld F.SLEEP_STATUS_busy 1).setFld F.SLEEP_STATUS_result 0).setFld F.SLEEP_STATUS_blocker 0
    let m := { m with acceptStop := true }
    match m.sleepRefuse t with
    | some b => { s with mn := m.sleepAbandon 2 b }
    | none => { s with mn := m }

/-- SLEEP_ENTRY_TIMEOUT (R379). -/
def Machine.State.sleepTimeout (s : Machine.State) : Machine.State :=
  if !s.mn.sleepBusy || s.mn.sleepState != 0 then s
  else match s.mn.sleepDelays s.rc.blkWard with
    | [] => s
    | b :: _ => { s with mn := s.mn.sleepAbandon 3 b }

/-- Table 17-4, order 4: every resident context is saved. -/
def Main.saveAll (m : Main) : Main :=
  let rs := (m.ctxs.filter fun p => p.2.resident).map (·.1)
  rs.foldl (fun (m : Main) c => (m.updCtx c fun x => { x with evict := true }).saveComplete c 0 none) m

/-- The rails that stay enabled in a sleep state (Table 23-2). -/
def railsIn (st : Nat) : List Nat := if st ≤ 2 then [0, 1, 2, 3, 4] else if st = 3 then [4] else []

/-- Table 17-4, orders 4 to 9: residents saved from S2 on, the camera stopped, the domains switched off. -/
def Machine.State.enterSleep (s : Machine.State) (t : Nat) : Machine.State :=
  let m := if 2 ≤ t then s.mn.saveAll else s.mn
  let m := if 2 ≤ t then m.camSleep else m
  let m := ((m.setFld F.SLEEP_STATUS_state t).setFld F.SLEEP_STATUS_busy 0).setFld F.SLEEP_STATUS_result 1
  let rc := { s.rc with enables := railsIn t, pgs := railsIn t, retLost := false }
  let rc := if 3 ≤ t then { rc with imem := none, ready := false, linkUp := false } else rc
  ({ s with mn := m, rc := rc } : Machine.State).sync

end Sys2Proof
end

