-- ==== Sys2Proof/Machine/Listening.lean ====
section
/-! DEFINITION. The wake cascade, its streams and the hasp across power states (spec/15_listening.md R333 to R348, R476). -/

namespace Sys2Proof
open Machine

/-! ## Where the Latch island stands -/

/-- Group 1 is stopped in S3, S4 and Latch mode (R329). -/
def Machine.State.g1Off (s : State) : Bool := s.rc.latchMode || decide (3 ≤ s.mn.sleepState)

/-- The state a stage 1 pass records (Table 15-5): 5 in Latch mode. -/
def Machine.State.passState (s : State) : Nat := if s.rc.latchMode then 5 else s.mn.sleepState

/-- An effect of the Latch island: none while it is in reset. -/
def Machine.State.latch (s : State) (f : State → State) : State := if s.rc.latchHeld then s else f s

/-- The Latch island replaced. -/
def Machine.State.onLa (s : State) (f : Latch → Latch) : State := { s with la := f s.la }

/-- Outputs and paths brought up to date after a change of power state or mode. -/
def Machine.State.redrive (s : State) : State := s.onLa fun a => a.redrive s.g1Off

/-! ## Records to the wake ring (R343, R476) -/

/-- Base and order of an audio ring: 0 wake records, 1 wake stream, 2 and 3 the captures (Table 15-12). -/
def Latch.ring (a : Latch) (i : Nat) : Nat × Nat :=
  ((a.word (0xa050 + 0x10 * i)).toNat / 4096 * 4096 + (a.word (0xa054 + 0x10 * i)).toNat * 2 ^ 32,
   ringOrder (a.fld (F.ARING_LO_order i)) 4 16 6)

/-- Whether the part can write an audio ring now: the host link up, awake, not Latch mode. -/
def Machine.State.ringDma (s : State) : Bool := s.rc.barUp && s.mn.sleepState == 0

/-- Records of the Latch FIFO copied to the wake ring, in order, while it has room. -/
def Machine.State.copyRecords : Nat → State → State
  | 0, s => s
  | n + 1, s =>
    let a := s.la
    let (base, order) := a.ring 0
    match a.fifo with
    | [] => s
    | r :: rest =>
      if !s.ringDma || !s.rc.linkUp || !a.bit (F.ARING_CTL_running 0) || a.sdio.io2
          || ringFull order a.wakeRing.head (a.fld (F.ARING_IDX_tail 0)) then s
      else
        let m := s.mn.hostWr (base + a.wakeRing.head * 32) (recordOf r a.wakeRing.phase)
        let m := if a.bit F.WAKE_CFG_irq then m.raise (a.fld F.WAKE_CFG_vector) else m
        State.copyRecords n { s with mn := m, la := { a with fifo := rest, wakeRing := ringNext order a.wakeRing } }

/-- Every record that can be copied now. -/
def Machine.State.drainRecords (s : State) : State := State.copyRecords s.la.fifo.length s

/-! ## Candidates -/

/-- Ward 0 switched off after stage 2; in S3 and S4 its rail goes (R482). -/
def Machine.State.ward0Off (s : State) : State :=
  let s := s.onLa fun a => { a with w0On := false }
  if 3 ≤ s.mn.sleepState then
    { s with rc := { s.rc with enables := s.rc.enables.filter (· != 1), pgs := s.rc.pgs.filter (· != 1) } }
  else s

/-- The open candidate ends with an outcome; outcome 0 is stage 3, which in S2 to S4 wakes the part and asserts WAKE#
(R338). -/
def Machine.State.endCand (s : State) (outcome score2 wflags : Nat) : State :=
  let s := (s.onLa fun a => a.closeCand outcome score2 wflags).ward0Off
  let s := if outcome = 0 ∧ 2 ≤ s.mn.sleepState ∧ !s.rc.latchMode then
      (s.onLa fun a => { a with wakePin := true }).wakeFrom 6
    else s
  s.drainRecords

/-- Table 15-2, awake: stage 3 at once, or host software's verdict under H6 (R339), which a disabled service ring
gives up at once (R305). -/
def Machine.State.awakePass (s : State) (c : Cand) : State :=
  let m := s.mn.swing 6
  if m.assisted 6 && !m.bit F.SVC_CTL_enable then State.endCand { s with mn := m.count 0x34 6 1 } 0 0x8000 4
  else if m.assisted 6 then
    { s with mn := m.ask 6 [1, c.number, c.rep, c.last, c.score1] []
             la := { s.la with cand := some { c with st := .verdict } } }
  else State.endCand { s with mn := m } 0 0x8000 0

/-- Table 15-2, S2 to S4: stage 2, or stage 3 on stage 1 alone where ward 0 is fenced or the image is bad. -/
def Machine.State.sleepPass (s : State) (c : Cand) : State :=
  if s.mn.fencedWard 0 || s.la.bit F.WAKE_STATUS_image_bad then s.endCand 0 0x8000 1
  else
    let s := s.onLa fun a => { a with cand := some { c with st := .stage2 }, w0On := true }
    if 3 ≤ s.mn.sleepState then { s with rc := { s.rc with enables := 1 :: s.rc.enables.filter (· != 1) } } else s

/-- A candidate has passed stage 1 (R332, R335): the spool starts, and the state at the pass decides. -/
def Machine.State.passed (s : State) (c : Cand) : State :=
  let c := { c with state := s.passState }
  let s := s.onLa fun a => ({ a with cand := some c } : Latch).startSpool c.first
  match s.passState with
  | 0 => s.awakePass c
  | 1 => (s.onLa fun a => { a with cand := some { c with st := .awaitAwake } }).wakeFrom 6
  | 5 => s.endCand 0 0x8000 0
  | _ => s.sleepPass c

/-- A candidate that passed in S1 is decided once the part is awake (Table 15-2). -/
def Machine.State.nowAwake (s : State) : State :=
  match s.la.cand with
  | some c => if c.st = .awaitAwake then s.awakePass c else s
  | none => s

/-- An H6 request that a sleep entry overtakes lapses (R339): the candidate takes the row of the sleep state. -/
def Machine.State.lapseH6 (s : State) : State :=
  match s.la.cand with
  | some c =>
    if c.st ≠ .verdict then s
    else
      let m := s.mn
      let m := { m with hq := m.hq.filter fun r => r.hinge != 6
                        svc := { m.svc with out := m.svc.out.filter fun p => p.2.hinge != 6 } }
      let s := { s with mn := m }
      if s.mn.sleepState = 1 then s.onLa fun a => { a with cand := some { c with st := .awaitAwake } } else s.sleepPass c
  | none => s

/-- The verdict of H6, or its timeout (R339). -/
def Machine.State.h6Take (s : State) (r : HingeReq) (proceed timeout : Bool) : State :=
  match s.la.cand with
  | some c =>
    if c.st = .verdict ∧ c.number = r.args.getD 1 0 then s.endCand (if proceed then 0 else 2) 0x8000 (if timeout then 4 else 2)
    else s
  | none => s

/-- What SDIO function 2 flags after an effect: a block became ready (Table 22-8). -/
def Machine.State.flagBlocks (s : State) (before : Nat) : State :=
  if before < s.la.sdio.stream.full.length then s.onLa fun a => { a with sdio := { a.sdio with int2 := a.sdio.int2 ||| 2 } } else s

/-- WAKE_FRAME (R330 to R334): 10 ms of audio: both groups' sample sets, the wake pair's 160 pairs, stage 0's judgement and the
scores stage 1 reports. -/
def Machine.State.wakeFrame (s : State) (pairs : List (Nat × Nat)) (g0 g1 : List (List Nat)) (voice : Bool)
    (scores : List (Nat × Nat)) : State :=
  let blocks := s.la.sdio.stream.full.length
  let a := s.la
  let a := if a.pathOn s.g1Off 0 then a.groupFrame 0 g0 else a
  let a := if a.pathOn s.g1Off 1 then a.groupFrame 1 g1 else a
  let frame := a.wake.next / 160
  let a := if a.wakeOn then Latch.stage1 scores ((a.wakeSamples pairs).stage0 frame voice) else a
  let was := (s.la.cand.map fun c => decide (c.st = .verdict)).getD false
  let s := State.flagBlocks { s with la := a } blocks
  match a.cand with
  | some c => if c.st = .verdict ∧ !was then s.passed c else s
  | none => s

/-- KW_WINDOW_EXPIRY (R334). -/
def Machine.State.kwExpiry (s : State) : State :=
  match s.la.cand with
  | some c =>
    if c.st = .stage1 ∧ c.first / 160 + s.la.kwWindow ≤ c.next then
      s.onLa fun a => { a.closeCand 1 0x8000 0 with kwReject := satAdd 48 a.kwReject 1 }
    else s
  | none => s

/-- The last wake sample number of a candidate's verifier budget (R336): 0 acts as 40 frames. -/
def Latch.budgetEnd (a : Latch) (c : Cand) : Nat := c.last + 1 + (let b := a.fld F.VERIFY_CFG_budget; if b = 0 then 40 else b) * 160

/-- An FP32 score in Q7.8, saturating (Table 15-3); NaN has none. -/
def scoreQ78 (w : Word) : Option Nat :=
  let cut := fun (i : Int) => ((max (-32768) (min 32767 i)) % 65536).toNat
  match f32Val w with
  | .nan => none
  | .inf n => some (cut (if n then -32768 else 32767))
  | .fin n m e => some (cut (roundInt n m (e + 8)))

/-- VERIFY_SCORE (R336): the score in Q7.8 against the threshold. `other` stands for the value of a NaN. -/
def Machine.State.verifyScore (s : State) (score : Word) (other : Nat) : State :=
  match s.la.cand with
  | some c =>
    if c.st ≠ .stage2 ∨ !s.la.w0On ∨ s.la.budgetEnd c < s.la.wake.next ∨ !s.rc.pgs.contains 1 then s
    else
      let q := (scoreQ78 score).getD (other % 65536)
      s.endCand (if q78 (s.la.fld F.VERIFY_CFG_thresh) ≤ q78 q then 0 else 1) q 0
  | none => s

/-- VERIFY_BUDGET_EXPIRY (R336): outcome 4. -/
def Machine.State.verifyExpiry (s : State) : State :=
  match s.la.cand with
  | some c => if c.st = .stage2 ∧ s.la.budgetEnd c ≤ s.la.wake.next then s.endCand 4 0x8000 0 else s
  | none => s

/-- VERIFIER_GRANULE_FAIL (R336): outcome 5, image_bad set. -/
def Machine.State.granuleFail (s : State) : State :=
  match s.la.cand with
  | some c => if c.st = .stage2 then (s.onLa fun a => a.setFld F.WAKE_STATUS_image_bad 1).endCand 5 0x8000 0 else s
  | none => s

/-! ## Streams (R341, R476) -/

/-- Number of an audio ring. -/
def ringNo : ARing → Nat
  | .wake => 0 | .stream => 1 | .capture0 => 2 | .capture1 => 3

/-- The stream of an audio ring. -/
def Latch.streamOf (a : Latch) : ARing → AStream
  | .stream => a.stream | .capture0 => a.cap0 | .capture1 => a.cap1 | .wake => {}

/-- A stream replaced. -/
def Latch.setStream (a : Latch) (r : ARing) (x : AStream) : Latch :=
  match r with
  | .stream => { a with stream := x }
  | .capture0 => { a with cap0 := x }
  | .capture1 => { a with cap1 := x }
  | .wake => a

/-- Channels of a stream's blocks, and its source code (Table 15-4). -/
def Latch.streamKind (a : Latch) : ARing → Nat × Nat
  | .capture0 => (a.mics 0, 1) | .capture1 => (a.mics 1, 2) | _ => (2, 0)

/-- The oldest waiting block of a stream written to its ring; none while the ring is full. -/
def Machine.State.writeBlock (s : State) (r : ARing) : State :=
  let a := s.la
  let x := a.streamOf r
  let (base, order) := a.ring (ringNo r)
  match x.full with
  | [] => s
  | b :: rest =>
    if !s.ringDma || ringFull order x.ring.head (a.fld (F.ARING_IDX_tail (ringNo r))) then s
    else
      let (ch, src) := a.streamKind r
      let m := s.mn.hostWr (base + x.ring.head * 4096) (blockBytes ch src x.ring.phase b)
      let a := a.setStream r { x with full := rest, ring := ringNext order x.ring }
      { s with mn := m, la := if r = .stream then a.pumpAll else a }

/-- A stream's start (R341): the spool first. A wake stream is refused while SDIO streams (R476). -/
def Machine.State.streamStart (s : State) (r : ARing) : State :=
  match r with
  | .wake => (s.onLa fun a => a.setFld (F.ARING_CTL_running 0) 1).drainRecords
  | .stream =>
    if s.la.sdio.stream.running then s.onLa fun a => a.setFld F.WAKE_STATUS_cfg_err 1
    else s.onLa fun a => ({ a with stream := { a.stream with running := true } } : Latch).pumpAll
  | _ => s.onLa fun a => a.setStream r { a.streamOf r with running := true }

/-- A stream that has stopped: its partial block waits to be written. -/
def AStream.stop (x : AStream) : AStream := { x with running := false, part := none, full := x.full ++ x.part.toList }

/-- A stream's stop: the partial block is written out. -/
def Machine.State.streamStop (s : State) (r : ARing) : State :=
  match r with
  | .wake => s.onLa fun a => a.setFld (F.ARING_CTL_running 0) 0
  | _ =>
    if !(s.la.streamOf r).running then s
    else
      let s := s.onLa fun a => a.setStream r (a.streamOf r).stop
      (List.range (s.la.streamOf r).full.length).foldl (fun s _ => State.writeBlock s r) s

/-- F2_START (R476): refused while the STREAM ring runs. -/
def Machine.State.f2Start (s : State) : State :=
  if s.la.stream.running then s.onLa fun a => { a with sdio := { a.sdio with refused := true } }
  else
    let n := s.la.sdio.stream.full.length
    State.flagBlocks (s.onLa fun a =>
      ({ a with sdio := { a.sdio with stream := { a.sdio.stream with running := true } } } : Latch).pumpAll) n

/-- F2_STOP. -/
def Machine.State.f2Stop (s : State) : State :=
  if !s.la.sdio.stream.running then s
  else State.flagBlocks (s.onLa fun a => { a with sdio := { a.sdio with stream := a.sdio.stream.stop } }) s.la.sdio.stream.full.length

/-- Bytes that a host or card read returned. -/
def Machine.State.answer (s : State) (bs : List Byte) : State := { s with mn := { s.mn with resp := bs } }

/-- F2_RECORD_READ (Table 22-8): the oldest record, removed; zero where there is none. -/
def Machine.State.f2Record (s : State) : State :=
  match s.la.fifo with
  | [] => s.answer (List.replicate 32 0#8)
  | r :: rest => (s.onLa fun a => { a with fifo := rest }).answer (recordOf r false)

/-- F2_AUDIO_READ: the oldest block, removed; zero where there is none. -/
def Machine.State.f2Audio (s : State) : State :=
  match s.la.sdio.stream.full with
  | [] => s.answer (List.replicate 4096 0#8)
  | b :: rest =>
    (s.onLa fun a => ({ a with sdio := { a.sdio with stream := { a.sdio.stream with full := rest } } } : Latch).pumpAll).answer
      (blockBytes 2 0 false b)

/-! ## The verifier image (R337) -/

/-- Whether a verifier image meets R337. -/
def Machine.State.verifierOk (s : State) (bs : List Byte) (aux : ContainerAux) : Bool :=
  let bs := bs.take (conNat bs 8 4)
  let b := readBitting bs aux
  let plain := { b with tensors := b.tensors.map fun t => if t.tier = 4 then { t with tier := 2 } else t }
  let weight := fun (t : TensorDesc) => aux.weights.any fun w => w.tensorId == t.id
  headerOk bs b && sectionsOk bs b && rangesOk s.mn b && tensorsOk bs plain && tokensOk b && listsOk bs b && portsOk b && acyclic b
    && aux.shapeRules && aux.wholeUnits
    && b.mask == 1 && b.minPlevel == 5 && b.chainUnits == 1 && b.flags / 2 % 4 == 0
    && b.tensors.all (fun t => (if weight t then t.tier == 4 && t.q 4 && !t.q 1 else t.tier != 4) && t.tier != 2 && t.tier != 3)
    && b.lists.all (fun q => match q.1 with | .bank _ k => decide (k.val < 22) || q.2.isEmpty | _ => true) && !aux.writesPages

/-- VERIFY_LOAD (R337, R469): the image copied into PSRAM, its check tail written, and validated. -/
def Machine.State.verifyLoad (s : State) (aux : ContainerAux) (refused : Bool) : State :=
  let a := s.la
  let base := a.fld F.VERIFY_BASE_base * 0x10000
  let n := a.fld F.VERIFY_BASE_length * 0x10000
  if refused ∨ n = 0 ∨ !a.psramOk base n then s.onLa fun a => a.setFld F.WAKE_STATUS_image_bad 1
  else
    let src := (a.word 0xa030).toNat / 4096 * 4096 + (a.word 0xa034).toNat * 2 ^ 32
    let bs := s.mn.host.rdN (hostKey 0 src) n
    let tail := (List.range (n / 4096)).flatMap fun g => leBytes 4 (crc32c ((bs.drop (4096 * g)).take 4096))
    let ok := s.verifierOk bs aux
    s.onLa fun a => ({ a with psram := Mem.wrN (base + n) tail (Mem.wrN base bs a.psram) } : Latch).setFld F.WAKE_STATUS_image_bad (b2n (!ok))

/-! ## The hasp -/

/-- A change of the hasp's inputs, with what it cancels. -/
def Machine.State.haspTake (s : State) (h : Hasp) : State :=
  let off := s.la.w0On
  let s := s.onLa fun a => a.haspTake h s.g1Off
  (if off && !s.la.w0On then s.ward0Off else s).drainRecords

/-- HASP_MUTE_WRITE (R345). -/
def Machine.State.muteWrite (s : State) (v : Word) : State := s.haspTake (s.la.hasp.write v)

/-- An edge of MUTE_N (R345, R347), wake source 7. A level that the pin already has is no edge. -/
def Machine.State.muteEdge (s : State) (asserted : Bool) : State :=
  if s.la.hasp.pin = asserted then s else (s.haspTake (s.la.hasp.edge asserted)).wakeFrom 7

/-- DECIMATOR_SETTLE_END (R327). -/
def Machine.State.settleEnd (s : State) (g : Nat) : State :=
  s.onLa fun a => if g = 0 then { a with settle0 := false } else { a with settle1 := false }

/-- AUD_CLK stops or returns (R488). -/
def Machine.State.audClk (s : State) (stopped : Bool) : State := State.redrive (s.onLa fun a => { a with audStop := stopped })

end Sys2Proof
end

