-- ==== Sys2Proof/Machine/Reset.lean ====
section
/-! DEFINITION. Resets and release (spec/18_reset.md R388 to R398, spec/23_pins_package.md R481, R488), and Latch mode
(spec/20_faults.md R440 to R443). -/

namespace Sys2Proof
open Machine

/-! ## What a warm reset keeps (Table 18-7) -/

/-- A BAR0 word after a warm reset: the identity, power and reset blocks, CONF_MODE and SEC_CTL keep theirs; of the error block
latch_after and latch_run stay (R446); NOPROG_CTL and the boot stage return to reset; the rest is reset. -/
def keptWord (off : Nat) (w : Word) : Word :=
  if off < 0x1000 then w
  else if off = 0x4014 then regReset off
  else if off = 0x4020 then F.BOOT_STATUS_stage.into 0 w
  else if 0x3000 ≤ off ∧ off < 0x5000 then w
  else if off = 0xd000 ∨ off = 0xd008 then w
  else if off = 0xe000 then F.ERR_CTL_latch_after.into (F.ERR_CTL_latch_after.of w) (regReset off)
  else if off = 0xe004 then F.ERR_STATUS_latch_run.into (F.ERR_STATUS_latch_run.of w) (regReset off)
  else regReset off

/-- The register file after a warm reset. -/
def keptRegs (t : Tab Word) : Tab Word := t.foldl (fun u p => Tab.put regReset p.1 (keptWord p.1 p.2) u) []

/-- Fences after a warm reset: every ward is at a boundary, so a pending fence stands (R439). -/
def Main.keptFence (m : Main) : FenceSt :=
  { m.fence with fenced := m.fence.fenced ||| (((List.range 16).map fun w => if (m.ward w).fencePending then 2 ^ w else 0).sum) }

/-- Everything that a warm reset reaches, reset (Table 18-2): the error log runs on, fences and suspects stay, host memory is
the host's, and a sleep ends. -/
def Main.warmed (m : Main) : Main :=
  let n : Main := {
    regs := keptRegs m.regs, host := m.host, msgs := m.msgs, fence := m.keptFence
    err := { next := m.err.next, window := m.err.window }, lz := { sent := m.lz.sent } }
  let n := ((n.setFld F.SLEEP_STATUS_state 0).setFld F.SLEEP_STATUS_busy 0).setFld F.LANIZA_STATUS_head_pin (m.fld F.LANIZA_STATUS_head_pin)
  { n with wards := ((List.range 16).filter n.fencedWard).map fun w => (w, { ({} : Ward) with powered := false }) }

/-- A reset of the Latch island (Table 18-7): its blocks at their defaults and its PSRAM lost. The mute pin and the fitted
devices are what they are; the latch image stays in its memory, as the Warden's firmware does. -/
def Latch.cleared (a : Latch) : Latch :=
  { ({} : Latch) with hasp := ({ pin := a.hasp.pin } : Hasp).drive false false, psram0 := a.psram0, psram1 := a.psram1
                      image := a.image }

/-- What a Latch reset resets of BAR0 beyond a warm one: the power and identity blocks, FW_CACHE.valid and the error log. The
throttle pin is an input. -/
def Main.latchReset (m : Main) : Main :=
  let pin := m.fld F.PLEVEL_CTL_throttle_pin
  let m := m.warmed
  let m := { m with err := {}, regs := m.regs.filter fun p => decide (0x1000 ≤ p.1 ∧ p.1 < 0x3000) || decide (0x4000 ≤ p.1) }
  (m.setFld F.PLEVEL_CTL_throttle_pin pin).setFld F.FW_CACHE_valid 0

/-! ## Sources -/

/-- ERR_CTL.latch_after; 0 acts as 3 (Table 20-9). -/
def Main.latchAfter (m : Main) : Nat := (let n := m.fld F.ERR_CTL_latch_after; if n = 0 then 3 else n)

/-- RESET_CAUSE for a reset of warm or Latch class (Table 18-11). -/
def Main.noteReset (m : Main) (cls cause isl : Nat) : Main :=
  let m := (m.setFld F.RESET_CAUSE_cause cause).setFld F.RESET_CAUSE_island isl
  (m.setFld F.RESET_CAUSE_class cls).setFld F.RESET_CAUSE_count (satAdd 8 (m.fld F.RESET_CAUSE_count) 1)

/-- Whether R440 counts a warm reset. -/
def countsForLatch (cause : Nat) (fw : Bool) : Bool := cause == 4 || cause == 7 || cause == 8 || (cause == 5 && fw)

/-- A candidate whose verdict the Warden was to get loses its request with it (R339, R305), and is decided when the Warden is
up again; ward 0 no longer runs for it. -/
def Latch.wardenLost (a : Latch) : Latch :=
  { a with w0On := false
           cand := a.cand.map fun c => if c.st = .verdict then { c with st := .awaitAwake } else c }

/-- A reset of warm (1) or Latch (2) class begins (R389, R392). A warm one in Latch mode is a retry (R443). The rails that sleep
had switched off come back first. -/
def Machine.State.beginReset (s : State) (cls cause isl : Nat) (fw reload : Bool) : State :=
  let m := s.mn
  let retry := s.rc.latchMode && cls == 1
  let counted := cls == 1 && !retry && countsForLatch cause fw
  let run := if retry then m.latchAfter - 1 else if counted then min 7 (m.fld F.ERR_STATUS_latch_run + 1) else m.fld F.ERR_STATUS_latch_run
  let deep := decide (3 ≤ m.sleepState)
  let m := (if cls = 2 then m.latchReset else m.warmed).noteReset cls cause isl
  let m := m.setFld F.ERR_STATUS_latch_run run
  let all := [0, 1, 2, 3, 4].all s.rc.enables.contains && [0, 1, 2, 3, 4].all s.rc.pgs.contains
  let rc := { s.rc with
    phase := if all then .stretch else .rails
    enables := if all then s.rc.enables else 0 :: 1 :: s.rc.enables.filter fun r => decide (2 ≤ r)
    cls := cls, wait := [], good := [], linkHeld := true, linkUp := false
    latchMode := s.rc.latchMode && cls == 2
    lastCause := if cls = 1 then (m.word 0x4000).toNat % 256 else s.rc.lastCause
    imem := if deep then none else s.rc.imem
    reload := reload, untrained := [], ready := false, fetching := false, queue := [], blk := none
    wakeBoot := false, retLost := false, fuseBad := false, perstDue := false, logDue := cls == 1
    latchDue := counted && decide (m.latchAfter ≤ run) }
  State.redrive (State.sync { s with mn := m, rc := rc, la := if cls = 2 then s.la.cleared else s.la.wardenLost })

/-- A source of warm or Latch class is asserted (R392): during a stretch one of the same class only lengthens it; a lower one is
ignored until release completes. While the Latch island is held for its clock, nothing further happens (Table 18-4). -/
def Machine.State.takeReset (s : State) (cls cause isl : Nat) (fw reload : Bool) : State :=
  match s.rc.phase with
  | .rails => s
  | .retryWait => s
  | .dead => s
  | .stretch => if cls ≤ s.rc.cls then s else s.beginReset cls cause isl fw reload
  | .release => if cls < s.rc.cls then s else s.beginReset cls cause isl fw reload
  | .run => s.beginReset cls cause isl fw reload

/-- A reset of power-on class (R390, R481): everything at its reset value; the fuses, the pins, host memory and the fitted
devices are what they are. The confidential default comes from its fuse (R425). -/
def Machine.State.powerOn (s : State) (cause : Nat) (chainHead : Bool) : State :=
  let m : Main := { host := s.mn.host, msgs := s.mn.msgs, lz := { sent := s.mn.lz.sent } }
  let m := (m.setFld F.PLEVEL_CTL_throttle_pin (s.mn.fld F.PLEVEL_CTL_throttle_pin)).setFld F.CONF_MODE_enable (b2n s.rc.fuseConf)
  let rc : ResetCtl := {
    phase := .rails, enables := [0, 1], pgs := [], linkHeld := true, chainHead := chainHead
    fuseConf := s.rc.fuseConf, blown := s.rc.blown, revoked0 := s.rc.revoked0, revoked1 := s.rc.revoked1 }
  State.sync { s with mn := (m.setFld F.RESET_CAUSE_cause cause).setFld F.LANIZA_STATUS_head_pin (b2n chainHead), rc := rc, la := { s.la.cleared with image := none } }

/-- BROWN_OUT (R388, R488): the core supply's monitor is armed only while CORE_EN is asserted and its PG has been good. -/
def Machine.State.brownOut (s : State) (sup : Supply) : State :=
  match sup with
  | .alwaysOn => s.powerOn 2 s.rc.chainHead
  | .core => if s.rc.enables.contains 0 && s.rc.pgs.contains 0 then s.powerOn 2 s.rc.chainHead else s

/-- RESET_N low from outside for `us` microseconds (R391): 10 or more is a warm reset, less than 1 nothing; between, either. -/
def Machine.State.resetN (s : State) (us : Nat) : State :=
  let go := decide (10 ≤ us) || (decide (1 ≤ us) && Config.freeNat s.free % 2 == 1)
  let s := if 1 ≤ us ∧ us < 10 then { s with free := s.free + 1 } else s
  if go && s.rc.phase != .stretch then s.takeReset 1 3 0 false false else s

/-- Whether firmware runs: released, awake or in S2, and stage 3 of Table 18-8. -/
def Machine.State.fwRuns (s : State) : Bool :=
  !s.rc.wardenHeld && (s.mn.sleepState == 0 || s.mn.sleepState == 2) && s.mn.fld F.BOOT_STATUS_stage == 3

/-- WATCHDOG_EXPIRY (R398). -/
def Machine.State.watchdog (s : State) : State := if s.fwRuns then s.takeReset 1 4 0 false false else s

/-- RESET_CTL_WARM (R388, R405): by host software through BAR0, or by firmware. -/
def Machine.State.softReset (s : State) (reload byFirmware : Bool) : State :=
  if byFirmware then (if s.fwRuns then s.takeReset 1 5 0 true reload else s)
  else if s.rc.barUp then s.takeReset 1 5 0 false reload
  else s

/-- Whether the host-link controller answers configuration requests: released, and its link not in L2. -/
def Machine.State.cfgUp (s : State) : Bool := !s.rc.linkHeld && decide (s.mn.sleepState < 3)

/-- FUNCTION_LEVEL_RESET (R388, R443). -/
def Machine.State.flr (s : State) : State := if s.cfgUp then s.takeReset 1 5 0 false false else s

/-- HOST_LINK_RESET (R388, R382, R443, R488): PERST# during power-up is taken after release; in S3 and S4 it is no reset, and no
link is up to go down; a link down in Latch mode is no retry. -/
def Machine.State.linkReset (s : State) (ev : LinkEvent) : State :=
  if s.rc.phase = .rails ∨ s.rc.phase = .retryWait ∨ (s.rc.phase = .stretch ∧ s.rc.cls = 3) then
    if ev = .perst then { s with rc := { s.rc with perstDue := true } } else s
  else if 3 ≤ s.mn.sleepState then s
  else if ev = .linkDown ∧ s.rc.latchMode then { s with rc := { s.rc with linkUp := false } }
  else s.takeReset 1 9 0 false false

/-! ## Block resets: requests (R399 to R401) -/

/-- The blocks a target's reset clears: a cylinder, or a ward with its cylinders. -/
def blockIslands (isl : Nat) : List Nat := if isl < 128 then [isl] else wardCodes (isl - 0x80)

/-- The next request starts when no block reset runs (R401). -/
def ResetCtl.startBlk (r : ResetCtl) : ResetCtl :=
  match r.blk, r.queue with
  | none, q :: rest => { r with blk := some (q, .idleReq), queue := rest }
  | _, _ => r

/-- A block reset requested: merged with one already queued for the block or, for a cylinder, for its ward; ignored during a
reset, in Latch mode and asleep (R407, R401). -/
def Machine.State.askBlock (s : State) (isl cause : Nat) : State :=
  let r := s.rc
  if r.phase != .run || r.latchMode || s.mn.sleepState != 0 || decide (0x90 ≤ isl) then s
  else if r.queue.any fun q => (blockIslands q.isl).contains isl then s
  else { s with rc := ({ r with queue := r.queue ++ [{ isl := isl, cause := cause }] } : ResetCtl).startBlk }

/-- BLOCK_RESET_GO: a write of BLOCK_RESET with go. -/
def Machine.State.blockGo (s : State) (v : Word) : State :=
  let s := s.onMn fun m => m.setWord 0x4008 (maskMerge 0xffff00ff (m.word 0x4008) v)
  if F.BLOCK_RESET_go.of v = 1 then s.askBlock (F.BLOCK_RESET_target.of v) 5 else s

/-- An island that no reset, clamp or fence keeps from running. -/
def Machine.State.islandUp (s : State) (code : Nat) : Bool := !s.absentNow.contains code

/-- CLOCK_FAILURE (R396, Table 18-1). Table 18-1 names no class for the fuses and the host-link controller. -/
def Machine.State.clockFailure (s : State) (isl : Island) : State :=
  let code := islandCode isl
  match isl with
  | .cyl _ => if s.islandUp code then s.askBlock code 7 else s
  | .ward _ => if s.islandUp code then s.askBlock code 7 else s
  | .warden => if !s.rc.wardenHeld && decide (s.mn.sleepState = 0 ∨ s.mn.sleepState = 2) then s.takeReset 1 7 code false false else s
  | .mc _ => if s.islandUp code then s.takeReset 1 7 code false false else s
  | .sysRef => if !s.rc.wardenHeld && decide (s.mn.sleepState < 3) then s.takeReset 1 7 code false false else s
  | .latch => if s.rc.latchHeld then s else s.takeReset 2 7 code false false
  | .fuse => s
  | .hostLink => s

/-- LOCK_UP (R397, Table 18-1): of a cylinder or ward sequencer, or of a Warden core. -/
def Machine.State.lockUp (s : State) (isl : Island) : State :=
  let code := islandCode isl
  match isl with
  | .cyl _ => if s.islandUp code then s.askBlock code 8 else s
  | .ward _ => if s.islandUp code then s.askBlock code 8 else s
  | .warden => if !s.rc.wardenHeld && decide (s.mn.sleepState = 0 ∨ s.mn.sleepState = 2) then s.takeReset 1 8 code false false else s
  | .mc _ => s
  | .latch => s
  | .sysRef => s
  | .fuse => s
  | .hostLink => s

/-- DEBUG_RESET_REQUEST (R388): refused and logged in confidential mode; of device scope, or of a block. BAR4 answers only where
BAR0 does; in Latch mode only R443's events are retries. -/
def Machine.State.debugReset (s : State) (viaBar4 : Bool) (target : Option (Fin 144)) : State :=
  if viaBar4 && !(s.rc.barUp && s.mn.sleepState == 0) then s
  else if s.mn.conf then
    s.warden fun m => m.logErr { code := 0x63, aux1 := b2n viaBar4 }
  else if s.rc.latchMode then s
  else match target with
    | none => s.takeReset 1 6 0 false false
    | some t => s.askBlock t.val 6

/-! ## Latch mode -/

/-- LATCH_STATUS (Table 20-5). -/
def Machine.State.latchStatus (s : State) : Word :=
  BitVec.ofNat 32 (b2n s.rc.latchMode + 2 * b2n s.la.hasp.muted + 16 * (s.rc.reason % 16) + 256 * (s.rc.bootErr % 256)
    + 2 ^ 16 * (s.rc.runAt % 8) + 2 ^ 19 * (min 16 s.la.fifo.length) + 2 ^ 24 * (s.rc.lastCause % 256))

/-- Entry to Latch mode (R440 to R442): the boot flow stops; all but the Latch island and the host-link controller is held;
LATCH_STATUS takes the values at entry; AER and the SDIO interrupt signal it. A candidate that awaited the Warden goes to stage
3 (Table 20-4). -/
def Machine.State.enterLatch (s : State) (reason : Nat) : State :=
  let m := s.mn
  let rc := { s.rc with
    latchMode := true, reason := reason, bootErr := m.fld F.BOOT_STATUS_error, runAt := m.fld F.ERR_STATUS_latch_run
    aer := s.rc.aer + b2n s.rc.linkUp, phase := .run, wait := [], queue := [], blk := none, ready := false
    wakeBoot := false, fetching := false, latchDue := false, logDue := false }
  let a := s.la.wardenLost
  let s := State.redrive (State.sync { s with mn := m.warmed, rc := rc, la := { a with sdio := { a.sdio with int1 := a.sdio.int1 ||| 1 } } })
  match s.la.cand with
  | some c => if c.st = .awaitAwake then s.endCand 0 0x8000 0 else s
  | none => s

/-- A retry through LATCH_CTL, F1_CTL or the mailbox (R443): ignored outside Latch mode. -/
def Machine.State.latchRetry (s : State) : State := if s.rc.latchMode then s.takeReset 1 5 0 false false else s

/-! ## Boot: orders that need no image (R404, R405) -/

/-- What firmware does once it runs and every block has had its turn: a warm reset is logged (R436), and a stack that failed to
train leads to Latch mode (R440). -/
def Machine.State.afterBoot (s : State) : State :=
  if s.mn.fld F.BOOT_STATUS_stage ≠ 3 then s
  else if !s.rc.untrained.isEmpty then s.enterLatch 4
  else if s.rc.wait.isEmpty && s.rc.logDue then
    { s with mn := s.mn.logErr { code := 0x51, aux1 := (s.mn.word 0x4000).toNat, aux2 := (s.mn.word 0x4004).toNat }
             rc := { s.rc with logDue := false } }
  else s

/-- Order 6 of Table 18-8: firmware runs, and outside an exit from sleep recovery is needed. -/
def Machine.State.bootRun (s : State) (source : Nat) : State :=
  let m := ((s.mn.setFld F.BOOT_STATUS_stage 3).setFld F.BOOT_STATUS_source source).setWord 0x4 (BitVec.ofNat 32 s.rc.fwVer)
  let m := if s.rc.wakeBoot then m else m.setFld F.HOST_STATUS_recovery_needed 1
  State.afterBoot { s with mn := m, rc := { s.rc with ready := true, fetching := false } }

/-- Order 3: instruction memory is clear and an image is awaited; with reload the boot ROM fetches it at once (R405). -/
def Machine.State.bootWait (s : State) : State :=
  { s with mn := s.mn.setFld F.BOOT_STATUS_stage 1
           rc := { s.rc with imem := none, fetching := s.rc.reload && s.mn.fld F.BOOT_CTL_granules != 0 } }

/-- Order 2: firmware held in instruction memory is measured; on a match it runs. -/
def Machine.State.bootStart (s : State) : State :=
  match s.rc.imem with
  | some fw => if !s.rc.reload && sha512 fw == s.rc.measure then s.bootRun 0 else s.bootWait
  | none => s.bootWait

/-! ## Release (R393, R394) -/

/-- The code of an island's clock-good detector; the fuses and the host-link controller have codes of the model's own. -/
def clockCode : Island → Nat
  | .fuse => 0xC0
  | .hostLink => 0xC1
  | i => islandCode i

/-- The order of Table 18-3; a warm reset begins at order 2. -/
def releaseOrder (cls : Nat) : List Nat :=
  (if cls = 1 then [] else [0xB0]) ++ [0xC0, 0x90, 0xA0, 0xA1] ++ (List.range 16).map (0x80 + ·)

/-- The blocks whose turn has come. -/
def ResetCtl.turn (r : ResetCtl) : List Nat :=
  if r.wait.contains 0xB0 then [0xB0]
  else if r.wait.contains 0xC0 then [0xC0]
  else if r.wait.contains 0x90 then [0x90]
  else
    let mcs := r.wait.filter fun c => decide (0xA0 ≤ c ∧ c < 0xB0)
    if mcs.isEmpty then r.wait else mcs

/-- A block's detectors have passed: for a ward those of the ring and its eight cylinders. -/
def ResetCtl.clockOk (r : ResetCtl) (c : Nat) : Bool :=
  if 0x80 ≤ c ∧ c < 0x90 then (wardCodes (c - 0x80)).all r.good.contains else r.good.contains c

/-- Every block has had its turn: RESET_CAUSE.held shows whether one is held; what waited for the end of the release follows. -/
def Machine.State.releaseDone (s : State) : State :=
  if s.rc.phase ≠ .release ∨ !s.rc.wait.isEmpty then s
  else
    let s : State := { s with mn := s.mn.setFld F.RESET_CAUSE_held (b2n (s.mn.word 0x4004 != 0#32)), rc := { s.rc with phase := .run } }
    let s := s.afterBoot
    if s.rc.latchMode then s
    else if s.rc.perstDue then s.beginReset 1 9 0 false false
    else s.nowAwake

/-- One block released. -/
def Machine.State.releaseOne (s : State) (c : Nat) : State :=
  let s : State := { s with rc := { s.rc with wait := s.rc.wait.filter (· != c) } }
  if c = 0xC0 then
    if s.rc.fuseBad then State.enterLatch (s.onMn fun m => m.setFld F.BOOT_STATUS_error 1) 3 else s
  else if c = 0x90 then s.bootStart
  else if c = 0xA0 ∨ c = 0xA1 then s.afterBoot
  else s

/-- Blocks released as far as their detectors allow. -/
def Machine.State.releaseGo : Nat → State → State
  | 0, s => s
  | n + 1, s =>
    if s.rc.phase ≠ .release then s
    else match s.rc.turn.find? s.rc.clockOk with
      | some c => State.releaseGo n (s.releaseOne c)
      | none => s

/-- The host-link controller, released with the Warden or, in Latch mode, by the Latch island alone (R441). -/
def Machine.State.releaseLink (s : State) : State :=
  let turn := s.rc.latchMode || (s.rc.phase == .release && !s.rc.wait.contains 0xB0 && !s.rc.wait.contains 0xC0) || s.rc.phase == .run
  if turn && !s.rc.latchHeld && s.rc.good.contains 0xC1 then { s with rc := { s.rc with linkHeld := false } } else s

/-- The release as far as it goes now. -/
def Machine.State.release (s : State) : State :=
  (State.releaseGo 24 s).releaseLink.releaseDone.sync.redrive

/-- STRETCH_END (R392, R393). In Latch mode a Latch reset releases the Latch island only. -/
def Machine.State.stretchEnd (s : State) : State :=
  if s.rc.phase ≠ .stretch then s
  else
    let s : State := { s with mn := s.mn.setWord 0x4004 0#32
                              rc := { s.rc with phase := .release
                                                wait := if s.rc.latchMode then [0xB0] else releaseOrder s.rc.cls } }
    if s.rc.latchDue then s.enterLatch 5 else s.release

/-- A ward that stays in reset for its clock (Table 18-4): shown in CLK_HELD and fenced with cause clock. -/
def Machine.State.holdWard (s : State) (w : Nat) : State :=
  let m := s.mn.setFld F.CLK_HELD_wards (s.mn.fld F.CLK_HELD_wards ||| 2 ^ w)
  let m := m.fenceWard w 1
  { s with mn := m.settle, rc := { s.rc with wait := s.rc.wait.filter (· != 0x80 + w) } }

/-- The block that holds an island at its turn. -/
def holdCode : Island → Option Nat
  | .cyl c => some (0x80 + c.val / 8)
  | .ward w => some (0x80 + w.val)
  | .warden => some 0x90
  | .mc k => some (0xA0 + k.val)
  | .latch => some 0xB0
  | .sysRef => none
  | .fuse => none
  | .hostLink => none

/-! ## Block resets: progress (Table 18-5) -/

/-- A Frame Lane cut short (R262): its steps that have not committed run again; a resync record comes first. -/
def Main.laneCut (m : Main) (l : Nat) : Main :=
  let x := m.lane l
  if x.st ≠ .running ∧ x.st ≠ .stopping then m
  else
    let w := x.ward
    let m := (m.setInst w {}).laneCloseMiss l
    let m := { m with log := { m.log with pipe := m.log.pipe.filter fun k => k.live || !(k.kind == 1 && k.inst.mask == 2 ^ w) } }
    let first := (x.lastCommitted.map (· + 1)).getD 0
    let m := m.updLane l fun y => { y with
      cur := none, staged := [], inputReady := [], badInput := [], nextSlot := first, listsLoaded := false
      recs := y.recs.filter (·.ready) }
    let m := m.laneFlush l
    let m := m.laneWrite l { slot := first, kind := 3, status := 0, cause := 6, run := 0, ready := true }
    m.laneDrained l

/-- A plan instance cut short by a block reset (R102): no status, no charge; its pages go back, and it is built again. An
instance whose wards have all reached their ready point goes on to its commit. -/
def Main.blockCut (m : Main) (lead : Nat) : Main :=
  let i := m.inst lead
  match i.kind with
  | .lane l _ => m.laneCut l.val
  | _ =>
    if i.staged && !i.chained then m
    else if i.chained then m.chainCut lead
    else
      let m := m.releaseReserved fun c => i.members.any fun x => x.ctx == c
      let m := m.endInst lead
      { m with kr := { m.kr with event := true } }

/-- R400: what a block reset clears in a cylinder, and keeps. -/
def Main.clearCyl (m : Main) (c : Nat) : Main :=
  let m := (List.range 4).foldl (fun (m : Main) i => m.setTum (4 * c + i) {}) (m.setCyl c {})
  let m := (m.setWord (0x20008 + c * 0x400) 0#32).setWord (0x2000c + c * 0x400) 0#32
  (m.updWard (c / 8) fun x => { x with loaded := none, holds := x.holds.filter fun t => t / 4 != c })

/-- R400: what a block reset clears in its target; the counters of its islands return to zero. -/
def Main.clearBlock (m : Main) (isl : Nat) : Main :=
  let isls := blockIslands isl
  let m := (isls.filter (· < 128)).foldl Main.clearCyl m
  let m := if isl < 128 then m else
    let w := isl - 0x80
    let m := m.updWard w fun x => { x with loaded := none, holds := [], openUnits := [] }
    { m.setWord (0x1000c + w * 0x1000) 0#32 with latched := m.latched.filter fun p => p.1 != 0x10008 + w * 0x1000 }
  { m with ctr := m.ctr.filter fun p => !isls.contains (ctrIsland (p.1 / 4096) (p.1 % 4096)) }

/-- Orders 3 to 5: the block is held, idle or not; the instances it takes part in are cut short. -/
def Machine.State.blockHold (s : State) (timedOut : Bool) : State :=
  match s.rc.blk with
  | some (q, .idleReq) =>
    let w := (islandWard q.isl).getD 0
    let m := match s.mn.instOn w with
      | some (lead, _) => s.mn.blockCut lead
      | none => match s.mn.laneOf w with
        | some l => s.mn.laneCut l
        | none => s.mn
    let m := (m.clearBlock q.isl).setWord 0x400c (BitVec.ofNat 32
      (q.isl + 256 * q.cause + 4096 * b2n timedOut + 2 ^ 16 * satAdd 16 (m.fld F.BLOCK_LAST_count) 1))
    State.sync { s with mn := m.settle, rc := { s.rc with
      blk := some (q, .held), good := s.rc.good.filter fun c => !(blockIslands q.isl).contains c } }
  | _ => s

/-- Order 6: the hold ends and the block awaits its clock. -/
def Machine.State.blockHoldEnd (s : State) : State :=
  match s.rc.blk with
  | some (q, .held) => { s with rc := { s.rc with blk := some (q, .waitClock) } }
  | _ => s

/-- The block released once its detectors pass, logged (0x52); the next request starts. -/
def Machine.State.blockRelease (s : State) : State :=
  match s.rc.blk with
  | some (q, .waitClock) =>
    if (blockIslands q.isl).all s.rc.good.contains then
      let m := s.mn.logErr { code := 0x52, island := q.isl, aux1 := (s.mn.word 0x400c).toNat }
      State.sync { s with mn := m, rc := ({ s.rc with blk := none } : ResetCtl).startBlk }
    else s
  | _ => s

/-- A block reset whose clock does not come (R399, order 6): its ward is held and fenced. -/
def Machine.State.blockClockLost (s : State) (code : Nat) : State :=
  match s.rc.blk with
  | some (q, .waitClock) =>
    if (blockIslands q.isl).contains code && !s.rc.good.contains code then
      State.sync { s.holdWard ((islandWard q.isl).getD 0) with rc := ({ s.rc with blk := none } : ResetCtl).startBlk }
    else s
  | _ => s

/-! ## Clock detectors -/

/-- CLOCK_GOOD (R394): a detector passes. `ok` is false for fuses that fail their parity and for a stack that fails to train. -/
def Machine.State.clockGood (s : State) (isl : Island) (ok : Bool) : State :=
  let c := clockCode isl
  let r := s.rc
  let r := { r with
    good := if r.good.contains c then r.good else c :: r.good
    fuseBad := r.fuseBad || (isl == .fuse && !ok)
    untrained := match isl with
      | .mc k => if ok then r.untrained.filter (· != k.val) else k.val :: r.untrained.filter (· != k.val)
      | _ => r.untrained }
  match s.rc.phase with
  | .stretch => { s with rc := r }
  | .release => State.release { s with rc := r }
  | .run => if s.rc.blk.isSome || s.rc.linkHeld then State.releaseLink (State.blockRelease { s with rc := { r with untrained := s.rc.untrained, fuseBad := s.rc.fuseBad } }) else s
  | _ => s

/-- CLOCK_HOLD_TIMEOUT (R394, Table 18-4): a block whose detector has not passed within 2 ms of its turn is held. -/
def Machine.State.clockHold (s : State) (isl : Island) : State :=
  match holdCode isl with
  | none => s
  | some c =>
    if s.rc.phase = .release ∧ s.rc.turn.contains c ∧ !s.rc.clockOk c then
      if c = 0xB0 then { s with rc := { s.rc with phase := .dead } }
      else if c = 0x90 then
        State.enterLatch (s.onMn fun m => (m.setFld F.CLK_HELD_warden 1).setFld F.RESET_CAUSE_held 1) 1
      else if c = 0xA0 then
        State.enterLatch (s.onMn fun m => (m.setFld F.CLK_HELD_mc0 1).setFld F.RESET_CAUSE_held 1) 2
      else if c = 0xA1 then
        State.enterLatch (s.onMn fun m => (m.setFld F.CLK_HELD_mc1 1).setFld F.RESET_CAUSE_held 1) 2
      else (s.holdWard (c - 0x80)).release
    else if s.rc.phase = .run then s.blockClockLost (islandCode isl)
    else s

/-- RESET_FORCE (R395): the held wards that are named come out of reset with their clocks unstable; a held Warden or memory
controller means Latch mode, where no write arrives. Refused in confidential mode. -/
def Machine.State.resetForce (s : State) (mask : Word) : State :=
  if s.mn.conf then s.onMn fun m => m.setFld F.RESET_FORCE_refused 1
  else
    let held := s.mn.fld F.CLK_HELD_wards
    let go := held &&& F.CLK_HELD_wards.of mask
    if go = 0 then s
    else s.onMn fun m => (m.setFld F.CLK_HELD_wards (held ^^^ go)).setFld F.RESET_CAUSE_forced 1

/-! ## Rails (R481) -/

/-- RAIL_POWER_GOOD: the enables that the inputs now good allow; all five end Table 23-6. Outside power-up only PG_W0 matters, to
stage 2 of the wake cascade in S3 and S4 (R482). -/
def Machine.State.railGood (s : State) (r : Nat) : State :=
  let x := s.rc
  if 5 ≤ r ∨ !x.enables.contains r ∨ x.pgs.contains r then s
  else
    let pgs := r :: x.pgs
    if x.phase = .rails then
      let on := if [0, 1].all pgs.contains then [2, 3].foldl (fun l k => if l.contains k then l else l ++ [k]) x.enables else x.enables
      let on := if [2, 3].all pgs.contains && !on.contains 4 then on ++ [4] else on
      { s with rc := { x with pgs := pgs, enables := on, phase := if [0, 1, 2, 3, 4].all pgs.contains then .stretch else .rails } }
    else if r = 1 ∧ s.la.w0On then { s with rc := { x with pgs := pgs } }
    else s

/-- RAIL_GOOD_TIMEOUT: an input named at orders 4 and 5 is not good within 20 ms. -/
def Machine.State.railTimeout (s : State) (r : Nat) : State :=
  if s.rc.phase = .rails ∧ s.rc.enables.contains r ∧ !s.rc.pgs.contains r then
    { s with rc := { s.rc with phase := .retryWait, enables := [], pgs := [] } }
  else s

/-- RAIL_RETRY_WAIT_END: power-up starts again at order 3. -/
def Machine.State.railRetry (s : State) : State :=
  if s.rc.phase = .retryWait then { s with rc := { s.rc with phase := .rails, enables := [0, 1], pgs := [] } } else s

/-- HOST_LINK_UP (R441): the link trains; records that wait can go. -/
def Machine.State.hostLinkUp (s : State) : State :=
  if s.rc.linkHeld || decide (3 ≤ s.mn.sleepState) then s
  else State.drainRecords { s with rc := { s.rc with linkUp := true } }

end Sys2Proof
end

