-- ==== Sys2Proof/Machine/Boot.lean ====
section
/-! DEFINITION. Firmware images and the boot flow (spec/19_security.md R410 to R413, spec/18_reset.md R404 to R406,
spec/22_registers.md R474), and sleep's entry and exit (spec/17_power.md R375 to R385). -/

namespace Sys2Proof
open Machine

/-! ## Images (R410 to R412) -/

/-- A little-endian field of an image. -/
def imgNat (bs : List Byte) (off n : Nat) : Nat := leNat ((bs.drop off).take n)

/-- The version counter: bits blown at manufacture as modelled and since (R412). -/
def ResetCtl.counter (r : ResetCtl) : Nat := min 64 (Config.fuseCounter + r.blown)

/-- Whether a key slot is revoked. -/
def ResetCtl.revoked (r : ResetCtl) (slot : Nat) : Bool := Config.fuseRevoked slot || (if slot = 0 then r.revoked0 else r.revoked1)

/-- R411: the BOOT_STATUS.error code of the first check that an image fails, in the order given; 0 where it passes all. -/
def imageCheck (r : ResetCtl) (bs : List Byte) : Nat :=
  let total := imgNat bs 0x14 4
  let slot := imgNat bs 6 1
  let modulus := (bs.drop 0x200).take 512
  let signed := bs.take 0x400 ++ (bs.take total).drop 0x600
  if total % 4096 ≠ 0 ∨ 0x800000 < total ∨ total < 0x600 + imgNat bs 0xC 4 + imgNat bs 0x10 4 ∨ bs.length < total then 5
  else if r.revoked 0 && r.revoked 1 then 4
  else if 2 ≤ slot ∨ r.revoked slot then 2
  else if sha512 (modulus ++ beBytes 4 (imgNat bs 0x18 4)) ≠ Config.keyHash slot then 2
  else if imgNat bs 0x18 4 ≠ 65537 ∨ !rsaPssOk modulus signed ((bs.drop 0x400).take 512) then 2
  else if imgNat bs 8 4 < r.counter then 3
  else 0

/-- Table 18-14's code of a source. -/
def sourceCode : ImgSource → Nat
  | .host => 1 | .sdio => 2 | .psram => 3

/-- The PSRAM range of the firmware cache: offset and bytes (Table 18-15). -/
def Main.fwCache (m : Main) : Nat × Nat := (m.fld F.FW_CACHE_base * 0x10000, m.fld F.FW_CACHE_size * 0x10000)

/-- R406: a copy of a verified image kept in PSRAM where it fits; a range that PSRAM does not hold sets error 0x06 (R469). -/
def Machine.State.cacheWrite (s : State) (bs : List Byte) : State :=
  let (base, n) := s.mn.fwCache
  if !s.mn.bit F.FW_CACHE_enable || decide (n < bs.length) then s
  else if !s.la.psramOk base n then s.onMn fun m => m.setFld F.BOOT_STATUS_error 6
  else { s with mn := s.mn.setFld F.FW_CACHE_valid 1, la := { s.la with psram := Mem.wrN base bs s.la.psram } }

/-- Orders 4 and 5 of Table 18-8: an image is taken, the other source's data discarded; a failure is shown and order 3 goes
on; on success fuses are blown under R412, the firmware and the latch image installed and measured, and firmware runs. -/
def Machine.State.takeImage (s : State) (src : ImgSource) (bs : List Byte) : State :=
  let s : State := { s with rc := { s.rc with fetching := false }
                            la := { s.la with sdio := { s.la.sdio with fwl := {} } } }
  let bs := bs.take (max 0x600 (imgNat bs 0x14 4))
  let e := imageCheck s.rc bs
  if e ≠ 0 then s.onMn fun m => m.setFld F.BOOT_STATUS_error (if src = .psram then 6 else e)
  else
    let ws := imgNat bs 0xC 4
    let fw := (bs.drop 0x600).take ws
    let slot := imgNat bs 6 1
    let version := imgNat bs 8 4
    let flags := imgNat bs 7 1
    let arm := s.mn.bit F.SEC_CTL_raise_arm
    let c := s.rc.counter
    let up := if arm && flags % 2 == 1 then max c (min version 64) - c else 0
    let kill := arm && flags / 2 % 2 == 1
    let rc := { s.rc with
      imem := some fw, measure := sha512 fw, fwVer := version, reload := false, blown := s.rc.blown + up
      revoked0 := s.rc.revoked0 || (kill && slot == 1), revoked1 := s.rc.revoked1 || (kill && slot == 0) }
    let m := ((s.mn.setFld F.BOOT_STATUS_error 0).setFld F.BOOT_STATUS_key_slot slot).setFld F.SEC_CTL_raise_arm 0
    let s : State := { s with mn := m, rc := rc, la := { s.la with image := some ((bs.drop (0x600 + ws)).take (imgNat bs 0x10 4)) } }
    let s := if src = .psram then s else s.cacheWrite bs
    s.bootRun (sourceCode src)

/-- Whether the boot ROM waits for an image at order 3. -/
def Machine.State.awaitsImage (s : State) : Bool :=
  !s.rc.latchMode && (s.rc.phase == .release || s.rc.phase == .run) && !s.rc.wait.contains 0x90 && s.mn.fld F.BOOT_STATUS_stage == 1

/-- BOOT_IMAGE_RECEIVED: a source completes: the host load that BOOT_IMG names, the SDIO load, or, on exit from S3 or S4, the
firmware cache (R404, R406). -/
def Machine.State.bootImage (s : State) (src : ImgSource) : State :=
  if !s.awaitsImage then s
  else match src with
    | .host =>
      if !s.rc.fetching then s
      else
        let n := min 2048 (s.mn.fld F.BOOT_CTL_granules) * 4096
        s.takeImage .host (s.mn.host.rdN (hostKey 0 (s.mn.pair 0x4024 0x4028 12)) n)
    | .sdio => if s.la.sdio.fwl.done then s.takeImage .sdio s.la.sdio.fwl.data else s
    | .psram =>
      let (base, n) := s.mn.fwCache
      if !s.rc.wakeBoot || !s.mn.bit F.FW_CACHE_enable then s
      else if !s.mn.bit F.FW_CACHE_valid || !s.la.psramOk base n then s.onMn fun m => m.setFld F.BOOT_STATUS_error 6
      else
        let total := s.la.psram.rdNat (base + 0x14) 4
        if n < total then s.onMn fun m => m.setFld F.BOOT_STATUS_error 6
        else s.takeImage .psram (s.la.psram.rdN base total)

/-- BOOT_CTL_GO (Table 18-15): the fetch begins; ignored outside stage 1. -/
def Machine.State.bootGo (s : State) : State :=
  if s.awaitsImage then { s with rc := { s.rc with fetching := true } } else s

/-! ## Loads over SDIO function 1 (R474) -/

/-- FWL_STATUS as it reads (Table 22-6). -/
def Machine.State.fwlStatus (s : State) : Word :=
  let f := s.la.sdio.fwl
  let ready := f.granules != 0 && !f.done && s.mn.fld F.BOOT_STATUS_stage == 1
  BitVec.ofNat 32 (s.mn.fld F.BOOT_STATUS_stage + 16 * s.mn.fld F.BOOT_STATUS_error + 2 ^ 12 * b2n ready
    + 2 ^ 13 * (f.data.length / 4096))

/-- An effect after which F1_INT.fwl is set where FWL_STATUS has changed (Table 22-6). -/
def Machine.State.markFwl (s : State) (f : State → State) : State :=
  let t := f s
  if t.fwlStatus = s.fwlStatus then t else t.onLa fun a => { a with sdio := { a.sdio with int1 := a.sdio.int1 ||| 4 } }

/-- FWL_START: ignored outside stage 1 or without a count of granules. -/
def Machine.State.fwlStart (s : State) (n : Nat) : State :=
  if s.awaitsImage && decide (1 ≤ n ∧ n ≤ 2048) then s.onLa fun a => { a with sdio := { a.sdio with fwl := { granules := n } } } else s

/-- FWL_DATA: bytes taken while ready; the last granule completes the source. -/
def Machine.State.fwlData (s : State) (bs : List Byte) : State :=
  let f := s.la.sdio.fwl
  if f.granules = 0 ∨ f.done ∨ !s.awaitsImage then s
  else
    let data := (f.data ++ bs).take (f.granules * 4096)
    s.onLa fun a => { a with sdio := { a.sdio with fwl := { f with data := data, done := decide (data.length = f.granules * 4096) } } }

/-- FWL_ABORT. -/
def Machine.State.fwlAbort (s : State) : State := s.onLa fun a => { a with sdio := { a.sdio with fwl := {} } }

/-! ## Sleep entered and left -/

/-- SLEEP_ENTRY_PROCEED (R379): once nothing delays, orders 4 to 9 of Table 17-4. -/
def Machine.State.sleepProceed (s : State) : State :=
  if !s.mn.sleepBusy || s.mn.sleepState != 0 || !(s.mn.sleepDelays s.rc.blkWard).isEmpty then s
  else ((s.enterSleep (s.mn.fld F.SLEEP_CTL_target)).redrive).lapseH6

/-- RETENTION_SUPPLY_LOSS (R377). -/
def Machine.State.retentionLoss (s : State) : State :=
  if s.mn.sleepState = 2 then { s with rc := { s.rc with retLost := true } } else s

/-- Whether a counter's island lost power in S2: wards, cylinders and memory controllers. -/
def offInS2 (code : Nat) : Bool := decide (code < 0x90) || code == 0xA0 || code == 0xA1

/-- SRAM and islands lost since S2 or deeper, zeroed (R375): the retention banks, 22 and 23 of each cylinder, stay where `keep`
says so. -/
def Main.sramLost (m : Main) (keep : Bool) : Main :=
  { m with
    sp := if keep then m.sp.filter fun p => decide (0x160000 ≤ p.1 % 0x200000) else []
    ws := [], tums := [], cyls := []
    regs := m.regs.filter fun p => !decide (0x10000 ≤ p.1 ∧ p.1 < 0x40000)
    ctr := m.ctr.filter fun p => !offInS2 (ctrIsland (p.1 / 4096) (p.1 % 4096))
    latched := m.latched.filter fun p => !decide (0x10000 ≤ p.1 ∧ p.1 < 0x40000)
    wards := m.wards.map fun p => (p.1, { p.2 with
      loaded := none, holds := [], openUnits := [], tenants := if keep then p.2.tenants else [] }) }

/-- The Warden's state after S4, or S3 with a bad image (R376, R422, Table 18-7): as after a warm reset with the stacks lost,
the boot flow's registers standing; the error log is at its default. -/
def Main.wardenLost (m : Main) : Main :=
  let n := m.warmed
  { (n.setWord 0x4014 (m.word 0x4014)).setWord 0x4020 (m.word 0x4020) with err := {} }

/-- WAKE_COMPLETE (Table 17-7, orders 2 to 8): once ward 0 is free and, from S3 and S4, firmware runs again. After S4 order 8
waits for recovery, so `state` and `busy` stand till then. The unit passes the wake on (R322). -/
def Machine.State.wakeComplete (s : State) (imgBad : Bool) : State :=
  let m := s.mn
  let st := m.sleepState
  if st = 0 ∨ !m.sleepBusy ∨ s.la.w0On ∨ (3 ≤ st ∧ !s.rc.ready) then s
  else
    let lost := st = 4 ∨ (st = 3 ∧ imgBad)
    let m := if lost then m.wardenLost
      else if st = 3 then { m.sramLost false with ctr := [] }
      else if st = 2 then m.sramLost (!s.rc.retLost)
      else m.camWake
    let m := if lost ∧ st = 3 then m.setFld F.LAST_WAKE_img_bad 1 else m
    let m := if st = 2 ∧ s.rc.retLost then m.setFld F.SLEEP_STATUS_ret_lost 1 else m
    let m := if lost then m.setFld F.HOST_STATUS_recovery_needed 1 else m
    let m := if m.bit F.LANIZA_CTL_wake_fwd then m.sendWake true true else m
    let m := if lost then { (m.setFld F.SLEEP_STATUS_state st).setFld F.SLEEP_STATUS_busy 1 with wakeHeld := true } else m.wakeEnd
    let m := { m with acceptStop := false, kr := { m.kr with event := true } }
    let rc := { s.rc with enables := [0, 1, 2, 3, 4], pgs := [0, 1, 2, 3, 4], linkUp := s.rc.linkUp || decide (3 ≤ st)
                          wakeBoot := false, retLost := false }
    let s := State.sync { s with mn := m, rc := rc, la := { s.la with wakePin := false } }
    let s := (s.onMn Main.settle).redrive
    s.drainRecords.nowAwake

end Sys2Proof
end

