-- ==== Sys2Proof/Machine/Security.lean ====
section
/-! DEFINITION. The protection set-up, confidential mode and attestation (spec/19_security.md R414 to R428). -/

namespace Sys2Proof
open Machine

/-! ## Writes of the set-up (R414 to R416) -/

/-- The slot that TENANT_SELECT names; 255 acts as 0. -/
def Main.tenantSlot (m : Main) : Nat := (let s := m.fld F.TENANT_SELECT_slot; if s = 255 then 0 else s)

/-- The selected slot as written. -/
def Main.tenantWritten (m : Main) : Tenant := Tab.get tenantDef m.prot.written m.tenantSlot

/-- The selected window as written. -/
def Main.windowWritten (m : Main) : Window := Tab.get windowDef m.tenantWritten.windows (m.fld F.WIN_SELECT_window)

/-- The selected slot after a write of a TENANT_ or WIN_ register (Tables 19-8, 19-9). -/
def Main.tenantAfter (m : Main) (off : Nat) (v : Word) : Tenant :=
  let t := m.tenantWritten
  let w := m.windowWritten
  let n := v.toNat
  let put := fun (x : Window) => { t with windows := Tab.put windowDef (m.fld F.WIN_SELECT_window) x t.windows }
  match off with
  | 0x1014 => { t with pasid := n % 2 ^ 20, valid := v.getLsbD 20, publish := v.getLsbD 21, solo := v.getLsbD 22 }
  | 0x1018 => { t with quota := n % 2 ^ 21 }
  | 0x1024 => put { w with base := w.base / 2 ^ 32 * 2 ^ 32 + n / 4096 * 4096 }
  | 0x1028 => put { w with base := w.base % 2 ^ 32 + n * 2 ^ 32 }
  | 0x102c => put { w with limit := w.limit / 2 ^ 32 * 2 ^ 32 + n / 4096 * 4096, enable := v.getLsbD 0 }
  | 0x1030 => put { w with limit := w.limit % 2 ^ 32 + n * 2 ^ 32 }
  | _ => t

/-- R416: whether a write is ignored: a bound slot that would lose valid or its PASID; two valid slots of one PASID; a window
enabled whose limit lies below its base. -/
def Main.tenantRefused (m : Main) (off : Nat) (v : Word) : Bool :=
  let s := m.tenantSlot
  let t := m.tenantWritten
  let u := m.tenantAfter off v
  let w := Tab.get windowDef u.windows (m.fld F.WIN_SELECT_window)
  let bound := m.ctxs.any fun p => p.2.slot == some s
  (bound && ((t.valid && !u.valid) || t.pasid != u.pasid))
    || (u.valid && m.prot.written.any fun p => p.1 != s && p.2.valid && p.2.pasid == u.pasid)
    || (off == 0x102c && w.enable && decide (w.limit < w.base))

/-- PROTECTION_WRITE: a write that changes the set-up raises PROT_GEN and takes effect at the wards' next boundaries (R415). -/
def Main.protWrite (m : Main) (off : Nat) (v : Word) : Main :=
  let u := m.tenantAfter off v
  if m.tenantRefused off v then m.setFld F.PROT_STATUS_cfg_err 1
  else if u = m.tenantWritten then m
  else
    Main.settle { m with prot := { m.prot with
      written := Tab.put tenantDef m.tenantSlot u m.prot.written, gen := (m.prot.gen + 1) % 2 ^ 32 } }

/-- CTX_SHARE of the selected context (Table 10-13): from its next boundary, and an event of R230. -/
def Main.shareWrite (m : Main) (v : Word) : Main :=
  let c := m.selected
  let new := (v.toNat % 2 ^ 16, v.getLsbD 16)
  let x := m.ctx c
  let old := x.nextShare.getD (x.weight, x.noDrop)
  let m := { m with kr := { m.kr with event := true } }
  if new = old then m
  else Main.settle { m.updCtx c (fun y => { y with nextShare := some new }) with prot := { m.prot with gen := (m.prot.gen + 1) % 2 ^ 32 } }

/-- PROT_LOCK (R431): a write of 1; a write of 0 is ignored. -/
def Main.protLock (m : Main) : Main := m.setFld F.PROT_CTL_lock 1

/-- A write of PROT_CTL: lock, and cxlmem_read while it is clear. -/
def Main.protCtl (m : Main) (v : Word) : Main :=
  let m := if m.bit F.PROT_CTL_lock then m else m.setFld F.PROT_CTL_cxlmem_read (F.PROT_CTL_cxlmem_read.of v)
  if v.getLsbD 0 then m.protLock else m

/-- CONF_MODE_SET (R425): a write of 1; a write of 0 is ignored. -/
def Main.confSet (m : Main) (v : Word) : Main := if v.getLsbD 0 then m.setFld F.CONF_MODE_enable 1 else m

/-! ## Attestation (R426 to R428) -/

/-- A slot's 144 bytes under prot_hash (R428). -/
def tenantBytes (t : Tenant) : List Byte :=
  leBytes 4 (t.pasid % 2 ^ 20 + 2 ^ 31 * b2n t.valid) ++ leBytes 4 t.quota ++ leBytes 1 (b2n t.publish + 2 * b2n t.solo)
    ++ List.replicate 7 0#8
    ++ (List.range 8).flatMap fun i =>
      let w := Tab.get windowDef t.windows i
      leBytes 8 w.base ++ leBytes 8 (w.limit + b2n w.enable)

/-- A context's word under prot_hash. -/
def ctxProtBytes (x : Ctx) : List Byte := leBytes 4 (x.slot.getD 0xFF + 256 * b2n x.noDrop + 2 ^ 16 * x.weight)

/-- prot_hash of the set-up in force. -/
def Main.protHash (m : Main) : List Byte :=
  sha512 ((List.range 255).flatMap (fun i => tenantBytes (Tab.get tenantDef m.prot.force i))
    ++ (List.range 3072).flatMap fun c => ctxProtBytes (m.ctx c))

/-- The first 512 bytes of a report (Table 19-3). -/
def Machine.State.reportHead (s : State) : List Byte :=
  let m := s.mn
  let keys := b2n (s.rc.revoked 0) + 2 * b2n (s.rc.revoked 1) + 4 * m.fld F.BOOT_STATUS_key_slot + 8 * b2n s.rc.fuseConf
  leBytes 4 0x54535441 ++ leBytes 2 0x0100 ++ leBytes 2 0x0400
    ++ leBytes 8 (Config.serial % 2 ^ 48 + Config.stepping % 256 * 2 ^ 48)
    ++ (List.range 16).flatMap (fun i => leBytes 4 (m.word (0xd040 + 4 * i)).toNat)
    ++ s.rc.measure ++ List.replicate (64 - s.rc.measure.length) 0#8
    ++ sha512 (s.la.image.getD [])
    ++ leBytes 4 (m.word 0x4).toNat ++ leBytes 4 s.rc.counter ++ leBytes 1 keys
    ++ leBytes 1 (b2n m.conf + 2 * m.fld F.RESET_CAUSE_forced) ++ leBytes 2 0
    ++ leBytes 4 m.prot.gen ++ m.protHash ++ leBytes 8 (m.kr.step % 2 ^ 48) ++ List.replicate 216 0#8

/-- ATTEST_GO (R426): sampled at once, or once the set-up is no longer pending and no sleep entry is under way. -/
def Machine.State.attestGo (s : State) : State :=
  let m := s.mn
  if m.attest ≠ .none then s
  else if m.protPending || m.sleepBusy then s.onMn fun m => { m with attest := .waiting }
  else s.onMn fun m => { m with attest := .sampled s.reportHead }

/-- ATTEST_DONE (R426, R427): the signed report is written to the buffer. The signature is the identity key's. -/
def Machine.State.attestDone (s : State) : State :=
  let m := s.mn
  let put := fun (head : List Byte) =>
    let sig := (List.range 512).map fun i => (Config.attestSign s.free head).getD i 0#8
    let base := m.pair 0xd014 0xd018 10
    { s with free := s.free + 1, mn := { (m.hostWr base (head.take 512 ++ sig)).setFld F.ATTEST_CTL_done 1 with attest := .none } }
  match m.attest with
  | .none => s
  | .waiting => if m.protPending || m.sleepBusy then s else put s.reportHead
  | .sampled head => put head

end Sys2Proof
end

