-- ==== Sys2Proof/Machine/Observe.lean ====
section
/-! DEFINITION. Strikes and snapshots (spec/21_observation.md R447 to R459) and the error mirror (spec/20_faults.md R437). -/

namespace Sys2Proof
open Machine

/-! ## The Latch island as a counter's home and in a wave -/

/-- HASP_STATUS as it reads (Table 15-8). -/
def Hasp.status (h : Hasp) : Word :=
  BitVec.ofNat 32 (b2n h.muted + 2 * b2n h.pin + 4 * b2n h.pinChanged + 8 * b2n h.unmuteRefused)

/-- WAKE_STATUS as it reads (Table 15-12). -/
def Latch.wakeStatus (a : Latch) : Word :=
  let stage := match a.cand with
    | some c => if c.st = .stage2 then 2 else 1
    | none => 0
  BitVec.ofNat 32 ((a.word 0xa03c).toNat / 4 % 8 * 4 + stage + 2 ^ 16 * (min 16 a.fifo.length))

/-- The counters of the Latch island. -/
def Latch.ctrs (a : Latch) : Tab Nat := [(0x48 * 4096, a.vldBusy), (0x49 * 4096, a.kwReject), (0x4A * 4096, a.wakeDrop)]

/-- The Latch island's snapshot from window offset 0x20 on (Table 21-2). -/
def Machine.State.latchBody (s : State) : List Byte :=
  leBytes 6 s.la.wake.next ++ leBytes 4 s.la.wakeStatus.toNat ++ leBytes 4 s.la.hasp.status.toNat
    ++ leBytes 4 (s.mn.word 0x3008).toNat ++ leBytes 4 (s.mn.word 0x300c).toNat ++ List.replicate 10 0#8
    ++ leBytes 6 s.la.vldBusy ++ leBytes 6 s.la.kwReject ++ leBytes 6 s.la.wakeDrop

/-- An island latches its snapshot with a hop ordinal, an origin and a source; with clear_on_strike its counters go to zero in the
same cycle (R454). -/
def Machine.State.latchIsland (s : State) (code hop origin source : Nat) : State :=
  if code ≠ 0xB0 then s.onMn fun m => m.latchSnap code hop origin source (m.snapBody code m.strk.fired) (m.islandCtrs code)
  else if s.mn.absent.contains code ∨ (s.mn.strk.snaps.any fun p => p.1 == code) then s
  else
    let t := s.onMn fun m => m.latchSnap code hop origin source s.latchBody s.la.ctrs
    if s.mn.bit F.STRIKE_CTL_clear_on_strike then t.onLa fun a => { a with vldBusy := 0, kwReject := 0, wakeDrop := 0 } else t

/-- A strike from a source at an origin (R447 to R449). -/
def Machine.State.strike (s : State) (src origin : Nat) : State :=
  let fires := (s.mn.strk.armed || s.mn.strikeJoins origin) && s.mn.strikeOn src
  let t := s.onMn fun m => m.strike src origin
  if fires && origin == 0xB0 then t.latchIsland 0xB0 0 0xB0 src else t

/-! ## Commands -/

/-- STRIKE_ARM (R448, R460): ignored until the wave is complete. -/
def Main.strikeArm (m : Main) : Main :=
  if m.strk.busy then m else { m with strk := { m.strk with armed := true, complete := false, snaps := [], expect := [] } }

/-- STRIKE_IN_EDGE (R447): a rising edge after `us` microseconds low. -/
def Main.strikeIn (m : Main) (us : Nat) : Main := if 1 ≤ us then m.strike 2 0x90 else m

/-- A counter of any island. -/
def Machine.State.counter (s : State) (id inst : Nat) : Nat :=
  if 0x48 ≤ id ∧ id ≤ 0x4A ∧ inst = 0 then Tab.get ctrDef s.la.ctrs (id * 4096) else s.mn.counter id inst

/-- Whether Table 21-3 gives a counter of this Id and instance. -/
def ctrGiven (id inst : Nat) : Bool :=
  if id = 0x01 ∨ id = 0x04 then decide (inst < 144)
  else if id < 0x08 ∨ id = 0x18 then decide (2 ≤ id) && decide (inst < 16)
  else if id = 0x08 ∨ id = 0x09 ∨ (0x10 ≤ id ∧ id ≤ 0x15) then decide (inst < 128)
  else if id = 0x20 then decide (inst < 64)
  else if id = 0x21 then decide (inst < 1024)
  else if id = 0x29 then decide (inst < 3072)
  else if id = 0x34 ∨ id = 0x35 then decide (1 ≤ inst ∧ inst ≤ 10)
  else if id = 0x38 then decide (inst < 4)
  else if id = 0x39 ∨ id = 0x3A then decide (inst < 32)
  else if id = 0x40 then decide (inst < 2)
  else if 0x50 ≤ id ∧ id ≤ 0x53 then decide (inst < 4)
  else if id = 0x54 then decide (inst < 16)
  else if [0x22, 0x23, 0x28, 0x30, 0x31, 0x32, 0x33, 0x41, 0x48, 0x49, 0x4A, 0x55, 0x58].contains id then inst == 0
  else false

/-- The value of a comparator (Table 21-8). -/
def Main.threshValue (m : Main) (i : Nat) : Nat :=
  (m.word (0xc044 + 0x10 * i)).toNat + (m.word (0xc048 + 0x10 * i)).toNat % 2 ^ 16 * 2 ^ 32

/-- THRESHOLD_STRIKE (R459): the comparator's counter has reached its value; it fires once until its THRESHi_SEL is written. -/
def Machine.State.threshold (s : State) (i : Nat) : State :=
  let m := s.mn
  let sel := (m.word (0xc040 + 0x10 * i)).toNat
  let id := sel % 256
  let inst := sel / 256 % 4096
  let v := m.threshValue i
  if !m.strikeOn 4 || m.strk.compFired.contains i || !ctrGiven id inst || v == 0 || decide (s.counter id inst < v)
      || m.absent.contains (ctrIsland id inst) then s
  else
    State.strike (s.onMn fun m => { m with strk := { m.strk with compFired := i :: m.strk.compFired } }) 4 (ctrIsland id inst)

/-- STRIKE_MARKER (R449, R452): the first marker from an island that latched with ordinal `hop` reaches an island, which records
that marker's origin. Where islands of this ordinal have different origins, which of them sent the marker is free. -/
def Machine.State.marker (s : State) (code hop : Nat) : State :=
  let k := s.mn.strk
  let senders := k.snaps.filter fun p => p.2.hop == hop
  match senders with
  | [] => s
  | p :: rest =>
    if !k.busy || !islandCodes.contains code then s
    else if rest.all fun q => q.2.origin == p.2.origin then s.latchIsland code (hop + 1) p.2.origin p.2.source
    else
      let x := (senders.getD (Config.freeNat s.free % senders.length) p).2
      State.latchIsland { s with free := s.free + 1 } code (hop + 1) x.origin x.source

/-- STRIKE_DONE_BUNDLE (R450, R451): an island that latched reports, with its in-flight counts; the wave is complete once no
powered island is missing. -/
def Main.strikeDone (m : Main) (code inFlight : Nat) : Main :=
  let k := m.strk
  if !k.busy || !k.expect.contains code || !(k.snaps.any fun p => p.1 == code) then m
  else
    let sn := Tab.get (fun _ => {}) k.snaps code
    let expect := (k.expect.filter (· != code)).filter fun c => !m.absent.contains c
    let done := expect.isEmpty
    { m with strk := { k with
      expect := expect, busy := !done, complete := done
      snaps := Tab.put (fun _ => {}) code { sn with inFlight := inFlight % 2 ^ 128 } k.snaps } }

/-- STRIKE_OUT_PULSE_END (R453). -/
def Main.strikeOutEnd (m : Main) : Main := { m with strk := { m.strk with outHigh := false } }

/-- THRESH_SEL_WRITE (R459). -/
def Main.threshSel (m : Main) (i : Nat) (v : Word) : Main :=
  { m.setWord (0xc040 + 0x10 * i) (v &&& 0xfffff#32) with
    strk := { m.strk with compFired := m.strk.compFired.filter (· != i) } }

/-- ERR_MIRROR_COPY (R437): the oldest due record goes to its place in the mirror ring while the ring has room; the phase turns on
each pass. -/
def Main.mirrorCopy (m : Main) : Main :=
  match m.err.due with
  | [] => m
  | n :: rest =>
    let order := ringOrder (m.fld F.ERR_RING_LO_order) 4 16 6
    let i := n % 2 ^ order
    if ringFull order i (m.fld F.ERR_RING_IDX_tail) then m
    else
      let bs := Tab.get winDef m.err.window (n % 64)
      let phase := b2n (n / 2 ^ order % 2 == 0)
      let bs := bs.take 31 ++ [BitVec.ofNat 8 (leNat (bs.drop 31) % 128 + 128 * phase)]
      let m := m.hostWr (m.pair 0xe010 0xe014 12 + i * 32) bs
      let m := { m with err := { m.err with due := rest, head := (i + 1) % 2 ^ order } }
      if m.bit F.ERR_CTL_irq ∧ 2 ≤ leNat ((bs.drop 4).take 1) / 16 then m.raise (m.fld F.ERR_CTL_vector) else m

end Sys2Proof
end

