-- ==== Sys2Proof/Machine/RegRead.lean ====
section
/-! DEFINITION. BAR0 as it reads (spec/22_registers.md R462 to R471): stored words with the fields that show state, the windows,
and the latched pairs. -/

namespace Sys2Proof
open Machine

/-- A word put together from (lowest bit, width, value). -/
def packW (l : List (Nat × Nat × Nat)) : Word := BitVec.ofNat 32 ((l.map fun p => p.2.2 % 2 ^ p.2.1 * 2 ^ p.1).sum)

/-- A signed number in so many bits. -/
def sbits (n : Nat) (i : Int) : Nat := (i % (2 ^ n : Nat)).toNat

/-- A signed number saturated to 32 bits. -/
def sat32 (i : Int) : Word := BitVec.ofInt 32 (max (-(2 ^ 31)) (min (2 ^ 31 - 1) i))

/-! ## Blocks of the Latch island and the reset controller -/

/-- The identity block (Table 22-2). -/
def Machine.State.readIdn (s : State) (off : Nat) : Word :=
  match off with
  | 0x0 => packW [(0, 16, 0x9512), (16, 8, Config.stepping)]
  | 0x4 => s.mn.word 0x4
  | 0x8 => BitVec.ofNat 32 Config.serial
  | 0xc => BitVec.ofNat 32 (Config.serial / 2 ^ 32 % 2 ^ 16)
  | 0x10 => packW [(0, 8, s.la.psram0), (8, 8, s.la.psram1)]
  | _ => 0

/-- Islands with a temperature, hottest first found at the lowest code (Table 17-12). -/
def Main.hottest (m : Main) : Nat × Int :=
  (List.range 0x91).foldl (fun (b : Nat × Int) c => if b.2 < (m.thermOf c).temp then (c, (m.thermOf c).temp) else b)
    (0, (m.thermOf 0).temp)

/-- The power block (Table 12-20, Tables 17-10 to 17-13). -/
def Machine.State.readPower (s : State) (off : Nat) : Word :=
  let m := s.mn
  let w := m.word off
  match off with
  | 0x3000 => F.PLEVEL_CTL_settled.into 1 (F.PLEVEL_CTL_cap_now.into m.capNow w)
  | 0x3008 =>
    if m.sleepBusy && m.sleepState == 0 then F.SLEEP_STATUS_blocker.into ((m.sleepDelays s.rc.blkWard).headD 0) w else w
  | 0x3018 =>
    let h := m.hottest
    packW [(0, 8, sbits 8 h.2), (8, 8, h.1), (16, 1, m.fld F.THERM_STATUS_alert),
           (17, 1, b2n (m.therm.any fun p => decide (m.capNow < p.2.lvl)))]
  | _ => if (regAt off).isSome then w else 0

/-- The reset block (Tables 18-11 to 18-15). -/
def Machine.State.readReset (s : State) (off : Nat) : Word :=
  let w := s.mn.word off
  match off with
  | 0x4008 => F.BLOCK_RESET_busy.into (b2n (s.rc.blk.isSome || !s.rc.queue.isEmpty)) w
  | _ => if (regAt off).isSome then w else 0

/-- The audio and hasp block (Tables 15-8 to 15-12). -/
def Latch.read (a : Latch) (off : Nat) : Word :=
  let idx := fun (i : Nat) (head : Nat) => (F.ARING_IDX_head i).into head (a.word off)
  let run := fun (i : Nat) (on : Bool) => packW [(2, 1, b2n (if i = 0 then a.bit (F.ARING_CTL_running 0) else on))]
  match off with
  | 0xa000 => packW [(0, 1, b2n a.hasp.mute), (8, 8, a.hasp.settle)]
  | 0xa004 => a.hasp.status
  | 0xa03c => a.wakeStatus
  | 0xa040 => BitVec.ofNat 32 a.wake.next
  | 0xa044 => a.hiLatch.getD (BitVec.ofNat 32 (a.wake.next / 2 ^ 32 % 2 ^ 16))
  | 0xa058 => idx 0 a.wakeRing.head
  | 0xa068 => idx 1 a.stream.ring.head
  | 0xa078 => idx 2 a.cap0.ring.head
  | 0xa088 => idx 3 a.cap1.ring.head
  | 0xa05c => run 0 false
  | 0xa06c => run 1 a.stream.running
  | 0xa07c => run 2 a.cap0.running
  | 0xa08c => run 3 a.cap1.running
  | _ => if (regAt off).isSome then a.word off else 0

/-! ## Blocks of the Warden's domain -/

/-- A _HI half: as latched, or the present one (R465). -/
def Main.hiHalf (m : Main) (off value : Nat) : Word :=
  match m.latched.find? fun p => p.1 == off with
  | some p => p.2
  | none => BitVec.ofNat 32 (value / 2 ^ 32 % 2 ^ 16)

/-- The protection block (Tables 19-7 to 19-9). -/
def Main.readProt (m : Main) (off : Nat) : Word :=
  let t := m.tenantWritten
  let w := m.windowWritten
  match off with
  | 0x1004 => F.PROT_STATUS_pending.into (b2n m.protPending) (m.word off)
  | 0x1008 => BitVec.ofNat 32 m.prot.gen
  | 0x1014 => packW [(0, 20, t.pasid), (20, 1, b2n t.valid), (21, 1, b2n t.publish), (22, 1, b2n t.solo)]
  | 0x1018 => packW [(0, 21, t.quota)]
  | 0x101c => packW [(0, 21, if t.valid then m.tenantHeld t.pasid else 0)]
  | 0x1024 => BitVec.ofNat 32 w.base
  | 0x1028 => BitVec.ofNat 32 (w.base / 2 ^ 32)
  | 0x102c => BitVec.ofNat 32 (w.limit + b2n w.enable)
  | 0x1030 => BitVec.ofNat 32 (w.limit / 2 ^ 32)
  | _ => m.word off

/-- The Keyring and host-interface block (Tables 10-8 to 10-13, 12-21, 12-22). -/
def Main.readKey (m : Main) (off : Nat) : Word :=
  let c := m.selected
  let x := m.ctx c
  match off with
  | 0x5004 => BitVec.ofNat 32 m.kr.step
  | 0x5008 => m.hiHalf off m.kr.step
  | 0x5014 =>
    let b := if x.resident then x.berth.getD (0, 0, 0) else (0, 0, 0)
    packW [(0, 3, ctxStateCode x.state), (3, 3, ctxCauseCode x.cause), (6, 1, b2n x.version), (7, 1, b2n x.recompute),
           (8, 1, b2n x.cutIn), (9, 1, b2n x.imageValid), (10, 1, x.imageSlot), (11, 1, b2n x.restoreGuard),
           (12, 12, b.2.2), (24, 4, leadOf b.2.1)]
  | 0x5018 => packW [(0, 20, if x.state = .free then 0 else x.tenant)]
  | 0x501c => sat32 ((m.balance c).fdiv (2 ^ 20 : Nat))
  | 0x5020 => BitVec.ofNat 32 x.kvLimit
  | 0x5024 => BitVec.ofNat 32 x.lastCommit
  | 0x5028 => BitVec.ofNat 32 x.charged
  | 0x502c => m.hiHalf off x.charged
  | 0x5030 => let n := x.nextShare.getD (x.weight, x.noDrop); packW [(0, 16, n.1), (16, 1, b2n n.2)]
  | _ => m.word off

/-- Pages of the pool in SCRUB and in FREE. -/
def Main.poolCounts (m : Main) : Nat × Nat :=
  let n := m.fld F.PAGE_POOL_SIZE_pages
  let listed := m.pages.filter fun p => decide (p.1 < n)
  let free := (listed.filter fun p => match p.2.st with | .free _ => true | _ => false).length
  let other := (listed.filter fun p => p.2.st != .scrub).length
  (n - other, free)

/-- The memory block (Tables 6-10 to 6-14, 9-10, 9-11). -/
def Main.readMem (m : Main) (off : Nat) : Word :=
  match off with
  | 0x6000 => m.memStatus
  | 0x6028 => packW [(0, 21, m.poolCounts.2)]
  | 0x602c => packW [(0, 21, m.poolCounts.1), (21, 1, m.fld F.KV_STATUS_exhausted)]
  | _ => m.word off

/-- The camera block's fields that show state (Tables 16-10, 16-11). -/
def Main.readCam (m : Main) (off : Nat) : Word :=
  if off = 0xb028 then F.CAM_STATS_IDX_head.into m.cam.stats.head (m.word off)
  else if 0xbe00 ≤ off then
    let c := (off - 0xbe00) / 0x40
    let x := m.i3c c
    match (off - 0xbe00) % 0x40 with
    | 0x8 => BitVec.ofNat 32 (leNat (x.rx.take 4))
    | 0xc =>
      let w := (F.I3C_STAT_busy c).into (b2n (!x.cmds.isEmpty)) (m.word off)
      (F.I3C_STAT_rx_count c).into x.rx.length ((F.I3C_STAT_cmd_free c).into (8 - x.cmds.length) w)
    | _ => m.word off
  else m.word off

/-- Whether Table 21-3 zeroes a counter in confidential mode. -/
def ctrClosed (id : Nat) : Bool := decide (id ≤ 0x15) || id == 0x21

/-- A counter's live value, and its value in the last snapshot of its island (R458). -/
def Machine.State.cntLive (s : State) : Nat :=
  let id := s.mn.fld F.CNT_SELECT_id
  let inst := s.mn.fld F.CNT_SELECT_instance
  let (id, inst) := if id = 0x35 ∧ inst = 1 then (0x33, 0) else (id, inst)
  if !ctrGiven id inst || (s.mn.conf && ctrClosed id) then 0 else s.counter id inst

/-- As cntLive, from the snapshot held. -/
def Machine.State.cntSnap (s : State) : Nat :=
  let id := s.mn.fld F.CNT_SELECT_id
  let inst := s.mn.fld F.CNT_SELECT_instance
  let (id, inst) := if id = 0x35 ∧ inst = 1 then (0x33, 0) else (id, inst)
  if !ctrGiven id inst || s.mn.conf then 0
  else match s.mn.strk.snaps.find? fun p => p.1 == ctrIsland id inst with
    | some p => Tab.get ctrDef p.2.ctrs (id * 4096 + inst)
    | none => 0

/-- The snapshot window of the selected island (Tables 21-1, 21-2): 256 bytes; all zero in confidential mode (R455). -/
def Main.snapWindow (m : Main) : List Byte :=
  let code := m.fld F.SNAP_SELECT_island
  let k := m.strk
  if m.conf then []
  else match k.snaps.find? fun p => p.1 == code with
    | some (_, sn) =>
      leBytes 1 code ++ leBytes 1 sn.flags ++ leBytes 1 sn.hop ++ leBytes 1 sn.origin ++ leBytes 1 sn.source
        ++ List.replicate 11 0#8 ++ leBytes 16 sn.inFlight ++ sn.body
    | none =>
      if (k.busy || k.complete) && islandCodes.contains code && !k.expect.contains code then leBytes 1 code ++ leBytes 1 2 else []

/-- A word of a window of bytes. -/
def windowWord (bs : List Byte) (at4 : Nat) : Word := BitVec.ofNat 32 (leNat ((bs.drop at4).take 4))

/-- The strike block (Tables 21-6 to 21-8). -/
def Machine.State.readStrike (s : State) (off : Nat) : Word :=
  let m := s.mn
  let k := m.strk
  if 0xc400 ≤ off ∧ off < 0xc500 then windowWord m.snapWindow (off - 0xc400)
  else match off with
    | 0xc004 => packW [(0, 1, b2n k.armed), (1, 1, b2n k.busy), (2, 1, b2n k.complete), (8, 4, k.source), (12, 8, k.origin),
                       (20, 8, k.snaps.length)]
    | 0xc008 => packW [(0, 16, k.fired), (16, 16, k.missed)]
    | 0xc00c => BitVec.ofNat 32 k.errIndex
    | 0xc014 => BitVec.ofNat 32 s.cntLive
    | 0xc018 => m.hiHalf off s.cntLive
    | 0xc01c => BitVec.ofNat 32 s.cntSnap
    | 0xc020 => m.hiHalf off s.cntSnap
    | _ => m.word off

/-- Registers of the security and error blocks that the reset controller holds (R432, R446). -/
def Machine.State.readKept (s : State) (off : Nat) : Word :=
  match off with
  | 0xd000 => packW [(0, 1, b2n s.mn.conf), (1, 1, b2n s.rc.fuseConf)]
  | 0xd004 => packW [(0, 7, s.rc.counter), (8, 1, b2n (s.rc.revoked 0)), (9, 1, b2n (s.rc.revoked 1))]
  | 0xd008 => s.mn.word off
  | _ => packW [(0, 16, s.mn.fence.fenced), (16, 16, s.mn.fence.clock)]

/-- The rest of the security and error blocks (Tables 19-11, 20-9, 20-10). -/
def Main.readSecErr (m : Main) (off : Nat) : Word :=
  if 0xd400 ≤ off ∧ off < 0xe000 then windowWord (Config.certificate.take 3072) (off - 0xd400)
  else if 0xe800 ≤ off ∧ off < 0xf000 then
    windowWord (Tab.get winDef m.err.window ((off - 0xe800) / 32)) ((off - 0xe800) % 32)
  else match off with
    | 0xd010 => F.ATTEST_CTL_busy.into (b2n (m.attest != .none)) (m.word off)
    | 0xd01c => BitVec.ofNat 32 (min 3072 Config.certificate.length)
    | 0xe004 => F.ERR_STATUS_lost.into m.err.lost (m.word off)
    | 0xe008 => BitVec.ofNat 32 m.err.next
    | 0xe018 => F.ERR_RING_IDX_head.into m.err.head (m.word off)
    | _ => m.word off

/-- WARD_STATUS (Table 22-3). -/
def Main.wardStatus (m : Main) (w : Nat) : Word :=
  let x := m.ward w
  let inst := m.instOn w
  let switching := m.kr.switches.any fun k => k.started && k.mask / 2 ^ w % 2 == 1
  let st := if x.lane.isSome then 4
    else match inst with
      | some p => if p.2.loadedWards.contains w then 2 else 3
      | none => if switching then 3 else 1
  let set := m.kr.sets.find? fun b => b.mask / 2 ^ w % 2 == 1
  packW [(0, 3, st), (3, 3, m.islandLevel (0x80 + w)), (6, 3, (m.thermOf (0x80 + w)).lvl), (9, 1, b2n set.isSome),
         (10, 4, (set.map fun b => leadOf b.mask).getD 0), (14, 1, b2n (!x.holds.isEmpty)),
         (15, 1, b2n ((inst.map fun p => !p.2.heldRegions.isEmpty).getD false)),
         (16, 12, x.loaded.getD 0), (28, 1, b2n x.loaded.isSome)]

/-- The step and round a ward shows: zero at a boundary. -/
def Main.wardStep (m : Main) (w : Nat) : Nat := match m.instOn w with | some p => p.2.step % 2 ^ 48 + p.2.round * 2 ^ 48 | none => 0

/-- A ward's block (Table 22-3). -/
def Main.readWard (m : Main) (off : Nat) : Word :=
  let w := (off - 0x10000) / 0x1000
  match (off - 0x10000) % 0x1000 with
  | 0x0 => m.wardStatus w
  | 0x4 => BitVec.ofNat 32 (m.wardStep w)
  | 0x8 => match m.latched.find? fun p => p.1 == off with
    | some p => p.2
    | none => BitVec.ofNat 32 (m.wardStep w / 2 ^ 32)
  | 0xc => m.word off
  | _ => 0

/-- A cylinder's block (Tables 3-7, 3-8, 22-4). -/
def Main.readCyl (m : Main) (off : Nat) : Word :=
  let c := (off - 0x20000) / 0x400
  match (off - 0x20000) % 0x400 with
  | 0x0 => m.cylStatus c
  | 0x4 => packW [(0, 3, m.islandLevel c), (3, 3, (m.thermOf c).lvl), (6, 8, sbits 8 (m.thermOf c).temp)]
  | 0x8 => m.word off
  | 0xc => m.word off
  | _ => 0

/-- Codes of the lane states (Table 11-7). -/
def laneStCode : LaneSt → Nat
  | .idle => 0 | .reserved => 1 | .running => 2 | .stopping => 3

/-- A Frame Lane's block (Tables 11-6 to 11-8). -/
def Main.readLane (m : Main) (off : Nat) : Word :=
  let l := (off - 0x40000) / 0x100
  let x := m.lane l
  match (off - 0x40000) % 0x100 with
  | 0x4 => packW [(0, 2, laneStCode x.st), (2, 1, m.fld (F.LANE_STATUS_cfg_err l)), (3, 3, x.level), (16, 16, x.dropped)]
  | 0x8 => BitVec.ofNat 32 x.tick
  | 0xc => m.hiHalf off x.tick
  | 0x18 => (F.LANE_RING_IDX_head l).into x.head (m.word off)
  | _ => m.word off

/-- Registers of the Warden's domain that show state of their own. -/
def Machine.State.readWarden (s : State) (off : Nat) : Word :=
  let m := s.mn
  if off < 0x2000 then m.readProt off
  else if off < 0x3000 then (if off = 0x202c then m.svcStatus else m.word off)
  else if off < 0x6000 then m.readKey off
  else if off < 0x7000 then m.readMem off
  else if off < 0x8000 then
    match off with
    | 0x7004 => packW [(0, 1, b2n m.kw.running.isSome), (1, 1, m.fld F.KEYWAY_STATUS_table_err), (16, 16, min 0xFFFF m.kw.queue.length)]
    | 0x7008 => BitVec.ofNat 32 m.kw.passes
    | _ => m.word off
  else if off < 0x9000 then (if off = 0x8010 then packW [(0, 16, m.clip.head)] else m.word off)
  else if off < 0xa000 then
    (if off = 0x900c then F.LANIZA_GEN_own_floor.into m.ownFloor (F.LANIZA_GEN_own_max.into m.ownMax (m.word off)) else m.word off)
  else if off < 0xc000 then m.readCam off
  else if off < 0xd000 then s.readStrike off
  else if off < 0xf000 then m.readSecErr off
  else m.readLane off

/-- Offsets that a window covers rather than a register of Table 22-1. -/
def inWindowOff (off : Nat) : Bool :=
  decide (0xc400 ≤ off ∧ off < 0xc500) || decide (0xd400 ≤ off ∧ off < 0xe000) || decide (0xe800 ≤ off ∧ off < 0xf000)

/-- A word of BAR0 as it reads (R462, R463): zero at an offset no table defines, and in a block whose island is unpowered, held,
clamped or fenced. CYL_STATUS.suspect_count reads always (R471). -/
def Machine.State.readReg (s : State) (off : Nat) : Word :=
  if off % 4 ≠ 0 ∨ !((regAt off).isSome || inWindowOff off || decide (0x308000 ≤ off ∧ off < 0x308100)) then 0
  else if 0x308000 ≤ off ∧ off < 0x308100 then
    packW ((List.range 32).map fun i => (i, 1, b2n (s.mn.pba.contains ((off - 0x308000) * 8 + i))))
  else if 0x300000 ≤ off then s.mn.word off
  else if off < 0x1000 then s.readIdn off
  else if 0x3000 ≤ off ∧ off < 0x4000 then s.readPower off
  else if 0x4000 ≤ off ∧ off < 0x5000 then s.readReset off
  else if 0xa000 ≤ off ∧ off < 0xb000 then s.la.read off
  else if off = 0xd000 ∨ off = 0xd004 ∨ off = 0xd008 ∨ off = 0xe00c then s.readKept off
  else if 0x20000 ≤ off ∧ off < 0x40000 then
    if s.islandUp ((off - 0x20000) / 0x400) then s.mn.readCyl off
    else if off % 0x400 = 0 then packW [(0, 2, min 3 (Tab.get ctrDef s.mn.fence.suspect ((off - 0x20000) / 0x400)))]
    else 0
  else if !s.wardenUp then 0
  else if 0x10000 ≤ off ∧ off < 0x20000 then (if s.islandUp (0x80 + (off - 0x10000) / 0x1000) then s.mn.readWard off else 0)
  else s.readWarden off

/-- The _HI register of a latched pair, by its _LO (R465). -/
def hiOf (lo : Nat) : Option Nat :=
  if [0x5004, 0x5028, 0xa040, 0xc014, 0xc01c].contains lo then some (lo + 4)
  else if 0x40000 ≤ lo ∧ lo < 0x40400 ∧ lo % 0x100 = 8 then some (lo + 4)
  else if 0x10000 ≤ lo ∧ lo < 0x20000 ∧ lo % 0x1000 = 4 then some (lo + 4)
  else none

/-- The effect of a read on the register file (R465, Table 16-11): a _LO of a latched pair latches the _HI half of the same value;
a read of I3C_DATA takes four bytes from the receive FIFO. -/
def Machine.State.readEffect (s : State) (off : Nat) : State :=
  if off = 0xa040 then s.onLa fun a => { a with hiLatch := some (BitVec.ofNat 32 (a.wake.next / 2 ^ 32 % 2 ^ 16)) }
  else if 0xbe00 ≤ off ∧ off < 0xbf00 ∧ off % 0x40 = 8 then
    let c := (off - 0xbe00) / 0x40
    s.onMn fun m => m.setI3c c { m.i3c c with rx := (m.i3c c).rx.drop 4 }
  else match hiOf off with
    | some hi =>
      let fresh := s.onMn fun m => { m with latched := m.latched.filter fun p => p.1 != hi }
      fresh.onMn fun m => { m with latched := (hi, fresh.readReg hi) :: m.latched }
    | none => s

/-- LATCHED_LO_READ: a read of BAR0, with what it answers. A read of a block of the Warden's domain in S1 to S4 is wake source 4
and has no other effect (R463). -/
def Machine.State.readBar (s : State) (off : Nat) : State :=
  if !s.rc.barUp then s
  else
    let bs := leBytes 4 (s.readReg off).toNat
    let own := decide (off < 0x1000) || decide (0x3000 ≤ off ∧ off < 0x5000) || decide (0xa000 ≤ off ∧ off < 0xb000)
    if s.mn.sleepState = 0 then (s.readEffect off).answer bs
    else if own then ((s.wakeFrom 4).readEffect off).answer bs
    else (s.wakeFrom 4).answer bs

end Sys2Proof
end

