-- ==== Sys2Proof/Machine/RegWrite.lean ====
section
/-! DEFINITION. BAR0 as it is written (spec/22_registers.md R462 to R467): fields by their access type, the registers whose write
has an effect of its own, and the SDIO card's function registers (R472 to R476). -/

namespace Sys2Proof
open Machine

/-! ## Fields by access type -/

/-- A register's word after a write: RW fields, RWL fields while the lock is clear, W1C fields cleared by ones. -/
def RegDef.after (d : RegDef) (locked : Bool) (old v : Word) : Word :=
  let w := maskMerge (if locked then d.rw else d.rw ||| d.rwl) old v
  w &&& ~~~(v &&& BitVec.ofNat 32 d.w1c)

/-- A write of a register of the Warden's domain or the reset controller that has no other effect. -/
def Main.putReg (m : Main) (off : Nat) (v : Word) : Main :=
  match regAt off with
  | some d => m.setWord off (d.after (m.bit F.PROT_CTL_lock) (m.word off) v)
  | none => m

/-- A write of such a register of the Latch island. -/
def Latch.putReg (a : Latch) (off : Nat) (v : Word) : Latch :=
  match regAt off with
  | some d => a.setWord off (d.after false (a.word off) v)
  | none => a

/-- A write that leaves the bits of `keep` as they are. -/
def Main.putKeep (m : Main) (keep : Nat) (off : Nat) (v : Word) : Main := m.putReg off (maskMerge keep v (m.word off))

/-! ## Blocks -/

/-- A wake candidate's requests whose service ring is gone take their timeout outcome (R305). -/
def Machine.State.lapseSvc (s : State) (f : Main → Main × List HingeReq) : State :=
  let (m, rs) := f s.mn
  rs.foldl (fun (s : State) (r : HingeReq) => if r.hinge = 6 then s.h6Take r true true else s) { s with mn := m }

/-- The protection block. -/
def Main.putProt (m : Main) (off : Nat) (v : Word) : Main :=
  match off with
  | 0x1000 => m.protCtl v
  | 0x1040 => if F.CTX_BIND_op.of v = 1 then m.ctxBind v else if F.CTX_BIND_op.of v = 2 then m.ctxUnbind v else m
  | _ => if [0x1014, 0x1018, 0x1024, 0x1028, 0x102c, 0x1030].contains off then m.protWrite off v else m.putReg off v

/-- The hinge block (R306): bases are ignored while SVC_CTL.enable is set. -/
def Machine.State.putHinge (s : State) (off : Nat) (v : Word) : State :=
  match off with
  | 0x2000 => s.onMn fun m => m.hingeCtl v
  | 0x2008 => s.lapseSvc fun m => m.svcCtlWrite v
  | 0x2028 => s.onMn fun m => m.svcDb v
  | _ => s.onMn fun m => if 0x2010 ≤ off ∧ off ≤ 0x2024 ∧ m.bit F.SVC_CTL_enable then m else m.putReg off v

/-- R387: whether the 256 units of a sleep image overlap no area and no region, within 72 GiB. -/
def Main.sleepImgOk (m : Main) (base : Nat) : Bool :=
  decide (base + 256 ≤ stackUnits) && !(m.areas.any fun a => spanHits base 256 a.1 a.2) && !m.hitsRegion base 256

/-- The power block (Table 12-20, Tables 17-10 to 17-13). -/
def Machine.State.putPower (s : State) (off : Nat) (v : Word) : State :=
  match off with
  | 0x3000 => s.onMn fun m => m.capWrite v
  | 0x3004 => if F.SLEEP_CTL_go.of v = 1 then s.sleepGo v else s.onMn fun m => m.putReg off v
  | 0x3018 =>
    let t := s.onMn fun m => m.putReg off v
    if F.THERM_STATUS_alert.of v = 1 then t.onLa fun a => { a with alertPin := false } else t
  | 0x301c =>
    s.onMn fun m =>
      if m.bit F.PROT_CTL_lock then m
      else if m.sleepImgOk (F.SLEEP_IMG_base.of v) then m.putReg off v
      else m.setFld F.MEM_STATUS_cfg_err 1
  | _ => s.onMn fun m => m.putReg off v

/-- BOOT_CTL (Table 18-13): the granules, and a fetch. -/
def Machine.State.putBootCtl (s : State) (v : Word) : State :=
  let s := s.onMn fun m => m.putReg 0x402c v
  if F.BOOT_CTL_go.of v = 1 then s.bootGo else s

/-- The reset block (Tables 18-11 to 18-15). -/
def Machine.State.putReset (s : State) (off : Nat) (v : Word) : State :=
  match off with
  | 0x4008 => s.blockGo v
  | 0x4010 => if F.RESET_CTL_warm.of v = 1 then s.softReset (F.RESET_CTL_reload.of v == 1) false else s
  | 0x4018 => (s.onMn fun m => m.putReg off v).resetForce v
  | 0x402c => s.putBootCtl v
  | _ => s.onMn fun m => m.putReg off v

/-- Whether recovery may start (R287; Table 18-8, order 6): the boot flow is over. -/
def Main.mayRecover (m : Main) : Bool := m.fld F.BOOT_STATUS_stage == 3

/-- RECOVER. -/
def Main.recover (m : Main) : Main := if m.mayRecover then m.doRecover else m

/-- The Keyring and host-interface block (Tables 10-8 to 10-13, 12-21, 12-22). -/
def Main.putKey (m : Main) (off : Nat) (v : Word) : Main :=
  match off with
  | 0x5000 =>
    let keep := if m.ctxs.any fun p => p.2.imageValid then 0xffc else 0
    let m := m.putKeep keep off v
    { m with kr := { m.kr with event := true } }
  | 0x5030 => m.shareWrite v
  | 0x5034 => if F.CTX_CMD_op.of v = 1 then m.ctxRelease else if F.CTX_CMD_op.of v = 2 then m.ctxEvict else m
  | 0x5040 => let m := m.putReg off v; if F.HOST_CTL_recover.of v = 1 then m.recover else m
  | _ => m.putReg off v

/-- The clip-statistics block (Tables 5-4 to 5-7): the ring starts afresh when enable goes from 0 to 1. -/
def Main.putClip (m : Main) (off : Nat) (v : Word) : Main :=
  if off = 0x8000 ∧ v.getLsbD 0 ∧ !m.bit F.CLIP_STAT_CTL_enable then { m.putReg off v with clip := {} }
  else if (off = 0x8008 ∨ off = 0x800c) ∧ m.bit F.CLIP_STAT_CTL_enable then m
  else m.putReg off v

/-- The Laniza block (Tables 14-8 to 14-11): a port disabled goes down. -/
def Main.putLz (m : Main) (off : Nat) (v : Word) : Main :=
  if off ≠ 0x9004 then m.putReg off v
  else
    let m := m.putReg off v
    let m := if m.bit F.LANIZA_CTL_up_en then m else m.portChange 0 0
    let m := if m.bit F.LANIZA_CTL_down_en then m else m.portChange 1 0
    if F.LANIZA_CTL_rewalk.of v = 1 then m.rewalk else m

/-- The ring that an index of the audio block's ring registers names (Table 15-12). -/
def aringOf (i : Nat) : ARing :=
  match i with
  | 0 => .wake
  | 1 => .stream
  | 2 => .capture0
  | _ => .capture1

/-- Whether an audio ring runs. -/
def Latch.ringRuns (a : Latch) (i : Nat) : Bool :=
  if i = 0 then a.bit (F.ARING_CTL_running 0) else (a.streamOf (aringOf i)).running

/-- A write of an audio ring's _CTL register. -/
def Machine.State.ringCtl (s : State) (r : ARing) (v : Word) : State :=
  let s := if v.getLsbD 0 then s.streamStart r else s
  if v.getLsbD 1 then s.streamStop r else s

/-- The audio and hasp block (Tables 15-8 to 15-12). VERIFY_CTL has a command of its own. -/
def Machine.State.putAudio (s : State) (off : Nat) (v : Word) : State :=
  let i := (off - 0xa050) / 0x10
  if off = 0xa000 then s.muteWrite v
  else if off = 0xa004 then
    s.onLa fun a => { a with hasp := { a.hasp with
      pinChanged := a.hasp.pinChanged && !v.getLsbD 2, unmuteRefused := a.hasp.unmuteRefused && !v.getLsbD 3 } }
  else if off = 0xa010 ∨ off = 0xa014 then s.onLa fun a => a.pdmWrite ((off - 0xa010) / 4) v s.g1Off
  else if off = 0xa018 then State.redrive (s.onLa fun a => a.putReg off v)
  else if off < 0xa050 ∨ 0xa090 ≤ off then s.onLa fun a => a.putReg off v
  else
    match off % 0x10 with
    | 0x0 => s.onLa fun a => a.putReg off (if a.ringRuns i then maskMerge 0xfffff000 v (a.word off) else v)
    | 0x4 => s.onLa fun a => if a.ringRuns i then a else a.putReg off v
    | 0x8 => State.drainRecords (s.onLa fun a => a.putReg off v)
    | 0xc => s.ringCtl (aringOf i) v
    | _ => s

/-- The camera block (Tables 16-7, 16-10, 16-11): the statistics ring's base is ignored while stats_en is set. -/
def Main.putCam (m : Main) (off : Nat) (v : Word) : Main :=
  if off = 0xb020 then m.putKeep (if m.bit F.CAM_CTL_stats_en then 0xffffc000 else 0) off v
  else if off = 0xb024 then (if m.bit F.CAM_CTL_stats_en then m else m.putReg off v)
  else if 0xb100 ≤ off ∧ off < 0xb500 ∧ off % 0x40 = 0 then m.lsEnable ((off - 0xb100) / 0x40) v
  else if 0xbe00 ≤ off ∧ off % 0x40 = 4 then m.i3cCmd ((off - 0xbe00) / 0x40) v
  else if 0xbe00 ≤ off ∧ off % 0x40 = 8 then m.i3cData ((off - 0xbe00) / 0x40) v
  else m.putReg off v

/-- The strike block (Tables 21-6 to 21-8): settings first, then arm, then fire. -/
def Machine.State.putStrike (s : State) (off : Nat) (v : Word) : State :=
  if off = 0xc000 then
    let s := s.onMn fun m => m.putReg off v
    let s := if v.getLsbD 0 then s.onMn Main.strikeArm else s
    if v.getLsbD 1 then s.strike 1 0x90 else s
  else if 0xc040 ≤ off ∧ off < 0xc080 ∧ off % 0x10 = 0 then s.onMn fun m => m.threshSel ((off - 0xc040) / 0x10) v
  else s.onMn fun m => m.putReg off v

/-- The security and error blocks (Tables 19-10 to 19-12, 20-9, 20-10). -/
def Machine.State.putSecErr (s : State) (off : Nat) (v : Word) : State :=
  match off with
  | 0xd010 =>
    let s := s.onMn fun m => m.putReg off v
    if v.getLsbD 0 then s.attestGo else s
  | 0xe010 => s.onMn fun m => m.putKeep (if m.bit F.ERR_CTL_mirror then 0xfffff000 else 0) off v
  | 0xe014 => s.onMn fun m => if m.bit F.ERR_CTL_mirror then m else m.putReg off v
  | _ => s.onMn fun m => m.putReg off v

/-- A Frame Lane's block (Tables 11-6 to 11-8). -/
def Main.putLane (m : Main) (off : Nat) (v : Word) : Main :=
  let l := (off - 0x40000) / 0x100
  let runs := (m.lane l).st == .running || (m.lane l).st == .stopping
  match (off - 0x40000) % 0x100 with
  | 0x0 =>
    if v.getLsbD 0 then m.laneReserve l v
    else if m.bit (F.LANE_CTL_reserve l) then (m.laneCtlRw l v).laneUnreserve l
    else m.putReg off v
  | 0x10 => m.putKeep (if runs then 0xffffffc0 else 0) off v
  | 0x14 => if runs then m else m.putReg off v
  | _ => m.putReg off v

/-- The MSI-X table (PCIe 6.0, R462): a pending message goes when its mask bit is cleared. -/
def Main.putMsix (m : Main) (off : Nat) (v : Word) : Main :=
  let m := m.putReg off v
  let n := (off - 0x300000) / 0x10
  if m.pba.contains n ∧ !m.masked n then { m with pba := m.pba.filter (· != n), msgs := m.msgs ++ [n] } else m

/-- Registers of the Warden's domain. -/
def Machine.State.putWarden (s : State) (off : Nat) (v : Word) : State :=
  if off < 0x2000 then s.onMn fun m => m.putProt off v
  else if off < 0x3000 then s.putHinge off v
  else if off < 0x6000 then s.onMn fun m => m.putKey off v
  else if 0x6008 ≤ off ∧ off ≤ 0x601c then s.onMn fun m => m.areaWrite off v
  else if off < 0x8000 then s.onMn fun m => m.putReg off v
  else if off < 0x9000 then s.onMn fun m => m.putClip off v
  else if off < 0xa000 then s.onMn fun m => m.putLz off v
  else if off < 0xc000 then s.onMn fun m => m.putCam off v
  else if off < 0xd000 then s.putStrike off v
  else if off < 0xf000 then s.putSecErr off v
  else if off < 0x20000 then (if s.islandUp (0x80 + (off - 0x10000) / 0x1000) then s.onMn fun m => m.putReg off v else s)
  else if off < 0x40000 then (if s.islandUp ((off - 0x20000) / 0x400) then s.onMn fun m => m.putReg off v else s)
  else if off < 0x300000 then s.onMn fun m => m.putLane off v
  else s.onMn fun m => m.putMsix off v

/-- Whether the Latch island or the reset controller holds a register. -/
def latchOwned (off : Nat) : Bool :=
  decide (off < 0x1000) || decide (0x3000 ≤ off ∧ off < 0x5000) || decide (0xa000 ≤ off ∧ off < 0xb000)
    || [0xd000, 0xd004, 0xd008, 0xe00c].contains off

/-- Registers of the Latch island and the reset controller. -/
def Machine.State.putLatch (s : State) (off : Nat) (v : Word) : State :=
  if off < 0x1000 then s
  else if off < 0x4000 then s.putPower off v
  else if off < 0x5000 then s.putReset off v
  else if off < 0xb000 then s.putAudio off v
  else if off = 0xd000 then s.onMn fun m => m.confSet v
  else s.onMn fun m => m.putReg off v

/-! ## The mailbox (R473, Table 22-7) -/

/-- A reply: cmd, length, seq, status, payload; F1_INT.reply. -/
def Machine.State.reply (s : State) (req : List Byte) (status : Nat) (payload : List Byte) : State :=
  let p := payload.take 500
  let bs := req.take 2 ++ leBytes 2 p.length ++ (req.drop 4).take 4 ++ leBytes 4 status ++ p
  s.onLa fun a => { a with sdio := { a.sdio with
    req := req, reply := bs ++ List.replicate (512 - bs.length) 0#8, replyValid := true, int1 := a.sdio.int1 ||| 2 } }

/-- The command, and the length of its payload. -/
def mbxCmd (req : List Byte) : Nat × Nat := (leNat (req.take 2), leNat ((req.drop 2).take 2))

/-- The request's payload. -/
def mbxPayload (req : List Byte) : List Byte := (req.drop 8).take (mbxCmd req).2

/-- STATUS: eight words. -/
def Machine.State.statusWords (s : State) : List Word :=
  [s.readReg 0x0, s.readReg 0x4, s.latchStatus, s.readReg 0x3008, s.readReg 0x300c, s.readReg 0xa004, s.readReg 0xa03c, s.readReg 0x3018]

/-- Offsets that READ_REG reaches: the identity, the power, and the audio and hasp block. -/
def mbxMayRead (off : Nat) : Bool :=
  decide (off < 0x1000) || decide (0x3000 ≤ off ∧ off < 0x4000) || decide (0xa000 ≤ off ∧ off < 0xb000)

/-- Offsets that WRITE_REG reaches: the audio and hasp block, and WAKE_EN. -/
def mbxMayWrite (off : Nat) : Bool := decide (0xa000 ≤ off ∧ off < 0xb000) || off == 0x3010

/-- Whether a request of a command has the length the command needs. -/
def mbxLenOk (cmd len : Nat) : Bool := len == [0, 0, 1, 0, 4, 8].getD cmd 0

/-- MUTE: 1 mutes, 0 unmutes; refused under R345, and for another value. The settle time stays. -/
def Machine.State.mbxMute (s : State) (req p : List Byte) : State :=
  let b := leNat p
  let word := fun (t : State) => leBytes 4 t.la.hasp.status.toNat
  if 2 ≤ b then s.reply req 2 (word s)
  else
    let refused := b == 0 && s.la.hasp.pin
    let t := s.muteWrite (BitVec.ofNat 32 (b + 256 * s.la.hasp.settle))
    t.reply req (if refused then 2 else 0) (word t)

/-- RETRY: refused outside Latch mode; otherwise answered, and the retry taken. -/
def Machine.State.mbxRetry (s : State) (req : List Byte) : State :=
  if s.rc.latchMode then (s.reply req 0 []).latchRetry else s.reply req 2 []

/-- READ_REG. -/
def Machine.State.mbxReadReg (s : State) (req p : List Byte) : State :=
  let off := leNat p
  if !mbxMayRead off then s.reply req 3 []
  else (s.readEffect off).reply req 0 (leBytes 4 (s.readReg off).toNat)

/-- WRITE_REG: the field's access type applies. -/
def Machine.State.mbxWriteReg (s : State) (req p : List Byte) : State :=
  let off := leNat (p.take 4)
  let v := BitVec.ofNat 32 (leNat (p.drop 4))
  if !mbxMayWrite off then s.reply req 3 []
  else if off % 4 ≠ 0 ∨ (regAt off).isNone then s.reply req 0 []
  else (s.putLatch off v).reply req 0 []

/-- A request as MBX_REQ holds it: 512 bytes. -/
def mbxPad (bytes : List Byte) : List Byte := bytes.take 512 ++ List.replicate (512 - bytes.length) 0#8

/-- The commands that Table 22-7 lists. -/
def mbxKnown (cmd : Nat) : Bool := decide (1 ≤ cmd ∧ cmd ≤ 5)

/-- A request answered: an unknown command with status 1, a wrong length with status 4. -/
def Machine.State.mbxDo (s : State) (req : List Byte) : State :=
  let (cmd, len) := mbxCmd req
  let p := mbxPayload req
  if !mbxKnown cmd then s.reply req 1 []
  else if !mbxLenOk cmd len then s.reply req 4 []
  else match cmd with
    | 1 => s.reply req 0 (s.statusWords.flatMap fun w => leBytes 4 w.toNat)
    | 2 => s.mbxMute req p
    | 3 => s.mbxRetry req
    | 4 => s.mbxReadReg req p
    | _ => s.mbxWriteReg req p

/-! ## The SDIO card's function registers -/

/-- Where this model places function register `r` of SDIO function `f` among the addresses of REGISTER_WRITE. -/
def cardBase : Nat := 0x10000000

/-- An effect that an SDIO command causes: the Latch island answers in every power state; the command is wake source 5. -/
def Machine.State.viaSdio (s : State) (f : State → State) : State :=
  if s.rc.latchHeld then s else f (if s.mn.sleepState = 0 then s else s.wakeFrom 5)

/-- A write of a function register (Tables 22-6, 22-8; bit 2 of CCCR I/O Enable is function 2). -/
def Machine.State.putCard (s : State) (f r : Nat) (v : Word) : State :=
  let sd := fun (g : Sdio → Sdio) => s.onLa fun a => { a with sdio := g a.sdio }
  let n := v.toNat
  match f, r with
  | 0, 0x2 => State.drainRecords (sd fun x => { x with io2 := v.getLsbD 2 })
  | 1, 0x4 => if v.getLsbD 0 then s.latchRetry else s
  | 1, 0x8 => sd fun x => { x with int1 := x.int1 &&& (7 - n % 8) }
  | 1, 0xc => sd fun x => { x with en1 := n % 8 }
  | 1, 0x10 => if v.getLsbD 0 then s.mbxDo (mbxPad s.la.sdio.req) else s
  | 1, 0x20 => let s := if v.getLsbD 13 then s.fwlAbort else s; if v.getLsbD 0 then s.fwlStart (n / 2 % 4096) else s
  | 2, 0x0 => sd fun x => { x with refused := x.refused && !v.getLsbD 10, lost := x.lost && !v.getLsbD 11 }
  | 2, 0x4 => let s := if v.getLsbD 0 then s.f2Start else s; if v.getLsbD 1 then s.f2Stop else s
  | 1, 0x1000 => s.fwlData (leBytes 4 n)
  | 2, 0x8 => sd fun x => { x with int2 := x.int2 &&& (3 - n % 4) }
  | 2, 0xc => sd fun x => { x with en2 := n % 4 }
  | _, _ =>
    if f = 1 ∧ 0x100 ≤ r ∧ r + 4 ≤ 0x300 then
      sd fun x => { x with req := (mbxPad x.req).take (r - 0x100) ++ leBytes 4 n ++ (mbxPad x.req).drop (r - 0x100 + 4) }
    else s

/-- F2_STATUS as it reads (Table 22-8). -/
def Latch.f2Status (a : Latch) : Word :=
  packW [(0, 5, a.fifo.length), (5, 1, b2n a.sdio.stream.running), (6, 4, a.sdio.stream.full.length),
         (10, 1, b2n a.sdio.refused), (11, 1, b2n a.sdio.lost)]

/-- A function register as it reads. -/
def Machine.State.readCard (s : State) (f r : Nat) : Word :=
  let x := s.la.sdio
  match f, r with
  | 0, 0x2 => packW [(1, 1, 1), (2, 1, b2n x.io2)]
  | 1, 0x0 => s.latchStatus
  | 1, 0x8 => BitVec.ofNat 32 x.int1
  | 1, 0xc => BitVec.ofNat 32 x.en1
  | 1, 0x10 => packW [(2, 1, b2n x.replyValid)]
  | 1, 0x24 => s.fwlStatus
  | 2, 0x0 => s.la.f2Status
  | 2, 0x8 => BitVec.ofNat 32 x.int2
  | 2, 0xc => BitVec.ofNat 32 x.en2
  | _, _ =>
    if f = 1 ∧ 0x100 ≤ r ∧ r < 0x300 then windowWord x.req (r - 0x100)
    else if f = 1 ∧ 0x300 ≤ r ∧ r < 0x500 then windowWord x.reply (r - 0x300)
    else 0

/-! ## The commands -/

/-- LATCHED_LO_READ: a read of BAR0, or of the card. -/
def Machine.State.readAny (s : State) (off : Nat) : State :=
  if off < cardBase then s.readBar off
  else s.viaSdio fun s => s.answer (leBytes 4 (s.readCard ((off - cardBase) / 0x100000) ((off - cardBase) % 0x100000)).toNat)

/-- REGISTER_WRITE: a write with any byte enable clear, to a misaligned offset or to none of the tables' is ignored (R462, R463);
another takes effect in the order of delivery (R464). -/
def Machine.State.writeReg (s : State) (off : Nat) (v : Word) (be : Nat) : State :=
  if cardBase ≤ off then s.viaSdio fun s => s.putCard ((off - cardBase) / 0x100000) ((off - cardBase) % 0x100000) v
  else if be ≠ 15 ∨ off % 4 ≠ 0 ∨ (regAt off).isNone then s
  else if latchOwned off then s.hostLatch fun s => s.putLatch off v
  else s.hostDo fun s => State.sync (s.putWarden off v)

/-! ## The mailbox's commands (Table 22-7) -/

/-- A mailbox request of a given command handed over and answered in one step. -/
def Machine.State.mbx (s : State) (cmd : Nat) (bytes : List Byte) : State :=
  if (mbxCmd (mbxPad bytes)).1 ≠ cmd then s else s.viaSdio fun s => s.mbxDo (mbxPad bytes)

/-- A request of a command that Table 22-7 does not list. -/
def Machine.State.mbxUnknown (s : State) (bytes : List Byte) : State :=
  if mbxKnown (mbxCmd (mbxPad bytes)).1 then s else s.viaSdio fun s => s.mbxDo (mbxPad bytes)

end Sys2Proof
end

