-- ==== Sys2Proof/Machine/AudioCmds.lean ====
section
/-! DEFINITION. Meanings of the commands. Microphones, the wake cascade, the hasp and SDIO function 2 (spec/15_listening.md, spec/22_registers.md R475). -/

namespace Sys2Proof
open Machine

/-- MUTE_N at a level (R344 to R347): an edge, or, while the Latch island is held, the pin's level alone. -/
def Machine.State.muteLevel (s : State) (asserted : Bool) : State :=
  if s.rc.latchHeld then s.onLa fun a =>
    { a with hasp := ({ a.hasp with pin := asserted, mute := a.hasp.mute || asserted } : Hasp).drive false false }
  else s.muteEdge asserted

/-- A verifier score (R336); a NaN has the value of a free number. -/
def Machine.State.scored (s : State) (score : Word) : State :=
  { s.verifyScore score (Config.freeNat s.free) with free := s.free + 1 }

namespace Machine

/-- HASP_MUTE_WRITE (R345). -/
def execHaspMuteWrite (v : Word) (s : State) : Host.Outcome State Fault Refusal :=
  .next (s.hostLatch fun s => s.muteWrite v)

/-- MUTE_N_ASSERT (R344). -/
def execMuteNAssert (s : State) : Host.Outcome State Fault Refusal :=
  .next (s.muteLevel true)

/-- MUTE_N_DEASSERT (R347). -/
def execMuteNDeassert (s : State) : Host.Outcome State Fault Refusal :=
  .next (s.muteLevel false)

/-- DECIMATOR_SETTLE_END (R327). -/
def execDecimatorSettleEnd (g : Fin 2) (s : State) : Host.Outcome State Fault Refusal :=
  .next (s.latch fun s => s.settleEnd g.val)

/-- WAKE_FRAME (R333). -/
def execWakeFrame (pairs : List (Nat × Nat)) (g0 : List (List Nat)) (g1 : List (List Nat)) (voice : Bool) (scores : List (Nat × Nat)) (s : State) : Host.Outcome State Fault Refusal :=
  .next (s.latch fun s => s.wakeFrame pairs g0 g1 voice scores)

/-- KW_WINDOW_EXPIRY (R334). -/
def execKwWindowExpiry (s : State) : Host.Outcome State Fault Refusal :=
  .next (s.latch fun s => s.kwExpiry)

/-- VERIFY_SCORE (R336). -/
def execVerifyScore (score : Word) (s : State) : Host.Outcome State Fault Refusal :=
  .next (s.latch fun s => s.scored score)

/-- VERIFY_BUDGET_EXPIRY (R336). -/
def execVerifyBudgetExpiry (s : State) : Host.Outcome State Fault Refusal :=
  .next (s.latch fun s => s.verifyExpiry)

/-- VERIFIER_GRANULE_FAIL (R336). -/
def execVerifierGranuleFail (s : State) : Host.Outcome State Fault Refusal :=
  .next (s.latch fun s => s.granuleFail)

/-- AUDIO_BLOCK_FULL (R341). -/
def execAudioBlockFull (r : ARing) (s : State) : Host.Outcome State Fault Refusal :=
  .next (s.latch fun s => s.writeBlock r)

/-- STREAM_START (R341). -/
def execStreamStart (r : ARing) (v : Word) (s : State) : Host.Outcome State Fault Refusal :=
  .next (s.hostLatch fun s => if v.getLsbD 0 then s.streamStart r else s)

/-- STREAM_STOP (R341). -/
def execStreamStop (r : ARing) (v : Word) (s : State) : Host.Outcome State Fault Refusal :=
  .next (s.hostLatch fun s => if v.getLsbD 1 then s.streamStop r else s)

/-- VERIFY_LOAD (R337). -/
def execVerifyLoad (aux : ContainerAux) (refused : Bool) (s : State) : Host.Outcome State Fault Refusal :=
  .next (s.hostLatch fun s => if s.mn.sleepState = 0 then s.verifyLoad aux refused else s)

/-- PDM_GRP_WRITE (R326). -/
def execPdmGrpWrite (g : Fin 2) (v : Word) (s : State) : Host.Outcome State Fault Refusal :=
  .next (s.hostLatch fun s => s.onLa fun a => a.pdmWrite g.val v s.g1Off)

/-- F2_START (R476). -/
def execF2Start (s : State) : Host.Outcome State Fault Refusal :=
  .next (s.viaSdio fun s => s.f2Start)

/-- F2_STOP (R475). -/
def execF2Stop (s : State) : Host.Outcome State Fault Refusal :=
  .next (s.viaSdio fun s => s.f2Stop)

/-- F2_RECORD_READ (R475). -/
def execF2RecordRead (s : State) : Host.Outcome State Fault Refusal :=
  .next (s.viaSdio fun s => s.f2Record)

/-- F2_AUDIO_READ (R475). -/
def execF2AudioRead (s : State) : Host.Outcome State Fault Refusal :=
  .next (s.viaSdio fun s => s.f2Audio)

/-- AUD_CLK_STOP (R488). -/
def execAudClkStop (s : State) : Host.Outcome State Fault Refusal :=
  .next (s.latch fun s => s.audClk true)

/-- AUD_CLK_RETURN (R488). -/
def execAudClkReturn (s : State) : Host.Outcome State Fault Refusal :=
  .next (s.latch fun s => s.audClk false)

end Machine

end Sys2Proof
end

