-- ==== Sys2Proof/Machine/Boots.lean ====
section
/-! DEFINITION. Meanings of the commands. The boot flow and firmware loads (spec/18_reset.md R404 to R406, spec/19_security.md R410 to R412, spec/22_registers.md R474). -/

namespace Sys2Proof
open Machine

namespace Machine

/-- BOOT_CTL_GO (R404). -/
def execBootCtlGo (s : State) : Host.Outcome State Fault Refusal :=
  .next (s.markFwl fun s => s.hostLatch fun s => s.bootGo)

/-- BOOT_IMAGE_RECEIVED (R411). -/
def execBootImageReceived (src : ImgSource) (s : State) : Host.Outcome State Fault Refusal :=
  .next (s.markFwl fun s => s.bootImage src)

/-- FWL_START (R474). -/
def execFwlStart (n : Nat) (s : State) : Host.Outcome State Fault Refusal :=
  .next (s.markFwl fun s => s.viaSdio fun s => s.fwlStart n)

/-- FWL_DATA (R474). -/
def execFwlData (bytes : List Byte) (s : State) : Host.Outcome State Fault Refusal :=
  .next (s.markFwl fun s => s.viaSdio fun s => s.fwlData bytes)

/-- FWL_ABORT (R474). -/
def execFwlAbort (s : State) : Host.Outcome State Fault Refusal :=
  .next (s.markFwl fun s => s.viaSdio fun s => s.fwlAbort)

end Machine

end Sys2Proof
end

