-- ==== Sys2Proof/Machine/CameraCmds.lean ====
section
/-! DEFINITION. Meanings of the commands. Camera receivers, pipelines and I3C (spec/16_camera.md). -/

namespace Sys2Proof
open Machine

namespace Machine

/-- CSI_FRAME_START (R354). -/
def execCsiFrameStart (port : Fin 4) (vc : Fin 16) (s : State) : Host.Outcome State Fault Refusal :=
  .next (s.warden fun m => m.frameStart port.val vc.val)

/-- CSI_LONG_PACKET (R355). -/
def execCsiLongPacket (port : Fin 4) (vc : Fin 16) (dt : Nat) (payload : List Byte) (crcOk : Bool) (full : Bool) (s : State) : Host.Outcome State Fault Refusal :=
  .next (s.warden fun m => m.longPacket port.val vc.val dt payload crcOk full)

/-- CSI_FRAME_END (R355). -/
def execCsiFrameEnd (port : Fin 4) (vc : Fin 16) (late : List Nat) (s : State) : Host.Outcome State Fault Refusal :=
  .next (s.warden fun m => m.frameEnd port.val vc.val late)

/-- CSI_HEADER_ERROR (R351). -/
def execCsiHeaderError (port : Fin 4) (corrected : Bool) (s : State) : Host.Outcome State Fault Refusal :=
  .next (s.warden fun m => m.headerError port.val corrected)

/-- CAM_FRAME_TIMEOUT (R355). -/
def execCamFrameTimeout (sn : Fin 16) (late : List Nat) (s : State) : Host.Outcome State Fault Refusal :=
  .next (s.warden fun m => m.camClose sn.val true late)

/-- CAM_RECV_TIMEOUT (R363). -/
def execCamRecvTimeout (sn : Fin 16) (s : State) : Host.Outcome State Fault Refusal :=
  .next (s.warden fun m => m.recvTimeout sn.val)

/-- CAM_LS_ENABLE (R352). -/
def execCamLsEnable (sn : Fin 16) (v : Word) (s : State) : Host.Outcome State Fault Refusal :=
  .next (s.hostWarden fun m => m.lsEnable sn.val v)

/-- I3C_CMD (R366). -/
def execI3cCmd (port : Fin 4) (v : Word) (s : State) : Host.Outcome State Fault Refusal :=
  .next (s.hostWarden fun m => m.i3cCmd port.val v)

/-- I3C_CMD_DONE (R366). -/
def execI3cCmdDone (port : Fin 4) (ok : Bool) (data : List Byte) (s : State) : Host.Outcome State Fault Refusal :=
  .next (s.warden fun m => m.i3cDone port.val ok data)

/-- I3C_IBI (R365). -/
def execI3cIbi (port : Fin 4) (addr : Nat) (payload : List Byte) (s : State) : Host.Outcome State Fault Refusal :=
  .next (s.warden fun m => m.i3cIbi port.val addr payload)

/-- I3C_HOT_JOIN (R365). -/
def execI3cHotJoin (port : Fin 4) (s : State) : Host.Outcome State Fault Refusal :=
  .next (s.warden fun m => m.i3cHotJoin port.val)

end Machine

end Sys2Proof
end

