-- ==== Sys2Proof/Machine/ChainCmds.lean ====
section
/-! DEFINITION. Meanings of the commands. The Laniza chain (spec/14_laniza_chain.md). -/

namespace Sys2Proof
open Machine

namespace Machine

/-- LANIZA_PORT_CHANGE (R312). -/
def execLanizaPortChange (p : Fin 2) (st : Fin 4) (s : State) : Host.Outcome State Fault Refusal :=
  .next (s.warden fun m => m.portChange p.val st.val)

/-- HEAD_UP_TIMEOUT (R311). -/
def execHeadUpTimeout (s : State) : Host.Outcome State Fault Refusal :=
  .next (s.warden fun m => m.headUp.lapseNew m)

/-- NO_HEAD_TIMEOUT (R311). -/
def execNoHeadTimeout (s : State) : Host.Outcome State Fault Refusal :=
  .next (s.warden fun m => m.noHead.lapseNew m)

/-- LANIZA_REWALK (R312). -/
def execLanizaRewalk (s : State) : Host.Outcome State Fault Refusal :=
  .next (s.hostWarden fun m => m.rewalk.lapseNew m)

/-- QUIESCE (R312). -/
def execQuiesce (s : State) : Host.Outcome State Fault Refusal :=
  .next (s.warden fun m => m.quiesce.lapseNew m)

/-- QUIESCED (R312). -/
def execQuiesced (s : State) : Host.Outcome State Fault Refusal :=
  .next (s.warden fun m => m.quiesced.lapseNew m)

/-- WALK (R312). -/
def execWalk (pos : Fin 17) (floorMax : Nat) (maxMin : Nat) (addrs : List Nat) (s : State) : Host.Outcome State Fault Refusal :=
  .next (s.warden fun m => (m.walk pos.val floorMax maxMin addrs).lapseNew m)

/-- WALK_END (R312). -/
def execWalkEnd (units : Fin 17) (floorMax : Nat) (maxMin : Nat) (addrs : List Nat) (s : State) : Host.Outcome State Fault Refusal :=
  .next (s.warden fun m => (m.walkEnd units.val floorMax maxMin addrs).lapseNew m)

/-- CONFIRM (R312). -/
def execConfirm (units : Fin 17) (ring : Bool) (gen : Nat) (addrs : List Nat) (failed : Bool) (viaUp : Bool) (s : State) : Host.Outcome State Fault Refusal :=
  .next (s.warden fun m => m.confirm units.val ring gen addrs failed viaUp)

/-- CHAIN_MEMBERSHIP (R235). -/
def execChainMembership (h : Fin 4096) (members : List (Nat × Nat × Nat)) (s : State) : Host.Outcome State Fault Refusal :=
  .next (s.warden fun m => m.chainMembers h.val members)

/-- CHAIN_START (R317). -/
def execChainStart (lead : Fin 16) (faulted : List Nat) (parked : List Nat) (s : State) : Host.Outcome State Fault Refusal :=
  .next (s.warden fun m => (m.chainStart lead.val faulted parked).lapseNew m)

/-- CHAIN_READY (R317). -/
def execChainReady (lead : Fin 16) (unit : Fin 16) (s : State) : Host.Outcome State Fault Refusal :=
  .next (s.warden fun m => m.chainReady lead.val unit.val)

/-- CHAIN_GO (R317). -/
def execChainGo (lead : Fin 16) (s : State) : Host.Outcome State Fault Refusal :=
  .next (s.warden fun m => m.chainGo lead.val)

/-- CHAIN_GO_TIMEOUT (R318). -/
def execChainGoTimeout (w : Fin 16) (s : State) : Host.Outcome State Fault Refusal :=
  .next (s.warden fun m => m.chainTimeout w.val)

/-- CHAIN_DROP_NOTICE (R221). -/
def execChainDropNotice (ctx : Fin 3072) (kvLimit : Nat) (s : State) : Host.Outcome State Fault Refusal :=
  .next (s.warden fun m => m.chainDrop ctx.val kvLimit)

/-- CHAIN_RESYNC (R319). -/
def execChainResync (ctxs : List Nat) (s : State) : Host.Outcome State Fault Refusal :=
  .next (s.warden fun m => m.chainResync ctxs)

/-- LANIZA_SEND_WAKE (R322). -/
def execLanizaSendWake (upIdle : Bool) (downIdle : Bool) (s : State) : Host.Outcome State Fault Refusal :=
  .next (s.hostWarden fun m => m.sendWake upIdle downIdle)

/-- LANIZA_FRAME_CRC_FAIL (R308). -/
def execLanizaFrameCrcFail (p : Fin 2) (s : State) : Host.Outcome State Fault Refusal :=
  .next (s.warden fun m => m.frameFail p.val)

end Machine

end Sys2Proof
end

