-- ==== Sys2Proof/Machine/CommitCmds.lean ====
section
/-! DEFINITION. Meanings of the commands. Boundaries, commits and widening (spec/04_bittings.md R98, spec/12_host_interface.md R283, spec/05_quantisation.md R120). -/

namespace Sys2Proof
open Machine

namespace Machine

/-- DONE_BUNDLE (R98). -/
def execDoneBundle (cyl : Fin 128) (cycles : Nat) (s : State) : Host.Outcome State Fault Refusal :=
  .next (s.warden fun m => m.doneBundle cyl.val cycles)

/-- READY_BUNDLE (R98). -/
def execReadyBundle (w : Fin 16) (s : State) : Host.Outcome State Fault Refusal :=
  .next (s.warden fun m => m.readyBundle w.val)

/-- COMMIT_RECORD_WRITE (R283). -/
def execCommitRecordWrite (w : Fin 16) (s : State) : Host.Outcome State Fault Refusal :=
  .next (s.warden fun m => m.commitRecordWrite w.val)

/-- COMMIT_POINT (R98). -/
def execCommitPoint (s : State) : Host.Outcome State Fault Refusal :=
  .next (s.warden fun m => (m.commitPoint.walkQuiet).lapseNew m)

/-- COMMIT_RETIRE (R283). -/
def execCommitRetire (s : State) : Host.Outcome State Fault Refusal :=
  .next (s.warden fun m => m.commitRetire.lapseNew m)

/-- MISFIT_BUNDLE (R120). -/
def execMisfitBundle (w : Fin 16) (s : State) : Host.Outcome State Fault Refusal :=
  .next (s.warden fun m => (m.misfitBundle w.val).lapseNew m)

/-- COMPANION_START (R120). -/
def execCompanionStart (w : Fin 16) (s : State) : Host.Outcome State Fault Refusal :=
  .next (s.warden fun m => m.companionStart w.val)

end Machine

end Sys2Proof
end

