-- ==== Sys2Proof/Machine/Operands.lean ====
section
/-! DEFINITION. Operands that commands read from answers of the service ring (spec/13_hinges.md, Table 13-5). -/

namespace Sys2Proof
open Machine

/-- A number in an answer's record. -/
def ansNat (bs : List Byte) (off n : Nat) : Nat := leNat ((bs.drop off).take n)

/-- An answer for a hinge taken and acted on; none read for the number leaves the machine as it is. -/
def Main.withAnswer (m : Main) (h num : Nat) (f : Main → HingeReq → List Byte → Main) : Main :=
  match m.takeAnswer h num with
  | some (m, r, bs) => f m r bs
  | none => m

/-- H1: 0 gives instances, 1 asks for the hardware's list. -/
def Main.h1Answer (m : Main) (num : Nat) : Main :=
  m.withAnswer 1 num fun m _ bs =>
    m.h1Take (if verdict bs = 0 then some (h1Instances (min 16 (ansNat bs 0x10 4)) (bs.drop 64)) else none)

/-- H2: 0 names victims, 1 parks. -/
def Main.h2Answer (m : Main) (num : Nat) : Main :=
  m.withAnswer 2 num fun m _ bs =>
    m.h2Take (if verdict bs = 0 then (List.range (min 16 (ansNat bs 0x10 1))).map fun i => ansNat bs (0x12 + 2 * i) 2 else [])

/-- H3: 0 gives sixteen scale bytes, of which the request's group takes its own; 1 asks for the hardware's. -/
def Main.h3Answer (m : Main) (num : Nat) : Main :=
  m.withAnswer 3 num fun m r bs =>
    m.h3Take r (if verdict bs = 0 then some (ansNat bs (0x10 + r.args.getD 2 0 % 16) 1) else none)

/-- H4: 0 gives a table, 1 asks for the hardware's. -/
def Main.h4Answer (m : Main) (num : Nat) : Main :=
  m.withAnswer 4 num fun m r bs =>
    m.kwTake (r.args.getD 1 0) (if verdict bs = 0 then some ((List.range 8).map fun i => ansNat bs (0x10 + i) 1) else none)

/-- H5: the recorded copy, an address, or poison. -/
def Main.h5Answer (m : Main) (num : Nat) : Main :=
  m.withAnswer 5 num fun m r bs => m.h5Take r (verdict bs) (ansNat bs 0x10 8) (ansNat bs 0x18 4)

/-- H7: 0 gives an address, 1 the walked position. -/
def Main.h7Answer (m : Main) (num : Nat) : Main :=
  m.withAnswer 7 num fun m _ bs => m.h7Take (if verdict bs = 0 then some (ansNat bs 0x10 1 % 16) else none)

/-- H8: go or defer. -/
def Main.h8Answer (m : Main) (num : Nat) : Main := m.withAnswer 8 num fun m r bs => m.h8Take r (verdict bs == 0)

/-- H9: scrub now or defer. -/
def Main.h9Answer (m : Main) (num : Nat) : Main := m.withAnswer 9 num fun m r bs => m.h9Take r (verdict bs == 0)

/-- H6: proceed or reject (R339). -/
def Machine.State.h6Answer (s : State) (num : Nat) : State :=
  match s.mn.takeAnswer 6 num with
  | some (m, r, bs) => State.h6Take { s with mn := m } r (verdict bs == 0) false
  | none => s

end Sys2Proof
end

