-- ==== Sys2Proof/Machine/HingeCmds.lean ====
section
/-! DEFINITION. Meanings of the commands. The service ring and its hinges (spec/13_hinges.md). -/

namespace Sys2Proof
open Machine

namespace Machine

/-- SVC_REQUEST_POST (R297). -/
def execSvcRequestPost (s : State) : Host.Outcome State Fault Refusal :=
  .next (s.warden fun m => m.svcPost)

/-- SVC_DB_WRITE (R298). -/
def execSvcDbWrite (v : Word) (s : State) : Host.Outcome State Fault Refusal :=
  .next (s.hostWarden fun m => m.svcDb v)

/-- H1_ANSWER (R236). -/
def execH1Answer (num : Nat) (s : State) : Host.Outcome State Fault Refusal :=
  .next (s.warden fun m => (m.h1Answer num).lapseNew m)

/-- H2_ANSWER (R217). -/
def execH2Answer (num : Nat) (s : State) : Host.Outcome State Fault Refusal :=
  .next (s.warden fun m => (m.h2Answer num).lapseNew m)

/-- H3_ANSWER (R111). -/
def execH3Answer (num : Nat) (s : State) : Host.Outcome State Fault Refusal :=
  .next (s.warden fun m => (m.h3Answer num).lapseNew m)

/-- H4_ANSWER (R167). -/
def execH4Answer (num : Nat) (s : State) : Host.Outcome State Fault Refusal :=
  .next (s.warden fun m => (m.h4Answer num).lapseNew m)

/-- H5_ANSWER (R147). -/
def execH5Answer (num : Nat) (s : State) : Host.Outcome State Fault Refusal :=
  .next (s.warden fun m => (m.h5Answer num).lapseNew m)

/-- H6_ANSWER (R339). -/
def execH6Answer (num : Nat) (s : State) : Host.Outcome State Fault Refusal :=
  .next (if s.wardenUp then s.h6Answer num else s)

/-- H7_ANSWER (R314). -/
def execH7Answer (num : Nat) (s : State) : Host.Outcome State Fault Refusal :=
  .next (s.warden fun m => (m.h7Answer num).lapseNew m)

/-- H8_ANSWER (R245). -/
def execH8Answer (num : Nat) (s : State) : Host.Outcome State Fault Refusal :=
  .next (s.warden fun m => (m.h8Answer num).lapseNew m)

/-- H9_ANSWER (R302). -/
def execH9Answer (num : Nat) (s : State) : Host.Outcome State Fault Refusal :=
  .next (s.warden fun m => (m.h9Answer num).lapseNew m)

/-- HINGE_TIMEOUT (R300). -/
def execHingeTimeout (num : Nat) (s : State) : Host.Outcome State Fault Refusal :=
  let one := fun (m : Main) => ((m.hingeTimeout num).1, (m.hingeTimeout num).2.toList)
  .next (if s.wardenUp then s.lapseSvc one else s)

/-- SVC_ENABLE_CLEAR (R305). -/
def execSvcEnableClear (s : State) : Host.Outcome State Fault Refusal :=
  .next (s.hostDo fun s => s.lapseSvc Main.svcClear)

/-- HINGE_CTL_WRITE (R295). -/
def execHingeCtlWrite (v : Word) (s : State) : Host.Outcome State Fault Refusal :=
  .next (s.hostWarden fun m => (m.hingeCtl v).lapseNew m)

end Machine

end Sys2Proof
end

