-- ==== Sys2Proof/Machine/KeyringCmds.lean ====
section
/-! DEFINITION. Meanings of the commands. The Keyring: list points, switches, contexts and recovery (spec/10_keyring.md, spec/12_host_interface.md R287). -/

namespace Sys2Proof
open Machine

/-- LIST_POINT (R230 to R232, R295): hinges of the list and of switches change mode at a list point. -/
def Main.atListPoint (m : Main) : Main :=
  if m.listPoint then (((m.swing 1).swing 2).swing 8).doListPoint else m

/-- RECOVERY_COMPLETE (R287, R440): a recovery that ends clears the run of resets that counts towards Latch mode. -/
def Main.recovered (m : Main) (aux : List (Nat × ContainerAux)) (bad : List (Nat × Nat)) : Main :=
  if m.bit F.HOST_STATUS_recovering then (m.recoveryDone aux bad).setFld F.ERR_STATUS_latch_run 0 else m

namespace Machine

/-- LIST_POINT (R232). -/
def execListPoint (s : State) : Host.Outcome State Fault Refusal :=
  .next (s.warden fun m => m.atListPoint.lapseNew m)

/-- ROUND_BUILD (R231). -/
def execRoundBuild (w : Fin 16) (s : State) : Host.Outcome State Fault Refusal :=
  .next (s.warden fun m => (m.doRound w.val).lapseNew m)

/-- SWITCH (R242). -/
def execSwitch (ctx : Fin 3072) (s : State) : Host.Outcome State Fault Refusal :=
  .next (s.warden fun m => (m.startSwitch ctx.val).lapseNew m)

/-- SAVE_COMPLETE (R243). -/
def execSaveComplete (ctx : Fin 3072) (cycles : Nat) (bad : Option EccEvent) (s : State) : Host.Outcome State Fault Refusal :=
  .next (s.warden fun m => (m.saveComplete ctx.val cycles bad).lapseNew m)

/-- RESTORE_COMPLETE (R242). -/
def execRestoreComplete (ctx : Fin 3072) (cycles : Nat) (uncorrectable : Bool) (s : State) : Host.Outcome State Fault Refusal :=
  .next (s.warden fun m => (m.restoreComplete ctx.val cycles uncorrectable).lapseNew m)

/-- TEARDOWN_DONE (R247). -/
def execTeardownDone (ctx : Fin 3072) (s : State) : Host.Outcome State Fault Refusal :=
  .next (s.warden fun m => m.teardownDone ctx.val)

/-- CTX_CMD_RELEASE (R247). -/
def execCtxCmdRelease (s : State) : Host.Outcome State Fault Refusal :=
  .next (s.hostWarden fun m => m.ctxRelease)

/-- CTX_CMD_EVICT (R250). -/
def execCtxCmdEvict (s : State) : Host.Outcome State Fault Refusal :=
  .next (s.hostWarden fun m => m.ctxEvict)

/-- CTX_BIND_BIND (R414). -/
def execCtxBindBind (v : Word) (s : State) : Host.Outcome State Fault Refusal :=
  .next (s.hostWarden fun m => (if F.CTX_BIND_op.of v = 1 then m.ctxBind v else m).lapseNew m)

/-- CTX_BIND_UNBIND (R248). -/
def execCtxBindUnbind (v : Word) (s : State) : Host.Outcome State Fault Refusal :=
  .next (s.hostWarden fun m => (if F.CTX_BIND_op.of v = 2 then m.ctxUnbind v else m).lapseNew m)

/-- RECOVER (R287). -/
def execRecover (s : State) : Host.Outcome State Fault Refusal :=
  .next (s.hostWarden fun m => m.recover)

/-- RECOVERY_COMPLETE (R287). -/
def execRecoveryComplete (aux : List (Nat × ContainerAux)) (bad : List (Nat × Nat)) (s : State) : Host.Outcome State Fault Refusal :=
  .next (s.warden fun m => (m.recovered aux bad).lapseNew m)

end Machine

end Sys2Proof
end

