-- ==== Sys2Proof/Machine/LaneCmds.lean ====
section
/-! DEFINITION. Meanings of the commands. Frame Lanes (spec/11_frame_lane.md). -/

namespace Sys2Proof
open Machine

namespace Machine

/-- LANE_RESERVE (R251). -/
def execLaneReserve (l : Fin 4) (v : Word) (s : State) : Host.Outcome State Fault Refusal :=
  .next (s.hostWarden fun m => m.laneReserve l.val v)

/-- LANE_RESERVED (R251). -/
def execLaneReserved (l : Fin 4) (s : State) : Host.Outcome State Fault Refusal :=
  .next (s.warden fun m => m.laneReserved l.val)

/-- LANE_UNRESERVE (R252). -/
def execLaneUnreserve (l : Fin 4) (s : State) : Host.Outcome State Fault Refusal :=
  .next (s.hostWarden fun m => m.laneUnreserve l.val)

/-- LANE_TICK (R256). -/
def execLaneTick (l : Fin 4) (s : State) : Host.Outcome State Fault Refusal :=
  .next (s.warden fun m => (m.laneTick l.val).lapseNew m)

/-- LANE_INPUT_FETCH_DONE (R258). -/
def execLaneInputFetchDone (l : Fin 4) (slot : Nat) (refused : Bool) (path : List Byte) (s : State) : Host.Outcome State Fault Refusal :=
  .next (s.warden fun m => m.laneInput l.val slot refused path)

end Machine

end Sys2Proof
end

