-- ==== Sys2Proof/Machine/MailboxCmds.lean ====
section
/-! DEFINITION. Meanings of the commands. Mailbox requests over SDIO function 1 (spec/22_registers.md R473). -/

namespace Sys2Proof
open Machine

namespace Machine

/-- MBX_STATUS (R473). -/
def execMbxStatus (bytes : List Byte) (s : State) : Host.Outcome State Fault Refusal :=
  .next (s.mbx 1 bytes)

/-- MBX_MUTE (R473). -/
def execMbxMute (bytes : List Byte) (s : State) : Host.Outcome State Fault Refusal :=
  .next (s.mbx 2 bytes)

/-- MBX_RETRY (R443). -/
def execMbxRetry (bytes : List Byte) (s : State) : Host.Outcome State Fault Refusal :=
  .next (s.markFwl fun s => s.mbx 3 bytes)

/-- MBX_READ_REG (R473). -/
def execMbxReadReg (bytes : List Byte) (s : State) : Host.Outcome State Fault Refusal :=
  .next (s.mbx 4 bytes)

/-- MBX_WRITE_REG (R473). -/
def execMbxWriteReg (bytes : List Byte) (s : State) : Host.Outcome State Fault Refusal :=
  .next (s.markFwl fun s => s.mbx 5 bytes)

/-- MBX_UNKNOWN_COMMAND (R473). -/
def execMbxUnknownCommand (bytes : List Byte) (s : State) : Host.Outcome State Fault Refusal :=
  .next (s.mbxUnknown bytes)

end Machine

end Sys2Proof
end

