-- ==== Sys2Proof/Machine/MemCmds.lean ====
section
/-! DEFINITION. Meanings of the commands. Regions, refetch, scrubbing, CXL and compress passes (spec/06_memory_tiers.md, spec/07_keyway.md, spec/19_security.md). -/

namespace Sys2Proof
open Machine

namespace Machine

/-- LOAD_ENGINE_READ (R137). -/
def execLoadEngineRead (region : Fin 8192) (s : State) : Host.Outcome State Fault Refusal :=
  .next (s.warden fun m => (m.loadRead region.val).lapseNew m)

/-- REGION_SEAL (R137). -/
def execRegionSeal (region : Fin 8192) (s : State) : Host.Outcome State Fault Refusal :=
  .next (s.warden fun m => (m.regionSeal region.val).lapseNew m)

/-- LOAD_TIMEOUT (R137). -/
def execLoadTimeout (region : Fin 8192) (refused : Bool) (s : State) : Host.Outcome State Fault Refusal :=
  .next (s.warden fun m => m.loadTimeout region.val refused)

/-- HOLD_BEGIN (R144). -/
def execHoldBegin (region : Fin 8192) (granule : Nat) (channel : Fin 64) (lead : Option (Fin 16)) (s : State) : Host.Outcome State Fault Refusal :=
  .next (s.warden fun m => (m.holdBegin region.val granule channel.val (lead.map (·.val))).lapseNew m)

/-- REFETCH_GRANULE_ARRIVAL (R144). -/
def execRefetchGranuleArrival (region : Fin 8192) (tailOk : Bool) (refused : Bool) (s : State) : Host.Outcome State Fault Refusal :=
  .next (s.warden fun m => (m.refetchArrival region.val tailOk refused).lapseNew m)

/-- REFETCH_VERIFY (R144). -/
def execRefetchVerify (region : Fin 8192) (clean : Bool) (s : State) : Host.Outcome State Fault Refusal :=
  .next (s.warden fun m => (m.refetchVerify region.val clean).lapseNew m)

/-- REFETCH_TIMEOUT (R147). -/
def execRefetchTimeout (region : Fin 8192) (s : State) : Host.Outcome State Fault Refusal :=
  .next (s.warden fun m => (m.refetchTimeout region.val).lapseNew m)

/-- CXL_MEM_WRITE (R136). -/
def execCxlMemWrite (addr : Nat) (bytes : List Byte) (pasid : Nat) (s : State) : Host.Outcome State Fault Refusal :=
  .next (s.hostWarden fun m => m.cxlWrite addr bytes pasid)

/-- CXL_MEM_READ (R424). -/
def execCxlMemRead (addr : Nat) (n : Nat) (pasid : Nat) (s : State) : Host.Outcome State Fault Refusal :=
  .next (s.hostWarden fun m => m.cxlRead addr n pasid)

/-- SCRUB_START (R423). -/
def execScrubStart (unit : Nat) (s : State) : Host.Outcome State Fault Refusal :=
  .next (s.warden fun m => (m.scrubStart unit).lapseNew m)

/-- SCRUB_UNIT_DONE (R421). -/
def execScrubUnitDone (s : State) : Host.Outcome State Fault Refusal :=
  .next (s.warden fun m => m.scrubDone.lapseNew m)

/-- AREA_REGISTER_WRITE (R154). -/
def execAreaRegisterWrite (off : Nat) (v : Word) (s : State) : Host.Outcome State Fault Refusal :=
  .next (s.hostWarden fun m => m.areaWrite off v)

/-- COMPRESS_PASS_START (R166). -/
def execCompressPassStart (s : State) : Host.Outcome State Fault Refusal :=
  .next (s.warden fun m => m.passStart.lapseNew m)

/-- COMPRESS_PASS_DONE (R168). -/
def execCompressPassDone (refused : Bool) (s : State) : Host.Outcome State Fault Refusal :=
  .next (s.warden fun m => (m.passDone refused).lapseNew m)

end Machine

end Sys2Proof
end

