-- ==== Sys2Proof/Machine/ObserveCmds.lean ====
section
/-! DEFINITION. Meanings of the commands. Strikes, the error mirror and register access (spec/21_observation.md, spec/20_faults.md R437, spec/22_registers.md). -/

namespace Sys2Proof
open Machine

namespace Machine

/-- ERR_MIRROR_COPY (R437). -/
def execErrMirrorCopy (s : State) : Host.Outcome State Fault Refusal :=
  .next (s.warden fun m => m.mirrorCopy)

/-- STRIKE_FIRE (R447). -/
def execStrikeFire (s : State) : Host.Outcome State Fault Refusal :=
  .next (s.hostDo fun s => s.strike 1 0x90)

/-- STRIKE_ARM (R448). -/
def execStrikeArm (s : State) : Host.Outcome State Fault Refusal :=
  .next (s.hostWarden fun m => m.strikeArm)

/-- STRIKE_IN_EDGE (R447). -/
def execStrikeInEdge (us : Nat) (s : State) : Host.Outcome State Fault Refusal :=
  .next (s.warden fun m => m.strikeIn us)

/-- THRESHOLD_STRIKE (R459). -/
def execThresholdStrike (i : Fin 4) (s : State) : Host.Outcome State Fault Refusal :=
  .next (if s.wardenUp then s.threshold i.val else s)

/-- STRIKE_MARKER (R449). -/
def execStrikeMarker (isl : Island) (hop : Nat) (s : State) : Host.Outcome State Fault Refusal :=
  .next (if s.wardenUp then s.marker (islandCode isl) hop else s)

/-- STRIKE_DONE_BUNDLE (R451). -/
def execStrikeDoneBundle (isl : Island) (inFlight : Nat) (s : State) : Host.Outcome State Fault Refusal :=
  .next (s.warden fun m => m.strikeDone (islandCode isl) inFlight)

/-- STRIKE_OUT_PULSE_END (R453). -/
def execStrikeOutPulseEnd (s : State) : Host.Outcome State Fault Refusal :=
  .next (s.onMn Main.strikeOutEnd)

/-- THRESH_SEL_WRITE (R459). -/
def execThreshSelWrite (i : Fin 4) (v : Word) (s : State) : Host.Outcome State Fault Refusal :=
  .next (s.hostWarden fun m => m.threshSel i.val v)

/-- LATCHED_LO_READ (R465). -/
def execLatchedLoRead (off : Nat) (s : State) : Host.Outcome State Fault Refusal :=
  .next (s.readAny off)

/-- REGISTER_WRITE (R464). -/
def execRegisterWrite (off : Nat) (v : Word) (be : Fin 16) (s : State) : Host.Outcome State Fault Refusal :=
  .next (s.markFwl fun s => s.writeReg off v be.val)

end Machine

end Sys2Proof
end

