-- ==== Sys2Proof/Machine/Tiles.lean ====
section
/-! DEFINITION. What happens to a tile after its last slice: ramps (spec/03_tumbler_and_cylinder.md R60, R61), the swap into a
drain buffer, the checksum verdict (R58, R62 to R65), and the replay of a failed tile (R67 to R69). -/

namespace Sys2Proof

/-- RAMP_UP (R60): a tumbler at rest switches its columns on over 32 cycles, in which a slice waits. -/
def Main.rampUp (m : Main) (t : Nat) : Main :=
  let x := m.tum t
  if x.ramp = .rest then (m.setTum t { x with ramp := .on }).count 0x09 (tumCyl t) 32 else m

/-- RAMP_DOWN (R60): a tumbler that no slice entered for four cycles switches its columns off. -/
def Main.rampDown (m : Main) (t : Nat) : Main := m.setTum t { m.tum t with ramp := .rest }

/-- RAMP_RESUME (R61): a ramp-down stopped after so many cycles; the columns come back on over as many. -/
def Main.rampResume (m : Main) (t n : Nat) : Main :=
  if (m.tum t).ramp = .on then m.count 0x09 (tumCyl t) n else m

/-- Drained rows as the physical part shows them: pin `64 i + j` altered by a mask where the command names an upset. -/
def upsetRows (rows : List (List Word)) (up : List (Nat × Word)) : List (List Word) :=
  rows.zipIdx.map fun r => r.1.zipIdx.map fun c =>
    (up.filter fun q => q.1 == 64 * r.2 + c.2).foldl (fun w q => w ^^^ q.2) c.1

/-- A buffer of a tumbler set; a narrow tile takes both (R58). -/
def setBuf (t : Tum) (c : TileCfg) (b : Nat) (v : BufSt) : Tum :=
  if tileMode c = .narrow then { t with buf0 := v, buf1 := v }
  else if b = 0 then { t with buf0 := v } else { t with buf1 := v }

/-- The free buffer the next tile takes, if one is. -/
def freeFor (t : Tum) (c : TileCfg) : Option Nat :=
  let e := fun b => bufOf t b == BufSt.empty
  if tileMode c = .narrow then if e 0 && e 1 then some 0 else none
  else if e t.next then some t.next else if e (1 - t.next) then some (1 - t.next) else none

/-- Codes of the line kinds (Table 3-8). -/
def lineKindCode : LineKind → Nat
  | .row => 0 | .column => 1 | .corner => 2

/-- A failed verdict recorded in CYL_TILE_ERR (Table 3-8): a record that stands is kept, and overrun is set. Answers
whether this failure is the one recorded. -/
def Main.recordTile (m : Main) (t : Nat) (l : LineRef) : Main × Bool :=
  let c := tumCyl t
  if m.bit (F.CYL_TILE_ERR_valid c) then (m.setFld (F.CYL_TILE_ERR_overrun c) 1, false)
  else
    (m.setWord (0x20008 + c * 0x400) (BitVec.ofNat 32
      (t + l.line % 256 * 2 ^ 9 + lineKindCode l.kind * 2 ^ 17
        + 2 ^ 20 * b2n (m.bit (F.CYL_TILE_ERR_overrun c)) + 2 ^ 31)), true)

/-- TILE_SWAP (R58, R64, R65, R67): a whole tile passes to a free buffer and drains; its lines are compared. A tile that
passes is released to its readers; one that fails is held for its replay. -/
def Main.tileSwap (m : Main) (t : Nat) (up : List (Nat × Word)) : Main :=
  let x := m.tum t
  match x.tile, x.start with
  | some y, some st =>
    if y.done < y.cfg.k then m
    else
      match freeFor x y.cfg with
      | none => (m.setTum t { x with swapWait := true }).count 0x08 (tumCyl t) 1
      | some b =>
        let rows := upsetRows (drainRows y) up
        let d : Drained := { cfg := y.cfg, rows := rows, e0r := y.e0r, e0c := y.e0c }
        let ls := tileLines y rows
        let c := tumCyl t
        let m := m.count 0x10 c (skipCount ls)
        let x := { x with tile := none, start := none, slices := [], guard := [], swapWait := false, next := 1 - b }
        match firstFail ls with
        | none => m.setTum t (setBuf x y.cfg b (.ready d))
        | some l =>
          let r := m.recordTile t l
          let f : Failed := { start := st, slices := (m.tum t).slices, buf := b, members := (m.tum t).members
                              guard := (m.tum t).guard, recorded := r.2 }
          (r.1.count 0x11 c 1).setTum t { setBuf x y.cfg b (.held d) with
            failed := (if r.2 then x.failed.map fun g => { g with recorded := false } else x.failed) ++ [f] }
  | _, _ => m

/-- REPLAY_HOLD_ARRIVAL (R67, order 2; R69): a failed tile's hold joins its ward's queue, and the ward's resources stop. -/
def Main.replayHold (m : Main) (t : Nat) : Main :=
  let w := t / 32
  let x := m.ward w
  if (m.tum t).failed.length ≤ x.holds.count t then m
  else
    let m := m.setWard w { x with holds := x.holds ++ [t] }
    match m.instOn w with
    | some (lead, i) => m.setInst lead { i with replayHeld := true }
    | none => m

/-- A tile computed again from its start and slices (R67, order 5). -/
def replayTile (f : Failed) : Tile := f.slices.foldl (fun t s => tileSlice s t) f.start

/-- A replay's failure recorded (Table 3-8): in the record that the tile's first failure still holds, else as a failure of its
own. -/
def Main.recordReplay (m : Main) (t : Nat) (f : Failed) (l : LineRef) : Main :=
  let c := tumCyl t
  if f.recorded && m.bit (F.CYL_TILE_ERR_valid c) && m.fld (F.CYL_TILE_ERR_tumbler c) == t then
    m.setFld (F.CYL_TILE_ERR_replay_failed c) 1
  else
    let r := m.recordTile t l
    if r.2 then
      (r.1.setTum t { r.1.tum t with failed := (r.1.tum t).failed.map fun g => { g with recorded := false } }).setFld
        (F.CYL_TILE_ERR_replay_failed c) 1
    else r.1

/-- REPLAY_VERDICT (R67, orders 6 and 7; R68): the first hold's tile is computed again. A pass gives its contexts
DONE_REPLAYED; a second failure marks the cylinder suspect and faults the rows' contexts. Either way the buffer is released. -/
def Main.replayVerdict (m : Main) (t : Nat) (up : List (Nat × Word)) : Main :=
  let w := t / 32
  let x := m.tum t
  match (m.ward w).holds, x.failed with
  | h :: hs, f :: fs =>
    if h ≠ t then m
    else
      let y := replayTile f
      let rows := upsetRows (drainRows y) up
      let d : Drained := { cfg := y.cfg, rows := rows, e0r := y.e0r, e0c := y.e0c }
      let ls := tileLines y rows
      let c := tumCyl t
      let m := (m.setTum t { setBuf x y.cfg f.buf (.ready d) with failed := fs }).updWard w fun q => { q with holds := hs }
      let m := (m.count 0x10 c (skipCount ls)).count 0x13 c (satCount y)
      match m.instOn w, firstFail ls with
      | some (lead, i), none =>
        m.setInst lead { i with members := i.members.map fun z =>
          if (f.members.map (·.contains z.berth)).getD true then { z with replayed := true } else z }
      | none, none => m
      | o, some l =>
        let m := m.recordReplay t f l
        let n := Tab.get ctrDef m.fence.suspect c + 1
        let k := m.err.next
        let i := (o.map (·.2)).getD {}
        let who := firstCtx f.members i
        let m := m.logErr { code := 0x11, status := stChecksum, ctx := who, step := i.step, round := i.round, island := c
                            extra := t, aux1 := (m.word (0x20008 + c * 0x400)).toNat, aux2 := n, pasid := m.pasidOf who }
        let m := match o with
          | some (lead, _) => m.setInst lead (faultMembers f.members stChecksum k (m.inst lead))
          | none => m
        m.markSuspect c t
  | _, _ => m

end Sys2Proof
end

