-- ==== Sys2Proof/Machine/PlanCmds.lean ====
section
/-! DEFINITION. Meanings of the commands. Plan slots, tumblers, tiles and replays (spec/03_tumbler_and_cylinder.md, spec/04_bittings.md). -/

namespace Sys2Proof
open Machine

/-- A plan slot fires, or fails to (R23, R102): an instance aborts at once where its work says so; a CAM_RECV entry that waits
notes it; nothing fires in an instance that a block reset's idle request has reached (R399). -/
def Machine.State.fire (s : State) (lead : Nat) (r : Resource) (work : SlotWork) (ecc : List EccEvent) :
    Host.Outcome State Fault Refusal :=
  let asked := match s.rc.blk with
    | some (q, .idleReq) => (islandWard q.isl).elim false fun w => (s.mn.inst lead).mask / 2 ^ w % 2 == 1
    | _ => false
  if !s.wardenUp || asked then .next s
  else match s.mn.fireSlot Main.camStep lead r work ecc with
    | .bad => .fault (.badAddress "SLOT_FIRE")
    | .abort m st d => .next (State.sync { s with mn := (m.abortRun lead st d).settle.lapseNew s.mn })
    | .next m => .next (State.sync { s with mn := m.lapseNew s.mn })

namespace Machine

/-- PLAN_LOAD_END (R94). -/
def execPlanLoadEnd (w : Fin 16) (cycles : Nat) (bad : Option (Nat × Nat)) (s : State) : Host.Outcome State Fault Refusal :=
  .next (s.warden fun m => (m.planLoadEnd w.val cycles bad).lapseNew m)

/-- SLOT_FIRE (R23). -/
def execSlotFire (lead : Fin 16) (r : Resource) (work : SlotWork) (ecc : List EccEvent) (s : State) : Host.Outcome State Fault Refusal :=
  s.fire lead.val r work ecc

/-- TIER3_READ_TIMEOUT (R134). -/
def execTier3ReadTimeout (lead : Fin 16) (r : Resource) (members : List Nat) (dst : Ref) (n : Nat) (s : State) : Host.Outcome State Fault Refusal :=
  s.fire lead.val r (.tier3Bad members n dst) []

/-- RAMP_UP (R60). -/
def execRampUp (t : Fin 512) (s : State) : Host.Outcome State Fault Refusal :=
  .next (s.warden fun m => m.rampUp t.val)

/-- RAMP_DOWN (R60). -/
def execRampDown (t : Fin 512) (s : State) : Host.Outcome State Fault Refusal :=
  .next (s.warden fun m => m.rampDown t.val)

/-- RAMP_RESUME (R61). -/
def execRampResume (t : Fin 512) (m : Fin 33) (s : State) : Host.Outcome State Fault Refusal :=
  .next (s.warden fun x => Main.rampResume x t.val m.val)

/-- TILE_SWAP (R58). -/
def execTileSwap (t : Fin 512) (upset : List (Nat × Word)) (s : State) : Host.Outcome State Fault Refusal :=
  .next (s.warden fun m => m.tileSwap t.val upset)

/-- REPLAY_HOLD_ARRIVAL (R67). -/
def execReplayHoldArrival (t : Fin 512) (s : State) : Host.Outcome State Fault Refusal :=
  .next (s.warden fun m => m.replayHold t.val)

/-- REPLAY_VERDICT (R67). -/
def execReplayVerdict (t : Fin 512) (upset : List (Nat × Word)) (s : State) : Host.Outcome State Fault Refusal :=
  .next (s.warden fun m => ((m.replayVerdict t.val upset).settle).lapseNew m)

end Machine

end Sys2Proof
end

