-- ==== Sys2Proof/Machine/PowerCmds.lean ====
section
/-! DEFINITION. Meanings of the commands. Power levels, heat, sleep and waking (spec/17_power.md, spec/12_host_interface.md R290). -/

namespace Sys2Proof
open Machine

namespace Machine

/-- PLEVEL_CAP_WRITE (R290). -/
def execPlevelCapWrite (v : Word) (s : State) : Host.Outcome State Fault Refusal :=
  .next (s.hostLatch fun s => s.onMn fun m => m.capWrite v)

/-- THROTTLE_N_ASSERT (R290). -/
def execThrottleNAssert (s : State) : Host.Outcome State Fault Refusal :=
  .next (s.latch fun s => s.onMn fun m => m.throttlePin true)

/-- THROTTLE_N_DEASSERT (R290). -/
def execThrottleNDeassert (s : State) : Host.Outcome State Fault Refusal :=
  .next (s.latch fun s => s.onMn fun m => m.throttlePin false)

/-- THERMAL_LEVEL_STEP (R373). -/
def execThermalLevelStep (isl : Island) (temp : Int) (s : State) : Host.Outcome State Fault Refusal :=
  .next (s.warden fun m => m.thermStep isl temp)

/-- THERMAL_ALERT (R373). -/
def execThermalAlert (isl : Island) (temp : Int) (s : State) : Host.Outcome State Fault Refusal :=
  .next (s.latch fun s => s.thermAlert isl temp)

/-- SLEEP_GO (R378). -/
def execSleepGo (v : Word) (s : State) : Host.Outcome State Fault Refusal :=
  .next (s.hostLatch fun s => s.sleepGo v)

/-- SLEEP_ENTRY_PROCEED (R379). -/
def execSleepEntryProceed (s : State) : Host.Outcome State Fault Refusal :=
  .next (s.markFwl fun s => if s.wardenUp then s.sleepProceed else s)

/-- SLEEP_ENTRY_TIMEOUT (R379). -/
def execSleepEntryTimeout (s : State) : Host.Outcome State Fault Refusal :=
  .next (if s.wardenUp then s.sleepTimeout else s)

/-- WAKE_SOURCE (R384). -/
def execWakeSource (src : Fin 8) (s : State) : Host.Outcome State Fault Refusal :=
  .next (s.markFwl fun s => s.latch fun s => s.wakeFrom (src.val + 1))

/-- WAKE_COMPLETE (R385). -/
def execWakeComplete (imgBad : Bool) (s : State) : Host.Outcome State Fault Refusal :=
  .next (s.markFwl fun s => s.latch fun s => s.wakeComplete imgBad)

/-- RETENTION_SUPPLY_LOSS (R377). -/
def execRetentionSupplyLoss (s : State) : Host.Outcome State Fault Refusal :=
  .next (s.latch fun s => s.retentionLoss)

end Machine

end Sys2Proof
end

