-- ==== Sys2Proof/Machine/Resets.lean ====
section
/-! DEFINITION. Meanings of the commands. Power-up, resets, block resets and Latch mode's exit (spec/18_reset.md, spec/23_pins_package.md). -/

namespace Sys2Proof
open Machine

namespace Machine

/-- POWER_ON (R481). -/
def execPowerOn (chainHead : Bool) (s : State) : Host.Outcome State Fault Refusal :=
  .next (s.markFwl fun s => s.powerOn 1 chainHead)

/-- RAIL_POWER_GOOD (R481). -/
def execRailPowerGood (r : Fin 8) (s : State) : Host.Outcome State Fault Refusal :=
  .next (s.markFwl fun s => s.railGood r.val)

/-- RAIL_GOOD_TIMEOUT (R481). -/
def execRailGoodTimeout (r : Fin 8) (s : State) : Host.Outcome State Fault Refusal :=
  .next (s.markFwl fun s => s.railTimeout r.val)

/-- RAIL_RETRY_WAIT_END (R481). -/
def execRailRetryWaitEnd (s : State) : Host.Outcome State Fault Refusal :=
  .next (s.markFwl fun s => s.railRetry)

/-- BROWN_OUT (R388). -/
def execBrownOut (sup : Supply) (s : State) : Host.Outcome State Fault Refusal :=
  .next (s.markFwl fun s => s.brownOut sup)

/-- RESET_N_ASSERTED (R391). -/
def execResetNAsserted (us : Nat) (s : State) : Host.Outcome State Fault Refusal :=
  .next (s.markFwl fun s => s.resetN us)

/-- WATCHDOG_EXPIRY (R398). -/
def execWatchdogExpiry (s : State) : Host.Outcome State Fault Refusal :=
  .next (s.markFwl fun s => s.watchdog)

/-- RESET_CTL_WARM (R405). -/
def execResetCtlWarm (reload : Bool) (byFirmware : Bool) (s : State) : Host.Outcome State Fault Refusal :=
  .next (s.markFwl fun s => s.softReset reload byFirmware)

/-- FUNCTION_LEVEL_RESET (R388). -/
def execFunctionLevelReset (s : State) : Host.Outcome State Fault Refusal :=
  .next (s.markFwl fun s => s.flr)

/-- HOST_LINK_RESET (R388). -/
def execHostLinkReset (ev : LinkEvent) (s : State) : Host.Outcome State Fault Refusal :=
  .next (s.markFwl fun s => s.linkReset ev)

/-- DEBUG_RESET_REQUEST (R388). -/
def execDebugResetRequest (viaBar4 : Bool) (target : Option (Fin 144)) (s : State) : Host.Outcome State Fault Refusal :=
  .next (s.markFwl fun s => s.debugReset viaBar4 target)

/-- CLOCK_FAILURE (R396). -/
def execClockFailure (isl : Island) (s : State) : Host.Outcome State Fault Refusal :=
  .next (s.markFwl fun s => s.clockFailure isl)

/-- LOCK_UP (R397). -/
def execLockUp (isl : Island) (s : State) : Host.Outcome State Fault Refusal :=
  .next (s.markFwl fun s => s.lockUp isl)

/-- STRETCH_END (R392). -/
def execStretchEnd (s : State) : Host.Outcome State Fault Refusal :=
  .next (s.markFwl fun s => s.stretchEnd)

/-- CLOCK_GOOD (R394). -/
def execClockGood (isl : Island) (ok : Bool) (s : State) : Host.Outcome State Fault Refusal :=
  .next (s.markFwl fun s => s.clockGood isl ok)

/-- CLOCK_HOLD_TIMEOUT (R394). -/
def execClockHoldTimeout (isl : Island) (s : State) : Host.Outcome State Fault Refusal :=
  .next (s.markFwl fun s => s.clockHold isl)

/-- RESET_FORCE (R395). -/
def execResetForce (mask : Word) (s : State) : Host.Outcome State Fault Refusal :=
  .next (s.markFwl fun s => s.hostLatch fun s => s.resetForce mask)

/-- BLOCK_RESET_GO (R399). -/
def execBlockResetGo (v : Word) (s : State) : Host.Outcome State Fault Refusal :=
  .next (s.hostLatch fun s => s.blockGo v)

/-- BLOCK_IDLE (R399). -/
def execBlockIdle (s : State) : Host.Outcome State Fault Refusal :=
  .next (s.blockHold false)

/-- BLOCK_IDLE_TIMEOUT (R399). -/
def execBlockIdleTimeout (s : State) : Host.Outcome State Fault Refusal :=
  .next (s.blockHold true)

/-- BLOCK_RESET_HOLD_END (R399). -/
def execBlockResetHoldEnd (s : State) : Host.Outcome State Fault Refusal :=
  .next (s.blockHoldEnd)

/-- LATCH_RETRY (R443). -/
def execLatchRetry (viaSdio : Bool) (s : State) : Host.Outcome State Fault Refusal :=
  let f := fun (s : State) => if viaSdio then s.viaSdio fun s => s.latchRetry else if s.cfgUp then s.latchRetry else s
  .next (s.markFwl f)

/-- HOST_LINK_UP (R441). -/
def execHostLinkUp (s : State) : Host.Outcome State Fault Refusal :=
  .next (s.hostLinkUp)

end Machine

end Sys2Proof
end

