-- ==== Sys2Proof/Machine/RingCmds.lean ====
section
/-! DEFINITION. Meanings of the commands. Doorbells, acceptance and descriptors (spec/12_host_interface.md R267 to R279). -/

namespace Sys2Proof
open Machine

namespace Machine

/-- SQ_DB (R270). -/
def execSqDb (ctx : Fin 3072) (v : DWord) (bytes : Nat) (s : State) : Host.Outcome State Fault Refusal :=
  .next (s.hostWarden fun m => m.sqDb ctx.val v bytes)

/-- CQ_DB (R270). -/
def execCqDb (ctx : Fin 3072) (v : DWord) (bytes : Nat) (s : State) : Host.Outcome State Fault Refusal :=
  .next (s.hostWarden fun m => m.cqDb ctx.val v bytes)

/-- IRQ_ARM (R289). -/
def execIrqArm (ctx : Fin 3072) (v : DWord) (bytes : Nat) (s : State) : Host.Outcome State Fault Refusal :=
  .next (s.hostWarden fun m => m.irqArm ctx.val v bytes)

/-- DESCRIPTOR_READ (R271). -/
def execDescriptorRead (ctx : Fin 3072) (refused : Bool) (s : State) : Host.Outcome State Fault Refusal :=
  .next (s.warden fun m => m.descriptorRead ctx.val refused)

/-- ACCEPT_READBACK (R271). -/
def execAcceptReadback (ctx : Fin 3072) (s : State) : Host.Outcome State Fault Refusal :=
  .next (s.warden fun m => (m.acceptReadback ctx.val).lapseNew m)

/-- RUN (R275). -/
def execRun (ctx : Fin 3072) (s : State) : Host.Outcome State Fault Refusal :=
  .next (s.warden fun m => m.startRun ctx.val)

/-- BIND (R91). -/
def execBind (ctx : Fin 3072) (refused : Bool) (s : State) : Host.Outcome State Fault Refusal :=
  .next (s.warden fun m => (m.startBind ctx.val refused).lapseNew m)

/-- UNBIND (R272). -/
def execUnbind (ctx : Fin 3072) (s : State) : Host.Outcome State Fault Refusal :=
  .next (s.warden fun m => m.doUnbind ctx.val)

/-- LOAD (R277). -/
def execLoad (ctx : Fin 3072) (s : State) : Host.Outcome State Fault Refusal :=
  .next (s.warden fun m => (m.startLoad ctx.val).lapseNew m)

/-- FREE (R138). -/
def execFree (ctx : Fin 3072) (s : State) : Host.Outcome State Fault Refusal :=
  .next (s.warden fun m => m.startFree ctx.val)

/-- COMPRESS (R165). -/
def execCompress (ctx : Fin 3072) (s : State) : Host.Outcome State Fault Refusal :=
  .next (s.warden fun m => (m.startCompress ctx.val).lapseNew m)

/-- LANE_START (R252). -/
def execLaneStart (ctx : Fin 3072) (s : State) : Host.Outcome State Fault Refusal :=
  .next (s.warden fun m => m.laneStart ctx.val)

/-- LANE_STOP (R252). -/
def execLaneStop (ctx : Fin 3072) (s : State) : Host.Outcome State Fault Refusal :=
  .next (s.warden fun m => m.laneStop ctx.val)

/-- END_SEQ (R272). -/
def execEndSeq (ctx : Fin 3072) (s : State) : Host.Outcome State Fault Refusal :=
  .next (s.warden fun m => m.doEndSeq ctx.val)

/-- UNKNOWN_OPCODE (R272). -/
def execUnknownOpcode (ctx : Fin 3072) (s : State) : Host.Outcome State Fault Refusal :=
  .next (s.warden fun m => m.doUnknown ctx.val)

/-- BIND_COPY_DONE (R90). -/
def execBindCopyDone (ctx : Fin 3072) (aux : ContainerAux) (s : State) : Host.Outcome State Fault Refusal :=
  .next (s.warden fun m => (m.bindCopyDone ctx.val aux).lapseNew m)

/-- IRQ_HOLDOFF_EXPIRY (R289). -/
def execIrqHoldoffExpiry (ctx : Fin 3072) (s : State) : Host.Outcome State Fault Refusal :=
  .next (s.warden fun m => m.irqHoldoff ctx.val)

end Machine

end Sys2Proof
end

