-- ==== Sys2Proof/Machine/SecurityCmds.lean ====
section
/-! DEFINITION. Meanings of the commands. The protection set-up, confidential mode and attestation (spec/19_security.md). -/

namespace Sys2Proof
open Machine

namespace Machine

/-- CONF_MODE_SET (R425). -/
def execConfModeSet (v : Word) (s : State) : Host.Outcome State Fault Refusal :=
  .next (s.hostLatch fun s => s.onMn fun m => m.confSet v)

/-- PROT_LOCK (R431). -/
def execProtLock (s : State) : Host.Outcome State Fault Refusal :=
  .next (s.hostWarden fun m => m.protLock.lapseNew m)

/-- PROTECTION_WRITE (R416). -/
def execProtectionWrite (off : Nat) (v : Word) (s : State) : Host.Outcome State Fault Refusal :=
  .next (s.hostWarden fun m => (m.protWrite off v).lapseNew m)

/-- ATTEST_GO (R426). -/
def execAttestGo (s : State) : Host.Outcome State Fault Refusal :=
  .next (s.hostDo fun s => s.attestGo)

/-- ATTEST_DONE (R427). -/
def execAttestDone (s : State) : Host.Outcome State Fault Refusal :=
  .next (if s.wardenUp then s.attestDone else s)

end Machine

end Sys2Proof
end

