-- ==== Sys2Proof/Machine/Dispatch.lean ====
section
/-! DEFINITION. The effect of each command on everything but the queue: one arm per constructor of Instr. -/

namespace Sys2Proof.Machine

/-- A command's effect. -/
def exec (c : Instr) (s : State) : Host.Outcome State Fault Refusal :=
  match c with
  | .powerOn chainHead => Sys2Proof.Machine.execPowerOn chainHead s
  | .railPowerGood r => Sys2Proof.Machine.execRailPowerGood r s
  | .railGoodTimeout r => Sys2Proof.Machine.execRailGoodTimeout r s
  | .railRetryWaitEnd => Sys2Proof.Machine.execRailRetryWaitEnd s
  | .brownOut sup => Sys2Proof.Machine.execBrownOut sup s
  | .resetNAsserted us => Sys2Proof.Machine.execResetNAsserted us s
  | .watchdogExpiry => Sys2Proof.Machine.execWatchdogExpiry s
  | .resetCtlWarm reload byFirmware => Sys2Proof.Machine.execResetCtlWarm reload byFirmware s
  | .functionLevelReset => Sys2Proof.Machine.execFunctionLevelReset s
  | .hostLinkReset ev => Sys2Proof.Machine.execHostLinkReset ev s
  | .debugResetRequest viaBar4 target => Sys2Proof.Machine.execDebugResetRequest viaBar4 target s
  | .clockFailure isl => Sys2Proof.Machine.execClockFailure isl s
  | .lockUp isl => Sys2Proof.Machine.execLockUp isl s
  | .stretchEnd => Sys2Proof.Machine.execStretchEnd s
  | .clockGood isl ok => Sys2Proof.Machine.execClockGood isl ok s
  | .clockHoldTimeout isl => Sys2Proof.Machine.execClockHoldTimeout isl s
  | .resetForce mask => Sys2Proof.Machine.execResetForce mask s
  | .blockResetGo v => Sys2Proof.Machine.execBlockResetGo v s
  | .blockIdle => Sys2Proof.Machine.execBlockIdle s
  | .blockIdleTimeout => Sys2Proof.Machine.execBlockIdleTimeout s
  | .blockResetHoldEnd => Sys2Proof.Machine.execBlockResetHoldEnd s
  | .bootCtlGo => Sys2Proof.Machine.execBootCtlGo s
  | .bootImageReceived src => Sys2Proof.Machine.execBootImageReceived src s
  | .fwlStart n => Sys2Proof.Machine.execFwlStart n s
  | .fwlData bytes => Sys2Proof.Machine.execFwlData bytes s
  | .fwlAbort => Sys2Proof.Machine.execFwlAbort s
  | .latchRetry viaSdio => Sys2Proof.Machine.execLatchRetry viaSdio s
  | .sqDb ctx v bytes => Sys2Proof.Machine.execSqDb ctx v bytes s
  | .cqDb ctx v bytes => Sys2Proof.Machine.execCqDb ctx v bytes s
  | .irqArm ctx v bytes => Sys2Proof.Machine.execIrqArm ctx v bytes s
  | .descriptorRead ctx refused => Sys2Proof.Machine.execDescriptorRead ctx refused s
  | .acceptReadback ctx => Sys2Proof.Machine.execAcceptReadback ctx s
  | .run ctx => Sys2Proof.Machine.execRun ctx s
  | .bind ctx refused => Sys2Proof.Machine.execBind ctx refused s
  | .unbind ctx => Sys2Proof.Machine.execUnbind ctx s
  | .load ctx => Sys2Proof.Machine.execLoad ctx s
  | .free ctx => Sys2Proof.Machine.execFree ctx s
  | .compress ctx => Sys2Proof.Machine.execCompress ctx s
  | .laneStart ctx => Sys2Proof.Machine.execLaneStart ctx s
  | .laneStop ctx => Sys2Proof.Machine.execLaneStop ctx s
  | .endSeq ctx => Sys2Proof.Machine.execEndSeq ctx s
  | .unknownOpcode ctx => Sys2Proof.Machine.execUnknownOpcode ctx s
  | .bindCopyDone ctx aux => Sys2Proof.Machine.execBindCopyDone ctx aux s
  | .listPoint => Sys2Proof.Machine.execListPoint s
  | .roundBuild w => Sys2Proof.Machine.execRoundBuild w s
  | .planLoadEnd w cycles bad => Sys2Proof.Machine.execPlanLoadEnd w cycles bad s
  | .slotFire lead r work ecc => Sys2Proof.Machine.execSlotFire lead r work ecc s
  | .tier3ReadTimeout lead r members dst n => Sys2Proof.Machine.execTier3ReadTimeout lead r members dst n s
  | .rampUp t => Sys2Proof.Machine.execRampUp t s
  | .rampDown t => Sys2Proof.Machine.execRampDown t s
  | .rampResume t m => Sys2Proof.Machine.execRampResume t m s
  | .tileSwap t upset => Sys2Proof.Machine.execTileSwap t upset s
  | .replayHoldArrival t => Sys2Proof.Machine.execReplayHoldArrival t s
  | .replayVerdict t upset => Sys2Proof.Machine.execReplayVerdict t upset s
  | .doneBundle cyl cycles => Sys2Proof.Machine.execDoneBundle cyl cycles s
  | .readyBundle w => Sys2Proof.Machine.execReadyBundle w s
  | .commitRecordWrite w => Sys2Proof.Machine.execCommitRecordWrite w s
  | .commitPoint => Sys2Proof.Machine.execCommitPoint s
  | .commitRetire => Sys2Proof.Machine.execCommitRetire s
  | .irqHoldoffExpiry ctx => Sys2Proof.Machine.execIrqHoldoffExpiry ctx s
  | .misfitBundle w => Sys2Proof.Machine.execMisfitBundle w s
  | .companionStart w => Sys2Proof.Machine.execCompanionStart w s
  | .switch ctx => Sys2Proof.Machine.execSwitch ctx s
  | .saveComplete ctx cycles bad => Sys2Proof.Machine.execSaveComplete ctx cycles bad s
  | .restoreComplete ctx cycles uncorrectable => Sys2Proof.Machine.execRestoreComplete ctx cycles uncorrectable s
  | .teardownDone ctx => Sys2Proof.Machine.execTeardownDone ctx s
  | .ctxCmdRelease => Sys2Proof.Machine.execCtxCmdRelease s
  | .ctxCmdEvict => Sys2Proof.Machine.execCtxCmdEvict s
  | .ctxBindBind v => Sys2Proof.Machine.execCtxBindBind v s
  | .ctxBindUnbind v => Sys2Proof.Machine.execCtxBindUnbind v s
  | .laneReserve l v => Sys2Proof.Machine.execLaneReserve l v s
  | .laneReserved l => Sys2Proof.Machine.execLaneReserved l s
  | .laneUnreserve l => Sys2Proof.Machine.execLaneUnreserve l s
  | .laneTick l => Sys2Proof.Machine.execLaneTick l s
  | .recover => Sys2Proof.Machine.execRecover s
  | .recoveryComplete aux bad => Sys2Proof.Machine.execRecoveryComplete aux bad s
  | .plevelCapWrite v => Sys2Proof.Machine.execPlevelCapWrite v s
  | .throttleNAssert => Sys2Proof.Machine.execThrottleNAssert s
  | .throttleNDeassert => Sys2Proof.Machine.execThrottleNDeassert s
  | .thermalLevelStep isl temp => Sys2Proof.Machine.execThermalLevelStep isl temp s
  | .thermalAlert isl temp => Sys2Proof.Machine.execThermalAlert isl temp s
  | .loadEngineRead region => Sys2Proof.Machine.execLoadEngineRead region s
  | .regionSeal region => Sys2Proof.Machine.execRegionSeal region s
  | .loadTimeout region refused => Sys2Proof.Machine.execLoadTimeout region refused s
  | .holdBegin region granule channel lead => Sys2Proof.Machine.execHoldBegin region granule channel lead s
  | .refetchGranuleArrival region tailOk refused => Sys2Proof.Machine.execRefetchGranuleArrival region tailOk refused s
  | .refetchVerify region clean => Sys2Proof.Machine.execRefetchVerify region clean s
  | .refetchTimeout region => Sys2Proof.Machine.execRefetchTimeout region s
  | .cxlMemWrite addr bytes pasid => Sys2Proof.Machine.execCxlMemWrite addr bytes pasid s
  | .cxlMemRead addr n pasid => Sys2Proof.Machine.execCxlMemRead addr n pasid s
  | .scrubStart unit => Sys2Proof.Machine.execScrubStart unit s
  | .scrubUnitDone => Sys2Proof.Machine.execScrubUnitDone s
  | .areaRegisterWrite off v => Sys2Proof.Machine.execAreaRegisterWrite off v s
  | .compressPassStart => Sys2Proof.Machine.execCompressPassStart s
  | .compressPassDone refused => Sys2Proof.Machine.execCompressPassDone refused s
  | .svcRequestPost => Sys2Proof.Machine.execSvcRequestPost s
  | .svcDbWrite v => Sys2Proof.Machine.execSvcDbWrite v s
  | .h1Answer num => Sys2Proof.Machine.execH1Answer num s
  | .h2Answer num => Sys2Proof.Machine.execH2Answer num s
  | .h3Answer num => Sys2Proof.Machine.execH3Answer num s
  | .h4Answer num => Sys2Proof.Machine.execH4Answer num s
  | .h5Answer num => Sys2Proof.Machine.execH5Answer num s
  | .h6Answer num => Sys2Proof.Machine.execH6Answer num s
  | .h7Answer num => Sys2Proof.Machine.execH7Answer num s
  | .h8Answer num => Sys2Proof.Machine.execH8Answer num s
  | .h9Answer num => Sys2Proof.Machine.execH9Answer num s
  | .hingeTimeout num => Sys2Proof.Machine.execHingeTimeout num s
  | .svcEnableClear => Sys2Proof.Machine.execSvcEnableClear s
  | .hingeCtlWrite v => Sys2Proof.Machine.execHingeCtlWrite v s
  | .lanizaPortChange p st => Sys2Proof.Machine.execLanizaPortChange p st s
  | .headUpTimeout => Sys2Proof.Machine.execHeadUpTimeout s
  | .noHeadTimeout => Sys2Proof.Machine.execNoHeadTimeout s
  | .lanizaRewalk => Sys2Proof.Machine.execLanizaRewalk s
  | .quiesce => Sys2Proof.Machine.execQuiesce s
  | .quiesced => Sys2Proof.Machine.execQuiesced s
  | .walk pos floorMax maxMin addrs => Sys2Proof.Machine.execWalk pos floorMax maxMin addrs s
  | .walkEnd units floorMax maxMin addrs => Sys2Proof.Machine.execWalkEnd units floorMax maxMin addrs s
  | .confirm units ring gen addrs failed viaUp => Sys2Proof.Machine.execConfirm units ring gen addrs failed viaUp s
  | .chainMembership h members => Sys2Proof.Machine.execChainMembership h members s
  | .chainStart lead faulted parked => Sys2Proof.Machine.execChainStart lead faulted parked s
  | .chainReady lead unit => Sys2Proof.Machine.execChainReady lead unit s
  | .chainGo lead => Sys2Proof.Machine.execChainGo lead s
  | .chainGoTimeout w => Sys2Proof.Machine.execChainGoTimeout w s
  | .chainDropNotice ctx kvLimit => Sys2Proof.Machine.execChainDropNotice ctx kvLimit s
  | .chainResync ctxs => Sys2Proof.Machine.execChainResync ctxs s
  | .lanizaSendWake upIdle downIdle => Sys2Proof.Machine.execLanizaSendWake upIdle downIdle s
  | .haspMuteWrite v => Sys2Proof.Machine.execHaspMuteWrite v s
  | .muteNAssert => Sys2Proof.Machine.execMuteNAssert s
  | .muteNDeassert => Sys2Proof.Machine.execMuteNDeassert s
  | .decimatorSettleEnd g => Sys2Proof.Machine.execDecimatorSettleEnd g s
  | .wakeFrame pairs g0 g1 voice scores => Sys2Proof.Machine.execWakeFrame pairs g0 g1 voice scores s
  | .kwWindowExpiry => Sys2Proof.Machine.execKwWindowExpiry s
  | .verifyScore score => Sys2Proof.Machine.execVerifyScore score s
  | .verifyBudgetExpiry => Sys2Proof.Machine.execVerifyBudgetExpiry s
  | .verifierGranuleFail => Sys2Proof.Machine.execVerifierGranuleFail s
  | .audioBlockFull r => Sys2Proof.Machine.execAudioBlockFull r s
  | .streamStart r v => Sys2Proof.Machine.execStreamStart r v s
  | .streamStop r v => Sys2Proof.Machine.execStreamStop r v s
  | .verifyLoad aux refused => Sys2Proof.Machine.execVerifyLoad aux refused s
  | .pdmGrpWrite g v => Sys2Proof.Machine.execPdmGrpWrite g v s
  | .csiFrameStart port vc => Sys2Proof.Machine.execCsiFrameStart port vc s
  | .csiLongPacket port vc dt payload crcOk full => Sys2Proof.Machine.execCsiLongPacket port vc dt payload crcOk full s
  | .csiFrameEnd port vc late => Sys2Proof.Machine.execCsiFrameEnd port vc late s
  | .csiHeaderError port corrected => Sys2Proof.Machine.execCsiHeaderError port corrected s
  | .camFrameTimeout sn late => Sys2Proof.Machine.execCamFrameTimeout sn late s
  | .camRecvTimeout sn => Sys2Proof.Machine.execCamRecvTimeout sn s
  | .camLsEnable sn v => Sys2Proof.Machine.execCamLsEnable sn v s
  | .i3cCmd port v => Sys2Proof.Machine.execI3cCmd port v s
  | .i3cCmdDone port ok data => Sys2Proof.Machine.execI3cCmdDone port ok data s
  | .i3cIbi port addr payload => Sys2Proof.Machine.execI3cIbi port addr payload s
  | .i3cHotJoin port => Sys2Proof.Machine.execI3cHotJoin port s
  | .sleepGo v => Sys2Proof.Machine.execSleepGo v s
  | .sleepEntryProceed => Sys2Proof.Machine.execSleepEntryProceed s
  | .sleepEntryTimeout => Sys2Proof.Machine.execSleepEntryTimeout s
  | .wakeSource src => Sys2Proof.Machine.execWakeSource src s
  | .wakeComplete imgBad => Sys2Proof.Machine.execWakeComplete imgBad s
  | .retentionSupplyLoss => Sys2Proof.Machine.execRetentionSupplyLoss s
  | .confModeSet v => Sys2Proof.Machine.execConfModeSet v s
  | .protLock => Sys2Proof.Machine.execProtLock s
  | .protectionWrite off v => Sys2Proof.Machine.execProtectionWrite off v s
  | .attestGo => Sys2Proof.Machine.execAttestGo s
  | .attestDone => Sys2Proof.Machine.execAttestDone s
  | .errMirrorCopy => Sys2Proof.Machine.execErrMirrorCopy s
  | .strikeFire => Sys2Proof.Machine.execStrikeFire s
  | .strikeArm => Sys2Proof.Machine.execStrikeArm s
  | .strikeInEdge us => Sys2Proof.Machine.execStrikeInEdge us s
  | .thresholdStrike i => Sys2Proof.Machine.execThresholdStrike i s
  | .strikeMarker isl hop => Sys2Proof.Machine.execStrikeMarker isl hop s
  | .strikeDoneBundle isl inFlight => Sys2Proof.Machine.execStrikeDoneBundle isl inFlight s
  | .strikeOutPulseEnd => Sys2Proof.Machine.execStrikeOutPulseEnd s
  | .threshSelWrite i v => Sys2Proof.Machine.execThreshSelWrite i v s
  | .latchedLoRead off => Sys2Proof.Machine.execLatchedLoRead off s
  | .registerWrite off v be => Sys2Proof.Machine.execRegisterWrite off v be s
  | .mbxStatus bytes => Sys2Proof.Machine.execMbxStatus bytes s
  | .mbxMute bytes => Sys2Proof.Machine.execMbxMute bytes s
  | .mbxRetry bytes => Sys2Proof.Machine.execMbxRetry bytes s
  | .mbxReadReg bytes => Sys2Proof.Machine.execMbxReadReg bytes s
  | .mbxWriteReg bytes => Sys2Proof.Machine.execMbxWriteReg bytes s
  | .mbxUnknownCommand bytes => Sys2Proof.Machine.execMbxUnknownCommand bytes s
  | .f2Start => Sys2Proof.Machine.execF2Start s
  | .f2Stop => Sys2Proof.Machine.execF2Stop s
  | .f2RecordRead => Sys2Proof.Machine.execF2RecordRead s
  | .f2AudioRead => Sys2Proof.Machine.execF2AudioRead s
  | .lanizaFrameCrcFail p => Sys2Proof.Machine.execLanizaFrameCrcFail p s
  | .audClkStop => Sys2Proof.Machine.execAudClkStop s
  | .audClkReturn => Sys2Proof.Machine.execAudClkReturn s
  | .hostLinkUp => Sys2Proof.Machine.execHostLinkUp s
  | .laneInputFetchDone l slot refused path => Sys2Proof.Machine.execLaneInputFetchDone l slot refused path s

end Sys2Proof.Machine
end

