-- ==== Sys2Proof/Machine/Flags.lean ====
section
/-! DEFINITION. The lines that the block drives from its flags: SDIO function interrupts (spec/22_registers.md, Tables 22-6 and
22-8), and the pins of spec/23_pins_package.md that show flags. -/

namespace Sys2Proof
open Machine

/-- The function 1 interrupt: a flag of F1_INT whose bit of F1_INT_EN is set. -/
def Sdio.line1 (x : Sdio) : Bool := x.int1 &&& x.en1 != 0

/-- The function 2 interrupt. -/
def Sdio.line2 (x : Sdio) : Bool := x.int2 &&& x.en2 != 0

/-- WAKE# is driven (R338). -/
def Machine.State.wakeLine (s : State) : Bool := s.la.wakePin

/-- THERM_ALERT_N is driven (R373). -/
def Machine.State.alertLine (s : State) : Bool := s.la.alertPin

/-- MUTE_LED and MIC_PWR_EN (R346). -/
def Machine.State.muteLed (s : State) : Bool := s.la.hasp.led

/-- MIC_PWR_EN. -/
def Machine.State.micPower (s : State) : Bool := s.la.hasp.micPwr

/-- STRIKE_OUT is high (R453). -/
def Machine.State.strikeOut (s : State) : Bool := s.mn.strk.outHigh

end Sys2Proof
end

