-- ==== Sys2Proof/Safety.lean ====
section
/-! DEFINITION. What counts as safe: the promises that spec/15_listening.md makes of the hasp, and memories in their canonical
form; and the words in which statements say what a command changes and what it leaves. -/

namespace Sys2Proof
open Machine

/-- The hasp's promise (R344 to R346): MUTE_N asserted means muted; the lamp shows it, and while it holds microphones have neither
power nor clock. -/
abbrev Hasp.Safe (h : Hasp) : Prop :=
  (h.pin = true → h.mute = true) ∧ h.led = h.muted ∧ h.micPwr = !h.muted ∧ (h.muted = true → h.clk0 = false ∧ h.clk1 = false)

/-- The hasp's promise of a state. -/
abbrev Machine.State.HaspSafe (s : State) : Prop := s.la.hasp.Safe

/-- Every memory of a state is in its canonical form. -/
def Machine.State.MemoryWf (s : State) : Prop :=
  Memory.wf s.mn.host = true ∧ Memory.wf s.mn.stack = true ∧ Memory.wf s.mn.sp = true ∧ Memory.wf s.mn.ws = true
    ∧ Memory.wf s.la.psram = true ∧ Memory.wf s.la.preroll = true

/-! ## Words for statements -/

/-- The host reaches the Warden's registers: BAR0 answers and the part is awake. -/
abbrev Machine.State.HostUp (s : State) : Prop := s.rc.barUp = true ∧ s.mn.sleepState = 0

/-- The Latch island answers and the part is awake. -/
abbrev Machine.State.CardUp (s : State) : Prop := s.rc.latchHeld = false ∧ s.mn.sleepState = 0

namespace Machine

/-- A command answers a next state that differs from `s` in the Warden's side alone, of which `P` holds. -/
def OnWarden (c : Instr) (s : State) (P : Main → Prop) : Prop := ∃ m, exec c s = .next { s with mn := m } ∧ P m

/-- A command answers a next state that differs from `s` in the Latch island alone, of which `P` holds. -/
def OnLatch (c : Instr) (s : State) (P : Latch → Prop) : Prop := ∃ a, exec c s = .next { s with la := a } ∧ P a

/-- A command answers a next state that differs from `s` in the reset controller alone, of which `P` holds. -/
def OnReset (c : Instr) (s : State) (P : ResetCtl → Prop) : Prop := ∃ r, exec c s = .next { s with rc := r } ∧ P r

end Machine

/-- From `m` to `n` every register word stays but those at the offsets listed. -/
def Main.RegsBut (m n : Main) (os : List Nat) : Prop := ∀ o, o ∉ os → n.word o = m.word o

/-- From `m` to `n` every byte stays but `len` bytes from `a` on. -/
def Mem.But (m n : Mem) (a len : Nat) : Prop := ∀ x, x < a ∨ a + len ≤ x → n.rd x = m.rd x

/-- From `m` to `n` every context stays but `c`. -/
def Main.CtxsBut (m n : Main) (c : Nat) : Prop := ∀ j, j ≠ c → n.ctx j = m.ctx j

/-- Where descriptor `k` stands in a context's submission ring (R268). -/
def Ctx.sqAddr (x : Ctx) (k : Nat) : Nat := x.entry.sqBase + k % 2 ^ x.entry.sqOrder * 64

/-- It is the turn of descriptor `d` of context `c`, with `q` behind it: it is the oldest accepted, of the given opcode, not started,
and neither it nor the next one must not be performed; the context may perform it now and its vector is not armed (R273, R289). -/
abbrev Main.TurnOf (m : Main) (c : Nat) (d : Desc) (q : List Desc) (opcode : Nat) : Prop :=
  (m.ctx c).queue = d :: q ∧ d.opcode = opcode ∧ d.protErr = none ∧ (∀ e ∈ q.head?, e.protErr = none)
    ∧ (m.ctx c).busy = false ∧ m.running c = false ∧ (m.ctx c).state ≠ .faulted ∧ (m.ctx c).state ≠ .free
    ∧ (m.ctx c).irqArmed = false

/-- The completion record of descriptor `d` stands at its place in the completion ring (R268, Table 12-9). -/
def Main.RecordAt (n : Main) (x : Ctx) (d : Desc) (status cflags result detail : Nat) : Prop :=
  n.tenantRd x.tenant (x.entry.cqBase + d.seq % 2 ^ x.entry.cqOrder * 32) 32 = completionBytes d.seq status cflags d.tag result detail

/-- From `m` to `n` descriptor `d` of context `c` completes: its record is written, `q` is what remains, and no other context
changes. -/
def Main.Completed (m n : Main) (c : Nat) (d : Desc) (q : List Desc) (status cflags result detail : Nat) : Prop :=
  n.RecordAt (m.ctx c) d status cflags result detail ∧ (n.ctx c).queue = q ∧ (n.ctx c).completed = d.seq
    ∧ (n.ctx c).busy = false ∧ (n.ctx c).run = none ∧ m.CtxsBut n c

/-- Nothing waits for a step boundary (R103): no fence, share, unbinding, chain notice or change of protection is due. -/
abbrev Main.Quiet (m : Main) : Prop :=
  (∀ w < 16, (m.ward w).fencePending = false ∧ (m.fencedWard w = true → (m.ward w).powered = false))
    ∧ (∀ p ∈ m.ctxs, p.2.nextShare = none ∧ p.2.unbindPending = false ∧ p.2.pendingDrop = none ∧ p.2.pendingResync = false)
    ∧ m.prot.force = m.prot.written

/-- The next slot of a resource's list may fire with the given work (R23, R87, R94): its list stands at entry `e`, its tokens are
ready, its lists are loaded, no replay holds its ward, and no guarded range is written. -/
abbrev Main.SlotReady (m : Main) (lead : Nat) (r : Resource) (w : SlotWork) (p : ListPos) (b : Bitting) (e : Entry) : Prop :=
  ((m.inst lead).lists.find? fun q => q.1 == r) = some (r, p) ∧ m.bittingOf (m.inst lead) = some b ∧ (entriesOf b r)[p.idx]? = some e
    ∧ (m.inst lead).live = true ∧ p.ended = false ∧ (m.inst lead).stopped = false ∧ (m.inst lead).hold = false
    ∧ (m.inst lead).loadedWards.contains (resWard r) = true ∧ workFits r w = true ∧ opFits e p.left w = true ∧ chanStopped (m.inst lead) r = false
    ∧ m.workOk lead (resCyl r) (tumNo r) w = true ∧ (m.ward (resWard r)).holds = []
    ∧ waitReady (m.inst lead).tokens e.waitA e.relA r p.idx = true ∧ waitReady (m.inst lead).tokens e.waitB e.relB r p.idx = true
    ∧ signalReady (m.inst lead).tokens e.signal = true ∧ m.guarded lead (resCyl r) w = false

/-- An instance after a slot of it fired (R85, R87): its list advances and its tokens are released and signalled; nothing else of
it changes. -/
def Inst.fired (i : Inst) (r : Resource) (p : ListPos) (b : Bitting) (e : Entry) : Inst :=
  { i with lists := i.lists.map fun q => if q.1 = r then (r, advanceList (entriesOf b r) e p) else q
           tokens := fireTokens e r p.idx true i.tokens }

/-- From `m` to `n` every instance stays but the one of a lead ward. -/
def Main.InstsBut (m n : Main) (lead : Nat) : Prop := ∀ k, k ≠ lead → n.inst k = m.inst k

/-- From `m` to `n` every ward stays but `w`. -/
def Main.WardsBut (m n : Main) (w : Nat) : Prop := ∀ k, k ≠ w → n.ward k = m.ward k

/-- From `m` to `n` every tumbler stays but `t`. -/
def Main.TumsBut (m n : Main) (t : Nat) : Prop := ∀ k, k ≠ t → n.tum k = m.tum k

/-- From `m` to `n` every lane stays but `l`. -/
def Main.LanesBut (m n : Main) (l : Nat) : Prop := ∀ k, k ≠ l → n.lane k = m.lane k

/-- From `m` to `n` every region stays but `r`. -/
def Main.RegionsBut (m n : Main) (r : Nat) : Prop := ∀ k, k ≠ r → n.region k = m.region k

/-- From `m` to `n` every counter stays but those listed, as (id, instance). -/
def Main.CountersBut (m n : Main) (l : List (Nat × Nat)) : Prop :=
  ∀ id k, k < 4096 → (id, k) ∉ l → n.counter id k = m.counter id k

/-- From `m` to `n` every byte of every memory stays but `len` bytes at a place. -/
def Main.BytesBut (m n : Main) (r : Ref) (len : Nat) : Prop :=
  ∀ (k : MemSel) (a : Nat), refOk { mem := k, addr := a } 1 = true → (k ≠ r.mem ∨ a < r.addr ∨ r.addr + len ≤ a) →
    n.byteAt k a = m.byteAt k a

/-- One hosted set of one berth stands idle, its resident `c` goes on with a RUN of `n` rows, plan record `h` alone is stored and
serves it, no page or region is wanted, and no hinge is host-assisted (R232 to R234). -/
abbrev Main.ReadyToBuild (m : Main) (c h n : Nat) (p : Plan) (b : Bitting) (d : Desc) (r : RunProg) (last : Option Nat) : Prop :=
  m.ctxs.map (·.1) = [c] ∧ (m.ctx c).state = .residentRunning ∧ (m.ctx c).cause = .none ∧ (m.ctx c).pendingFault = none
    ∧ (m.ctx c).evict = false ∧ (m.ctx c).nextShare = none ∧ (m.ctx c).kvLimit = (m.ctx c).seqLen ∧ (m.ctx c).streams = []
    ∧ (m.ctx c).queue.head? = some d ∧ (m.ctx c).run = some r ∧ (m.ctx c).cursor = b.layerGroup
    ∧ (m.ctx c).berth = some (b.modelKey, b.mask, 0) ∧ n = d.field 0x1C 4 - r.done ∧ 0 < n ∧ b.rowsMin ≤ n ∧ n ≤ b.rowsMax
    ∧ m.plans = [(h, p)] ∧ p.valid = true ∧ p.role = 0 ∧ p.contexts = [c] ∧ p.bitting = some b ∧ b.flags / 2 % 2 = 0
    ∧ b.aux.weights = [] ∧ b.aux.carried = [] ∧ b.tensors = [] ∧ b.chainUnits = 1 ∧ m.capNow ≤ b.minPlevel
    ∧ m.kr.sets = [{ model := b.modelKey, mask := b.mask, berths := [(some c, last)] }] ∧ m.insts = [] ∧ m.regions = []
    ∧ m.fence.fenced = 0 ∧ m.kr.switches = [] ∧ m.kr.build = none ∧ m.kr.jobs = [] ∧ m.kr.h2Wait = none ∧ m.h9Defer = []
    ∧ (∀ w < 16, (m.ward w).lane = none) ∧ (∀ l < 4, (m.lane l).st = .idle ∧ (m.lane l).saving = false)
    ∧ m.fld F.HINGE_CTL_assist = 0

/-- Answer `num`, to a request `r` of hinge `h`, has been read and not acted on: its record is `bs` (R298). -/
abbrev Main.AnswerRead (m : Main) (h num : Nat) (r : HingeReq) (bs : List Byte) : Prop :=
  (m.svc.answers.find? fun p => p.1 == num && p.2.1.hinge == h) = some (num, r, bs)

/-- The service ring once the answer to request `num` is acted on. -/
def Svc.taken (x : Svc) (num : Nat) : Svc := { x with answers := x.answers.filter fun q => q.1 != num }

/-- The record of a candidate that ends (Table 15-5). -/
def Latch.recordFor (a : Latch) (c : Cand) (outcome score2 wflags : Nat) : WakeRec :=
  { cand := c.number, first := c.rep, last := c.last, score1 := c.score1, score2 := score2, state := c.state, outcome := outcome
    wflags := wflags ||| 8 * b2n (a.bit F.WAKE_STATUS_spool_overflow) }

/-- The Latch island after candidate `c`, which had passed stage 1, ends: its record joins the FIFO, and ward 0 goes off (R338,
R342); the spool ends with every outcome but 0. -/
def Latch.ended (a : Latch) (c : Cand) (outcome score2 wflags : Nat) : Latch :=
  { a with
    cand := none, prevLast := some c.last, w0On := false, spool := if outcome = 0 then a.spool else none
    fifo := a.fifo ++ [a.recordFor c outcome score2 wflags]
    sdio := { a.sdio with int2 := if a.fifo.isEmpty then a.sdio.int2 ||| 1 else a.sdio.int2 } }

/-- Nothing of the chain waits or runs on this unit: no chained instance, and no stored bitting for several units (R313, R317). -/
abbrev Main.NoChainWork (m : Main) : Prop :=
  (∀ p ∈ m.insts, p.2.chained = false ∧ p.2.hold = false) ∧ (∀ q ∈ m.stored, q.2.2.chainUnits ≤ 1)

/-- The chain's state after one more frame is sent on a port. -/
def Laniza.plus (z : Laniza) (p : Nat) (f : LzFrame) : Laniza := { z with sent := z.sent ++ [(p, f)] }

/-- From `m` to `n` a walk's result is taken: address, units, ring and generation (R312, order 7), and the walk is over. -/
def Main.WalkTaken (m n : Main) (units : Nat) (ring : Bool) (gen : Nat) (addrs : List Nat) : Prop :=
  m.RegsBut n [F.LANIZA_STATUS_walk_busy.off, F.LANIZA_ADDR_addr.off, F.LANIZA_GEN_op_gen.off] ∧ n.fld F.LANIZA_ADDR_units = units
    ∧ n.fld F.LANIZA_ADDR_ring = b2n ring ∧ n.fld F.LANIZA_ADDR_addr = addrs.getD (m.fld F.LANIZA_ADDR_position) 0 % 16
    ∧ n.fld F.LANIZA_ADDR_position = m.fld F.LANIZA_ADDR_position ∧ n.fld F.LANIZA_ADDR_host_assigned = b2n m.lz.host
    ∧ n.fld F.LANIZA_ADDR_valid = 1 ∧ n.fld F.LANIZA_GEN_op_gen = gen % 256 ∧ n.fld F.LANIZA_STATUS_walk_busy = 0

/-- A walk has failed on this unit: no valid address and no operating generation (R313). -/
def Main.WalkLost (n : Main) : Prop :=
  n.fld F.LANIZA_ADDR_valid = 0 ∧ n.fld F.LANIZA_GEN_op_gen = 0 ∧ n.fld F.LANIZA_STATUS_walk_busy = 0

/-- The chain's state once a walk is over. -/
def Laniza.ended (z : Laniza) : Laniza := { z with phase := .idle, restQuiet := false, addrs := [] }

/-- From `a` to `b` every audio register word stays but those at the offsets listed. -/
def Latch.RegsBut (a b : Latch) (os : List Nat) : Prop := ∀ o, o ∉ os → b.word o = a.word o

/-- The wake path listens: it runs unmuted and settled beside a quiet group 1, no stream or capture runs, and nothing is spooled. -/
abbrev Machine.State.Listening (s : State) : Prop :=
  s.rc.latchHeld = false ∧ s.la.wakeOn = true ∧ s.la.pathOn s.g1Off 1 = false ∧ s.la.hasp.muted = false ∧ s.la.settle0 = false
    ∧ s.la.stream.running = false ∧ s.la.sdio.stream.running = false ∧ s.la.cap0.running = false ∧ s.la.spool = none
    ∧ s.la.wake.next + 160 < 2 ^ 48

/-- The frames stage 0 has judged after a frame, newest first (R333). -/
def Latch.judgedNext (a : Latch) (voice : Bool) : List (Nat × Bool) := ((a.wake.next / 160, voice) :: a.judged).take 8

/-- From `a` to `b` the hasp and the clocks may change, with what they stop or start (R326 to R330), and nothing else. -/
def Latch.Redriven (a b : Latch) : Prop :=
  b = { a with hasp := b.hasp, settle0 := b.settle0, settle1 := b.settle1, g0 := b.g0, g1 := b.g1, wake := b.wake, regs := b.regs
               audStop := b.audStop, preroll := b.preroll, quiet := b.quiet }
    ∧ b.hasp.led = b.hasp.muted ∧ b.hasp.micPwr = !b.hasp.muted ∧ b.g0.next = a.g0.next ∧ b.g1.next = a.g1.next
    ∧ b.wake.next = a.wake.next

/-- From `m` to `n` a strike of a source fires at an origin that is not the Latch island: the strike logic leaves `armed`, the origin
latches with ordinal 0, and its counters go to zero with clear_on_strike (R448, R449, R453, R454). -/
def Main.FiredAt (m n : Main) (src o : Nat) : Prop :=
  n = { m with strk := n.strk, ctr := n.ctr, absent := n.absent }
    ∧ n.strk = { m.strk with
        armed := false, busy := true, complete := false, source := src, origin := o, fired := satAdd 16 m.strk.fired 1
        expect := islandCodes.filter (fun c => !m.absent.contains c), outHigh := m.strk.outHigh || m.bit F.STRIKE_CTL_out_en
        snaps := [(o, { flags := 5, hop := 0, origin := o, source := src, body := m.snapBody o (satAdd 16 m.strk.fired 1), ctrs := m.islandCtrs o })] }
    ∧ n.ctr = if m.bit F.STRIKE_CTL_clear_on_strike then m.ctr.filter (fun p => ctrIsland (p.1 / 4096) (p.1 % 4096) != o) else m.ctr

/-- From `m` to `n` an island latches the given snapshot, and no other does; its counters go to zero with clear_on_strike (R449,
R454). -/
def Main.LatchedAt (m n : Main) (code : Nat) (x : Snap) : Prop :=
  n = { m with strk := { m.strk with snaps := n.strk.snaps }, ctr := n.ctr, absent := n.absent }
    ∧ Tab.get (fun _ => {}) n.strk.snaps code = x
    ∧ (∀ j, j ≠ code → Tab.get (fun _ => {}) n.strk.snaps j = Tab.get (fun _ => {}) m.strk.snaps j)
    ∧ n.ctr = if m.bit F.STRIKE_CTL_clear_on_strike then m.ctr.filter (fun p => ctrIsland (p.1 / 4096) (p.1 % 4096) != code) else m.ctr

/-- Registers of the Warden's domain that a write only stores, some of every block: SCRUB_CTL, the selectors, HINGE_TO, REFETCH_CTL,
KV_POLICY, KEYWAY_CTL, CAM_GAMMA_END, gamma words, THRESH values, ATTEST_BUF, nonces, and tails of rings. -/
def plainRegisters : List Nat :=
  [0x100c, 0x1010, 0x1020, 0x2040, 0x2044, 0x2048, 0x204c, 0x2050, 0x5010, 0x6020, 0x6024, 0x7000, 0x8014, 0xb010, 0xb02c, 0xb10c, 0xb800,
   0xbbfc, 0xc010, 0xc044, 0xc078, 0xc100, 0xd014, 0xd018, 0xd040, 0xd07c, 0xe000, 0xe018, 0x40018, 0x40318]

/-- The function 1 registers once the mailbox has answered a request (Table 22-7). -/
def Sdio.answered (x : Sdio) (req : List Byte) (status : Nat) (payload : List Byte) : Sdio :=
  let bs := req.take 2 ++ leBytes 2 payload.length ++ (req.drop 4).take 4 ++ leBytes 4 status ++ payload
  { x with req := req, reply := bs ++ List.replicate (512 - bs.length) 0#8, replyValid := true, int1 := x.int1 ||| 2 }

/-- F1_INT after a command: fwl is set where FWL_STATUS has changed (Table 22-6). -/
def Machine.State.MarkedFwl (s t : State) : Prop := t.la.sdio.int1 = s.la.sdio.int1 ||| if t.fwlStatus = s.fwlStatus then 0 else 4

/-- From `s` to `t` a reset of warm class begins (R389, R392, Table 18-7): the Warden's side is as after reset but for what a warm
reset keeps, the Latch island goes on without it, and the reset controller stretches the reset, once the rails that sleep had switched
off are back. -/
def Machine.State.WarmReset (s t : State) (cause isl : Nat) (fw reload : Bool) : Prop :=
  t = { s with mn := t.mn, la := t.la, rc := t.rc }
    ∧ t.mn = { regs := t.mn.regs, host := s.mn.host, msgs := s.mn.msgs, fence := s.mn.keptFence, wards := t.mn.wards
               err := { next := s.mn.err.next, window := s.mn.err.window }, lz := { sent := s.mn.lz.sent }, absent := t.mn.absent }
    ∧ (∀ o, (0x1000 ≤ o ∧ o < 0x3000 ∨ 0x5000 ≤ o) → o ∉ [0x9008, 0xd000, 0xd008, 0xe000, 0xe004] → t.mn.word o = regReset o)
    ∧ ((s.mn.regs.map (·.1)).Nodup →
        ∀ o, 0x3000 ≤ o → o < 0x5000 → o ∉ [0x3008, 0x4000, 0x4014, 0x4020] → t.mn.word o = s.mn.word o)
    ∧ t.mn.fld F.RESET_CAUSE_class = 1 ∧ t.mn.fld F.RESET_CAUSE_cause = cause ∧ t.mn.fld F.RESET_CAUSE_island = isl
    ∧ t.mn.sleepState = 0 ∧ t.mn.sleepBusy = false
    ∧ t.mn.fld F.ERR_STATUS_latch_run = (if s.rc.latchMode then s.mn.latchAfter - 1
        else if countsForLatch cause fw then min 7 (s.mn.fld F.ERR_STATUS_latch_run + 1) else s.mn.fld F.ERR_STATUS_latch_run)
    ∧ Latch.Redriven { s.la.wardenLost with sdio := { s.la.sdio with int1 := t.la.sdio.int1 } } t.la ∧ s.MarkedFwl t
    ∧ t.rc = { s.rc with
        phase := if ([0, 1, 2, 3, 4].all fun k => s.rc.enables.contains k && s.rc.pgs.contains k) then .stretch else .rails
        enables := if ([0, 1, 2, 3, 4].all fun k => s.rc.enables.contains k && s.rc.pgs.contains k) then s.rc.enables
          else 0 :: 1 :: s.rc.enables.filter (2 ≤ ·)
        cls := 1, wait := [], good := [], linkHeld := true, linkUp := false, latchMode := false
        lastCause := (t.mn.word 0x4000).toNat % 256, imem := if 3 ≤ s.mn.sleepState then none else s.rc.imem
        reload := reload, untrained := [], ready := false, fetching := false, queue := [], blk := none
        wakeBoot := false, retLost := false, fuseBad := false, perstDue := false, logDue := true, latchDue := t.rc.latchDue }
    ∧ ((s.mn.regs.map (·.1)).Nodup → (t.rc.latchDue = true ↔ s.rc.latchMode = false ∧ countsForLatch cause fw = true
        ∧ s.mn.latchAfter ≤ min 7 (s.mn.fld F.ERR_STATUS_latch_run + 1)))

/-- From `s` to `t` a reset of power-on class begins (R390, R481): all is as at reset but for host memory, the fuses, the pins and the
fitted devices; CORE and W0 are enabled. -/
def Machine.State.PoweredUp (s t : State) (cause : Nat) (head : Bool) : Prop :=
  t = { s with mn := t.mn, la := t.la, rc := t.rc }
    ∧ t.mn = { regs := t.mn.regs, host := s.mn.host, msgs := s.mn.msgs, lz := { sent := s.mn.lz.sent }, absent := t.mn.absent }
    ∧ (∀ o, o ∉ [0x3000, 0x4000, 0x9008, 0xd000] → t.mn.word o = regReset o) ∧ t.mn.conf = s.rc.fuseConf
    ∧ t.mn.fld F.RESET_CAUSE_cause = cause ∧ t.mn.fld F.LANIZA_STATUS_head_pin = b2n head
    ∧ t.mn.fld F.PLEVEL_CTL_throttle_pin = s.mn.fld F.PLEVEL_CTL_throttle_pin
    ∧ t.la = { s.la.cleared with image := none, sdio := { int1 := t.la.sdio.int1 } }
    ∧ t.rc = { phase := .rails, enables := [0, 1], pgs := [], linkHeld := true, chainHead := head
               fuseConf := s.rc.fuseConf, blown := s.rc.blown, revoked0 := s.rc.revoked0, revoked1 := s.rc.revoked1 }

/-- From `s` to `t` Latch mode is entered for a reason, no candidate being open (R440 to R442). -/
def Machine.State.LatchEntered (s t : State) (reason : Nat) : Prop :=
  t = { s with mn := t.mn, la := t.la, rc := t.rc } ∧ t.mn.host = s.mn.host ∧ t.mn.ctxs = [] ∧ t.mn.insts = [] ∧ t.mn.kr = {}
    ∧ t.mn.err.next = s.mn.err.next ∧ t.mn.err.window = s.mn.err.window ∧ t.mn.fld F.BOOT_STATUS_stage = 0
    ∧ t.rc = { s.rc with
        latchMode := true, reason := reason, bootErr := s.mn.fld F.BOOT_STATUS_error, runAt := s.mn.fld F.ERR_STATUS_latch_run
        aer := s.rc.aer + b2n s.rc.linkUp, phase := .run, wait := [], queue := [], blk := none, ready := false
        wakeBoot := false, fetching := false, latchDue := false, logDue := false, linkHeld := t.rc.linkHeld }
    ∧ Latch.Redriven { s.la with w0On := false, sdio := { s.la.sdio with int1 := t.la.sdio.int1 } } t.la
    ∧ t.la.sdio.int1 &&& 1 = 1

end Sys2Proof
end

