-- ==== Sys2Proof/Certificates/Slice0/Obligations.lean ====
section
/-! DEFINITION. The statements for the provers. What a statement says of a next state it says of every state that meets its
hypotheses; `OnWarden`, `OnLatch` and `OnReset` (Safety.lean) say that the command answers a next state that differs in that part
alone. -/

open Sys2Proof Sys2Proof.Machine

/-- A step runs the command at the front of the queue on the state with the queue's rest (the frame of every command of the
block; spec/12_host_interface.md R268 takes a ring's descriptors in order likewise). -/
def Obligations.StepRunsFrontCommand : Prop :=
  ∀ (c : Instr) (rest : List Instr) (s : State), s.pending = c :: rest → step s = exec c { s with pending := rest }

/-- No command is refused, and a fault comes only from a plan slot that names an address which does not exist. -/
def Obligations.EveryCommandRuns : Prop :=
  ∀ (c : Instr) (s : State), (∃ t, exec c s = .next t) ∨
    (exec c s = .fault (.badAddress "SLOT_FIRE") ∧
      ((∃ l r w e, c = .slotFire l r w e) ∨ ∃ l r ms d n, c = .tier3ReadTimeout l r ms d n))

/-- Reset: no command waits, every register reads its table's reset value, every memory is empty, every context is FREE, and the hasp's
promise holds (R7, R344 to R346). That the state stands at the end of a power-on release is the model's choice (log entry 6). -/
def Obligations.ResetIsAtTableValues : Prop :=
  State.reset.HaspSafe ∧ State.reset.MemoryWf ∧ State.reset.pending = []
    ∧ (∀ o, State.reset.mn.word o = regReset o ∧ State.reset.la.word o = regReset o)
    ∧ (∀ c, (State.reset.mn.ctx c).state = .free) ∧ (∀ k a, State.reset.mn.byteAt k a = 0#8)

/-- Every step keeps the hasp's promise, from every state that has it (R344 to R347). -/
def Obligations.HaspSafeKeptByEveryStep : Prop := ∀ s t : State, s.HaspSafe → step s = .next t → t.HaspSafe

/-- No step gives back a fuse: the version counter never falls and a revoked key slot stays revoked (R412). -/
def Obligations.FusesNeverClear : Prop :=
  ∀ s t : State, step s = .next t →
    s.rc.counter ≤ t.rc.counter ∧ ∀ k, s.rc.revoked k = true → t.rc.revoked k = true

/-- Memories (R6, R72, R125, R130): bytes written at a place read back, every other byte of every memory stays, and the canonical
form is kept. -/
def Obligations.MemoryWritesReadBack : Prop :=
  ∀ (m : Main) (r : Ref) (bs : List Byte), refOk r bs.length = true →
    (m.write r bs).bytesAt r bs.length = bs
      ∧ (∀ (k : MemSel) (a : Nat), refOk { mem := k, addr := a } 1 = true → (k ≠ r.mem ∨ a < r.addr ∨ r.addr + bs.length ≤ a) →
          (m.write r bs).byteAt k a = m.byteAt k a)
      ∧ (Memory.wf m.host = true → Memory.wf (m.write r bs).host = true)
      ∧ (Memory.wf m.stack = true → Memory.wf (m.write r bs).stack = true)
      ∧ (Memory.wf m.sp = true → Memory.wf (m.write r bs).sp = true)
      ∧ (Memory.wf m.ws = true → Memory.wf (m.write r bs).ws = true)

/-- Doorbells and the armed vector (R269, R270, R289): a number in range is taken, an arm starts its count afresh, and the delay after
a counted record sends one message. Nothing but the context changes, and for the message the vector's. -/
def Obligations.DoorbellsAndArmsTaken : Prop :=
  (∀ (s : State) (c : Fin 3072) (v : DWord), s.HostUp → s.mn.recoveryNeeded = false → (s.mn.ctx c.val).entry.ok = true →
      (s.mn.ctx c.val).state ≠ .free → (s.mn.ctx c.val).state ≠ .faulted → (s.mn.ctx c.val).accepted < v.toNat % 2 ^ 48 →
      v.toNat % 2 ^ 48 ≤ (s.mn.ctx c.val).accepted + 2 ^ (s.mn.ctx c.val).entry.sqOrder →
      OnWarden (.sqDb c v 8) s fun n => n = { s.mn with ctxs := n.ctxs, absent := n.absent } ∧ s.mn.CtxsBut n c.val
        ∧ n.ctx c.val = { s.mn.ctx c.val with sqSeq := v.toNat % 2 ^ 48 })
  ∧ (∀ (s : State) (c : Fin 3072) (v : DWord), s.HostUp → s.mn.recoveryNeeded = false →
      (s.mn.ctx c.val).cqSeq ≤ v.toNat % 2 ^ 48 → v.toNat % 2 ^ 48 ≤ (s.mn.ctx c.val).written →
      OnWarden (.cqDb c v 8) s fun n => n = { s.mn with ctxs := n.ctxs, absent := n.absent } ∧ s.mn.CtxsBut n c.val
        ∧ n.ctx c.val = { s.mn.ctx c.val with cqSeq := v.toNat % 2 ^ 48, needCq := false })
  ∧ (∀ (s : State) (c : Fin 3072) (v : DWord), s.HostUp → s.mn.h10Hardware = true → v.getLsbD 0 = true →
      OnWarden (.irqArm c v 8) s fun n => n = { s.mn with ctxs := n.ctxs, absent := n.absent } ∧ s.mn.CtxsBut n c.val
        ∧ n.ctx c.val = { s.mn.ctx c.val with irqArmed := true, irqCount := 0 })
  ∧ (∀ (s : State) (c : Fin 3072), s.wardenUp = true → s.mn.h10Hardware = true → (s.mn.ctx c.val).irqArmed = true →
      0 < (s.mn.ctx c.val).irqCount → s.mn.masked (s.mn.ctx c.val).entry.vector = false →
      OnWarden (.irqHoldoffExpiry c) s fun n =>
        n = { s.mn with ctxs := n.ctxs, msgs := s.mn.msgs ++ [(s.mn.ctx c.val).entry.vector], absent := n.absent }
          ∧ s.mn.CtxsBut n c.val ∧ n.ctx c.val = { s.mn.ctx c.val with irqArmed := false, irqCount := 0 })

/-- Acceptance (R268, R271): one eligible descriptor with the right number is read and the accept line is written for it; at the
read-back of that write it is accepted and joins the context's queue. -/
def Obligations.DescriptorsAccepted : Prop :=
  (∀ (s : State) (c : Fin 3072) (k : Nat), s.wardenUp = true → s.mn.recoveryNeeded = false → s.mn.acceptStop = false →
      (s.mn.ctx c.val).entry.ok = true → (s.mn.ctx c.val).needCq = false → (s.mn.ctx c.val).reading = [] →
      (s.mn.ctx c.val).state ≠ .free → (s.mn.ctx c.val).state ≠ .faulted → (s.mn.ctx c.val).dbErr = none →
      (s.mn.ctx c.val).eligible = [k] →
      s.mn.dmaOk (s.mn.ctx c.val).tenant ((s.mn.ctx c.val).sqAddr k) 64 = true →
      leNat ((s.mn.tenantRd (s.mn.ctx c.val).tenant ((s.mn.ctx c.val).sqAddr k) 64).take 6) = k →
      OnWarden (.descriptorRead c false) s fun n =>
        n = { s.mn with ctxs := n.ctxs, host := n.host, absent := n.absent } ∧ s.mn.CtxsBut n c.val
          ∧ n.ctx c.val = { s.mn.ctx c.val with
              issued := k
              reading := [{ seq := k, bytes := s.mn.tenantRd (s.mn.ctx c.val).tenant ((s.mn.ctx c.val).sqAddr k) 64 }] }
          ∧ s.mn.host.But n.host (hostKey 0 (s.mn.lineAddr c.val)) 8
          ∧ n.host.rdN (hostKey 0 (s.mn.lineAddr c.val)) 8 = leBytes 6 k ++ leBytes 2 (s.mn.ctx c.val).incarnation)
  ∧ (∀ (s : State) (c : Fin 3072) (d e : Desc) (q : List Desc), s.wardenUp = true → (s.mn.ctx c.val).state = .residentRunning →
      (s.mn.ctx c.val).reading = [d] → d.protErr = none → d.opcode ≠ 8 → (s.mn.ctx c.val).queue = e :: q → e.protErr = none →
      OnWarden (.acceptReadback c) s fun n =>
        n = { s.mn with ctxs := n.ctxs, stamps := s.mn.stamps + 1, kr := { s.mn.kr with event := true }, absent := n.absent }
          ∧ s.mn.CtxsBut n c.val
          ∧ n.ctx c.val = { s.mn.ctx c.val with
              reading := [], accepted := d.seq, queue := e :: q ++ [{ d with stamp := s.mn.stamps }] })

/-- Descriptors that start an engine or a run and complete later (R275, R90, R165): RUN takes its place at its first layer group,
BIND's copy begins, and COMPRESS joins the engine's queue. -/
def Obligations.EngineDescriptorsStart : Prop :=
  (∀ (s : State) (c : Fin 3072) (d : Desc) (q : List Desc), s.wardenUp = true → s.mn.TurnOf c.val d q 1 →
      (s.mn.ctx c.val).run = none → d.field 0x38 1 % 2 = 0 → 0 < d.field 0x1C 4 → d.field 0x18 2 ≤ d.field 0x1A 2 →
      (s.mn.ctx c.val).seqLen + d.field 0x1C 4 ≤ 2 ^ (s.mn.ctx c.val).entry.histOrder →
      (∀ g ≤ d.field 0x1A 2, d.field 0x18 2 ≤ g → s.mn.serves c.val (d.field 0x10 8) g = true) →
      OnWarden (.run c) s fun n =>
        n = { s.mn with ctxs := n.ctxs, kr := { s.mn.kr with event := true }, absent := n.absent } ∧ s.mn.CtxsBut n c.val
          ∧ n.ctx c.val = { s.mn.ctx c.val with
              cursor := d.field 0x18 2
              run := some { seq := d.seq, group := d.field 0x18 2, startLen := (s.mn.ctx c.val).seqLen } })
  ∧ (∀ (s : State) (c : Fin 3072) (d : Desc) (q : List Desc), s.wardenUp = true → s.mn.TurnOf c.val d q 2 →
      s.mn.dmaOk (s.mn.ctx c.val).tenant (d.field 0x10 8) (d.field 0x18 4) = true → 0 < s.mn.fld F.PLAN_AREA_SIZE_size →
      0x100 ≤ d.field 0x18 4 → d.field 0x18 4 ≤ 0x4000000 →
      OnWarden (.bind c false) s fun n => n = { s.mn with ctxs := n.ctxs, absent := n.absent } ∧ s.mn.CtxsBut n c.val
        ∧ n.ctx c.val = { s.mn.ctx c.val with busy := true })
  ∧ (∀ (s : State) (c : Fin 3072) (d : Desc) (q : List Desc), s.wardenUp = true → s.mn.TurnOf c.val d q 6 →
      (fmtOfCode (kwOps d).fmt).isSome = true →
      OnWarden (.compress c) s fun n =>
        n = { s.mn with ctxs := n.ctxs, absent := n.absent
                        kw := { s.mn.kw with queue := s.mn.kw.queue ++ [{ ctx := c.val, seq := d.seq, stamp := d.stamp }] } }
          ∧ s.mn.CtxsBut n c.val ∧ n.ctx c.val = { s.mn.ctx c.val with busy := true })
  ∧ (∀ (s : State) (c : Fin 3072) (d : Desc) (q : List Desc) (l : Nat) (b : Bitting), s.wardenUp = true → s.mn.TurnOf c.val d q 7 →
      l = d.field 0x12 1 → l ≤ 3 → (s.mn.lane l).st = .reserved → s.mn.laneCtxNo l = c.val → (s.mn.plan (d.field 0x10 2)).valid = true →
      c.val ∈ (s.mn.plan (d.field 0x10 2)).contexts → (s.mn.plan (d.field 0x10 2)).bitting = some b →
      lanePlanOk b (s.mn.lane l).ward = true → (s.mn.ctx c.val).laneStops = [] → (s.mn.ctx c.val).reExec = false →
      OnWarden (.laneStart c) s fun n =>
        n = { s.mn with ctxs := n.ctxs, lanes := n.lanes, regs := n.regs, absent := n.absent } ∧ s.mn.CtxsBut n c.val
          ∧ n.ctx c.val = { s.mn.ctx c.val with busy := true } ∧ s.mn.RegsBut n [0x40010 + l * 0x100, 0x40014 + l * 0x100]
          ∧ (n.lane l).st = .running ∧ (n.lane l).handle = d.field 0x10 2 ∧ (n.lane l).startSeq = d.seq ∧ (n.lane l).tick = 0
          ∧ (n.lane l).nextSlot = 0 ∧ (n.lane l).input = d.field 0x18 8 ∧ (n.lane l).result = d.field 0x20 8
          ∧ ∀ k, k ≠ l → n.lane k = s.mn.lane k)

/-- BIND and LOAD (R90, R91, R274, R277): a container that passes every check is stored under the lowest free handle, bound to the
context, and its descriptor completes with the handle; a LOAD opens the lowest free region and its load begins. -/
def Obligations.BindAndLoadTakeEffect : Prop :=
  (∀ (s : State) (c : Fin 3072) (aux : ContainerAux) (d : Desc) (q : List Desc) (bs : List Byte) (h a : Nat), s.wardenUp = true →
      (s.mn.ctx c.val).queue = d :: q → d.opcode = 2 → (s.mn.ctx c.val).busy = true → (∀ e ∈ q.head?, e.protErr = none) →
      (s.mn.ctx c.val).irqArmed = false → (s.mn.ctx c.val).state = .residentRunning → q ≠ [] →
      bs = s.mn.tenantRd (s.mn.ctx c.val).tenant (d.field 0x10 8) (d.field 0x18 4) →
      s.mn.bindOk c.val (d.field 0x1C 1) (d.field 0x1E 2) bs (readBitting bs aux) = true →
      (s.mn.plans.any fun p => p.2.valid && p.2.bytes == bs) = false → s.mn.freeHandle = some h → s.mn.planGap bs.length = some a →
      OnWarden (.bindCopyDone c aux) s fun n =>
        n = { s.mn with ctxs := n.ctxs, host := n.host, plans := n.plans, stack := n.stack, bindSeq := s.mn.bindSeq + 1
                        kr := { s.mn.kr with event := true }, absent := n.absent }
          ∧ s.mn.Completed n c.val d q stDone 0 h 0 ∧ (n.plan h).bitting = some (readBitting bs aux) ∧ (n.plan h).contexts = [c.val]
          ∧ (n.plan h).valid = true ∧ (n.plan h).addr = a ∧ (n.plan h).bytes = bs
          ∧ s.mn.stack.But n.stack (s.mn.fld F.PLAN_AREA_BASE_base * 0x10000 + a) bs.length
          ∧ n.stack.rdN (s.mn.fld F.PLAN_AREA_BASE_base * 0x10000 + a) bs.length = bs
          ∧ ∀ k, k ≠ h → n.plan k = s.mn.plan k)
  ∧ (∀ (s : State) (c : Fin 3072) (d : Desc) (q : List Desc) (r : Nat), s.wardenUp = true → s.mn.TurnOf c.val d q 4 →
      d.field 0x29 1 = 0 → d.field 0x18 8 % 0x10000 = 0 → 0 < d.field 0x20 8 → d.field 0x20 8 % 4096 = 0 → d.field 0x28 1 ≤ 15 →
      d.field 0x18 8 + regionBytes (d.field 0x20 8) ≤ 0x1200000000 →
      (s.mn.areas.any fun a => spanHits (d.field 0x18 8 / 0x10000) (regionBytes (d.field 0x20 8) / 0x10000) a.1 a.2) = false →
      s.mn.hitsRegion (d.field 0x18 8 / 0x10000) (regionBytes (d.field 0x20 8) / 0x10000) = false → s.mn.freeRegion = some r →
      s.mn.dirty (s.mn.ctx c.val).tenant (unitsOf (d.field 0x18 8) (regionBytes (d.field 0x20 8))) = [] →
      (s.mn.scrubWant.any fun p => (unitsOf (d.field 0x18 8) (regionBytes (d.field 0x20 8))).contains p.1) = false →
      OnWarden (.load c) s fun n =>
        n = { s.mn with ctxs := n.ctxs, host := n.host, regions := n.regions, lastWriter := n.lastWriter, scrubbed := n.scrubbed
                        absent := n.absent }
          ∧ s.mn.CtxsBut n c.val ∧ n.ctx c.val = { s.mn.ctx c.val with busy := true }
          ∧ n.region r = { st := .loading, base := d.field 0x18 8, size := d.field 0x20 8, golden := d.field 0x10 8
                           pasid := (s.mn.ctx c.val).tenant, owner := d.field 0x28 1, ctx := some c.val }
          ∧ ∀ k, k ≠ r → n.region k = s.mn.region k)

/-- Set-up descriptors that complete in their turn (R252, R272, R138, R274): UNBIND releases the binding, END_SEQ ends the sequence,
FREE gives the region back, LANE_STOP completes, and an opcode that no table lists is refused without any other effect. -/
def Obligations.SetUpDescriptorsComplete : Prop :=
  (∀ (s : State) (c : Fin 3072) (d : Desc) (q : List Desc), s.wardenUp = true → s.mn.TurnOf c.val d q 3 →
      c.val ∈ (s.mn.plan (d.field 0x10 2)).contexts → (s.mn.plan (d.field 0x10 2)).contexts.Nodup →
      OnWarden (.unbind c) s fun n =>
        n = { s.mn with ctxs := n.ctxs, host := n.host, plans := n.plans, wards := n.wards, absent := n.absent }
          ∧ s.mn.Completed n c.val d q stDone 0 0 0 ∧ c.val ∉ (n.plan (d.field 0x10 2)).contexts)
  ∧ (∀ (s : State) (c : Fin 3072) (d : Desc) (q : List Desc), s.wardenUp = true → s.mn.TurnOf c.val d q 9 →
      OnWarden (.endSeq c) s fun n =>
        n = { s.mn with ctxs := n.ctxs, host := n.host, pages := n.pages, freeOrder := n.freeOrder, ctr := n.ctr, absent := n.absent }
          ∧ s.mn.Completed n c.val d q stDone 0 0 0 ∧ (n.ctx c.val).seqLen = 0 ∧ (n.ctx c.val).kvLimit = 0
          ∧ (n.ctx c.val).streams = [] ∧ n.host.rdN (hostKey 0 (s.mn.lineAddr c.val + 32)) 6 = leBytes 6 0)
  ∧ (∀ (s : State) (c : Fin 3072) (d : Desc) (q : List Desc), s.wardenUp = true → s.mn.TurnOf c.val d q 5 → d.field 0x10 2 < 8192 →
      (s.mn.plans.any fun p => p.2.valid && Main.planNames p.2 (d.field 0x10 2)) = false →
      (s.mn.region (d.field 0x10 2)).st = .sealed → (s.mn.region (d.field 0x10 2)).pasid = (s.mn.ctx c.val).tenant →
      OnWarden (.free c) s fun n =>
        n = { s.mn with ctxs := n.ctxs, host := n.host, regions := n.regions, absent := n.absent }
          ∧ s.mn.Completed n c.val d q stDone 0 0 0 ∧ n.region (d.field 0x10 2) = {}
          ∧ ∀ r, r ≠ d.field 0x10 2 → n.region r = s.mn.region r)
  ∧ (∀ (s : State) (c : Fin 3072) (d : Desc) (q : List Desc), s.wardenUp = true → s.mn.TurnOf c.val d q 8 → d.field 0x10 1 ≤ 3 →
      s.mn.laneCtxNo (d.field 0x10 1) = c.val →
      OnWarden (.laneStop c) s fun n => n = { s.mn with ctxs := n.ctxs, host := n.host, absent := n.absent }
        ∧ s.mn.Completed n c.val d q stDone 0 0 0 ∧ (n.ctx c.val).laneStops = (s.mn.ctx c.val).laneStops.erase d.seq)
  ∧ (∀ (s : State) (c : Fin 3072) (d : Desc) (q : List Desc) (k : Nat), s.wardenUp = true → s.mn.TurnOf c.val d q k → (k = 0 ∨ 9 < k) →
      OnWarden (.unknownOpcode c) s fun n => n = { s.mn with ctxs := n.ctxs, host := n.host, absent := n.absent }
        ∧ s.mn.Completed n c.val d q stPlan 0 0 0)

/-- Slots (R23, R55, R76, R78): a slot whose tokens are ready does its work and moves its list on. A slice enters the open tile, a
lane operation writes one vector register, and a vector store writes memory; nothing else changes. -/
def Obligations.SlotsFire : Prop :=
  (∀ (s : State) (lead : Fin 16) (t : Fin 512) (a w : ElemSrc) (p : ListPos) (b : Bitting) (e : Entry) (x : Tile), s.wardenUp = true →
      s.rc.blk = none → s.mn.SlotReady lead.val (.tumbler t) (.slice none a .unscaled w .unscaled) p b e →
      (s.mn.tum t.val).ramp = .on → (s.mn.tum t.val).tile = some x → x.done < x.cfg.k →
      OnWarden (.slotFire lead (.tumbler t) (.slice none a .unscaled w .unscaled) []) s fun n =>
        n = { s.mn with tums := n.tums, insts := n.insts, absent := n.absent } ∧ s.mn.TumsBut n t.val ∧ s.mn.InstsBut n lead.val
          ∧ n.inst lead.val = (s.mn.inst lead.val).fired (.tumbler t) p b e
          ∧ (n.tum t.val).tile = some (tileSlice { a := (List.range (tileRows x.cfg)).map (s.mn.elemCode a)
                                                   sa := List.replicate (tileRows x.cfg) 127
                                                   w := (List.range 64).map (s.mn.elemCode w), sw := List.replicate 64 127 } x))
  ∧ (∀ (s : State) (lead : Fin 16) (c : Fin 128) (op : VecOp) (d a b' x : Fin 32) (p : ListPos) (b : Bitting) (e : Entry),
      s.wardenUp = true → s.rc.blk = none → s.mn.SlotReady lead.val (.vec c) (.vop op d a b' x none none) p b e →
      OnWarden (.slotFire lead (.vec c) (.vop op d a b' x none none) []) s fun n =>
        n = { s.mn with cyls := n.cyls, insts := n.insts, absent := n.absent } ∧ s.mn.InstsBut n lead.val
          ∧ n.inst lead.val = (s.mn.inst lead.val).fired (.vec c) p b e
          ∧ (∀ i < 256, (vreg (n.cyl c.val) d.val)[i]? = some (vecOp op ((vreg (s.mn.cyl c.val) a.val).getD i 0)
              ((vreg (s.mn.cyl c.val) b'.val).getD i 0) ((vreg (s.mn.cyl c.val) x.val).getD i 0)))
          ∧ (∀ v, v ≠ d.val → vreg (n.cyl c.val) v = vreg (s.mn.cyl c.val) v)
          ∧ (∀ k, k ≠ c.val → n.cyl k = s.mn.cyl k))
  ∧ (∀ (s : State) (lead : Fin 16) (c : Fin 128) (v : Fin 32) (k : Nat) (dst : Ref) (p : ListPos) (b : Bitting) (e : Entry),
      s.wardenUp = true → s.rc.blk = none → s.mn.SlotReady lead.val (.vec c) (.vstore v k dst) p b e → k ≤ 256 →
      OnWarden (.slotFire lead (.vec c) (.vstore v k dst) []) s fun n =>
        n = { s.mn with host := n.host, stack := n.stack, sp := n.sp, ws := n.ws, insts := n.insts, absent := n.absent }
          ∧ s.mn.InstsBut n lead.val ∧ n.inst lead.val = (s.mn.inst lead.val).fired (.vec c) p b e
          ∧ n.bytesAt dst (4 * k) = ((vreg (s.mn.cyl c.val) v.val).take k).flatMap (fun w => leBytes 4 w.toNat)
          ∧ s.mn.BytesBut n dst (4 * k))

/-- A tier-3 read that fails (R134): zeros stand in its place, the error log takes one record, and each member it serves that has no
fault yet takes CTX_FAULT_PROTECTION with that record's index; the list moves on. -/
def Obligations.FailedTier3ReadGivesZeros : Prop :=
  ∀ (s : State) (lead w : Fin 16) (ms : List Nat) (dst : Ref) (k : Nat) (p : ListPos) (b : Bitting) (e : Entry), s.wardenUp = true →
    s.rc.blk = none → s.mn.SlotReady lead.val (.ring w) (.tier3Bad ms k dst) p b e →
    ((s.mn.inst lead.val).members.any fun x => ms.contains x.berth) = true →
    OnWarden (.tier3ReadTimeout lead (.ring w) ms dst k) s fun n =>
      n = { s.mn with err := n.err, strk := n.strk, ctr := n.ctr, host := n.host, stack := n.stack, sp := n.sp, ws := n.ws
                      insts := n.insts, absent := n.absent }
        ∧ n.bytesAt dst k = List.replicate k 0#8 ∧ s.mn.BytesBut n dst k ∧ n.err.next = nextIndex s.mn.err.next
        ∧ s.mn.InstsBut n lead.val
        ∧ n.inst lead.val = (faultMembers (some ms) stProtection s.mn.err.next (s.mn.inst lead.val)).fired (.ring w) p b e

/-- Lists loaded and ramps (R94, R60, R61): a ward's caches hold the instance's lists and PLAN_LOAD counts; a ramp switches a
tumbler's columns on or off, and RAMP_WAIT counts its cycles. -/
def Obligations.ListsLoadAndRampsTurn : Prop :=
  (∀ (s : State) (w : Fin 16) (cycles lead : Nat) (i : Inst), s.wardenUp = true → s.mn.instOn w.val = some (lead, i) →
      w.val ∉ i.loadedWards →
      OnWarden (.planLoadEnd w cycles none) s fun n =>
        n = { s.mn with insts := n.insts, wards := n.wards, ctr := n.ctr, absent := n.absent } ∧ s.mn.InstsBut n lead
          ∧ s.mn.WardsBut n w.val ∧ n.inst lead = { i with loadedWards := w.val :: i.loadedWards }
          ∧ n.ward w.val = { s.mn.ward w.val with loaded := some i.handle }
          ∧ n.counter 0x07 w.val = satAdd 48 (s.mn.counter 0x07 w.val) cycles ∧ s.mn.CountersBut n [(0x07, w.val)])
  ∧ (∀ (s : State) (t : Fin 512), s.wardenUp = true → (s.mn.tum t.val).ramp = .rest →
      OnWarden (.rampUp t) s fun n => n = { s.mn with tums := n.tums, ctr := n.ctr, absent := n.absent } ∧ s.mn.TumsBut n t.val
        ∧ n.tum t.val = { s.mn.tum t.val with ramp := .on }
        ∧ n.counter 0x09 (t.val / 4) = satAdd 48 (s.mn.counter 0x09 (t.val / 4)) 32 ∧ s.mn.CountersBut n [(0x09, t.val / 4)])
  ∧ (∀ (s : State) (t : Fin 512), s.wardenUp = true →
      OnWarden (.rampDown t) s fun n => n = { s.mn with tums := n.tums, absent := n.absent } ∧ s.mn.TumsBut n t.val
        ∧ n.tum t.val = { s.mn.tum t.val with ramp := .rest })
  ∧ (∀ (s : State) (t : Fin 512) (k : Fin 33), s.wardenUp = true → (s.mn.tum t.val).ramp = .on →
      OnWarden (.rampResume t k) s fun n => n = { s.mn with ctr := n.ctr, absent := n.absent }
        ∧ n.counter 0x09 (t.val / 4) = satAdd 48 (s.mn.counter 0x09 (t.val / 4)) k.val ∧ s.mn.CountersBut n [(0x09, t.val / 4)])

/-- Tiles and replays (R58, R65, R67): a whole tile whose lines agree passes to a free drain buffer and is released; one that fails
is held, and CYL_TILE_ERR records it; a hold's arrival stops its ward; a replay that agrees releases the tile and its
members complete as replayed. -/
def Obligations.TilesSwapAndReplay : Prop :=
  (∀ (s : State) (t : Fin 512) (up : List (Nat × Word)) (y st : Tile) (b : Nat), s.wardenUp = true → (s.mn.tum t.val).tile = some y →
      (s.mn.tum t.val).start = some st → y.cfg.k ≤ y.done → freeFor (s.mn.tum t.val) y.cfg = some b →
      firstFail (tileLines y (upsetRows (drainRows y) up)) = none →
      OnWarden (.tileSwap t up) s fun n => n = { s.mn with tums := n.tums, ctr := n.ctr, absent := n.absent } ∧ s.mn.TumsBut n t.val
        ∧ n.tum t.val = setBuf { s.mn.tum t.val with tile := none, start := none, slices := [], guard := [], swapWait := false, next := 1 - b }
            y.cfg b (.ready { cfg := y.cfg, rows := upsetRows (drainRows y) up, e0r := y.e0r, e0c := y.e0c })
        ∧ s.mn.CountersBut n [(0x10, t.val / 4), (0x13, t.val / 4)])
  ∧ (∀ (s : State) (t : Fin 512) (up : List (Nat × Word)) (y st : Tile) (b : Nat) (l : LineRef), s.wardenUp = true →
      (s.mn.tum t.val).tile = some y → (s.mn.tum t.val).start = some st → y.cfg.k ≤ y.done →
      freeFor (s.mn.tum t.val) y.cfg = some b → firstFail (tileLines y (upsetRows (drainRows y) up)) = some l →
      s.mn.bit (F.CYL_TILE_ERR_valid (t.val / 4)) = false →
      OnWarden (.tileSwap t up) s fun n =>
        n = { s.mn with tums := n.tums, ctr := n.ctr, regs := n.regs, absent := n.absent } ∧ s.mn.TumsBut n t.val
          ∧ s.mn.RegsBut n [0x20008 + t.val / 4 * 0x400] ∧ n.bit (F.CYL_TILE_ERR_valid (t.val / 4)) = true
          ∧ (n.tum t.val).tile = none ∧ (n.tum t.val).failed.length = (s.mn.tum t.val).failed.length + 1
          ∧ bufOf (n.tum t.val) b = .held { cfg := y.cfg, rows := upsetRows (drainRows y) up, e0r := y.e0r, e0c := y.e0c }
          ∧ n.counter 0x11 (t.val / 4) = satAdd 48 (s.mn.counter 0x11 (t.val / 4)) 1
          ∧ s.mn.CountersBut n [(0x10, t.val / 4), (0x11, t.val / 4), (0x13, t.val / 4)])
  ∧ (∀ (s : State) (t : Fin 512) (lead : Nat) (i : Inst), s.wardenUp = true →
      (s.mn.ward (t.val / 32)).holds.count t.val < (s.mn.tum t.val).failed.length → s.mn.instOn (t.val / 32) = some (lead, i) →
      OnWarden (.replayHoldArrival t) s fun n =>
        n = { s.mn with wards := n.wards, insts := n.insts, absent := n.absent } ∧ s.mn.WardsBut n (t.val / 32)
          ∧ s.mn.InstsBut n lead ∧ n.inst lead = { i with replayHeld := true }
          ∧ n.ward (t.val / 32) = { s.mn.ward (t.val / 32) with holds := (s.mn.ward (t.val / 32)).holds ++ [t.val] })
  ∧ (∀ (s : State) (t : Fin 512) (up : List (Nat × Word)) (hs : List Nat) (f : Failed) (fs : List Failed) (lead : Nat) (i : Inst),
      s.wardenUp = true → s.mn.Quiet → (s.mn.ward (t.val / 32)).holds = t.val :: hs → (s.mn.tum t.val).failed = f :: fs →
      s.mn.instOn (t.val / 32) = some (lead, i) → firstFail (tileLines (replayTile f) (upsetRows (drainRows (replayTile f)) up)) = none →
      OnWarden (.replayVerdict t up) s fun n =>
        n = { s.mn with tums := n.tums, wards := n.wards, insts := n.insts, ctr := n.ctr, regs := n.regs, absent := n.absent }
          ∧ s.mn.TumsBut n t.val ∧ s.mn.WardsBut n (t.val / 32) ∧ s.mn.InstsBut n lead ∧ s.mn.RegsBut n [F.HINGE_NOW_in_force.off]
          ∧ n.ward (t.val / 32) = { s.mn.ward (t.val / 32) with holds := hs } ∧ (n.tum t.val).failed = fs
          ∧ bufOf (n.tum t.val) f.buf = .ready { cfg := (replayTile f).cfg, rows := upsetRows (drainRows (replayTile f)) up
                                                 e0r := (replayTile f).e0r, e0c := (replayTile f).e0c }
          ∧ ∀ z ∈ (n.inst lead).members, (∀ l, f.members = some l → l.contains z.berth = true) → z.replayed = true)

/-- Boundaries and the commit log (R98, R282, R283): a cylinder whose lists ended and whose verdicts are settled is done, its cycles added
to the cost; the last ready ward of a set stages the step; the record of a staged step stands in the log with the next seal; a live
record's lines are given back in order. -/
def Obligations.StepsReachTheLog : Prop :=
  (∀ (s : State) (c : Fin 128) (cycles lead : Nat) (i : Inst), s.wardenUp = true → s.mn.instOn (c.val / 8) = some (lead, i) →
      i.stopped = false → c.val ∉ i.doneCyls → listsEnded i (inCyl c.val) = true → s.mn.verdictsSettled c.val = true →
      OnWarden (.doneBundle c cycles) s fun n => n = { s.mn with insts := n.insts, absent := n.absent } ∧ s.mn.InstsBut n lead
        ∧ n.inst lead = { i with doneCyls := c.val :: i.doneCyls, cost := i.cost + cycles })
  ∧ (∀ (s : State) (w : Fin 16) (lead : Nat) (i : Inst), s.wardenUp = true → s.mn.instOn w.val = some (lead, i) → i.kind = .plan →
      i.stopped = false → i.staged = false → i.widenTensor = none → w.val ∉ i.readyWards → i.chained = false →
      (∀ k < 8, 8 * w.val + k ∈ i.doneCyls) → listsEnded i (inWard w.val) = true →
      (∀ v ∈ wardsOf i.mask, v = w.val ∨ v ∈ i.readyWards) →
      OnWarden (.readyBundle w) s fun n => n = { s.mn with insts := n.insts, absent := n.absent } ∧ s.mn.InstsBut n lead
        ∧ n.inst lead = { i with readyWards := w.val :: i.readyWards, staged := true })
  ∧ (∀ (s : State) (w : Fin 16) (i : Inst) (k : Commit), s.wardenUp = true → s.mn.laneOf w.val = none → s.mn.inst w.val = i →
      i.live = true → i.staged = true → i.chained = false →
      (s.mn.log.pipe.any fun q => !q.live && q.kind == 0 && q.inst.mask == i.mask) = false →
      k = { sealNo := s.mn.log.nextSeal, inst := i, step := i.step, round := i.round, kind := 0,
            members := i.members.map (s.mn.memberOutcome i), line := s.mn.log.nextLine, lines := 1 + (i.members.length + 3) / 4, live := false } →
      (s.mn.log.pipe.map (·.lines)).sum + k.lines ≤ s.mn.logLines → k.line + k.lines ≤ s.mn.logLines →
      s.mn.logBase + 64 * s.mn.logLines ≤ 2 ^ 64 →
      OnWarden (.commitRecordWrite w) s fun n => n = { s.mn with host := n.host, log := n.log, absent := n.absent }
        ∧ n.log = { nextSeal := s.mn.log.nextSeal + 1, nextLine := (k.line + k.lines) % s.mn.logLines, pipe := s.mn.log.pipe ++ [k] }
        ∧ s.mn.host.But n.host (hostKey 0 (s.mn.logBase + 64 * k.line)) (64 * k.lines)
        ∧ n.host.rdN (hostKey 0 (s.mn.logBase + 64 * k.line)) (64 * k.lines) = recordBytes k)
  ∧ (∀ (s : State) (k : Commit) (rest : List Commit), s.wardenUp = true → s.mn.log.pipe = k :: rest → k.live = true →
      OnWarden .commitRetire s fun n =>
        n = { s.mn with log := n.log, absent := n.absent } ∧ n.log = { s.mn.log with pipe := rest })

/-- The commit point (R98, R283, R280): a record goes live; its member takes the new version, its RUN's last group completes the
descriptor with the step and round as result, its vt is charged, and the instance leaves its wards. -/
def Obligations.CommitPointCompletesRun : Prop :=
  ∀ (s : State) (k : Commit) (x : CommitMember) (mem : Member) (d : Desc) (q : List Desc), s.wardenUp = true → s.mn.Quiet →
    s.mn.lz.phase = .idle → s.mn.log.pipe = [k] → k.live = false → k.kind = 0 → k.inst.kind = .plan → k.inst.tensors = [] →
    k.members = [x] → k.inst.members = [mem] → mem.ctx = x.ctx → x.status = stDone → mem.noCommit = false → mem.recompute = false →
    (s.mn.ctx x.ctx).state = .residentRunning → (s.mn.ctx x.ctx).queue = d :: q → (∀ e ∈ q.head?, e.protErr = none) →
    (s.mn.ctx x.ctx).irqArmed = false → x.flags = 3 → x.cursor = d.field 0x1A 2 → (s.mn.ctx x.ctx).cursor = x.cursor →
    (s.mn.ctx x.ctx).kvLimit = (s.mn.ctx x.ctx).seqLen → s.mn.fld F.HINGE_CTL_assist = 0 →
    (∀ p ∈ s.mn.ctxs, p.2.cause ≠ .pageWait) →
    OnWarden .commitPoint s fun n =>
      n = { s.mn with regs := n.regs, host := n.host, ctxs := n.ctxs, pages := n.pages, insts := n.insts, wards := n.wards, log := n.log
                      kr := n.kr, absent := n.absent }
        ∧ n.log = { s.mn.log with pipe := [{ k with live := true }] } ∧ s.mn.RegsBut n [F.HINGE_NOW_in_force.off]
        ∧ s.mn.CtxsBut n x.ctx ∧ s.mn.InstsBut n (leadOf k.inst.mask) ∧ (n.inst (leadOf k.inst.mask)).live = false
        ∧ (∀ w, w ∉ wardsOf k.inst.mask → n.ward w = s.mn.ward w) ∧ (∀ w ∈ wardsOf k.inst.mask, (n.ward w).roundDone = true)
        ∧ n.RecordAt (s.mn.ctx x.ctx) d stDone 0 (k.step + k.round * 2 ^ 48) 0 ∧ (n.ctx x.ctx).queue = q
        ∧ (n.ctx x.ctx).version = true ∧ (n.ctx x.ctx).lastCommit = k.step ∧ (n.ctx x.ctx).run = none
        ∧ (n.ctx x.ctx).seqLen = (s.mn.ctx x.ctx).seqLen + mem.rows ∧ (n.ctx x.ctx).kvLimit = (n.ctx x.ctx).seqLen
        ∧ (n.ctx x.ctx).charged = min ((s.mn.ctx x.ctx).charged + k.inst.cost) (2 ^ 48 - 1)

/-- Widening (R114, R120, R121): a misfit's bundle stops the run and its tensor record goes to the ring; the companion starts in the
same step with fresh lists, every tumbler of its wards emptied, and the base run's reservations. -/
def Obligations.MisfitStartsCompanion : Prop :=
  (∀ (s : State) (w : Fin 16) (lead t h : Nat) (i : Inst) (b : Bitting), s.wardenUp = true → s.mn.instOn w.val = some (lead, i) →
      i.widenTensor = some t → s.mn.bittingOf i = some b → s.mn.companionOf i = some h → s.mn.bit F.CLIP_STAT_CTL_enable = true →
      ringFull (ringOrder (s.mn.fld F.CLIP_STAT_CTL_ring_order) 4 16 4) s.mn.clip.head (s.mn.fld F.CLIP_STAT_TAIL_tail) = false →
      OnWarden (.misfitBundle w) s fun n =>
        n = { s.mn with host := n.host, clip := n.clip, insts := n.insts, absent := n.absent } ∧ s.mn.InstsBut n lead
          ∧ n.inst lead = { i with stopped := true, widenTensor := none }
          ∧ n.clip = ringNext (ringOrder (s.mn.fld F.CLIP_STAT_CTL_ring_order) 4 16 4) s.mn.clip
          ∧ s.mn.host.But n.host (hostKey 0 (s.mn.pair 0x8008 0x800c 6 + s.mn.clip.head * 32)) 32)
  ∧ (∀ (s : State) (w : Fin 16) (lead h : Nat) (i : Inst) (b : Bitting), s.wardenUp = true → s.mn.instOn w.val = some (lead, i) →
      i.stopped = true → s.mn.companionOf i = some h → (s.mn.plan h).bitting = some b →
      OnWarden (.companionStart w) s fun n => n = { s.mn with tums := n.tums, hq := n.hq, insts := n.insts, absent := n.absent }
        ∧ s.mn.InstsBut n lead ∧ (n.inst lead).kind = .companion ∧ (n.inst lead).handle = h ∧ (n.inst lead).stopped = false
        ∧ (n.inst lead).widened = true ∧ (n.inst lead).lists = freshLists b ∧ (n.inst lead).tokens = freshTokens b
        ∧ (n.inst lead).members = i.members ∧ (n.inst lead).step = i.step ∧ (n.inst lead).round = i.round ∧ (n.inst lead).cost = i.cost
        ∧ (n.inst lead).reserved = i.reserved ++ i.newPages.map (fun q => (q.1, q.2.2))
        ∧ (∀ t < 512, n.tum t = if t / 32 ∈ wardsOf i.mask then {} else s.mn.tum t))

/-- List points and rounds (R230 to R233): a list point at which nothing is hosted moves the step on; one with an idle hosted set builds
an instance of the bitting that serves its resident; a set that reached its boundary early gets a further round. -/
def Obligations.ListPointsAndRoundsBuild : Prop :=
  (∀ (s : State), s.wardenUp = true → s.mn.listPoint = true → s.mn.kr.listed = true → s.mn.kr.sets = [] → s.mn.ctxs = [] →
      s.mn.kr.switches = [] → s.mn.kr.h2Wait = none → s.mn.h9Defer = [] → s.mn.fence.fenced = 0 → s.mn.fld F.HINGE_CTL_assist = 0 →
      OnWarden .listPoint s fun n => n = { s.mn with regs := n.regs, kr := n.kr, wards := n.wards, absent := n.absent }
        ∧ n.kr = { s.mn.kr with step := nextStep s.mn.kr.step, rounds := [], listed := false, event := false, jobs := [] }
        ∧ s.mn.RegsBut n [F.HINGE_NOW_in_force.off])
  ∧ (∀ (s : State) (c h k : Nat) (p : Plan) (b : Bitting) (d : Desc) (r : RunProg) (last : Option Nat), s.wardenUp = true →
      s.mn.listPoint = true → s.mn.kr.listed = false → s.mn.ReadyToBuild c h k p b d r last →
      OnWarden .listPoint s fun n =>
        n = { s.mn with regs := n.regs, kr := n.kr, wards := n.wards, ctxs := n.ctxs, insts := n.insts, absent := n.absent }
          ∧ n.kr = { s.mn.kr with listed := true, event := false, rounds := (leadOf b.mask, 0) :: s.mn.kr.rounds.filter (fun q => q.1 != leadOf b.mask)
                                  vmin := s.mn.newV }
          ∧ (∀ j, n.ctx j = s.mn.ctx j) ∧ s.mn.InstsBut n (leadOf b.mask) ∧ (n.inst (leadOf b.mask)).live = true
          ∧ (n.inst (leadOf b.mask)).handle = h ∧ (n.inst (leadOf b.mask)).step = s.mn.kr.step ∧ (n.inst (leadOf b.mask)).round = 0
          ∧ (n.inst (leadOf b.mask)).mask = b.mask ∧ (n.inst (leadOf b.mask)).lists = freshLists b
          ∧ (n.inst (leadOf b.mask)).members = [{ ctx := c, berth := 0, rows := k, pos0 := r.startLen + r.done, recompute := false }]
          ∧ (∀ w ∈ wardsOf b.mask, (n.ward w).roundDone = false))
  ∧ (∀ (s : State) (w : Fin 16) (c h k : Nat) (p : Plan) (b : Bitting) (d : Desc) (r : RunProg) (last : Option Nat), s.wardenUp = true →
      s.mn.bit F.KEYRING_CFG_enable = true → s.mn.kr.listed = true → s.mn.kr.h1Wait = false → b.mask / 2 ^ w.val % 2 = 1 →
      (s.mn.scheduled.all fun v => (s.mn.ward v).roundDone) = false → s.mn.ReadyToBuild c h k p b d r last →
      OnWarden (.roundBuild w) s fun n =>
        n = { s.mn with kr := n.kr, wards := n.wards, ctxs := n.ctxs, insts := n.insts, absent := n.absent }
          ∧ n.kr = { s.mn.kr with rounds := (leadOf b.mask, s.mn.nextRound (leadOf b.mask)) :: s.mn.kr.rounds.filter (fun q => q.1 != leadOf b.mask) }
          ∧ (∀ j, n.ctx j = s.mn.ctx j) ∧ s.mn.InstsBut n (leadOf b.mask) ∧ (n.inst (leadOf b.mask)).live = true
          ∧ (n.inst (leadOf b.mask)).handle = h ∧ (n.inst (leadOf b.mask)).step = s.mn.kr.step
          ∧ (n.inst (leadOf b.mask)).round = s.mn.nextRound (leadOf b.mask))

/-- Switches (R240 to R244): a switch begins at the boundary of its sets; a save writes the newest image and frees the berth; a restore
without an image writes zeros, seats the context and guards it. -/
def Obligations.SwitchesSaveAndRestore : Prop :=
  (∀ (s : State) (c : Fin 3072) (w : Switch), s.wardenUp = true → s.mn.kr.switches = [w] → w.ctx = c.val → w.started = false →
      w.go = true → w.atListPoint = true → (s.mn.ctx c.val).state = .swappedRunnable → (wardsOf w.mask).all s.mn.scheduled.contains = true →
      (s.mn.switchWards w).any (fun v => (s.mn.instOn v).isSome) = false → w.displaced.filter (fun v => (s.mn.ctx v).resident) ≠ [] →
      s.mn.switchFits w (w.displaced.filter fun v => (s.mn.ctx v).resident) = true →
      OnWarden (.switch c) s fun n => n = { s.mn with kr := n.kr, absent := n.absent }
        ∧ n.kr = { s.mn.kr with switches := [{ w with displaced := w.displaced.filter (fun v => (s.mn.ctx v).resident),
                                                       saving := w.displaced.filter (fun v => (s.mn.ctx v).resident), started := true }] })
  ∧ (∀ (s : State) (c : Fin 3072) (cycles model mask b : Nat) (bs : List Byte) (slot : Nat), s.wardenUp = true → s.mn.Quiet →
      (s.mn.ctx c.val).state = .residentRunning → (s.mn.ctx c.val).evict = true → (s.mn.ctx c.val).berth = some (model, mask, b) →
      s.mn.kr.switches = [] → (∀ w ∈ wardsOf mask, s.mn.instOn w = none) →
      slot = (if (s.mn.ctx c.val).imageValid then 1 - (s.mn.ctx c.val).imageSlot else 0) →
      bs = (s.mn.updCtx c.val fun y => { y with imageCommit := y.lastCommit }).imageBytes c.val model mask b →
      (∀ w < 16, s.mn.fencedWard w = false) →
      OnWarden (.saveComplete c cycles none) s fun n =>
        n = { s.mn with ctxs := n.ctxs, stack := n.stack, kr := n.kr, ctr := n.ctr, regs := n.regs, absent := n.absent }
          ∧ s.mn.CtxsBut n c.val ∧ s.mn.RegsBut n [F.HINGE_NOW_in_force.off] ∧ s.mn.CountersBut n [(0x30, 0)]
          ∧ n.counter 0x30 0 = satAdd 48 (s.mn.counter 0x30 0) 1
          ∧ n.ctx c.val = { s.mn.ctx c.val with
              imageCommit := (s.mn.ctx c.val).lastCommit, imageSlot := slot, imageValid := true, evict := false, berth := none
              state := .swappedRunnable }
          ∧ s.mn.stack.But n.stack (s.mn.slotAddr c.val slot) bs.length ∧ n.stack.rdN (s.mn.slotAddr c.val slot) bs.length = bs
          ∧ ∀ t ∈ n.kr.sets, ∀ q ∈ t.berths, q.1 ≠ some c.val)
  ∧ (∀ (s : State) (c : Fin 3072) (cycles : Nat) (w : Switch), s.wardenUp = true → s.mn.kr.switches = [w] → w.ctx = c.val →
      w.restoring = true → (s.mn.ctx c.val).imageValid = false → (s.mn.ctx c.val).state = .swappedRunnable →
      OnWarden (.restoreComplete c cycles false) s fun n =>
        n = { s.mn with ctxs := n.ctxs, kr := n.kr, wards := n.wards, ctr := n.ctr, host := n.host, stack := n.stack, sp := n.sp
                        ws := n.ws, absent := n.absent }
          ∧ s.mn.CtxsBut n c.val ∧ s.mn.CountersBut n [(0x31, 0)] ∧ n.counter 0x31 0 = satAdd 48 (s.mn.counter 0x31 0) 1
          ∧ n.kr.switches = [] ∧ (n.ctx c.val).state = .residentRunning ∧ (n.ctx c.val).berth = some (w.model, w.mask, s.mn.switchBerth w)
          ∧ (n.ctx c.val).restoreGuard = true ∧ (n.ctx c.val).version = false
          ∧ (n.ctx c.val).charged = min ((s.mn.ctx c.val).charged + cycles) (2 ^ 48 - 1)
          ∧ (∀ v ∈ wardsOf w.mask, (s.mn.ctx c.val).tenant ∈ (n.ward v).tenants)
          ∧ (∀ v, v ∉ wardsOf w.mask → n.ward v = s.mn.ward v))

/-- Teardown and release (R247, R250): a teardown ends with the context TORN and bound to nothing; its release makes it FREE; a marked
resident is to be saved. -/
def Obligations.TeardownAndRelease : Prop :=
  (∀ (s : State) (c : Fin 3072), s.wardenUp = true → (s.mn.ctx c.val).state = .faulted → (s.mn.ctx c.val).cause = .tearing →
      (s.mn.ctx c.val).reading = [] → s.mn.running c.val = false →
      (∀ p ∈ s.mn.plans, p.2.contexts.Nodup) → (s.mn.plans.map (·.1)).Nodup → (s.mn.ctx c.val).berth = none →
      OnWarden (.teardownDone c) s fun n =>
        n = { s.mn with ctxs := n.ctxs, pages := n.pages, freeOrder := n.freeOrder, kr := n.kr, plans := n.plans, wards := n.wards
                        host := n.host, absent := n.absent }
          ∧ s.mn.CtxsBut n c.val ∧ (n.ctx c.val).state = .faulted ∧ (n.ctx c.val).cause = .torn ∧ (n.ctx c.val).streams = []
          ∧ (n.ctx c.val).imageValid = false ∧ (n.ctx c.val).seqLen = 0 ∧ n.kr.event = true
          ∧ ∀ p ∈ n.plans, c.val ∉ p.2.contexts)
  ∧ (∀ (s : State), s.HostUp → (s.mn.ctx s.mn.selected).state = .faulted → (s.mn.ctx s.mn.selected).cause = .torn →
      OnWarden .ctxCmdRelease s fun n => n = { s.mn with ctxs := n.ctxs, absent := n.absent } ∧ s.mn.CtxsBut n s.mn.selected
        ∧ n.ctx s.mn.selected = {})
  ∧ (∀ (s : State), s.HostUp → (s.mn.ctx s.mn.selected).resident = true →
      OnWarden .ctxCmdEvict s fun n => n = { s.mn with ctxs := n.ctxs, absent := n.absent } ∧ s.mn.CtxsBut n s.mn.selected
        ∧ n.ctx s.mn.selected = { s.mn.ctx s.mn.selected with evict := true })

/-- Binding to tenants (R267, R248, R414): a FREE context is bound to a valid slot with its table entry, its line written afresh, and
PROT_GEN counts; an unbinding of a running context waits for its boundary. -/
def Obligations.ContextsBindAndUnbind : Prop :=
  (∀ (s : State) (v : Word) (c k : Nat) (t : Tenant), s.HostUp → s.mn.Quiet → F.CTX_BIND_op.of v = 1 → c = F.CTX_BIND_context.of v →
      k = F.CTX_BIND_slot.of v → t = Tab.get tenantDef s.mn.prot.written k → c < 3072 → (s.mn.ctx c).state = .free → t.valid = true →
      (s.mn.readEntry c).ok = true → s.mn.recoveryNeeded = false → s.mn.journalBase + 3072 * 64 ≤ 2 ^ 64 →
      OnWarden (.ctxBindBind v) s fun n =>
        n = { s.mn with ctxs := n.ctxs, prot := { s.mn.prot with gen := (s.mn.prot.gen + 1) % 2 ^ 32 }, host := n.host, regs := n.regs
                        absent := n.absent }
          ∧ s.mn.CtxsBut n c ∧ s.mn.RegsBut n [F.HINGE_NOW_in_force.off]
          ∧ n.ctx c = { state := .bound, tenant := t.pasid, slot := some k, entry := s.mn.readEntry c
                        incarnation := (s.mn.lineField c 6 2 + 1) % 2 ^ 16 }
          ∧ s.mn.host.But n.host (hostKey 0 (s.mn.lineAddr c)) 64
          ∧ n.host.rdN (hostKey 0 (s.mn.lineAddr c)) 6 = List.replicate 6 0#8)
  ∧ (∀ (s : State) (v : Word) (c : Nat), s.HostUp → s.mn.Quiet → F.CTX_BIND_op.of v = 2 → c = F.CTX_BIND_context.of v → c < 3072 →
      (s.mn.ctx c).state = .residentRunning → s.mn.running c = true →
      OnWarden (.ctxBindUnbind v) s fun n =>
        n = { s.mn with ctxs := n.ctxs, prot := { s.mn.prot with gen := (s.mn.prot.gen + 1) % 2 ^ 32 }, regs := n.regs, absent := n.absent }
          ∧ s.mn.CtxsBut n c ∧ s.mn.RegsBut n [F.HINGE_NOW_in_force.off]
          ∧ n.ctx c = { s.mn.ctx c with unbindPending := true })

/-- Recovery (R287): a recover write with no sound record in the log starts the recovery with the log empty; a recovery of an empty
journal leaves no plan, region or page, and the parts run again from step 1; with it ends a wake that waited for it (Table 17-7). -/
def Obligations.RecoveryRuns : Prop :=
  (∀ (s : State), s.HostUp → s.mn.mayRecover = true → s.mn.recoveryNeeded = true → s.mn.soundRecords = [] →
      OnWarden .recover s fun n => n = { s.mn with log := n.log, regs := n.regs, absent := n.absent } ∧ n.log = {}
        ∧ s.mn.RegsBut n [F.HOST_STATUS_recovering.off] ∧ n.bit F.HOST_STATUS_recovering = true)
  ∧ (∀ (s : State) (aux : List (Nat × ContainerAux)) (bad : List (Nat × Nat)), s.wardenUp = true →
      s.mn.bit F.HOST_STATUS_recovering = true → s.mn.host = [] → (∀ p ∈ s.mn.ctxs, p.2.rebound = false) →
      OnWarden (.recoveryComplete aux bad) s fun n =>
        n = { s.mn with ctxs := n.ctxs, lastWriter := [], scrubbed := [], pages := [], plans := [], regions := [], kr := n.kr
                        regs := n.regs, absent := n.absent, wakeHeld := false }
          ∧ n.kr = { s.mn.kr with step := 1, listed := false, rounds := [], event := true } ∧ (∀ c, n.ctx c = s.mn.ctx c)
          ∧ n.bit F.HOST_STATUS_recovering = false ∧ n.recoveryNeeded = false ∧ n.fld F.ERR_STATUS_latch_run = 0
          ∧ s.mn.RegsBut n [F.HOST_STATUS_recovering.off, F.ERR_STATUS_latch_run.off, F.SLEEP_STATUS_state.off]
          ∧ n.fld F.SLEEP_STATUS_state = (if s.mn.wakeHeld then 0 else s.mn.fld F.SLEEP_STATUS_state)
          ∧ n.fld F.SLEEP_STATUS_busy = (if s.mn.wakeHeld then 0 else s.mn.fld F.SLEEP_STATUS_busy)
          ∧ (s.mn.wakeHeld = false → n.word F.SLEEP_STATUS_state.off = s.mn.word F.SLEEP_STATUS_state.off))

/-- Frame Lanes (R251, R252, R256, R258): LANE_CTL.reserve takes a ward and marks its residents; once they are saved the lane is RESERVED;
clearing reserve gives an idle ward back at the next list point; a tick whose input stands ready starts its slot's step; one without
input misses its slot with cause 4; an input fetched from the tenant's buffer stands in its place. -/
def Obligations.LanesAreSetAsideAndTick : Prop :=
  (∀ (s : State) (l : Fin 4) (v : Word) (w c : Nat), s.HostUp → (F.LANE_CTL_reserve l.val).of v = 1 → s.mn.bit F.PROT_CTL_lock = false →
      s.mn.bit (F.LANE_CTL_reserve l.val) = false → w = (F.LANE_CTL_ward l.val).of v → c = (F.LANE_CTL_context l.val).of v → c < 3072 →
      s.mn.fencedWard w = false → s.mn.laneTaking w = none → s.mn.laneOf w = none → (s.mn.lane l.val).st = .idle →
      (s.mn.ctx c).state ≠ .free → s.mn.kr.sets = [] →
      OnWarden (.laneReserve l v) s fun n =>
        n = { s.mn with regs := n.regs, lanes := n.lanes, ctxs := n.ctxs, kr := { s.mn.kr with event := true }, absent := n.absent }
          ∧ s.mn.RegsBut n [(F.LANE_CTL_reserve l.val).off] ∧ n.bit (F.LANE_CTL_reserve l.val) = true
          ∧ n.fld (F.LANE_CTL_ward l.val) = w ∧ n.laneCtxNo l.val = c ∧ s.mn.LanesBut n l.val ∧ (∀ j, n.ctx j = s.mn.ctx j)
          ∧ n.lane l.val = { s.mn.lane l.val with saving := true, unreserve := false, ward := w, ctxNo := c })
  ∧ (∀ (s : State) (l : Fin 4), s.wardenUp = true → (s.mn.lane l.val).saving = true → (s.mn.lane l.val).st = .idle →
      s.mn.laneOf (s.mn.lane l.val).ward = some l.val → s.mn.instOn (s.mn.lane l.val).ward = none →
      s.mn.hasResidents (s.mn.lane l.val).ward = false →
      OnWarden (.laneReserved l) s fun n => n = { s.mn with lanes := n.lanes, absent := n.absent } ∧ s.mn.LanesBut n l.val
        ∧ n.lane l.val = { s.mn.lane l.val with st := .reserved, saving := false })
  ∧ (∀ (s : State) (l : Fin 4), s.HostUp → s.mn.bit F.PROT_CTL_lock = false → s.mn.bit (F.LANE_CTL_reserve l.val) = true →
      (s.mn.lane l.val).st = .reserved →
      OnWarden (.laneUnreserve l) s fun n =>
        n = { s.mn with regs := n.regs, lanes := n.lanes, kr := { s.mn.kr with event := true }, absent := n.absent }
          ∧ s.mn.RegsBut n [(F.LANE_CTL_reserve l.val).off] ∧ n.bit (F.LANE_CTL_reserve l.val) = false ∧ s.mn.LanesBut n l.val
          ∧ (n.lane l.val).st = .idle ∧ (n.lane l.val).saving = false ∧ (n.lane l.val).listsLoaded = false)
  ∧ (∀ (s : State) (l : Fin 4) (b : Bitting), s.wardenUp = true → (s.mn.lane l.val).st = .running → (s.mn.lane l.val).listsLoaded = true →
      (s.mn.ward (s.mn.lane l.val).ward).fencePending = false → (s.mn.plan (s.mn.lane l.val).handle).bitting = some b →
      s.mn.capNow ≤ (s.mn.lane l.val).level → (s.mn.lane l.val).cur = none →
      (s.mn.lane l.val).inputReady.contains (s.mn.lane l.val).nextSlot = true → (s.mn.lane l.val).staged.length < 4 →
      (s.mn.lane l.val).miss = none → (s.mn.lane l.val).badInput = [] →
      OnWarden (.laneTick l) s fun n => n = { s.mn with lanes := n.lanes, wards := n.wards, insts := n.insts, absent := n.absent }
        ∧ s.mn.LanesBut n l.val ∧ s.mn.WardsBut n (s.mn.lane l.val).ward ∧ s.mn.InstsBut n (s.mn.lane l.val).ward
        ∧ (n.lane l.val).cur = some (s.mn.lane l.val).nextSlot ∧ (n.lane l.val).tick = (s.mn.lane l.val).nextSlot
        ∧ (n.lane l.val).nextSlot = ((s.mn.lane l.val).nextSlot + 1) % 2 ^ 48
        ∧ (n.lane l.val).inputReady = (s.mn.lane l.val).inputReady.erase (s.mn.lane l.val).nextSlot
        ∧ (n.inst (s.mn.lane l.val).ward).live = true ∧ (n.inst (s.mn.lane l.val).ward).kind = .lane l (s.mn.lane l.val).nextSlot
        ∧ (n.inst (s.mn.lane l.val).ward).lists = freshLists b ∧ (n.inst (s.mn.lane l.val).ward).tokens = freshTokens b
        ∧ (n.inst (s.mn.lane l.val).ward).members
            = [{ ctx := (s.mn.lane l.val).ctxNo, berth := 0, rows := b.rowsMax, pos0 := 0, recompute := false }])
  ∧ (∀ (s : State) (l : Fin 4) (b : Bitting), s.wardenUp = true → (s.mn.lane l.val).st = .running → (s.mn.lane l.val).listsLoaded = true →
      (s.mn.ward (s.mn.lane l.val).ward).fencePending = false → (s.mn.plan (s.mn.lane l.val).handle).bitting = some b →
      s.mn.capNow ≤ (s.mn.lane l.val).level → (s.mn.lane l.val).cur = none →
      (s.mn.lane l.val).inputReady.contains (s.mn.lane l.val).nextSlot = false → (s.mn.lane l.val).miss = none →
      OnWarden (.laneTick l) s fun n => n = { s.mn with lanes := n.lanes, absent := n.absent } ∧ s.mn.LanesBut n l.val
        ∧ n.lane l.val = { s.mn.lane l.val with
            tick := (s.mn.lane l.val).nextSlot, nextSlot := ((s.mn.lane l.val).nextSlot + 1) % 2 ^ 48
            miss := some ((s.mn.lane l.val).nextSlot, 1, 4) })
  ∧ (∀ (s : State) (l : Fin 4) (slot : Nat) (b : Bitting) (r : Ref) (k a : Nat), s.wardenUp = true → (s.mn.lane l.val).st = .running →
      (s.mn.lane l.val).nextSlot ≤ slot → slot < (s.mn.lane l.val).nextSlot + 4 → (s.mn.lane l.val).cur = none →
      (s.mn.lane l.val).inputReady.contains slot = false → (s.mn.plan (s.mn.lane l.val).handle).bitting = some b →
      b.aux.laneIn = some (r, k) → (s.mn.lane l.val).input ≠ 0 →
      a = (s.mn.lane l.val).input + slot % 2 ^ (s.mn.lane l.val).bufOrder * (s.mn.lane l.val).inStride →
      s.mn.dmaOk (s.mn.ctx (s.mn.lane l.val).ctxNo).tenant a k = true → refOk { r with addr := r.addr + slot % 4 * k } k = true →
      OnWarden (.laneInputFetchDone l slot false []) s fun n =>
        n = { s.mn with lanes := n.lanes, host := n.host, stack := n.stack, sp := n.sp, ws := n.ws, absent := n.absent }
          ∧ s.mn.LanesBut n l.val
          ∧ n.lane l.val = { s.mn.lane l.val with inputReady := (s.mn.lane l.val).inputReady ++ [slot] }
          ∧ n.bytesAt { r with addr := r.addr + slot % 4 * k } k = s.mn.tenantRd (s.mn.ctx (s.mn.lane l.val).ctxNo).tenant a k
          ∧ s.mn.BytesBut n { r with addr := r.addr + slot % 4 * k } k)

/-- Loads (R132, R137): a granule of the golden copy is written with its check-tail CRC; the last one seals the region and completes the
LOAD with its number; a load that times out frees the region and fails the LOAD with CTX_FAULT_MEMORY. -/
def Obligations.LoadsFillAndSeal : Prop :=
  (∀ (s : State) (r : Fin 8192) (x : Region) (c : Nat) (bs : List Byte), s.wardenUp = true → s.mn.region r.val = x → x.st = .loading →
      x.ctx = some c → x.openOnly = false → x.loaded < x.size / 4096 → bs = s.mn.tenantRd x.pasid (x.golden + 4096 * x.loaded) 4096 →
      s.mn.dmaOk x.pasid (x.golden + 4096 * x.loaded) 4096 = true →
      OnWarden (.loadEngineRead r) s fun n => n = { s.mn with stack := n.stack, regions := n.regions, absent := n.absent }
        ∧ s.mn.RegionsBut n r.val ∧ n.region r.val = { x with loaded := x.loaded + 1 }
        ∧ n.stack.rdN (x.base + 4096 * x.loaded) 4096 = bs ∧ n.stack.rdN (tailAddr x x.loaded) 4 = leBytes 4 (crc32c bs))
  ∧ (∀ (s : State) (r : Fin 8192) (x : Region) (c : Nat) (d : Desc) (q : List Desc), s.wardenUp = true → s.mn.region r.val = x →
      x.st = .loading → x.size / 4096 ≤ x.loaded → x.ctx = some c → (s.mn.ctx c).queue = d :: q → (∀ e ∈ q.head?, e.protErr = none) →
      (s.mn.ctx c).irqArmed = false →
      OnWarden (.regionSeal r) s fun n =>
        n = { s.mn with ctxs := n.ctxs, host := n.host, regions := n.regions, kr := { s.mn.kr with event := true }, absent := n.absent }
          ∧ s.mn.RegionsBut n r.val ∧ n.region r.val = { x with st := .sealed, ctx := none, openOnly := false }
          ∧ s.mn.Completed n c d q stDone 0 r.val 0)
  ∧ (∀ (s : State) (r : Fin 8192) (x : Region) (c : Nat) (d : Desc) (q : List Desc), s.wardenUp = true → s.mn.region r.val = x →
      x.st = .loading → x.ctx = some c → (s.mn.ctx c).queue = d :: q → (∀ e ∈ q.head?, e.protErr = none) →
      (s.mn.ctx c).irqArmed = false →
      OnWarden (.loadTimeout r false) s fun n =>
        n = { s.mn with ctxs := n.ctxs, host := n.host, regions := n.regions, absent := n.absent } ∧ s.mn.RegionsBut n r.val
          ∧ n.region r.val = {} ∧ s.mn.Completed n c d q stMemory 0 0 0)

/-- Holds and refetches (R144, R146, R147): an uncorrectable line holds its region; a granule that matches its check tail is written;
a clean verify read of the last one seals the region again; a timeout is a failed attempt. -/
def Obligations.HeldRegionsAreRefetched : Prop :=
  (∀ (s : State) (r : Fin 8192) (g : Nat) (ch : Fin 64) (x : Region), s.wardenUp = true → s.mn.region r.val = x → x.st = .sealed →
      x.refetch = [] → s.mn.fld F.HINGE_CTL_assist = 0 →
      OnWarden (.holdBegin r g ch none) s fun n =>
        n = { s.mn with regs := n.regs, err := n.err, strk := n.strk, ctr := n.ctr, regions := n.regions, host := n.host, absent := n.absent }
          ∧ s.mn.RegsBut n [F.HINGE_NOW_in_force.off] ∧ n.err.next = nextIndex s.mn.err.next ∧ s.mn.RegionsBut n r.val
          ∧ n.region r.val = { x with st := .held, assisted := false, refetch := [(g, 0, ch.val)] })
  ∧ (∀ (s : State) (r : Fin 8192) (x : Region) (g k ch : Nat) (rest : List (Nat × Nat × Nat)) (bs : List Byte), s.wardenUp = true →
      s.mn.region r.val = x → x.st = .held → x.refetch = (g, k, ch) :: rest → x.written = false → x.assisted = false → x.source = none →
      bs = s.mn.tenantRd x.pasid (x.golden + 4096 * g) 4096 → s.mn.dmaOk x.pasid (x.golden + 4096 * g) 4096 = true →
      crc32c bs = leNat (s.mn.stack.rdN (tailAddr x g) 4) →
      OnWarden (.refetchGranuleArrival r true false) s fun n =>
        n = { s.mn with stack := n.stack, regions := n.regions, absent := n.absent } ∧ s.mn.RegionsBut n r.val
          ∧ n.region r.val = { x with written := true } ∧ n.stack.rdN (x.base + 4096 * g) 4096 = bs
          ∧ s.mn.stack.But n.stack (x.base + 4096 * g) 4096)
  ∧ (∀ (s : State) (r : Fin 8192) (x : Region) (g k ch : Nat), s.wardenUp = true → s.mn.region r.val = x → x.st = .held →
      x.refetch = [(g, k, ch)] → x.written = true →
      crc32c (s.mn.stack.rdN (x.base + 4096 * g) 4096) = leNat (s.mn.stack.rdN (tailAddr x g) 4) → (∀ p ∈ s.mn.ctxs, p.2.busy = false) →
      OnWarden (.refetchVerify r true) s fun n =>
        n = { s.mn with regions := n.regions, host := n.host, insts := n.insts, ctr := n.ctr, kr := { s.mn.kr with event := true }
                        absent := n.absent }
          ∧ s.mn.RegionsBut n r.val ∧ n.region r.val = { x with st := .sealed, refetch := [], written := false, source := none }
          ∧ n.counter 0x22 0 = satAdd 48 (s.mn.counter 0x22 0) 1 ∧ s.mn.CountersBut n [(0x22, 0)]
          ∧ (∀ j, n.inst j = { s.mn.inst j with heldRegions := (s.mn.inst j).heldRegions.erase r.val }))
  ∧ (∀ (s : State) (r : Fin 8192) (x : Region) (g k ch : Nat) (rest : List (Nat × Nat × Nat)), s.wardenUp = true →
      s.mn.region r.val = x → x.st = .held → x.refetch = (g, k, ch) :: rest → x.written = false → x.assisted = false →
      k + 1 < s.mn.attemptsMax →
      OnWarden (.refetchTimeout r) s fun n =>
        n = { s.mn with err := n.err, strk := n.strk, ctr := n.ctr, regions := n.regions, absent := n.absent } ∧ s.mn.RegionsBut n r.val
          ∧ n.err.next = nextIndex s.mn.err.next
          ∧ n.region r.val = { x with refetch := (g, k + 1, ch) :: rest, written := false, source := none })

/-- CXL.mem and the areas (R136, R424, R154): a write reaches a region that the host opened; a read of a SEALED region is served while
allowed; an area's base is set while the area is empty and meets nothing. -/
def Obligations.CxlAndAreasAreServed : Prop :=
  (∀ (s : State) (a k : Nat) (bs : List Byte) (pasid : Nat) (x : Region), s.HostUp → s.mn.regionAt a bs.length = some (k, x) →
      x.st = .loading → x.openOnly = true → x.ctx = none →
      OnWarden (.cxlMemWrite a bs pasid) s fun n => n = { s.mn with stack := n.stack, absent := n.absent }
        ∧ n.stack.rdN a bs.length = bs ∧ s.mn.stack.But n.stack a bs.length)
  ∧ (∀ (s : State) (a k j pasid : Nat) (x : Region), s.HostUp → s.mn.regionAt a k = some (j, x) → x.st = .sealed →
      s.mn.bit F.PROT_CTL_cxlmem_read = true → s.mn.conf = false →
      OnWarden (.cxlMemRead a k pasid) s fun n => n = { s.mn with resp := n.resp, absent := n.absent } ∧ n.resp = s.mn.stack.rdN a k)
  ∧ (∀ (s : State) (v : Word) (b k : Nat), s.HostUp → s.mn.bit F.PROT_CTL_lock = false → s.mn.plans = [] →
      (∀ p ∈ s.mn.ctxs, p.2.busy = false) → b = v.toNat % 2 ^ 21 → k = s.mn.fld F.PLAN_AREA_SIZE_size → b + k ≤ stackUnits →
      spanHits b k (s.mn.fld F.PAGE_POOL_BASE_base) (s.mn.fld F.PAGE_POOL_SIZE_pages) = false →
      spanHits b k (s.mn.fld F.SAVE_AREA_BASE_base) (s.mn.fld F.SAVE_AREA_SIZE_size) = false → s.mn.hitsRegion b k = false →
      OnWarden (.areaRegisterWrite 0x6008 v) s fun n => n = { s.mn with regs := n.regs, absent := n.absent } ∧ s.mn.RegsBut n [0x6008]
        ∧ n.fld F.PLAN_AREA_BASE_base = b)

/-- Scrubbing (R421, R423): a unit that waits and may go is begun; the end of a unit leaves it zero, its page FREE without a tag, and
SCRUB_UNITS counts. -/
def Obligations.ScrubbingZeroes : Prop :=
  (∀ (s : State) (u : Nat), s.wardenUp = true → u ∉ s.mn.scrub → s.mn.scrubWant.find? (fun p => p.1 == u) = some (u, true) →
      OnWarden (.scrubStart u) s fun n => n = { s.mn with scrub := s.mn.scrub ++ [u], absent := n.absent })
  ∧ (∀ (s : State) (u p : Nat) (us : List Nat), s.wardenUp = true → s.mn.scrub = u :: us → s.mn.pageOfUnit u = some p →
      (s.mn.page p).st = .scrub → (∀ q ∈ s.mn.regions, q.2.ctx = none) →
      OnWarden .scrubUnitDone s fun n =>
        n = { s.mn with scrub := us, stack := n.stack, scrubbed := n.scrubbed, scrubWant := n.scrubWant, ctr := n.ctr, pages := n.pages
                        freeOrder := s.mn.freeOrder + 1, absent := n.absent }
          ∧ n.stack.rdN (u * 0x10000) 0x10000 = List.replicate 0x10000 0#8 ∧ s.mn.stack.But n.stack (u * 0x10000) 0x10000
          ∧ (n.page p).st = .free none ∧ (∀ j, j ≠ p → n.page j = s.mn.page j) ∧ u ∈ n.scrubbed
          ∧ n.counter 0x58 0 = satAdd 48 (s.mn.counter 0x58 0) 1 ∧ s.mn.CountersBut n [(0x58, 0)])

/-- Compress passes (R166, R168): an idle, enabled engine starts the pass that waits; its end writes the output and the report, and
completes the descriptor with the granules written. -/
def Obligations.CompressPassesRun : Prop :=
  (∀ (s : State) (j : KwJob), s.wardenUp = true → s.mn.kw.running = none → s.mn.bit F.KEYWAY_CTL_compress_enable = true →
      s.mn.kw.queue.filter s.mn.kwLive = [j] → s.mn.fld F.HINGE_CTL_assist = 0 →
      OnWarden .compressPassStart s fun n => n = { s.mn with kw := n.kw, regs := n.regs, absent := n.absent }
        ∧ n.kw = { s.mn.kw with running := some j, queue := [], assisted := false } ∧ s.mn.RegsBut n [F.HINGE_NOW_in_force.off])
  ∧ (∀ (s : State) (j : KwJob) (d : Desc) (q : List Desc) (f : Fmt) (o : KwOps) (p at_ : Nat) (r : KwResult), s.wardenUp = true →
      s.mn.kw.running = some j → s.mn.kwLive j = true → s.mn.kw.assisted = false → (s.mn.ctx j.ctx).queue = d :: q →
      (∀ e ∈ q.head?, e.protErr = none) → (s.mn.ctx j.ctx).irqArmed = false → o = kwOps d → p = (s.mn.ctx j.ctx).tenant →
      fmtOfCode o.fmt = some f → s.mn.dmaOk p o.source o.rawBytes = true →
      r = kwPass f o.mode o.target (s.mn.fld F.KEYWAY_CTL_auto_raw_thresh) (fun b => (j.tables.find? fun t => t.1 == b).map (·.2))
            (s.mn.tenantRd p o.source o.rawBytes) (s.mn.kwSource j o) →
      s.mn.dmaOk p o.dest r.output.length = true → s.mn.dmaOk p o.report 32 = true →
      at_ = (s.mn.ctx j.ctx).entry.cqBase + d.seq % 2 ^ (s.mn.ctx j.ctx).entry.cqOrder * 32 → at_ + 32 ≤ 2 ^ 64 →
      o.dest + r.output.length ≤ 2 ^ 64 → o.report + 32 ≤ 2 ^ 64 → (o.dest + r.output.length ≤ o.report ∨ o.report + 32 ≤ o.dest) →
      (o.dest + r.output.length ≤ at_ ∨ at_ + 32 ≤ o.dest) → (o.report + 32 ≤ at_ ∨ at_ + 32 ≤ o.report) →
      OnWarden (.compressPassDone false) s fun n =>
        n = { s.mn with ctxs := n.ctxs, host := n.host, kw := n.kw, absent := n.absent }
          ∧ n.kw = { s.mn.kw with running := none, passes := (s.mn.kw.passes + 1) % 2 ^ 32 }
          ∧ s.mn.Completed n j.ctx d q stDone 0 ((r.output.length + 4095) / 4096) 0 ∧ n.tenantRd p o.dest r.output.length = r.output
          ∧ n.tenantRd p o.report 32 = kwReport o.target o.fmt false r)

/-- The service ring (R295 to R298): the oldest request is posted in the slot of its number, data first, and its message is raised; with
no slot free it waits and SVC_STATUS.full is set; an answer that fits is taken for its request; the modes wanted are written. -/
def Obligations.RequestsPostAndAnswersAreRead : Prop :=
  (∀ (s : State) (r : HingeReq) (q : List HingeReq) (k i at_ slot : Nat), s.wardenUp = true → s.mn.hq = r :: q → k = s.mn.svc.nextReq →
      s.mn.bit F.SVC_CTL_enable = true → k ≤ 0xFFFFFFFF → (∀ p ∈ s.mn.svc.out, p.1 + 2 ^ s.mn.svcOrder ≠ k) → i = k % 2 ^ s.mn.svcOrder →
      at_ = hostKey 0 (s.mn.pair 0x2010 0x2014 12 + i * 64) → slot = hostKey 0 (s.mn.pair 0x2020 0x2024 16 + i * 0x10000) →
      (slot + r.data.length ≤ at_ ∨ at_ + 64 ≤ slot) → (s.mn.bit F.SVC_CTL_irq = true → s.mn.masked (s.mn.fld F.SVC_CTL_vector) = false) →
      OnWarden .svcRequestPost s fun n =>
        n = { s.mn with host := n.host, hq := q, absent := n.absent
                        svc := { s.mn.svc with nextReq := k + 1, out := if r.hinge = 10 then s.mn.svc.out else s.mn.svc.out ++ [(k, r)] }
                        msgs := if s.mn.bit F.SVC_CTL_irq then s.mn.msgs ++ [s.mn.fld F.SVC_CTL_vector] else s.mn.msgs }
          ∧ n.host.rdN at_ 64 = requestBytes k r ∧ n.host.rdN slot r.data.length = r.data
          ∧ ∀ x, (x < at_ ∨ at_ + 64 ≤ x) → (x < slot ∨ slot + r.data.length ≤ x) → n.host.rd x = s.mn.host.rd x)
  ∧ (∀ (s : State) (r : HingeReq) (q : List HingeReq) (p : Nat × HingeReq), s.wardenUp = true → s.mn.hq = r :: q →
      s.mn.bit F.SVC_CTL_enable = true → s.mn.svc.nextReq ≤ 0xFFFFFFFF → p ∈ s.mn.svc.out → p.1 + 2 ^ s.mn.svcOrder = s.mn.svc.nextReq →
      OnWarden .svcRequestPost s fun n => n = { s.mn with regs := n.regs, absent := n.absent } ∧ s.mn.RegsBut n [F.SVC_STATUS_full.off]
        ∧ n.fld F.SVC_STATUS_full = 1)
  ∧ (∀ (s : State) (a k : Nat) (r : HingeReq) (bs slot : List Byte), s.HostUp → s.mn.bit F.SVC_CTL_enable = true →
      a = nextAnswer s.mn.svc.lastAns → a < 2 ^ 32 →
      bs = s.mn.host.rdN (hostKey 0 (s.mn.pair 0x2018 0x201c 12 + a % 2 ^ s.mn.svcOrder * 64)) 64 → k = ansNat bs 4 4 →
      (s.mn.svc.out.find? fun p => p.1 == k) = some (k, r) → ansNat bs 8 1 = r.hinge → verdictOk r.hinge (verdict bs) = true →
      r.hinge ≠ 3 → slot = (if r.hinge = 1 then
        s.mn.host.rdN (hostKey 0 (s.mn.pair 0x2020 0x2024 16 + k % 2 ^ s.mn.svcOrder * 0x10000 + 0xC000)) 0x4000 else []) →
      OnWarden (.svcDbWrite (BitVec.ofNat 32 a)) s fun n =>
        n = { s.mn with absent := n.absent, svc := { s.mn.svc with
              lastAns := a, out := s.mn.svc.out.filter (fun p => p.1 != k), answers := s.mn.svc.answers ++ [(k, r, bs ++ slot)] } })
  ∧ (∀ (s : State) (v : Word), s.HostUp → s.mn.Quiet →
      OnWarden (.hingeCtlWrite v) s fun n => n = { s.mn with regs := n.regs, absent := n.absent }
        ∧ s.mn.RegsBut n [F.HINGE_CTL_assist.off, F.HINGE_NOW_in_force.off] ∧ n.fld F.HINGE_CTL_assist = v.toNat % 2 ^ 10)

/-- H1 and H2 answers (R217, R236): the list is built by the hardware, or from the instances host software names; the requester parks,
or the named victim gives up its top column and the list goes on. -/
def Obligations.ListAnswersAreTaken : Prop :=
  (∀ (s : State) (num c h k : Nat) (rq : HingeReq) (bs : List Byte) (p : Plan) (b : Bitting) (d : Desc) (r : RunProg) (last : Option Nat),
      s.wardenUp = true → s.mn.AnswerRead 1 num rq bs → s.mn.kr.h1Wait = true → s.mn.ReadyToBuild c h k p b d r last →
      (verdict bs = 1 ∨ verdict bs = 0 ∧ h1Instances (min 16 (ansNat bs 0x10 4)) (bs.drop 64) = [(h, b.mask, [c])]) →
      OnWarden (.h1Answer num) s fun n =>
        n = { s.mn with svc := s.mn.svc.taken num, kr := n.kr, wards := n.wards, ctxs := n.ctxs, insts := n.insts, absent := n.absent }
          ∧ n.kr = { s.mn.kr with
              h1Wait := false, event := true, listed := true
              rounds := (leadOf b.mask, 0) :: s.mn.kr.rounds.filter (fun q => q.1 != leadOf b.mask) }
          ∧ (∀ j, n.ctx j = s.mn.ctx j) ∧ s.mn.InstsBut n (leadOf b.mask) ∧ (n.inst (leadOf b.mask)).live = true
          ∧ (n.inst (leadOf b.mask)).handle = h ∧ (n.inst (leadOf b.mask)).step = s.mn.kr.step ∧ (n.inst (leadOf b.mask)).round = 0
          ∧ (n.inst (leadOf b.mask)).members = [{ ctx := c, berth := 0, rows := k, pos0 := r.startLen + r.done, recompute := false }])
  ∧ (∀ (s : State) (num c k : Nat) (rq : HingeReq) (bs : List Byte) (bd : Build) (bt : Bitting), s.wardenUp = true →
      s.mn.AnswerRead 2 num rq bs → verdict bs = 1 → s.mn.kr.h2Wait = some (c, k) → s.mn.kr.build = some bd → bd.todo = [] → bd.got = [] →
      s.mn.kr.jobs = [] → (s.mn.plan bd.handle).bitting = some bt → (s.mn.ctx c).state = .residentBlocked →
      (s.mn.usablePages (s.mn.ctx c).tenant).length < (s.mn.ctx c).need bt (s.mn.ctx c).berthNo k →
      s.mn.releaseReserved (fun j => j == c) = s.mn →
      OnWarden (.h2Answer num) s fun n =>
        n = { s.mn with svc := s.mn.svc.taken num, ctxs := n.ctxs, kr := n.kr, absent := n.absent } ∧ s.mn.CtxsBut n c
          ∧ n.ctx c = { s.mn.ctx c with state := .residentBlocked, cause := .pageWait, parkOrder := s.mn.kr.parkNext }
          ∧ n.kr = { s.mn.kr with h2Wait := none, event := true, build := none, parkNext := s.mn.kr.parkNext + 1 })
  ∧ (∀ (s : State) (num c k v need : Nat) (rq : HingeReq) (bs : List Byte) (bd : Build) (bt : Bitting) (m0 m1 : Main) (us : List Nat),
      s.wardenUp = true → s.mn.AnswerRead 2 num rq bs → verdict bs = 0 → ansNat bs 0x10 1 = 1 → ansNat bs 0x12 2 = v →
      s.mn.kr.h2Wait = some (c, k) → s.mn.kr.build = some bd → bd.cut = [(c, k)] → bd.todo = [] → bd.got = [] → s.mn.kr.jobs = [] →
      (s.mn.plan bd.handle).bitting = some bt → (s.mn.ctx c).state = .residentBlocked →
      need = (s.mn.ctx c).need bt (s.mn.ctx c).berthNo k →
      m0 = Main.setCtx { s.mn with svc := s.mn.svc.taken num, kr := { s.mn.kr with event := true, h2Wait := none } } c
             { s.mn.ctx c with state := .residentRunning, cause := .none } →
      (m0.usablePages (s.mn.ctx c).tenant).length < need → m0.eligible c need [c] v = true → m1 = m0.dropTop v c →
      us = m1.usablePages (s.mn.ctx c).tenant → need ≤ us.length →
      OnWarden (.h2Answer num) s fun n =>
        n = Main.goBuild { m1.reserve c (us.take need) with
              kr := { m1.kr with build := some { bd with got := [(c, k, us.take need)] } }, absent := n.absent })

/-- H3 to H5 and H7 to H9 answers (R111, R144, R147, R167, R245, R302, R314): the requester goes on with what host software gave. -/
def Obligations.OtherAnswersAreTaken : Prop :=
  (∀ (s : State) (num lead t g : Nat) (r : HingeReq) (bs : List Byte), s.wardenUp = true → s.mn.AnswerRead 3 num r bs →
      r.args.getD 0 0 = lead → r.args.getD 1 0 = t → r.args.getD 2 0 = g → s.mn.lapsed r = false → verdict bs = 0 →
      OnWarden (.h3Answer num) s fun n =>
        n = { s.mn with svc := s.mn.svc.taken num, kr := { s.mn.kr with event := true }, insts := n.insts, absent := n.absent }
          ∧ s.mn.InstsBut n lead
          ∧ n.inst lead = { s.mn.inst lead with h3Scales := (t, g, ansNat bs (0x10 + g % 16) 1) :: (s.mn.inst lead).h3Scales })
  ∧ (∀ (s : State) (num blk e mm : Nat) (r : HingeReq) (bs : List Byte) (j : KwJob) (d : Desc) (f : Fmt) (t : List Nat), s.wardenUp = true →
      s.mn.AnswerRead 4 num r bs → r.args.getD 1 0 = blk → s.mn.kw.running = some j → (s.mn.ctx j.ctx).head = some d →
      (s.mn.kwBlocksOf j (kwOps d)).length = blk + 1 → fmtOfCode (kwOps d).fmt = some f → kwShape f = some (mm, e) →
      j.tables.length = blk → j.ended = false → verdict bs = 0 → t = ((List.range 8).map fun i => ansNat bs (0x10 + i) 1) →
      kwValid f e t = true →
      OnWarden (.h4Answer num) s fun n =>
        n = { s.mn with svc := s.mn.svc.taken num, kr := { s.mn.kr with event := true }, absent := n.absent
                        kw := { s.mn.kw with running := some { j with tables := j.tables ++ [(blk, t)] } } })
  ∧ (∀ (s : State) (num k g tries ch : Nat) (rest : List (Nat × Nat × Nat)) (r : HingeReq) (bs : List Byte), s.wardenUp = true →
      s.mn.AnswerRead 5 num r bs → r.args.getD 0 0 = k → r.args.getD 1 0 = g → r.args.getD 4 0 = tries + 1 → (s.mn.region k).st = .held →
      (s.mn.region k).refetch = (g, tries, ch) :: rest → (s.mn.region k).source = none → verdict bs ≤ 1 →
      OnWarden (.h5Answer num) s fun n =>
        n = { s.mn with svc := s.mn.svc.taken num, kr := { s.mn.kr with event := true }, regions := n.regions, absent := n.absent }
          ∧ s.mn.RegionsBut n k
          ∧ n.region k = { s.mn.region k with source := some (if verdict bs = 1 then (ansNat bs 0x10 8, ansNat bs 0x18 4)
                                                              else ((s.mn.region k).golden + 4096 * g, (s.mn.region k).pasid)) })
  ∧ (∀ (s : State) (num a : Nat) (r : HingeReq) (bs : List Byte), s.wardenUp = true → s.mn.AnswerRead 7 num r bs →
      s.mn.lz.phase = .asking → verdict bs = 0 → a = ansNat bs 0x10 1 % 16 → s.mn.portUp 1 = true →
      OnWarden (.h7Answer num) s fun n =>
        n = { s.mn with svc := s.mn.svc.taken num, kr := { s.mn.kr with event := true }, absent := n.absent, lz := { s.mn.lz with
              phase := .walking, addrs := s.mn.lz.addrs ++ [a], host := true
              sent := s.mn.lz.sent ++ [(1, .walk (s.mn.fld F.LANIZA_ADDR_position + 1) s.mn.lz.floorMax s.mn.lz.maxMin (s.mn.lz.addrs ++ [a]))] } })
  ∧ (∀ (s : State) (num c : Nat) (w : Switch) (r : HingeReq) (bs : List Byte), s.wardenUp = true → s.mn.AnswerRead 8 num r bs →
      r.args.getD 0 0 = c → s.mn.kr.switches = [w] → w.ctx = c → w.go = false → (s.mn.ctx c).state = .swappedBlocked →
      (s.mn.ctx c).cause = .serviceWait →
      OnWarden (.h8Answer num) s fun n =>
        n = { s.mn with svc := s.mn.svc.taken num, ctxs := n.ctxs, kr := n.kr, absent := n.absent } ∧ s.mn.CtxsBut n c
          ∧ n.kr = { s.mn.kr with event := true, switches := if verdict bs = 0 then [{ w with go := true }] else [] }
          ∧ n.ctx c = { s.mn.ctx c with state := .swappedRunnable, cause := .none
                                        cutIn := if verdict bs = 0 then (s.mn.ctx c).cutIn else false })
  ∧ (∀ (s : State) (num b len : Nat) (r : HingeReq) (bs : List Byte), s.wardenUp = true → s.mn.AnswerRead 9 num r bs →
      r.args.getD 0 0 ≠ 2 → b = r.args.getD 1 0 / 0x10000 → len = r.args.getD 2 0 →
      OnWarden (.h9Answer num) s fun n =>
        n = { s.mn with svc := s.mn.svc.taken num, kr := { s.mn.kr with event := true }, absent := n.absent
                        h9Defer := if verdict bs = 0 then s.mn.h9Defer else s.mn.h9Defer ++ [r.args]
                        scrubWant := if verdict bs = 0 then s.mn.scrubWant.map (fun p => if b ≤ p.1 ∧ p.1 < b + len then (p.1, true) else p)
                                     else s.mn.scrubWant })

/-- H6 verdicts, timeouts and the closing of the ring (R300, R305, R339): a rejected candidate ends with outcome 2; a request that
times out is counted and takes its timeout outcome; clearing SVC_CTL.enable times out every request. -/
def Obligations.VerdictsTimeoutsAndClosing : Prop :=
  (∀ (s : State) (num : Nat) (r : HingeReq) (bs : List Byte) (c : Cand), s.wardenUp = true → s.mn.AnswerRead 6 num r bs →
      s.la.cand = some c → c.st = .verdict → c.number = r.args.getD 1 0 → s.la.fifo.length < 16 → s.la.sdio.io2 = true →
      exec (.h6Answer num) s = .next { s with
        mn := { s.mn with svc := s.mn.svc.taken num, kr := { s.mn.kr with event := true } }
        la := s.la.ended c (if verdict bs = 0 then 0 else 2) 0x8000 2 })
  ∧ (∀ (s : State) (num c : Nat) (r : HingeReq) (q : List HingeReq) (w : Switch), s.wardenUp = true →
      (num = 0 ∧ s.mn.hq = r :: q ∨ num ≠ 0 ∧ s.mn.hq = q ∧ (s.mn.svc.out.find? fun p => p.1 == num) = some (num, r)) → r.hinge = 8 →
      r.args.getD 0 0 = c → s.mn.kr.switches = [w] → w.ctx = c → w.go = false → (s.mn.ctx c).cause = .serviceWait →
      OnWarden (.hingeTimeout num) s fun n =>
        n = { s.mn with hq := q, svc := n.svc, ctxs := n.ctxs, ctr := n.ctr, kr := { s.mn.kr with switches := [{ w with go := true }] } }
          ∧ n.svc = (if num = 0 then s.mn.svc else { s.mn.svc with
                out := s.mn.svc.out.filter (fun p => p.1 != num), timedOut := s.mn.svc.timedOut ++ [num] })
          ∧ s.mn.CtxsBut n c ∧ n.ctx c = { s.mn.ctx c with state := .swappedRunnable, cause := .none }
          ∧ s.mn.CountersBut n [(0x34, 8)] ∧ n.counter 0x34 8 = satAdd 48 (s.mn.counter 0x34 8) 1)
  ∧ (∀ (s : State) (b len : Nat) (r : HingeReq), s.HostUp → s.mn.svc.out = [] → s.mn.hq = [r] → r.hinge = 9 → r.args.getD 0 0 ≠ 2 →
      b = r.args.getD 1 0 / 0x10000 → len = r.args.getD 2 0 →
      OnWarden .svcEnableClear s fun n =>
        n = { s.mn with hq := [], regs := n.regs, ctr := n.ctr
                        scrubWant := s.mn.scrubWant.map (fun p => if b ≤ p.1 ∧ p.1 < b + len then (p.1, true) else p) }
          ∧ s.mn.RegsBut n [F.SVC_CTL_enable.off] ∧ n.fld F.SVC_CTL_enable = 0
          ∧ s.mn.CountersBut n [(0x34, 9)] ∧ n.counter 0x34 9 = satAdd 48 (s.mn.counter 0x34 9) 1)

/-- How walks begin (R311, R312): at a head a trained DOWN port, a UP port that stays down, or LANIZA_CTL.rewalk sends QUIESCE; another
unit asks for a walk upstream; a unit that no walk reaches has no valid address. -/
def Obligations.WalksBegin : Prop :=
  (∀ (s : State) (st : Fin 4), s.wardenUp = true → s.mn.bit F.LANIZA_STATUS_head_pin = true → s.mn.bit F.LANIZA_CTL_down_en = true →
      2 ≤ st.val → s.mn.fld F.LANIZA_STATUS_down_state < 2 → s.mn.lz.phase = .idle → s.mn.NoChainWork →
      OnWarden (.lanizaPortChange 1 st) s fun n => n = { s.mn with regs := n.regs, lz := n.lz, absent := n.absent }
        ∧ n.lz = Laniza.plus { s.mn.lz with failDown := 0, phase := .quiescing, restQuiet := false } 1 .quiesce
        ∧ s.mn.RegsBut n [F.LANIZA_STATUS_down_state.off, F.HINGE_NOW_in_force.off] ∧ n.fld F.LANIZA_STATUS_down_state = st.val
        ∧ n.fld F.LANIZA_STATUS_walk_busy = 1)
  ∧ (∀ (s : State), s.wardenUp = true → s.mn.bit F.LANIZA_STATUS_head_pin = false → s.mn.portUp 0 = false → s.mn.portUp 1 = true →
      s.mn.lz.phase = .idle → s.mn.NoChainWork →
      OnWarden .headUpTimeout s fun n => n = { s.mn with regs := n.regs, lz := n.lz, absent := n.absent }
        ∧ n.lz = Laniza.plus { s.mn.lz with headOut := true, phase := .quiescing, restQuiet := false } 1 .quiesce
        ∧ s.mn.RegsBut n [F.LANIZA_STATUS_walk_busy.off, F.HINGE_NOW_in_force.off] ∧ n.fld F.LANIZA_STATUS_walk_busy = 1)
  ∧ (∀ (s : State), s.wardenUp = true → s.mn.isHead = false → s.mn.lz.reached = false → s.mn.NoChainWork →
      OnWarden .noHeadTimeout s fun n => n = { s.mn with regs := n.regs, lz := s.mn.lz.ended, absent := n.absent } ∧ n.WalkLost
        ∧ s.mn.RegsBut n [F.LANIZA_STATUS_no_head.off, F.LANIZA_ADDR_valid.off, F.LANIZA_GEN_op_gen.off]
        ∧ n.fld F.LANIZA_STATUS_no_head = 1)
  ∧ (∀ (s : State), s.HostUp → s.mn.isHead = true → s.mn.portUp 1 = true → s.mn.lz.phase = .idle → s.mn.NoChainWork →
      OnWarden .lanizaRewalk s fun n => n = { s.mn with regs := n.regs, lz := n.lz, absent := n.absent }
        ∧ n.lz = Laniza.plus { s.mn.lz with phase := .quiescing, restQuiet := false } 1 .quiesce
        ∧ s.mn.RegsBut n [F.LANIZA_STATUS_walk_busy.off, F.HINGE_NOW_in_force.off] ∧ n.fld F.LANIZA_STATUS_walk_busy = 1)
  ∧ (∀ (s : State), s.HostUp → s.mn.isHead = false → s.mn.portUp 0 = true → s.mn.lz.phase = .idle →
      OnWarden .lanizaRewalk s fun n => n = { s.mn with lz := s.mn.lz.plus 0 .rewalk, absent := n.absent })

/-- How walks go (R312, R314, R320): QUIESCE goes on or comes back as QUIESCED; the head sends WALK; each unit takes its position and passes
WALK on or returns END; the head confirms, and every unit takes the result; a failed walk leaves no address. -/
def Obligations.WalksGoRound : Prop :=
  (∀ (s : State), s.wardenUp = true → s.mn.isHead = false → s.mn.lz.phase ≠ .quiescing → s.mn.NoChainWork → s.mn.portUp 0 = true →
      OnWarden .quiesce s fun n => n = { s.mn with regs := n.regs, lz := n.lz, absent := n.absent }
        ∧ n.lz = Laniza.plus { s.mn.lz with phase := .quiet, failUp := 0 } (if s.mn.portUp 1 then 1 else 0)
                   (if s.mn.portUp 1 then .quiesce else .quiesced)
        ∧ s.mn.RegsBut n [F.LANIZA_STATUS_walk_busy.off, F.HINGE_NOW_in_force.off] ∧ n.fld F.LANIZA_STATUS_walk_busy = 1)
  ∧ (∀ (s : State), s.wardenUp = true → s.mn.isHead = true → s.mn.lz.phase = .quiescing → s.mn.NoChainWork → s.mn.portUp 1 = true →
      s.mn.assisted 7 = false →
      OnWarden .quiesced s fun n => n = { s.mn with regs := n.regs, lz := n.lz, absent := n.absent }
        ∧ n.lz = Laniza.plus { s.mn.lz with
              failDown := 0, restQuiet := true, phase := .walking, addrs := [0], reached := true, host := false
              floorMax := s.mn.ownFloor, maxMin := s.mn.ownMax } 1 (.walk 1 s.mn.ownFloor s.mn.ownMax [0])
        ∧ s.mn.RegsBut n [F.LANIZA_ADDR_position.off] ∧ n.fld F.LANIZA_ADDR_position = 0)
  ∧ (∀ (s : State), s.wardenUp = true → s.mn.isHead = false → s.mn.portUp 0 = true →
      OnWarden .quiesced s fun n => n = { s.mn with lz := n.lz, absent := n.absent }
        ∧ n.lz = Laniza.plus { s.mn.lz with failDown := 0 } 0 .quiesced)
  ∧ (∀ (s : State) (pos : Fin 17) (fl mx a b : Nat) (addrs : List Nat), s.wardenUp = true → s.mn.isHead = false → pos.val < 16 →
      s.mn.assisted 7 = false → s.mn.portUp 0 = true → a = max fl s.mn.ownFloor → b = min mx s.mn.ownMax →
      OnWarden (.walk pos fl mx addrs) s fun n => n = { s.mn with regs := n.regs, lz := n.lz, absent := n.absent }
        ∧ n.lz = Laniza.plus { s.mn.lz with
              reached := true, failUp := 0, floorMax := a, maxMin := b, phase := .walking, addrs := addrs ++ [pos.val], host := false }
              (if s.mn.portUp 1 then 1 else 0)
              (if s.mn.portUp 1 then .walk (pos.val + 1) a b (addrs ++ [pos.val]) else .walkEnd (pos.val + 1) a b (addrs ++ [pos.val]))
        ∧ s.mn.RegsBut n [F.LANIZA_STATUS_walk_busy.off, F.LANIZA_ADDR_position.off] ∧ n.fld F.LANIZA_ADDR_position = pos.val
        ∧ n.fld F.LANIZA_STATUS_walk_busy = 1)
  ∧ (∀ (s : State) (units : Fin 17) (fl mx : Nat) (addrs : List Nat), s.wardenUp = true → s.mn.isHead = true → s.mn.lz.phase = .walking →
      fl ≤ mx → addrs.Nodup → s.mn.portUp 1 = true → s.mn.lz.resyncDue = false → s.mn.NoChainWork →
      OnWarden (.walkEnd units fl mx addrs) s fun n =>
        n = { s.mn with regs := n.regs, lz := n.lz, kr := { s.mn.kr with event := true }, absent := n.absent }
          ∧ n.lz = Laniza.ended (Laniza.plus { s.mn.lz with failDown := 0, needWalk := false } 1 (.confirm units.val false mx addrs false))
          ∧ s.mn.WalkTaken n units.val false mx addrs)
  ∧ (∀ (s : State) (units : Fin 17) (fl mx : Nat) (addrs : List Nat), s.wardenUp = true → s.mn.isHead = true → s.mn.lz.phase = .walking →
      mx < fl → s.mn.portUp 0 = false → s.mn.portUp 1 = true → s.mn.NoChainWork →
      OnWarden (.walkEnd units fl mx addrs) s fun n =>
        n = { s.mn with regs := n.regs, lz := n.lz, absent := n.absent } ∧ n.WalkLost ∧ n.fld F.LANIZA_STATUS_no_common_gen = 1
          ∧ s.mn.RegsBut n [F.LANIZA_STATUS_no_common_gen.off, F.LANIZA_ADDR_valid.off, F.LANIZA_GEN_op_gen.off]
          ∧ n.lz = Laniza.ended (Laniza.plus { s.mn.lz with failDown := 0 } 1 (.confirm 0 false 0 [] true)))
  ∧ (∀ (s : State) (units : Fin 17) (fl mx : Nat) (addrs : List Nat), s.wardenUp = true → s.mn.isHead = false → s.mn.portUp 0 = true →
      OnWarden (.walkEnd units fl mx addrs) s fun n => n = { s.mn with lz := n.lz, absent := n.absent }
        ∧ n.lz = Laniza.plus { s.mn.lz with failDown := 0 } 0 (.walkEnd units.val fl mx addrs))
  ∧ (∀ (s : State) (units : Fin 17) (ring : Bool) (gen : Nat) (addrs : List Nat), s.wardenUp = true → s.mn.lz.phase ≠ .idle →
      s.mn.portUp 1 = true → s.mn.lz.resyncDue = false → s.mn.NoChainWork →
      OnWarden (.confirm units ring gen addrs false true) s fun n =>
        n = { s.mn with regs := n.regs, lz := n.lz, kr := { s.mn.kr with event := true }, absent := n.absent }
          ∧ n.lz = Laniza.ended (Laniza.plus { s.mn.lz with failUp := 0, needWalk := false } 1 (.confirm units.val ring gen addrs false))
          ∧ s.mn.WalkTaken n units.val ring gen addrs)
  ∧ (∀ (s : State) (units : Fin 17) (ring : Bool) (gen : Nat) (addrs : List Nat), s.wardenUp = true → s.mn.lz.phase ≠ .idle →
      s.mn.portUp 1 = true → s.mn.NoChainWork →
      OnWarden (.confirm units ring gen addrs true true) s fun n =>
        n = { s.mn with regs := n.regs, lz := n.lz, absent := n.absent } ∧ n.WalkLost
          ∧ s.mn.RegsBut n [F.LANIZA_STATUS_walk_busy.off, F.LANIZA_ADDR_valid.off, F.LANIZA_GEN_op_gen.off]
          ∧ n.lz = Laniza.ended (Laniza.plus { s.mn.lz with failUp := 0 } 1 (.confirm units.val ring gen addrs true)))

/-- Chained instances (R235, R317, R318, R324): a membership gives an instance that holds; START lets it go, and a member that faulted
elsewhere has CTX_FAULT_PLAN due; the last READY sends GO; GO lets the unit commit; a GO that does not come cuts the instance short. -/
def Obligations.ChainedInstancesRun : Prop :=
  (∀ (s : State) (h : Fin 4096) (c k : Nat) (p : Plan) (b : Bitting) (t : BerthSet), s.wardenUp = true → s.mn.stored = [(h.val, p, b)] →
      1 < b.chainUnits → b.aux.carried = [] → s.mn.hosted b.modelKey b.mask = some t → t.berths.filterMap (·.1) = [c] →
      (s.mn.ctx c).state = .residentRunning → p.contexts = [c] → s.mn.bit F.LANIZA_ADDR_valid = true → s.mn.lz.needWalk = false →
      s.mn.lz.phase = .idle → s.mn.setIdle t = true → s.mn.building = false → s.mn.bit F.KEYRING_CFG_enable = true →
      (s.mn.ctx c).recompute = false →
      OnWarden (.chainMembership h [(s.mn.fld F.LANIZA_ADDR_addr, c, k)]) s fun n =>
        n = { s.mn with ctxs := n.ctxs, insts := n.insts, wards := n.wards, kr := n.kr, absent := n.absent } ∧ (∀ j, n.ctx j = s.mn.ctx j)
          ∧ s.mn.InstsBut n (leadOf b.mask) ∧ (n.inst (leadOf b.mask)).live = true ∧ (n.inst (leadOf b.mask)).hold = true
          ∧ (n.inst (leadOf b.mask)).chained = true ∧ (n.inst (leadOf b.mask)).handle = h.val ∧ (n.inst (leadOf b.mask)).mask = b.mask
          ∧ (n.inst (leadOf b.mask)).members.map (fun x => (x.ctx, x.rows)) = [(c, k)])
  ∧ (∀ (s : State) (lead : Fin 16) (i : Inst), s.wardenUp = true → s.mn.inst lead.val = i → i.live = true → i.hold = true → i.members ≠ [] →
      s.mn.fld F.LANIZA_ADDR_addr ≠ 0 →
      OnWarden (.chainStart lead [] []) s fun n => n = { s.mn with insts := n.insts, absent := n.absent } ∧ s.mn.InstsBut n lead.val
        ∧ n.inst lead.val = { i with hold := false })
  ∧ (∀ (s : State) (lead : Fin 16) (i : Inst) (x y : Member), s.wardenUp = true → s.mn.inst lead.val = i → i.live = true → i.hold = true →
      i.members = [x, y] → x.ctx ≠ y.ctx → s.mn.releaseReserved (fun j => j == y.ctx) = s.mn → i.reserved.all (fun q => q.1 == x.ctx) = true →
      s.mn.fld F.LANIZA_ADDR_addr = 0 → s.mn.portUp 1 = true →
      OnWarden (.chainStart lead [y.ctx] []) s fun n =>
        n = { s.mn with insts := n.insts, ctxs := n.ctxs, lz := s.mn.lz.plus 1 (.start i.mask), absent := n.absent }
          ∧ s.mn.InstsBut n lead.val ∧ n.inst lead.val = { i with hold := false, members := [x] } ∧ s.mn.CtxsBut n y.ctx
          ∧ n.ctx y.ctx = { s.mn.ctx y.ctx with pendingFault := some (stPlan, 0) })
  ∧ (∀ (s : State) (lead unit : Fin 16) (i : Inst) (b : Bitting), s.wardenUp = true → s.mn.inst lead.val = i → i.live = true →
      i.chained = true → i.staged = true → i.chainGo = false → s.mn.bittingOf i = some b → unit ≠ 0 → unit.val ∉ i.readyFrom →
      s.mn.fld F.LANIZA_ADDR_addr = 0 → b.chainUnits ≤ i.readyFrom.length + 2 → s.mn.portUp 1 = true →
      OnWarden (.chainReady lead unit) s fun n => n = { s.mn with insts := n.insts, lz := n.lz, absent := n.absent }
        ∧ n.lz = Laniza.plus { s.mn.lz with failDown := 0 } 1 (.go i.mask) ∧ s.mn.InstsBut n lead.val
        ∧ n.inst lead.val = { i with readyFrom := unit.val :: i.readyFrom, chainGo := true })
  ∧ (∀ (s : State) (lead : Fin 16) (i : Inst), s.wardenUp = true → s.mn.inst lead.val = i → i.live = true → i.chained = true →
      i.staged = true → s.mn.portUp 1 = true →
      OnWarden (.chainGo lead) s fun n => n = { s.mn with insts := n.insts, lz := s.mn.lz.plus 1 (.go i.mask), absent := n.absent }
        ∧ s.mn.InstsBut n lead.val ∧ n.inst lead.val = { i with chainGo := true })
  ∧ (∀ (s : State) (lead : Fin 16) (i : Inst), s.wardenUp = true → s.mn.inst lead.val = i → i.live = true → i.chained = true →
      i.staged = true → i.chainGo = false → s.mn.Quiet → s.mn.lz.phase = .idle →
      OnWarden (.chainGoTimeout lead) s fun n =>
        n = { s.mn with regs := n.regs, insts := n.insts, wards := n.wards, ctr := n.ctr, lz := { s.mn.lz with needWalk := true }
                        log := { s.mn.log with pipe := s.mn.log.pipe.filter fun k => k.live || k.inst.mask != i.mask }
                        pages := (s.mn.releaseReserved fun c => i.members.any fun x => x.ctx == c).pages, absent := n.absent }
          ∧ s.mn.InstsBut n lead.val ∧ n.inst lead.val = {} ∧ n.fld F.LANIZA_STATUS_chain_abort = 1
          ∧ s.mn.RegsBut n [F.LANIZA_STATUS_chain_abort.off, F.HINGE_NOW_in_force.off] ∧ s.mn.CountersBut n [(0x41, 0)]
          ∧ n.counter 0x41 0 = satAdd 48 (s.mn.counter 0x41 0) 1
          ∧ ∀ w < 16, n.ward w = (if i.mask / 2 ^ w % 2 = 1 then { s.mn.ward w with roundDone := true, openUnits := [] } else s.mn.ward w))

/-- Chain notices and the ports (R221, R308, R319, R322): a drop notice frees columns, RESYNC starts a sequence over, the wake pattern is sent
to idle neighbours, and a frame that fails counts, the 64th in a row taking the port down. -/
def Obligations.NoticesAndPortsAct : Prop :=
  (∀ (s : State) (c : Fin 3072) (kv : Nat), s.wardenUp = true → (s.mn.ctx c.val).state ≠ .free → s.mn.Quiet → s.mn.running c.val = false →
      c.val ∈ s.mn.ctxs.map (·.1) → kv < (s.mn.ctx c.val).kvLimit →
      OnWarden (.chainDropNotice c kv) s fun n =>
        n = { s.mn with ctxs := n.ctxs, pages := n.pages, freeOrder := n.freeOrder, ctr := n.ctr, regs := n.regs, absent := n.absent }
          ∧ s.mn.CtxsBut n c.val ∧ s.mn.RegsBut n [F.HINGE_NOW_in_force.off] ∧ s.mn.CountersBut n [(0x28, 0)]
          ∧ n.ctx c.val = { s.mn.ctx c.val with
              kvLimit := kv / 32 * 32, lastDrop := some s.mn.kr.step
              streams := (s.mn.ctx c.val).streams.map fun x => { x with pages := x.pages.take (kv / 32), fill := 0 } }
          ∧ ∀ x ∈ (s.mn.ctx c.val).streams, ∀ p ∈ x.pages.drop (kv / 32), (n.page p).st = .free (some (s.mn.ctx c.val).tenant))
  ∧ (∀ (s : State) (c : Nat), s.wardenUp = true → (s.mn.ctx c).state = .residentRunning → s.mn.Quiet → s.mn.running c = false →
      c ∈ s.mn.ctxs.map (·.1) → s.mn.chainedCtx c = true → 0 < (s.mn.ctx c).seqLen → (s.mn.ctx c).run = none → (s.mn.ctx c).queue = [] →
      OnWarden (.chainResync [c]) s fun n =>
        n = { s.mn with ctxs := n.ctxs, pages := n.pages, freeOrder := n.freeOrder, kr := { s.mn.kr with event := true }, regs := n.regs
                        absent := n.absent }
          ∧ s.mn.CtxsBut n c ∧ s.mn.RegsBut n [F.HINGE_NOW_in_force.off]
          ∧ n.ctx c = { s.mn.ctx c with
              kvLimit := 0, chainRecompute := true, streams := (s.mn.ctx c).streams.map fun x => { x with pages := [], fill := 0 } })
  ∧ (∀ (s : State) (u d : Bool), s.HostUp →
      OnWarden (.lanizaSendWake u d) s fun n => n = { s.mn with absent := n.absent, lz := { s.mn.lz with
        sent := s.mn.lz.sent ++ (if u then [(0, .wake)] else []) ++ (if d then [(1, .wake)] else []) } })
  ∧ (∀ (s : State) (p : Fin 2) (k : Nat), s.wardenUp = true → s.mn.portUp p.val = true → k = (if p = 0 then s.mn.lz.failUp else s.mn.lz.failDown) →
      k + 1 < 64 →
      OnWarden (.lanizaFrameCrcFail p) s fun n => n = { s.mn with lz := n.lz, ctr := n.ctr, absent := n.absent }
        ∧ n.lz = { s.mn.lz with failUp := if p = 0 then k + 1 else s.mn.lz.failUp, failDown := if p = 1 then k + 1 else s.mn.lz.failDown }
        ∧ s.mn.CountersBut n [(0x40, p.val)] ∧ n.counter 0x40 p.val = satAdd 48 (s.mn.counter 0x40 p.val) 1)
  ∧ (∀ (s : State), s.wardenUp = true → s.mn.portUp 1 = true → s.mn.lz.failDown = 63 → s.mn.isHead = false → s.mn.portUp 0 = true →
      s.mn.NoChainWork →
      OnWarden (.lanizaFrameCrcFail 1) s fun n => n = { s.mn with lz := n.lz, regs := n.regs, absent := n.absent }
        ∧ n.lz = Laniza.plus { s.mn.lz with failDown := 0 } 0 .rewalk ∧ s.mn.RegsBut n [F.LANIZA_STATUS_down_state.off]
        ∧ n.fld F.LANIZA_STATUS_down_state = 0)

/-- MUTE_N and HASP_CTL.mute (R345): asserting the pin mutes, whatever else happens; a 0 written meanwhile is ignored and flagged; deasserting
does not unmute; host software or the standby controller does; from reset the part is muted and the lamp lit. -/
def Obligations.MuteFollowsThePin : Prop :=
  (∀ (s : State), s.la.hasp.pin = false → ∃ t, exec .muteNAssert s = .next t ∧ t.la.hasp.pin = true ∧ t.la.hasp.mute = true)
  ∧ (∀ (s : State) (v : Word), s.HostUp → s.la.hasp.pin = true → v.getLsbD 0 = false →
      ∃ t, exec (.haspMuteWrite v) s = .next t ∧ t.la.hasp.mute = s.la.hasp.mute ∧ t.la.hasp.unmuteRefused = true)
  ∧ (∀ (s : State), s.la.hasp.pin = true →
      ∃ t, exec .muteNDeassert s = .next t ∧ t.la.hasp.pin = false ∧ t.la.hasp.mute = s.la.hasp.mute)
  ∧ (∀ (s : State) (v : Word), s.HostUp → s.la.hasp.pin = false → v.getLsbD 0 = false →
      ∃ t, exec (.haspMuteWrite v) s = .next t ∧ t.la.hasp.mute = false ∧ t.la.hasp.unmuteRefused = s.la.hasp.unmuteRefused)
  ∧ (∀ (s : State) (bytes : List Byte), s.CardUp → s.la.hasp.pin = false → mbxCmd (mbxPad bytes) = (2, 1) →
      leNat (mbxPayload (mbxPad bytes)) = 0 → ∃ t, exec (.mbxMute bytes) s = .next t ∧ t.la.hasp.mute = false)
  ∧ (State.reset.la.hasp.mute = true ∧ State.reset.la.hasp.led = true ∧ State.reset.la.hasp.muted = true)

/-- The hasp (R344 to R347): a write of HASP_CTL sets mute, or clears it unless MUTE_N is asserted, which is refused; an edge of MUTE_N is
recorded, and asserting it sets mute. Muted, the lamp is lit and microphones have neither power nor clock; entry to mute zeroes
the pre-roll ring. -/
def Obligations.TheHaspMutes : Prop :=
  (∀ (s : State) (v : Word), s.HostUp → s.la.cand = none → s.la.spool = none → s.la.w0On = false → s.la.fifo = [] →
      OnLatch (.haspMuteWrite v) s fun a => s.la.Redriven a ∧ a.regs = s.la.regs ∧ a.audStop = s.la.audStop ∧ a.quiet = s.la.quiet
        ∧ a.hasp.mute = (v.getLsbD 0 || (s.la.hasp.pin && s.la.hasp.mute)) ∧ a.hasp.pin = s.la.hasp.pin
        ∧ a.hasp.pinChanged = s.la.hasp.pinChanged ∧ a.hasp.settle = v.toNat / 256 % 256
        ∧ a.hasp.unmuteRefused = (s.la.hasp.unmuteRefused || (!v.getLsbD 0 && s.la.hasp.pin))
        ∧ (a.hasp.muted = true → a.hasp.clk0 = false ∧ a.hasp.clk1 = false)
        ∧ a.preroll = (if a.hasp.muted && !s.la.hasp.muted then [] else s.la.preroll))
  ∧ (∀ (s : State), s.rc.latchHeld = false → s.mn.sleepState = 0 → s.mn.sleepBusy = false → s.la.cand = none → s.la.spool = none →
      s.la.w0On = false → s.la.fifo = [] → s.la.hasp.pin = false →
      OnLatch .muteNAssert s fun a => s.la.Redriven a ∧ a.regs = s.la.regs ∧ a.audStop = s.la.audStop ∧ a.quiet = s.la.quiet
        ∧ a.hasp.pin = true ∧ a.hasp.mute = true ∧ a.hasp.pinChanged = true ∧ a.hasp.clk0 = false ∧ a.hasp.clk1 = false
        ∧ a.hasp.settle = s.la.hasp.settle ∧ a.hasp.unmuteRefused = s.la.hasp.unmuteRefused
        ∧ a.preroll = (if s.la.hasp.muted then s.la.preroll else []))
  ∧ (∀ (s : State), s.rc.latchHeld = false → s.mn.sleepState = 0 → s.mn.sleepBusy = false → s.la.w0On = false → s.la.fifo = [] →
      s.la.hasp.pin = true →
      OnLatch .muteNDeassert s fun a => s.la.Redriven a ∧ a.regs = s.la.regs ∧ a.audStop = s.la.audStop ∧ a.quiet = s.la.quiet
        ∧ a.hasp.pin = false ∧ a.hasp.mute = s.la.hasp.mute ∧ a.hasp.pinChanged = true ∧ a.hasp.settle = s.la.hasp.settle
        ∧ a.hasp.unmuteRefused = s.la.hasp.unmuteRefused ∧ a.preroll = s.la.preroll)

/-- Clocks and frames (R326 to R335, R488): a group is set up; AUD_CLK stopping stops both clocks; the decimators settle; a frame advances
the sample numbers and fills the pre-roll ring; enough voiced frames raise a candidate; a score at the threshold passes it, and
awake, in hardware mode, it ends as stage 3. -/
def Obligations.FramesAreHeard : Prop :=
  (∀ (s : State) (g : Fin 2) (v : Word) (d : Nat), s.HostUp → s.la.bit (F.PDM_GRP_enable g.val) = false → d = v.toNat / 4 % 2 ^ 9 →
      (if v.getLsbD 1 then 22 ≤ d ∧ d ≤ 100 else 64 ≤ d ∧ d ≤ 300) →
      OnLatch (.pdmGrpWrite g v) s fun a => s.la.Redriven a ∧ s.la.RegsBut a [0xa010 + 4 * g.val]
        ∧ a.word (0xa010 + 4 * g.val) = v &&& 0xffff07ff#32 ∧ a.audStop = s.la.audStop ∧ a.preroll = s.la.preroll ∧ a.quiet = s.la.quiet
        ∧ a.hasp.mute = s.la.hasp.mute ∧ a.hasp.pin = s.la.hasp.pin
        ∧ a.hasp.clk0 = (!s.la.hasp.muted && a.pathOn s.g1Off 0) ∧ a.hasp.clk1 = (!s.la.hasp.muted && a.pathOn s.g1Off 1))
  ∧ (∀ (s : State) (g : Fin 2), s.rc.latchHeld = false →
      OnLatch (.decimatorSettleEnd g) s fun a =>
        a = { s.la with settle0 := s.la.settle0 && g != 0, settle1 := s.la.settle1 && g != 1 })
  ∧ (∀ (s : State), s.rc.latchHeld = false →
      OnLatch .audClkStop s fun a => s.la.Redriven a ∧ a.regs = s.la.regs ∧ a.audStop = true ∧ a.hasp.clk0 = false ∧ a.hasp.clk1 = false
        ∧ a.hasp.muted = s.la.hasp.muted ∧ a.preroll = s.la.preroll ∧ a.quiet = s.la.quiet ∧ a.g0.ran = false ∧ a.g1.ran = false
        ∧ a.wake.ran = false)
  ∧ (∀ (s : State), s.rc.latchHeld = false →
      OnLatch .audClkReturn s fun a => s.la.Redriven a ∧ a.regs = s.la.regs ∧ a.audStop = false ∧ a.hasp.muted = s.la.hasp.muted
        ∧ a.preroll = s.la.preroll ∧ a.quiet = s.la.quiet ∧ a.hasp.clk0 = (!s.la.hasp.muted && s.la.bit (F.PDM_GRP_enable 0))
        ∧ a.hasp.clk1 = (!s.la.hasp.muted && s.la.bit (F.PDM_GRP_enable 1) && !s.g1Off))
  ∧ (∀ (s : State) (pairs : List (Nat × Nat)) (g0 g1 : List (List Nat)) (voice : Bool) (scores : List (Nat × Nat)) (n : Nat), s.Listening →
      s.la.cand = none → ((s.la.judgedNext voice).filter (·.2)).length < s.la.vldMin → n = s.la.wake.next →
      OnLatch (.wakeFrame pairs g0 g1 voice scores) s fun a =>
        a = { s.la with
              g0 := { s.la.g0 with ran := true, next := sampleAdd s.la.g0.next (if s.la.bit (F.PDM_GRP_rate 0) then 480 else 160) }
              wake := { s.la.wake with ran := true, next := sampleAdd n 160 }
              judged := s.la.judgedNext voice, quiet := s.la.quiet.take 250, preroll := a.preroll }
          ∧ (∀ i < 160, a.preroll.rdN ((n + i) % 40000 * 8) 8
              = leBytes 4 (ext24 (pairs.getD i (0, 0)).1) ++ leBytes 4 (ext24 (pairs.getD i (0, 0)).2))
          ∧ ∀ x, (∀ i < 160, x / 8 ≠ (n + i) % 40000) → a.preroll.rd x = s.la.preroll.rd x)
  ∧ (∀ (s : State) (pairs : List (Nat × Nat)) (g0 g1 : List (List Nat)) (voice : Bool) (h : List Nat) (start : Nat), s.Listening →
      s.la.cand = none → s.la.fifo.length < 16 → h = ((s.la.judgedNext voice).filter (·.2)).map (·.1) → s.la.vldMin ≤ h.length →
      start = max (max (h.foldl min (s.la.wake.next / 160) * 160 - s.la.fld F.VLD_CFG_lookback * 160)
                ((s.la.wake.next / 160 + 1) * 160 - 40000)) ((s.la.prevLast.map (· + 1)).getD 0) →
      OnLatch (.wakeFrame pairs g0 g1 voice []) s fun a =>
        a = { s.la with
              g0 := a.g0, wake := a.wake, judged := s.la.judgedNext voice, quiet := s.la.quiet.take 250, preroll := a.preroll
              cand := some { number := s.la.candNext, first := start, next := start / 160, rep := start }
              candNext := (s.la.candNext + 1) % 2 ^ 32 })
  ∧ (∀ (s : State) (pairs : List (Nat × Nat)) (g0 g1 : List (List Nat)) (voice : Bool) (score rep : Nat) (c : Cand), s.Listening →
      s.la.cand = some c → c.st = .stage1 → ((s.la.judgedNext voice).filter (·.2)).length < s.la.vldMin → s.la.image.isSome = true →
      c.next * 160 ≤ s.la.wake.next → c.next < c.first / 160 + s.la.kwWindow → q78 (s.la.fld F.KW_CFG_thresh) ≤ q78 score →
      s.la.spoolPairs = 0 → s.la.fifo.length < 16 → s.la.sdio.io2 = true → s.mn.sleepState = 0 → s.rc.latchMode = false →
      s.mn.fld F.HINGE_CTL_assist = 0 →
      ∃ t, exec (.wakeFrame pairs g0 g1 voice [(score, rep)]) s = .next t ∧ t = { s with la := t.la, mn := { s.mn with regs := t.mn.regs } }
        ∧ s.mn.RegsBut t.mn [F.HINGE_NOW_in_force.off] ∧ t.la.cand = none ∧ t.la.prevLast = some (c.next * 160 + 159)
        ∧ t.la.fifo = s.la.fifo ++ [{ cand := c.number, first := max c.first rep, last := c.next * 160 + 159, score1 := score % 2 ^ 16
                                      state := 0, outcome := 0, wflags := 8 * b2n (s.la.bit F.WAKE_STATUS_spool_overflow) }])

/-- How candidates end (R334, R336 to R338): a window without a pass; a score against the threshold, which in S2 to S4 wakes the part and
drives WAKE#, or rejects; a spent budget; a bad granule. The verifier image is copied, tailed and validated. -/
def Obligations.CandidatesAreDecided : Prop :=
  (∀ (s : State) (c : Cand), s.rc.latchHeld = false → s.la.cand = some c → c.st = .stage1 → c.first / 160 + s.la.kwWindow ≤ c.next →
      OnLatch .kwWindowExpiry s fun a =>
        a = { s.la with cand := none, w0On := false, spool := none, kwReject := satAdd 48 s.la.kwReject 1 })
  ∧ (∀ (s : State) (c : Cand) (w : Word) (q : Nat), s.rc.latchHeld = false → s.la.cand = some c → c.st = .stage2 → s.la.w0On = true →
      s.la.wake.next ≤ s.la.budgetEnd c → s.rc.pgs.contains 1 = true → scoreQ78 w = some q →
      q78 q < q78 (s.la.fld F.VERIFY_CFG_thresh) → s.la.fifo.length < 16 → 2 ≤ s.mn.sleepState →
      exec (.verifyScore w) s = .next { s with
        free := s.free + 1, la := s.la.ended c 1 q 0
        rc := if 3 ≤ s.mn.sleepState then { s.rc with enables := s.rc.enables.filter (· != 1), pgs := s.rc.pgs.filter (· != 1) } else s.rc })
  ∧ (∀ (s : State) (c : Cand) (w : Word) (q : Nat), s.rc.latchHeld = false → s.la.cand = some c → c.st = .stage2 → s.la.w0On = true →
      s.la.wake.next ≤ s.la.budgetEnd c → s.rc.pgs.contains 1 = true → scoreQ78 w = some q →
      q78 (s.la.fld F.VERIFY_CFG_thresh) ≤ q78 q → s.la.fifo.length < 16 → s.mn.sleepState = 2 → s.mn.sleepBusy = false →
      s.rc.wardenHeld = false → s.mn.wakeEnabled 6 = true →
      ∃ t, exec (.verifyScore w) s = .next t ∧ t = { s with free := s.free + 1, la := t.la, mn := { s.mn with regs := t.mn.regs } }
        ∧ t.la = { s.la.ended c 0 q 0 with wakePin := true } ∧ t.mn.sleepBusy = true
        ∧ t.mn.fld F.LAST_WAKE_source = 6 ∧ t.mn.fld F.LAST_WAKE_from_state = 2
        ∧ s.mn.RegsBut t.mn [F.LAST_WAKE_source.off, F.SLEEP_STATUS_busy.off])
  ∧ (∀ (s : State) (c : Cand), s.rc.latchHeld = false → s.la.cand = some c → c.st = .stage2 → s.la.budgetEnd c ≤ s.la.wake.next →
      s.la.fifo.length < 16 → s.mn.sleepState = 2 → exec .verifyBudgetExpiry s = .next { s with la := s.la.ended c 4 0x8000 0 })
  ∧ (∀ (s : State) (c : Cand), s.rc.latchHeld = false → s.la.cand = some c → c.st = .stage2 → s.la.fifo.length < 16 →
      s.mn.sleepState = 2 →
      exec .verifierGranuleFail s = .next { s with la := (s.la.setFld F.WAKE_STATUS_image_bad 1).ended c 5 0x8000 0 })
  ∧ (∀ (s : State) (aux : ContainerAux) (b n src : Nat) (bs : List Byte), s.HostUp → b = s.la.fld F.VERIFY_BASE_base * 0x10000 →
      n = s.la.fld F.VERIFY_BASE_length * 0x10000 → 0 < n → s.la.psramOk b n = true →
      src = (s.la.word 0xa030).toNat / 4096 * 4096 + (s.la.word 0xa034).toNat * 2 ^ 32 → bs = s.mn.host.rdN (hostKey 0 src) n →
      OnLatch (.verifyLoad aux false) s fun a =>
        a = { s.la with psram := a.psram, regs := a.regs } ∧ s.la.RegsBut a [F.WAKE_STATUS_image_bad.off]
          ∧ a.fld F.WAKE_STATUS_image_bad = b2n (!s.verifierOk bs aux) ∧ a.psram.rdN b n = bs
          ∧ a.psram.rdN (b + n) (n / 1024) = (List.range (n / 4096)).flatMap fun g => leBytes 4 (crc32c ((bs.drop (4096 * g)).take 4096)))

/-- Streams (R341, R343, R475, R476): a ring starts, a full block is written to it, a stop writes the partial block; records are copied to
the wake ring once it runs; function 2 starts and stops its stream, and its reads take the oldest record or block. -/
def Obligations.StreamsDeliver : Prop :=
  (∀ (s : State) (r : ARing) (v : Word), s.HostUp → r ≠ .wake → v.getLsbD 0 = true → s.la.sdio.stream.running = false → s.la.spool = none →
      OnLatch (.streamStart r v) s fun a => a = s.la.setStream r { s.la.streamOf r with running := true })
  ∧ (∀ (s : State) (v : Word) (x : WakeRec), s.HostUp → v.getLsbD 0 = true → s.la.fifo = [x] → s.rc.linkUp = true → s.la.sdio.io2 = false →
      s.la.bit F.WAKE_CFG_irq = false → ringFull (s.la.ring 0).2 s.la.wakeRing.head (s.la.fld (F.ARING_IDX_tail 0)) = false →
      ∃ t, exec (.streamStart .wake v) s = .next t ∧ t = { s with la := t.la, mn := { s.mn with host := t.mn.host } }
        ∧ t.la = { s.la with regs := t.la.regs, fifo := [], wakeRing := ringNext (s.la.ring 0).2 s.la.wakeRing }
        ∧ s.la.RegsBut t.la [(F.ARING_CTL_running 0).off] ∧ t.la.fld (F.ARING_CTL_running 0) = 1
        ∧ t.mn.host.rdN (hostKey 0 ((s.la.ring 0).1 + s.la.wakeRing.head * 32)) 32 = recordOf x s.la.wakeRing.phase
        ∧ s.mn.host.But t.mn.host (hostKey 0 ((s.la.ring 0).1 + s.la.wakeRing.head * 32)) 32)
  ∧ (∀ (s : State) (r : ARing) (b : ABlock) (q : List ABlock) (at_ : Nat), s.rc.latchHeld = false → s.ringDma = true → r ≠ .wake →
      (s.la.streamOf r).full = b :: q → s.la.spool = none → at_ = hostKey 0 ((s.la.ring (ringNo r)).1 + (s.la.streamOf r).ring.head * 4096) →
      ringFull (s.la.ring (ringNo r)).2 (s.la.streamOf r).ring.head (s.la.fld (F.ARING_IDX_tail (ringNo r))) = false →
      b.sets.length * (s.la.streamKind r).1 ≤ 1008 → (∀ x ∈ b.sets, x.length = (s.la.streamKind r).1) →
      ∃ t, exec (.audioBlockFull r) s = .next t ∧ t = { s with la := t.la, mn := { s.mn with host := t.mn.host } }
        ∧ t.la = s.la.setStream r { s.la.streamOf r with full := q, ring := ringNext (s.la.ring (ringNo r)).2 (s.la.streamOf r).ring }
        ∧ t.mn.host.rdN at_ 4096 = blockBytes (s.la.streamKind r).1 (s.la.streamKind r).2 (s.la.streamOf r).ring.phase b
        ∧ s.mn.host.But t.mn.host at_ 4096)
  ∧ (∀ (s : State) (r : ARing) (v : Word) (b : ABlock) (at_ : Nat), s.HostUp → v.getLsbD 1 = true → r ≠ .wake →
      (s.la.streamOf r).running = true → (s.la.streamOf r).full = [] → (s.la.streamOf r).part = some b → s.la.spool = none →
      at_ = hostKey 0 ((s.la.ring (ringNo r)).1 + (s.la.streamOf r).ring.head * 4096) →
      ringFull (s.la.ring (ringNo r)).2 (s.la.streamOf r).ring.head (s.la.fld (F.ARING_IDX_tail (ringNo r))) = false →
      b.sets.length * (s.la.streamKind r).1 ≤ 1008 → (∀ x ∈ b.sets, x.length = (s.la.streamKind r).1) →
      ∃ t, exec (.streamStop r v) s = .next t ∧ t = { s with la := t.la, mn := { s.mn with host := t.mn.host } }
        ∧ t.la = s.la.setStream r { s.la.streamOf r with
            running := false, part := none, ring := ringNext (s.la.ring (ringNo r)).2 (s.la.streamOf r).ring }
        ∧ t.mn.host.rdN at_ 4096 = blockBytes (s.la.streamKind r).1 (s.la.streamKind r).2 (s.la.streamOf r).ring.phase b
        ∧ s.mn.host.But t.mn.host at_ 4096)
  ∧ (∀ (s : State) (v : Word), s.HostUp → v.getLsbD 1 = true →
      OnLatch (.streamStop .wake v) s fun a => a = { s.la with regs := a.regs } ∧ s.la.RegsBut a [(F.ARING_CTL_running 0).off]
        ∧ a.fld (F.ARING_CTL_running 0) = 0)
  ∧ (∀ (s : State), s.CardUp → s.la.stream.running = false → s.la.spool = none →
      OnLatch .f2Start s fun a => a = { s.la with sdio := { s.la.sdio with stream := { s.la.sdio.stream with running := true } } })
  ∧ (∀ (s : State), s.CardUp → s.la.stream.running = true →
      OnLatch .f2Start s fun a => a = { s.la with sdio := { s.la.sdio with refused := true } })
  ∧ (∀ (s : State), s.CardUp → s.la.sdio.stream.running = true →
      OnLatch .f2Stop s fun a => a = { s.la with sdio := { s.la.sdio with
        stream := { s.la.sdio.stream with running := false, part := none, full := s.la.sdio.stream.full ++ s.la.sdio.stream.part.toList }
        int2 := if s.la.sdio.stream.part.isSome then s.la.sdio.int2 ||| 2 else s.la.sdio.int2 } })
  ∧ (∀ (s : State) (x : WakeRec) (q : List WakeRec), s.CardUp → s.la.fifo = x :: q →
      exec .f2RecordRead s = .next { s with la := { s.la with fifo := q }, mn := { s.mn with resp := recordOf x false } })
  ∧ (∀ (s : State) (b : ABlock) (q : List ABlock), s.CardUp → s.la.sdio.stream.full = b :: q → s.la.spool = none →
      exec .f2AudioRead s = .next { s with
        la := { s.la with sdio := { s.la.sdio with stream := { s.la.sdio.stream with full := q } } }
        mn := { s.mn with resp := blockBytes 2 0 false b } })

/-- Frames (R351 to R355, R357, R362, R363): a frame start takes the sensor's registers, its owner and the run that waits; a line inside the
window is cropped, and one whose CRC failed takes the row two above; a frame end hands the frame to the run that claimed it, or counts
it unclaimed, with its statistics record; a timeout ends it short. -/
def Obligations.FramesAreTaken : Prop :=
  (∀ (s : State) (port : Fin 4) (vc : Fin 16) (sn : Nat) (x : CamSensor) (w : Option (Nat × Nat × Nat)), s.wardenUp = true →
      s.mn.camSensorAt port.val vc.val = some sn → s.mn.sensor sn = x → x.inFrame = false → x.out = none → w = x.waiting.filter s.mn.runLive →
      OnWarden (.csiFrameStart port vc) s fun n => n = { s.mn with absent := n.absent, cam := { s.mn.cam with sensors := n.cam.sensors, i3c := n.cam.i3c } }
        ∧ n.sensor sn = { x with
            frame := (x.frame + 1) % 2 ^ 48, cfg := s.mn.camWords sn, owner := s.mn.fld (F.CAM_LS_OWNER_pasid sn), inFrame := true
            line := 0, rows := [], bad := false, long := false, ovf := false, emb := [], claim := w, waiting := none }
        ∧ (∀ j, j ≠ sn → n.sensor j = s.mn.sensor j)
        ∧ ∀ c < 4, n.i3c c = { s.mn.i3c c with
            cmds := (s.mn.i3c c).cmds.map fun e => if bitsOf e.word 23 20 = sn then { e with freed := true } else e })
  ∧ (∀ (s : State) (port : Fin 4) (vc : Fin 16) (sn dt : Nat) (x : CamSensor) (c : List Nat) (bs : List Byte) (ok : Bool), s.wardenUp = true →
      s.mn.camSensorAt port.val vc.val = some sn → s.mn.sensor sn = x → x.cfg = c → x.inFrame = true → x.ovf = false →
      typeDt (csType (s.mn.camWords sn)) = some dt → csY0 c ≤ x.line → x.line < csY0 c + csH c → 2 ≤ x.rows.length →
      OnWarden (.csiLongPacket port vc dt bs ok false) s fun n =>
        n = { s.mn with cam := { s.mn.cam with sensors := n.cam.sensors }, ctr := n.ctr, absent := n.absent }
          ∧ n.sensor sn = { x with
              line := x.line + 1, bad := x.bad || !ok
              rows := x.rows ++ [if ok then cropLine c (unpackLine (csType c) bs) else x.rows.getD (x.rows.length - 2) (zeroRow c)] }
          ∧ (∀ j, j ≠ sn → n.sensor j = s.mn.sensor j) ∧ s.mn.CountersBut n [(0x52, port.val)]
          ∧ n.counter 0x52 port.val = (if ok then s.mn.counter 0x52 port.val else satAdd 48 (s.mn.counter 0x52 port.val) 1))
  ∧ (∀ (s : State) (port : Fin 4) (vc : Fin 16) (sn at_ : Nat) (x : CamSensor) (c : List Nat) (header : List Byte), s.wardenUp = true →
      s.mn.camSensorAt port.val vc.val = some sn → s.mn.sensor sn = x → x.cfg = c → x.inFrame = true → x.claim = none →
      x.rows.length = csH c → csTnr c = false → s.mn.bit F.CAM_CTL_stats_en = true → s.mn.bit F.CAM_CTL_stats_irq = false →
      ringFull (ringOrder (s.mn.fld F.CAM_STATS_LO_order) 4 12 6) s.mn.cam.stats.head (s.mn.fld F.CAM_STATS_IDX_tail) = false →
      at_ = hostKey 0 (s.mn.pair 0xb020 0xb024 14 + s.mn.cam.stats.head * 16384) →
      header = camHeader x.frame sn (b2n x.bad + 4 * b2n x.long + 8 * b2n x.ovf + 128) (csH c) 0 (csOutW c) (csOutH c)
                 (x.emb.take 4096).length s.mn.cam.stats.head (b2n s.mn.cam.stats.phase) →
      OnWarden (.csiFrameEnd port vc []) s fun n =>
        n = { s.mn with cam := n.cam, host := n.host, ctr := n.ctr, absent := n.absent }
          ∧ n.sensor sn = { x with inFrame := false, rows := [], emb := [], ref := none } ∧ (∀ j, j ≠ sn → n.sensor j = s.mn.sensor j)
          ∧ n.cam.i3c = s.mn.cam.i3c ∧ n.cam.stats = ringNext (ringOrder (s.mn.fld F.CAM_STATS_LO_order) 4 12 6) s.mn.cam.stats
          ∧ n.host.rdN at_ 16384 = statsRecord c header x.rows (statPlanes c (frontStages c x.ref x.rows).1) (x.emb.take 4096)
          ∧ s.mn.host.But n.host at_ 16384 ∧ s.mn.CountersBut n [(0x54, sn)] ∧ n.counter 0x54 sn = satAdd 48 (s.mn.counter 0x54 sn) 1)
  ∧ (∀ (s : State) (port : Fin 4) (vc : Fin 16) (sn l st rd : Nat) (x : CamSensor) (c : List Nat) (header : List Byte), s.wardenUp = true →
      s.mn.camSensorAt port.val vc.val = some sn → s.mn.sensor sn = x → x.cfg = c → x.inFrame = true → x.claim = some (l, st, rd) →
      s.mn.runLive (l, st, rd) = true → x.rows.length = csH c → csTnr c = false → s.mn.bit F.CAM_CTL_stats_en = false →
      header = camHeader x.frame sn (b2n x.bad + 4 * b2n x.long + 8 * b2n x.ovf) (csH c) 0 (csOutW c) (csOutH c)
                 (x.emb.take 4096).length 0xFFFF (b2n s.mn.cam.stats.phase) →
      OnWarden (.csiFrameEnd port vc []) s fun n =>
        n = { s.mn with cam := { s.mn.cam with sensors := n.cam.sensors }, absent := n.absent }
          ∧ n.sensor sn = { x with
              inFrame := false, rows := [], emb := [], ref := none, claim := none
              out := some { lead := l, step := st, round := rd, header := header
                            lines := s.mn.outLines c (statPlanes c (frontStages c x.ref x.rows).1) } }
          ∧ (∀ j, j ≠ sn → n.sensor j = s.mn.sensor j))
  ∧ (∀ (s : State) (sn : Fin 16) (late : List Nat) (x : CamSensor), s.wardenUp = true → s.mn.sensor sn.val = x → x.inFrame = true →
      x.claim = none → s.mn.bit F.CAM_CTL_stats_en = false →
      OnWarden (.camFrameTimeout sn late) s fun n =>
        n = { s.mn with cam := { s.mn.cam with sensors := n.cam.sensors }, ctr := n.ctr, absent := n.absent }
          ∧ n.sensor sn.val = { x with inFrame := false, rows := [], emb := [], ref := none }
          ∧ (∀ j, j ≠ sn.val → n.sensor j = s.mn.sensor j) ∧ s.mn.CountersBut n [(0x54, sn.val)]
          ∧ n.counter 0x54 sn.val = satAdd 48 (s.mn.counter 0x54 sn.val) 1)
  ∧ (∀ (s : State) (sn : Fin 16) (x : CamSensor) (c : List Nat) (l st rd : Nat), s.wardenUp = true → s.mn.sensor sn.val = x →
      x.waiting = some (l, st, rd) → s.mn.runLive (l, st, rd) = true → c = s.mn.camWords sn.val →
      OnWarden (.camRecvTimeout sn) s fun n =>
        n = { s.mn with cam := { s.mn.cam with sensors := n.cam.sensors }, absent := n.absent }
          ∧ n.sensor sn.val = { x with waiting := none, out := some { lead := l, step := st, round := rd, absent := true
                                                                      header := camHeader x.frame sn.val 0x20 0 0 (csOutW c) (csOutH c) 0 0xFFFF 0 } }
          ∧ (∀ j, j ≠ sn.val → n.sensor j = s.mn.sensor j))

/-- Receivers and controllers (R351 to R353, R365, R366): header errors count; a sensor is enabled when its words may stand, else cfg_err
is set; commands queue and end; in-band interrupts and hot joins are recorded. -/
def Obligations.SensorsAndControllersAnswer : Prop :=
  (∀ (s : State) (port : Fin 4) (corrected : Bool) (id : Nat), s.wardenUp = true → id = (if corrected then 0x50 else 0x51) →
      OnWarden (.csiHeaderError port corrected) s fun n => n = { s.mn with ctr := n.ctr, absent := n.absent }
        ∧ s.mn.CountersBut n [(id, port.val)] ∧ n.counter id port.val = satAdd 48 (s.mn.counter id port.val) 1)
  ∧ (∀ (s : State) (sn : Fin 16) (v : Word) (off : Nat), s.HostUp → off = 0xb100 + 0x40 * sn.val → v.getLsbD 0 = true →
      s.mn.camMayEnable sn.val (v.toNat :: (s.mn.camWords sn.val).drop 1) = true →
      OnWarden (.camLsEnable sn v) s fun n =>
        n = { s.mn with cam := { s.mn.cam with sensors := n.cam.sensors }, regs := n.regs, absent := n.absent } ∧ s.mn.RegsBut n [off]
          ∧ n.word off = v ∧ (∀ j, j ≠ sn.val → n.sensor j = s.mn.sensor j)
          ∧ n.sensor sn.val = (if s.mn.bit (F.CAM_LS_SRC_enable sn.val) then s.mn.sensor sn.val
                               else { s.mn.sensor sn.val with frame := 0, ref := none, inFrame := false }))
  ∧ (∀ (s : State) (sn : Fin 16) (v : Word), s.HostUp → v.getLsbD 0 = true →
      s.mn.camMayEnable sn.val (v.toNat :: (s.mn.camWords sn.val).drop 1) = false →
      OnWarden (.camLsEnable sn v) s fun n => n = { s.mn with regs := n.regs, absent := n.absent } ∧ s.mn.RegsBut n [F.CAM_STATUS_cfg_err.off]
        ∧ n.fld F.CAM_STATUS_cfg_err = 1)
  ∧ (∀ (s : State) (p : Fin 4) (v : Word), s.HostUp → s.mn.bit (F.I3C_CTL_enable p.val) = true → (s.mn.i3c p.val).cmds.length < 8 →
      OnWarden (.i3cCmd p v) s fun n => n = { s.mn with cam := { s.mn.cam with i3c := n.cam.i3c }, absent := n.absent }
        ∧ n.i3c p.val = { s.mn.i3c p.val with cmds := (s.mn.i3c p.val).cmds ++ [{ word := v.toNat % 2 ^ 24 }] }
        ∧ ∀ c, c ≠ p.val → n.i3c c = s.mn.i3c c)
  ∧ (∀ (s : State) (p : Fin 4) (data : List Byte) (e : I3cEntry) (q : List I3cEntry) (k : Nat), s.wardenUp = true →
      (s.mn.i3c p.val).cmds = e :: q → s.mn.i3cHeld e = false → k = bitsOf e.word 15 8 →
      OnWarden (.i3cCmdDone p true data) s fun n => n = { s.mn with cam := { s.mn.cam with i3c := n.cam.i3c }, absent := n.absent }
        ∧ n.i3c p.val = (if bitsOf e.word 7 7 = 1 then { s.mn.i3c p.val with cmds := q, rx := ((s.mn.i3c p.val).rx ++ data.take k).take 64 }
                         else { s.mn.i3c p.val with cmds := q, tx := (s.mn.i3c p.val).tx.drop k })
        ∧ ∀ c, c ≠ p.val → n.i3c c = s.mn.i3c c)
  ∧ (∀ (s : State) (p : Fin 4) (data : List Byte) (e : I3cEntry) (q : List I3cEntry), s.wardenUp = true →
      (s.mn.i3c p.val).cmds = e :: q → s.mn.i3cHeld e = false →
      OnWarden (.i3cCmdDone p false data) s fun n =>
        n = { s.mn with cam := { s.mn.cam with i3c := n.cam.i3c }, regs := n.regs, absent := n.absent }
          ∧ n.i3c p.val = { s.mn.i3c p.val with cmds := [] } ∧ (∀ c, c ≠ p.val → n.i3c c = s.mn.i3c c)
          ∧ s.mn.RegsBut n [(F.I3C_STAT_err p.val).off] ∧ n.fld (F.I3C_STAT_err p.val) = 1)
  ∧ (∀ (s : State) (p : Fin 4) (a : Nat) (bs : List Byte), s.wardenUp = true → s.mn.bit (F.I3C_CTL_enable p.val) = true →
      OnWarden (.i3cIbi p a bs) s fun n =>
        n = { s.mn with cam := { s.mn.cam with i3c := n.cam.i3c }, regs := n.regs, absent := n.absent }
          ∧ n.i3c p.val = { s.mn.i3c p.val with ibi := bs.take 4 } ∧ (∀ c, c ≠ p.val → n.i3c c = s.mn.i3c c)
          ∧ s.mn.RegsBut n [0xbe10 + 0x40 * p.val, (F.I3C_STAT_ibi p.val).off] ∧ n.fld (F.I3C_STAT_ibi p.val) = 1
          ∧ n.word (0xbe10 + 0x40 * p.val) = BitVec.ofNat 32 (a % 128 + leNat ((bs.take 4).take 3) * 256))
  ∧ (∀ (s : State) (p : Fin 4), s.wardenUp = true → s.mn.bit (F.I3C_CTL_enable p.val) = true →
      OnWarden (.i3cHotJoin p) s fun n => n = { s.mn with regs := n.regs, absent := n.absent } ∧ s.mn.RegsBut n [(F.I3C_STAT_hot_join p.val).off]
        ∧ n.fld (F.I3C_STAT_hot_join p.val) = 1)

/-- Levels and heat (R290, R369, R373): the cap and THROTTLE_N; an island above its limit steps down a level, one that has cooled steps
up; at alert THERM_ALERT_N is driven and the flag set. -/
def Obligations.LevelsFollowCapAndHeat : Prop :=
  (∀ (s : State) (v : Word), s.HostUp → (∀ p ∈ s.mn.insts, p.2.kind = .plan) →
      OnWarden (.plevelCapWrite v) s fun n =>
        n = { s.mn with regs := n.regs, kr := if n.capNow = s.mn.capNow then s.mn.kr else { s.mn.kr with event := true } }
          ∧ s.mn.RegsBut n [0x3000] ∧ n.fld F.PLEVEL_CTL_cap = v.toNat % 8 ∧ n.fld F.PLEVEL_CTL_throttle_pin = s.mn.fld F.PLEVEL_CTL_throttle_pin)
  ∧ (∀ (s : State), s.rc.latchHeld = false → (∀ p ∈ s.mn.insts, p.2.kind = .plan) →
      OnWarden .throttleNAssert s fun n =>
        n = { s.mn with regs := n.regs, kr := if n.capNow = s.mn.capNow then s.mn.kr else { s.mn.kr with event := true } }
          ∧ s.mn.RegsBut n [0x3000] ∧ n.fld F.PLEVEL_CTL_throttle_pin = 1 ∧ n.fld F.PLEVEL_CTL_cap = s.mn.fld F.PLEVEL_CTL_cap
          ∧ n.capNow = max (levelOf (s.mn.fld F.PLEVEL_CTL_cap)) (levelOf (s.mn.fld F.PLEVEL_CTL_throttle_level)))
  ∧ (∀ (s : State), s.rc.latchHeld = false → (∀ p ∈ s.mn.insts, p.2.kind = .plan) →
      OnWarden .throttleNDeassert s fun n =>
        n = { s.mn with regs := n.regs, kr := if n.capNow = s.mn.capNow then s.mn.kr else { s.mn.kr with event := true } }
          ∧ s.mn.RegsBut n [0x3000] ∧ n.fld F.PLEVEL_CTL_throttle_pin = 0 ∧ n.fld F.PLEVEL_CTL_cap = s.mn.fld F.PLEVEL_CTL_cap
          ∧ n.capNow = levelOf (s.mn.fld F.PLEVEL_CTL_cap))
  ∧ (∀ (s : State) (i : Island) (t limit hyst : Int) (x : Therm), s.wardenUp = true → levelled i = true →
      x = s.mn.thermOf (islandCode i) → limit = s.mn.fld F.THERM_CTL_limit →
      hyst = (if s.mn.fld F.THERM_CTL_hyst = 0 then 5 else (s.mn.fld F.THERM_CTL_hyst : Int)) → s.mn.islandLane (islandCode i) = none →
      OnWarden (.thermalLevelStep i t) s fun n => n = { s.mn with therm := n.therm, absent := n.absent }
        ∧ n.thermOf (islandCode i) = { temp := t, lvl := if limit < t then min 5 (x.lvl + 1) else if t ≤ limit - hyst then x.lvl - 1 else x.lvl }
        ∧ ∀ j, j ≠ islandCode i → n.thermOf j = s.mn.thermOf j)
  ∧ (∀ (s : State) (i : Island) (t : Int), s.wardenUp = true → levelled i = true → (s.mn.islandLane (islandCode i)).isSome = true →
      (s.mn.fld F.THERM_CTL_limit : Int) < t →
      OnWarden (.thermalLevelStep i t) s fun n => n = { s.mn with therm := n.therm, regs := n.regs, absent := n.absent }
        ∧ s.mn.RegsBut n [F.THERM_STATUS_alert.off] ∧ n.fld F.THERM_STATUS_alert = 1
        ∧ (n.thermOf (islandCode i)).lvl = (s.mn.thermOf (islandCode i)).lvl)
  ∧ (∀ (s : State) (i : Island) (c : Int), s.rc.latchHeld = false → s.wardenUp = true → s.mn.sleepBusy = false → levelled i = true →
      (s.mn.fld F.THERM_CTL_alert : Int) ≤ c → s.mn.bit F.THERM_CTL_irq = false →
      ∃ t, exec (.thermalAlert i c) s = .next t
        ∧ t = { s with la := { s.la with alertPin := true }, mn := { s.mn with therm := t.mn.therm, regs := t.mn.regs } }
        ∧ s.mn.RegsBut t.mn [F.THERM_STATUS_alert.off] ∧ t.mn.fld F.THERM_STATUS_alert = 1 ∧ (t.mn.thermOf (islandCode i)).temp = c
        ∧ ∀ j, j ≠ islandCode i → t.mn.thermOf j = s.mn.thermOf j)

/-- Going to sleep (R375 to R382): a permitted go stops acceptance; one that asks what is not allowed, or that a running lane refuses, ends;
once nothing delays it the part is in the state asked for, its rails switched; a delay too long gives it up. -/
def Obligations.SleepIsEntered : Prop :=
  (∀ (s : State) (v : Word), s.HostUp → s.mn.sleepBusy = false → s.mn.wakeHeld = false → 1 ≤ v.toNat % 8 → v.toNat % 8 ≤ 4 →
      (v.toNat % 8 = 3 → s.mn.bit F.SLEEP_IMG_enable = true) → (∀ l < 4, (s.mn.lane l).st = .idle) → (∀ p ∈ s.mn.regions, p.2.st ≠ .loading) →
      OnWarden (.sleepGo v) s fun n => n = { s.mn with regs := n.regs, acceptStop := true } ∧ s.mn.RegsBut n [0x3004, F.SLEEP_STATUS_busy.off]
        ∧ n.fld F.SLEEP_CTL_target = v.toNat % 8 ∧ n.sleepBusy = true ∧ n.fld F.SLEEP_STATUS_result = 0 ∧ n.fld F.SLEEP_STATUS_blocker = 0)
  ∧ (∀ (s : State) (v : Word), s.HostUp → (v.toNat % 8 = 0 ∨ 4 < v.toNat % 8 ∨ v.toNat % 8 = 3 ∧ s.mn.bit F.SLEEP_IMG_enable = false) →
      OnWarden (.sleepGo v) s fun n => n = { s.mn with regs := n.regs } ∧ s.mn.RegsBut n [F.SLEEP_STATUS_result.off]
        ∧ n.fld F.SLEEP_STATUS_result = 5 ∧ n.sleepBusy = s.mn.sleepBusy)
  ∧ (∀ (s : State) (v : Word), s.HostUp → s.mn.sleepBusy = false → s.mn.wakeHeld = false → 1 ≤ v.toNat % 8 → v.toNat % 8 ≤ 2 → (s.mn.lane 0).st = .running →
      OnWarden (.sleepGo v) s fun n =>
        n = { s.mn with regs := n.regs, acceptStop := false, kr := { s.mn.kr with event := true } } ∧ n.sleepBusy = false
          ∧ n.fld F.SLEEP_STATUS_result = 2 ∧ n.fld F.SLEEP_STATUS_blocker = 0xA0)
  ∧ (∀ (s : State) (g : Nat), s.wardenUp = true → s.mn.sleepBusy = true → s.mn.sleepDelays s.rc.blkWard = [] →
      g = s.mn.fld F.SLEEP_CTL_target → g < 5 → (∀ p ∈ s.mn.ctxs, p.2.resident = false) → (∀ i < 16, (s.mn.sensor i).inFrame = false) →
      s.la.cand = none →
      ∃ t, exec .sleepEntryProceed s = .next t ∧ t = { s with mn := t.mn, la := t.la, rc := t.rc }
        ∧ t.mn = { s.mn with regs := t.mn.regs, cam := t.mn.cam, absent := t.mn.absent } ∧ s.mn.RegsBut t.mn [F.SLEEP_STATUS_state.off]
        ∧ t.mn.sleepState = g ∧ t.mn.sleepBusy = false ∧ t.mn.fld F.SLEEP_STATUS_result = 1 ∧ s.la.Redriven t.la
        ∧ t.rc = { s.rc with
            enables := railsIn g, pgs := railsIn g, retLost := false, imem := if 3 ≤ g then none else s.rc.imem
            ready := decide (g < 3) && s.rc.ready, linkUp := decide (g < 3) && s.rc.linkUp }
        ∧ ∀ i < 16, t.mn.sensor i = (if 2 ≤ g then { s.mn.sensor i with ref := none } else s.mn.sensor i))
  ∧ (∀ (s : State) (b : Nat) (bs : List Nat), s.wardenUp = true → s.mn.sleepBusy = true → s.mn.sleepDelays s.rc.blkWard = b :: bs →
      OnWarden .sleepEntryTimeout s fun n => n = { s.mn with regs := n.regs, acceptStop := false, kr := { s.mn.kr with event := true } }
        ∧ s.mn.RegsBut n [F.SLEEP_STATUS_busy.off] ∧ n.sleepBusy = false ∧ n.fld F.SLEEP_STATUS_result = 3
        ∧ n.fld F.SLEEP_STATUS_blocker = b % 256)

/-- Waking (R375 to R377, R383 to R386): a source abandons an entry, or begins a wake and is recorded, by the boot flow from S3 and S4; the
wake ends awake, after S2 with the retention banks alone kept, after S4 only once recovery completes; a lost retention supply is noted. -/
def Obligations.WakingIsRecorded : Prop :=
  (∀ (s : State) (src : Fin 8), s.rc.latchHeld = false → s.rc.wardenHeld = false → s.mn.wakeEnabled (src.val + 1) = true →
      s.mn.sleepState = 0 → s.mn.sleepBusy = true →
      OnWarden (.wakeSource src) s fun n => n = { s.mn with regs := n.regs, acceptStop := false, kr := { s.mn.kr with event := true } }
        ∧ s.mn.RegsBut n [F.LAST_WAKE_source.off, F.SLEEP_STATUS_busy.off] ∧ n.sleepBusy = false ∧ n.fld F.SLEEP_STATUS_result = 4
        ∧ n.fld F.LAST_WAKE_source = src.val + 1 ∧ n.fld F.LAST_WAKE_aborted = 1
        ∧ n.fld F.LAST_WAKE_count = s.mn.fld F.LAST_WAKE_count)
  ∧ (∀ (s : State) (src : Fin 8), s.rc.latchHeld = false → s.rc.wardenHeld = false → s.mn.wakeEnabled (src.val + 1) = true →
      (s.mn.sleepState = 2 ∨ s.mn.sleepState = 1 ∧ 2 ≤ src.val) → s.mn.sleepBusy = false →
      OnWarden (.wakeSource src) s fun n => n = { s.mn with regs := n.regs }
        ∧ s.mn.RegsBut n [F.LAST_WAKE_source.off, F.SLEEP_STATUS_busy.off] ∧ n.sleepBusy = true ∧ n.sleepState = s.mn.sleepState
        ∧ n.fld F.LAST_WAKE_source = src.val + 1 ∧ n.fld F.LAST_WAKE_from_state = s.mn.sleepState ∧ n.fld F.LAST_WAKE_aborted = 0
        ∧ n.fld F.LAST_WAKE_count = satAdd 8 (s.mn.fld F.LAST_WAKE_count) 1)
  ∧ (∀ (s : State) (src : Fin 8), s.rc.latchHeld = false → s.rc.wardenHeld = false → s.mn.wakeEnabled (src.val + 1) = true →
      3 ≤ s.mn.sleepState → s.mn.sleepState ≤ 4 → s.mn.sleepBusy = false →
      ∃ t, exec (.wakeSource src) s = .next t
        ∧ t = { s with mn := { s.mn with regs := t.mn.regs }, rc := { s.rc with wakeBoot := true, ready := false, fetching := false }, la := t.la }
        ∧ t.mn.fld F.BOOT_STATUS_stage = 1 ∧ t.mn.fld F.LAST_WAKE_source = src.val + 1 ∧ t.mn.sleepBusy = true
        ∧ t.mn.fld F.LAST_WAKE_from_state = s.mn.sleepState)
  ∧ (∀ (s : State) (bad : Bool), s.rc.latchHeld = false → s.rc.wardenHeld = false → s.mn.sleepState = 1 → s.mn.sleepBusy = true →
      s.la.w0On = false → s.la.fifo = [] → s.la.cand = none → s.mn.Quiet → (∀ i < 16, (s.mn.sensor i).inFrame = false) →
      ∃ t, exec (.wakeComplete bad) s = .next t ∧ t = { s with mn := t.mn, la := t.la, rc := t.rc }
        ∧ t.mn = { s.mn with regs := t.mn.regs, lz := t.mn.lz, acceptStop := false, kr := { s.mn.kr with event := true }, absent := t.mn.absent }
        ∧ t.mn.lz = { s.mn.lz with sent := s.mn.lz.sent ++ if s.mn.bit F.LANIZA_CTL_wake_fwd then [(0, .wake), (1, .wake)] else [] }
        ∧ t.mn.sleepState = 0 ∧ t.mn.sleepBusy = false ∧ s.mn.RegsBut t.mn [F.SLEEP_STATUS_state.off, F.HINGE_NOW_in_force.off]
        ∧ t.rc = { s.rc with enables := [0, 1, 2, 3, 4], pgs := [0, 1, 2, 3, 4], wakeBoot := false, retLost := false }
        ∧ t.la.wakePin = false ∧ Latch.Redriven { s.la with wakePin := false } t.la)
  ∧ (∀ (s : State) (bad : Bool), s.rc.latchHeld = false → s.rc.wardenHeld = false → s.mn.sleepState = 2 → s.mn.sleepBusy = true →
      s.rc.retLost = false → s.la.w0On = false → s.la.fifo = [] → s.la.cand = none → s.mn.Quiet →
      ∃ t, exec (.wakeComplete bad) s = .next t ∧ t.mn.sleepState = 0 ∧ t.mn.sleepBusy = false ∧ t.mn.acceptStop = false
        ∧ t.mn.kr = { s.mn.kr with event := true } ∧ t.mn.ctxs = s.mn.ctxs ∧ t.mn.stack = s.mn.stack ∧ t.mn.host = s.mn.host
        ∧ t.mn.ws = [] ∧ (∀ a, a % 0x200000 < 0x160000 → t.mn.sp.rd a = 0#8)
        ∧ (∀ a, 0x160000 ≤ a % 0x200000 → t.mn.sp.rd a = s.mn.sp.rd a) ∧ t.la.wakePin = false)
  ∧ (∀ (s : State) (bad : Bool), s.rc.latchHeld = false → s.rc.wardenHeld = false → s.mn.sleepState = 4 → s.mn.sleepBusy = true →
      s.rc.ready = true → s.la.w0On = false → s.la.fifo = [] → s.la.cand = none →
      ∃ t, exec (.wakeComplete bad) s = .next t ∧ t.mn.recoveryNeeded = true ∧ t.mn.wakeHeld = true ∧ t.mn.fld F.SLEEP_STATUS_state = 4
        ∧ t.mn.fld F.SLEEP_STATUS_busy = 1 ∧ t.mn.ctxs = [] ∧ t.mn.stack = [] ∧ t.mn.host = s.mn.host)
  ∧ (∀ (s : State), s.rc.latchHeld = false → s.mn.sleepState = 2 → OnReset .retentionSupplyLoss s fun r => r = { s.rc with retLost := true })

/-- What R416 forbids: a write that clears valid or changes the PASID of a slot with a bound context, that would give two valid slots one
PASID, or that enables a window whose limit lies below its base, and a bind of a context that is not FREE or to a slot that is not
valid, are ignored and set PROT_STATUS.cfg_err. -/
def Obligations.ForbiddenProtectionWritesAreIgnored : Prop :=
  (∀ (s : State) (v : Word), s.HostUp → (∃ p ∈ s.mn.ctxs, p.2.slot = some s.mn.tenantSlot) →
      (s.mn.tenantWritten.valid = true ∧ v.getLsbD 20 = false ∨ v.toNat % 2 ^ 20 ≠ s.mn.tenantWritten.pasid) →
      OnWarden (.protectionWrite 0x1014 v) s fun n => n = { s.mn with regs := n.regs, absent := n.absent } ∧ s.mn.RegsBut n [0x1004]
        ∧ n.fld F.PROT_STATUS_cfg_err = 1)
  ∧ (∀ (s : State) (v : Word), s.HostUp → v.getLsbD 20 = true →
      (∃ p ∈ s.mn.prot.written, p.1 ≠ s.mn.tenantSlot ∧ p.2.valid = true ∧ p.2.pasid = v.toNat % 2 ^ 20) →
      OnWarden (.protectionWrite 0x1014 v) s fun n => n = { s.mn with regs := n.regs, absent := n.absent } ∧ s.mn.RegsBut n [0x1004]
        ∧ n.fld F.PROT_STATUS_cfg_err = 1)
  ∧ (∀ (s : State) (v : Word) (c : Nat), s.HostUp → F.CTX_BIND_op.of v = 1 → c = F.CTX_BIND_context.of v → c < 3072 →
      ((s.mn.ctx c).state ≠ .free ∨ (Tab.get tenantDef s.mn.prot.written (F.CTX_BIND_slot.of v)).valid = false) →
      OnWarden (.ctxBindBind v) s fun n => n = { s.mn with regs := n.regs, absent := n.absent } ∧ s.mn.RegsBut n [0x1004]
        ∧ n.fld F.PROT_STATUS_cfg_err = 1)
  ∧ (∀ (s : State) (v : Word), s.HostUp → v.getLsbD 0 = true →
      s.mn.windowWritten.limit / 2 ^ 32 * 2 ^ 32 + v.toNat / 4096 * 4096 < s.mn.windowWritten.base →
      OnWarden (.protectionWrite 0x102c v) s fun n => n = { s.mn with regs := n.regs, absent := n.absent } ∧ s.mn.RegsBut n [0x1004]
        ∧ n.fld F.PROT_STATUS_cfg_err = 1)

/-- The set-up and confidential mode (R415, R416, R425, R431): a write that changes the set-up adds one to PROT_GEN and, with no ward
pending, is in force; one that R416 forbids sets cfg_err; a 1 sets lock, or confidential mode, and nothing there clears either. -/
def Obligations.ProtectionIsWritten : Prop :=
  (∀ (s : State) (v : Word), s.HostUp → v.getLsbD 0 = true →
      OnWarden (.confModeSet v) s fun n => n = { s.mn with regs := n.regs } ∧ s.mn.RegsBut n [0xd000] ∧ n.conf = true)
  ∧ (∀ (s : State) (v : Word), s.HostUp → v.getLsbD 0 = false → exec (.confModeSet v) s = .next s)
  ∧ (∀ (s : State), s.HostUp →
      OnWarden .protLock s fun n => n = { s.mn with regs := n.regs, absent := n.absent } ∧ s.mn.RegsBut n [0x1000]
        ∧ n.fld F.PROT_CTL_lock = 1 ∧ n.fld F.PROT_CTL_cxlmem_read = s.mn.fld F.PROT_CTL_cxlmem_read)
  ∧ (∀ (s : State) (off : Nat) (v : Word) (x : Tenant) (ts : Tab Tenant), s.HostUp → s.mn.Quiet → s.mn.insts = [] → s.mn.plans = [] →
      (s.mn.prot.written.map (·.1)).Nodup →
      x = s.mn.tenantAfter off v → x ≠ s.mn.tenantWritten → x.valid = true → s.mn.tenantRefused off v = false →
      ts = Tab.put tenantDef s.mn.tenantSlot x s.mn.prot.written →
      OnWarden (.protectionWrite off v) s fun n => n = { s.mn with prot := n.prot, regs := n.regs, absent := n.absent }
        ∧ n.prot = { s.mn.prot with written := ts, force := ts, gen := (s.mn.prot.gen + 1) % 2 ^ 32 }
        ∧ Tab.get tenantDef n.prot.written s.mn.tenantSlot = x ∧ s.mn.RegsBut n [F.HINGE_NOW_in_force.off]
        ∧ n.fld F.HINGE_NOW_in_force / 4 % 2 = s.mn.fld F.HINGE_CTL_assist / 4 % 2)
  ∧ (∀ (s : State) (off : Nat) (v : Word), s.HostUp → s.mn.tenantRefused off v = true →
      OnWarden (.protectionWrite off v) s fun n => n = { s.mn with regs := n.regs, absent := n.absent } ∧ s.mn.RegsBut n [0x1004]
        ∧ n.fld F.PROT_STATUS_cfg_err = 1)
  ∧ (∀ (s : State) (off : Nat) (v : Word), s.HostUp → s.mn.tenantRefused off v = false → s.mn.tenantAfter off v = s.mn.tenantWritten →
      OnWarden (.protectionWrite off v) s fun n => n = { s.mn with absent := n.absent })

/-- Attestation (R426, R427): a go samples the report at once, or waits while the set-up is pending or a sleep entry is under way; a go
while busy is ignored; the report of 1,024 bytes is the 512 sampled and the signature, and done is set. -/
def Obligations.ReportsAreAttested : Prop :=
  (∀ (s : State), s.HostUp → s.mn.attest = .none → s.mn.protPending = false → s.mn.sleepBusy = false →
      exec .attestGo s = .next { s with mn := { s.mn with attest := .sampled s.reportHead } })
  ∧ (∀ (s : State), s.HostUp → s.mn.attest = .none → (s.mn.protPending = true ∨ s.mn.sleepBusy = true) →
      exec .attestGo s = .next { s with mn := { s.mn with attest := .waiting } })
  ∧ (∀ (s : State), s.HostUp → s.mn.attest ≠ .none → exec .attestGo s = .next s)
  ∧ (∀ (s : State) (head : List Byte) (a : Nat), s.wardenUp = true → head.length = 512 → a = s.mn.pair 0xd014 0xd018 10 → a + 1024 ≤ 2 ^ 64 →
      (s.mn.attest = .sampled head ∨ s.mn.attest = .waiting ∧ s.mn.protPending = false ∧ s.mn.sleepBusy = false ∧ s.reportHead = head) →
      ∃ t, exec .attestDone s = .next t ∧ t = { s with mn := t.mn, free := s.free + 1 }
        ∧ t.mn = { s.mn with host := t.mn.host, regs := t.mn.regs, attest := .none } ∧ s.mn.RegsBut t.mn [F.ATTEST_CTL_done.off]
        ∧ t.mn.fld F.ATTEST_CTL_done = 1 ∧ s.mn.host.But t.mn.host (hostKey 0 a) 1024 ∧ t.mn.host.rdN (hostKey 0 a) 512 = head
        ∧ t.mn.host.rdN (hostKey 0 a + 512) 512 = (List.range 512).map fun i => (Config.attestSign s.free head).getD i 0#8)
  ∧ (∀ (s : State), (s.wardenUp = false ∨ s.mn.attest = .none ∨ s.mn.attest = .waiting ∧ (s.mn.protPending = true ∨ s.mn.sleepBusy = true)) →
      exec .attestDone s = .next s)

/-- Strikes (R447 to R454, R459): a source of strikes fires while armed, and its origin latches first; a disarmed or disabled one does
not; an island latches on the first marker that reaches it; the wave is over once every powered island has reported; the comparators and
STRIKE_OUT. -/
def Obligations.StrikesTakeACut : Prop :=
  (∀ (s : State), s.HostUp → s.mn.conf = false → s.mn.strk.armed = true → s.mn.absent.contains 0x90 = false →
      OnWarden .strikeFire s fun n => s.mn.FiredAt n 1 0x90)
  ∧ (∀ (s : State), s.HostUp → s.mn.conf = false → s.mn.strk.armed = false → s.mn.strikeJoins 0x90 = false →
      OnWarden .strikeFire s fun n => n = { s.mn with strk := { s.mn.strk with missed := satAdd 16 s.mn.strk.missed 1 } })
  ∧ (∀ (s : State), s.HostUp → s.mn.strikeOn 1 = false → exec .strikeFire s = .next s)
  ∧ (∀ (s : State), s.HostUp →
      OnWarden .strikeArm s fun n => n = { s.mn with
        absent := n.absent
        strk := if s.mn.strk.busy then s.mn.strk else { s.mn.strk with armed := true, complete := false, snaps := [], expect := [] } })
  ∧ (∀ (s : State) (us : Nat), s.wardenUp = true → 1 ≤ us → s.mn.strikeOn 2 = true → s.mn.strk.armed = true →
      s.mn.absent.contains 0x90 = false → OnWarden (.strikeInEdge us) s fun n => s.mn.FiredAt n 2 0x90)
  ∧ (∀ (s : State) (us : Nat), s.wardenUp = true → (us = 0 ∨ s.mn.strikeOn 2 = false) →
      OnWarden (.strikeInEdge us) s fun n => n = { s.mn with absent := n.absent })
  ∧ (∀ (s : State) (i : Fin 4) (id k : Nat), s.wardenUp = true → s.mn.strikeOn 4 = true → s.mn.strk.armed = true →
      s.mn.strk.compFired.contains i.val = false → id = (s.mn.word (0xc040 + 0x10 * i.val)).toNat % 256 →
      k = (s.mn.word (0xc040 + 0x10 * i.val)).toNat / 256 % 4096 → ctrGiven id k = true → 0 < s.mn.threshValue i.val →
      s.mn.threshValue i.val ≤ s.counter id k → s.mn.absent.contains (ctrIsland id k) = false → ctrIsland id k ≠ 0xB0 →
      OnWarden (.thresholdStrike i) s fun n =>
        Main.FiredAt { s.mn with strk := { s.mn.strk with compFired := i.val :: s.mn.strk.compFired } } n 4 (ctrIsland id k))
  ∧ (∀ (s : State) (isl : Island) (hop o src : Nat), s.wardenUp = true → islandCode isl ≠ 0xB0 → islandCode isl ∈ islandCodes →
      s.mn.strk.busy = true → (∃ p ∈ s.mn.strk.snaps, p.2.hop = hop) →
      (∀ p ∈ s.mn.strk.snaps, p.2.hop = hop → p.2.origin = o ∧ p.2.source = src) → s.mn.absent.contains (islandCode isl) = false →
      (∀ p ∈ s.mn.strk.snaps, p.1 ≠ islandCode isl) →
      OnWarden (.strikeMarker isl hop) s fun n => s.mn.LatchedAt n (islandCode isl)
        { flags := 1, hop := min (hop + 1) 255, origin := o, source := src, body := s.mn.snapBody (islandCode isl) s.mn.strk.fired
          ctrs := s.mn.islandCtrs (islandCode isl) })
  ∧ (∀ (s : State) (hop o src : Nat), s.wardenUp = true → s.mn.strk.busy = true → (∃ p ∈ s.mn.strk.snaps, p.2.hop = hop) →
      (∀ p ∈ s.mn.strk.snaps, p.2.hop = hop → p.2.origin = o ∧ p.2.source = src) → s.mn.absent.contains 0xB0 = false →
      (∀ p ∈ s.mn.strk.snaps, p.1 ≠ 0xB0) →
      ∃ t, exec (.strikeMarker .latch hop) s = .next t ∧ t = { s with mn := t.mn, la := t.la }
        ∧ s.mn.LatchedAt t.mn 0xB0 { flags := 1, hop := min (hop + 1) 255, origin := o, source := src, body := s.latchBody, ctrs := s.la.ctrs }
        ∧ t.la = (if s.mn.bit F.STRIKE_CTL_clear_on_strike then { s.la with vldBusy := 0, kwReject := 0, wakeDrop := 0 } else s.la))
  ∧ (∀ (s : State) (isl : Island) (k : Nat) (x : Snap) (rest : List Nat), s.wardenUp = true → s.mn.strk.busy = true →
      s.mn.strk.expect.contains (islandCode isl) = true → (islandCode isl, x) ∈ s.mn.strk.snaps → (s.mn.strk.snaps.map (·.1)).Nodup →
      rest = s.mn.strk.expect.filter (fun c => c ≠ islandCode isl && !s.mn.absent.contains c) → k < 2 ^ 128 →
      OnWarden (.strikeDoneBundle isl k) s fun n => n = { s.mn with strk := n.strk, absent := n.absent }
        ∧ n.strk = { s.mn.strk with expect := rest, busy := !rest.isEmpty, complete := rest.isEmpty, snaps := n.strk.snaps }
        ∧ Tab.get (fun _ => {}) n.strk.snaps (islandCode isl) = { x with inFlight := k }
        ∧ ∀ j, j ≠ islandCode isl → Tab.get (fun _ => {}) n.strk.snaps j = Tab.get (fun _ => {}) s.mn.strk.snaps j)
  ∧ (∀ (s : State), OnWarden .strikeOutPulseEnd s fun n => n = { s.mn with strk := { s.mn.strk with outHigh := false } })
  ∧ (∀ (s : State) (i : Fin 4) (v : Word), s.HostUp →
      OnWarden (.threshSelWrite i v) s fun n =>
        n = { s.mn with regs := n.regs, strk := { s.mn.strk with compFired := s.mn.strk.compFired.filter (· != i.val) }, absent := n.absent }
          ∧ s.mn.RegsBut n [0xc040 + 0x10 * i.val] ∧ n.word (0xc040 + 0x10 * i.val) = v &&& 0xfffff#32)

/-- The mirror and registers (R437, R462 to R465): the oldest record due goes to its place with its phase while the ring has room; a write
of a register that a table defines stores its fields by their access type, and any other is ignored; a read of a _LO register latches the
_HI half. -/
def Obligations.RecordsAndRegistersAreCopied : Prop :=
  (∀ (s : State) (k order i : Nat) (rest : List Nat) (bs : List Byte), s.wardenUp = true → s.mn.err.due = k :: rest →
      order = ringOrder (s.mn.fld F.ERR_RING_LO_order) 4 16 6 → i = k % 2 ^ order →
      ringFull order i (s.mn.fld F.ERR_RING_IDX_tail) = false → bs = Tab.get winDef s.mn.err.window (k % 64) → bs.length = 32 →
      s.mn.pair 0xe010 0xe014 12 + i * 32 + 32 ≤ 2 ^ 64 →
      OnWarden .errMirrorCopy s fun n => n = { s.mn with host := n.host, err := n.err, msgs := n.msgs, pba := n.pba, absent := n.absent }
        ∧ n.err = { s.mn.err with due := rest, head := (i + 1) % 2 ^ order }
        ∧ s.mn.host.But n.host (hostKey 0 (s.mn.pair 0xe010 0xe014 12 + i * 32)) 32
        ∧ n.host.rdN (hostKey 0 (s.mn.pair 0xe010 0xe014 12 + i * 32)) 31 = bs.take 31
        ∧ (n.host.rd (hostKey 0 (s.mn.pair 0xe010 0xe014 12 + i * 32) + 31)).toNat
            = leNat (bs.drop 31) % 128 + (if k / 2 ^ order % 2 = 0 then 128 else 0)
        ∧ (s.mn.masked (s.mn.fld F.ERR_CTL_vector) = false → n.pba = s.mn.pba ∧ n.msgs = s.mn.msgs
            ++ if s.mn.bit F.ERR_CTL_irq ∧ 2 ≤ leNat ((bs.drop 4).take 1) / 16 then [s.mn.fld F.ERR_CTL_vector] else []))
  ∧ (∀ (s : State), s.wardenUp = true →
      (s.mn.err.due = [] ∨ ∃ k ∈ s.mn.err.due.head?, ringFull (ringOrder (s.mn.fld F.ERR_RING_LO_order) 4 16 6)
        (k % 2 ^ ringOrder (s.mn.fld F.ERR_RING_LO_order) 4 16 6) (s.mn.fld F.ERR_RING_IDX_tail) = true) →
      OnWarden .errMirrorCopy s fun n => n = { s.mn with absent := n.absent })
  ∧ (∀ (s : State) (off : Nat) (v : Word) (d : RegDef), s.HostUp → off ∈ plainRegisters → regAt off = some d →
      OnWarden (.registerWrite off v 15) s fun n => n = { s.mn with regs := n.regs, absent := n.absent } ∧ s.mn.RegsBut n [off]
        ∧ n.word off = (s.mn.word off &&& ~~~BitVec.ofNat 32 d.rw) ||| (v &&& BitVec.ofNat 32 d.rw))
  ∧ (∀ (s : State) (off : Nat) (v : Word) (be : Fin 16), off < cardBase → (be.val ≠ 15 ∨ off % 4 ≠ 0 ∨ regAt off = none) →
      exec (.registerWrite off v be) s = .next s)
  ∧ (∀ (s : State), s.HostUp → s.wardenUp = true →
      OnWarden (.latchedLoRead 0x5004) s fun n => n = { s.mn with
        latched := (0x5008, BitVec.ofNat 32 (s.mn.kr.step / 2 ^ 32)) :: s.mn.latched.filter (fun p => p.1 != 0x5008)
        resp := leBytes 4 (BitVec.ofNat 32 s.mn.kr.step).toNat })
  ∧ (∀ (s : State), s.HostUp →
      ∃ t, exec (.latchedLoRead 0xa040) s = .next t
        ∧ t = { s with la := { s.la with hiLatch := some (BitVec.ofNat 32 (s.la.wake.next / 2 ^ 32 % 2 ^ 16)) }
                       mn := { s.mn with resp := leBytes 4 (BitVec.ofNat 32 s.la.wake.next).toNat } })
  ∧ (∀ (s : State) (off : Nat), s.HostUp → off < cardBase → hiOf off = none → (off < 0xbe00 ∨ 0xbf00 ≤ off) →
      OnWarden (.latchedLoRead off) s fun n => n = { s.mn with resp := leBytes 4 (s.readReg off).toNat })
  ∧ (∀ (s : State) (off : Nat), s.rc.barUp = false → off < cardBase → exec (.latchedLoRead off) s = .next s)

/-- The mailbox (R473, Table 22-7): every request is answered with its command, sequence number, a status and a payload, and F1_INT.reply
is set: 0 where it is done, 1 for an unknown command, 2 where its state refuses it, 3 for an offset it may not reach, 4 for a wrong length. -/
def Obligations.TheMailboxAnswers : Prop :=
  (∀ (s : State) (bytes req : List Byte), s.CardUp → req = mbxPad bytes → mbxCmd req = (1, 0) →
      OnLatch (.mbxStatus bytes) s fun a => a = { s.la with sdio := s.la.sdio.answered req 0 (s.statusWords.flatMap fun w => leBytes 4 w.toNat) })
  ∧ (∀ (s : State) (bytes req : List Byte) (c : Instr) (k : Nat), s.CardUp → req = mbxPad bytes →
      (c, k) ∈ [(Instr.mbxStatus bytes, 1), (.mbxMute bytes, 2), (.mbxRetry bytes, 3), (.mbxReadReg bytes, 4), (.mbxWriteReg bytes, 5)] →
      (mbxCmd req).1 = k → (mbxCmd req).2 ≠ [0, 0, 1, 0, 4, 8].getD k 0 →
      OnLatch c s fun a => a = { s.la with sdio := s.la.sdio.answered req 4 [] })
  ∧ (∀ (s : State) (bytes req : List Byte), s.CardUp → req = mbxPad bytes → mbxCmd req = (2, 1) → leNat (mbxPayload req) = 1 →
      s.la.cand = none → s.la.spool = none → s.la.w0On = false → s.la.fifo = [] →
      ∃ t, exec (.mbxMute bytes) s = .next t ∧ t = { s with la := t.la } ∧ t.la.hasp.mute = true
        ∧ t.la.sdio = s.la.sdio.answered req 0 (leBytes 4 t.la.hasp.status.toNat)
        ∧ Latch.Redriven { s.la with sdio := t.la.sdio } t.la)
  ∧ (∀ (s : State) (bytes req : List Byte), s.CardUp → req = mbxPad bytes → mbxCmd req = (2, 1) → leNat (mbxPayload req) = 0 →
      s.la.cand = none → s.la.spool = none → s.la.w0On = false → s.la.fifo = [] →
      ∃ t, exec (.mbxMute bytes) s = .next t ∧ t = { s with la := t.la } ∧ t.la.hasp.mute = (s.la.hasp.pin && s.la.hasp.mute)
        ∧ t.la.hasp.unmuteRefused = (s.la.hasp.unmuteRefused || s.la.hasp.pin)
        ∧ t.la.sdio = s.la.sdio.answered req (if s.la.hasp.pin then 2 else 0) (leBytes 4 t.la.hasp.status.toNat)
        ∧ Latch.Redriven { s.la with sdio := t.la.sdio } t.la)
  ∧ (∀ (s : State) (bytes req : List Byte), s.CardUp → req = mbxPad bytes → mbxCmd req = (3, 0) → s.rc.latchMode = false →
      OnLatch (.mbxRetry bytes) s fun a => a = { s.la with sdio := s.la.sdio.answered req 2 [] })
  ∧ (∀ (s : State) (bytes req : List Byte), s.CardUp → req = mbxPad bytes → mbxCmd req = (3, 0) → s.rc.latchMode = true →
      s.rc.phase = .run → s.rc.enables = [0, 1, 2, 3, 4] → s.rc.pgs = [0, 1, 2, 3, 4] →
      ∃ t, exec (.mbxRetry bytes) s = .next t ∧ t.rc.latchMode = false ∧ t.rc.phase = .stretch ∧ t.rc.cls = 1
        ∧ t.mn.fld F.RESET_CAUSE_cause = 5 ∧ { t.la.sdio with int1 := 0 } = { s.la.sdio.answered req 0 [] with int1 := 0 }
        ∧ t.la.sdio.int1 &&& 3 = (s.la.sdio.int1 ||| 2) &&& 3)
  ∧ (∀ (s : State) (bytes req : List Byte) (off : Nat), s.CardUp → req = mbxPad bytes → mbxCmd req = (4, 4) →
      off = leNat (mbxPayload req) → mbxMayRead off = true →
      OnLatch (.mbxReadReg bytes) s fun a => a = { s.la with
        hiLatch := if off = 0xa040 then some (BitVec.ofNat 32 (s.la.wake.next / 2 ^ 32 % 2 ^ 16)) else s.la.hiLatch
        sdio := s.la.sdio.answered req 0 (leBytes 4 (s.readReg off).toNat) })
  ∧ (∀ (s : State) (bytes req : List Byte), s.CardUp → req = mbxPad bytes → mbxCmd req = (4, 4) →
      mbxMayRead (leNat (mbxPayload req)) = false →
      OnLatch (.mbxReadReg bytes) s fun a => a = { s.la with sdio := s.la.sdio.answered req 3 [] })
  ∧ (∀ (s : State) (bytes req : List Byte), s.CardUp → req = mbxPad bytes → mbxCmd req = (5, 8) →
      mbxMayWrite (leNat ((mbxPayload req).take 4)) = false →
      OnLatch (.mbxWriteReg bytes) s fun a => a = { s.la with sdio := s.la.sdio.answered req 3 [] })
  ∧ (∀ (s : State) (bytes req : List Byte), s.CardUp → req = mbxPad bytes → mbxCmd req = (5, 8) →
      leNat ((mbxPayload req).take 4) = 0x3010 →
      ∃ t, exec (.mbxWriteReg bytes) s = .next t ∧ t = { s with mn := { s.mn with regs := t.mn.regs }, la := t.la } ∧ s.mn.RegsBut t.mn [0x3010]
        ∧ t.mn.fld F.WAKE_EN_enable = leNat ((mbxPayload req).drop 4) % 64
        ∧ t.la = { s.la with sdio := s.la.sdio.answered req 0 [] })
  ∧ (∀ (s : State) (bytes req : List Byte), s.CardUp → req = mbxPad bytes → ((mbxCmd req).1 = 0 ∨ 5 < (mbxCmd req).1) →
      OnLatch (.mbxUnknownCommand bytes) s fun a => a = { s.la with sdio := s.la.sdio.answered req 1 [] })
  ∧ (∀ (s : State) (bytes req : List Byte) (c : Instr) (k : Nat), req = mbxPad bytes →
      (c, k) ∈ [(Instr.mbxStatus bytes, 1), (.mbxMute bytes, 2), (.mbxRetry bytes, 3), (.mbxReadReg bytes, 4), (.mbxWriteReg bytes, 5)] →
      (mbxCmd req).1 ≠ k → exec c s = .next s)

/-- Images (R404, R411, R412, R474): BOOT_CTL.go begins a fetch; the SDIO load takes a count of granules, their bytes, or an abort; a source
that is complete is checked, and either shows the error of the first check that fails, or gives firmware and latch image, and firmware runs. -/
def Obligations.ImagesAreTaken : Prop :=
  (∀ (s : State), s.HostUp → s.awaitsImage = true → OnReset .bootCtlGo s fun r => r = { s.rc with fetching := true })
  ∧ (∀ (s : State), s.HostUp → s.awaitsImage = false → exec .bootCtlGo s = .next s)
  ∧ (∀ (s : State) (n : Nat), s.CardUp → s.awaitsImage = true → 1 ≤ n → n ≤ 2048 →
      ∃ t, exec (.fwlStart n) s = .next t ∧ t = { s with la := t.la } ∧ s.MarkedFwl t
        ∧ t.la = { s.la with sdio := { s.la.sdio with fwl := { granules := n }, int1 := t.la.sdio.int1 } })
  ∧ (∀ (s : State) (n : Nat), s.CardUp → (s.awaitsImage = false ∨ n = 0) → exec (.fwlStart n) s = .next s)
  ∧ (∀ (s : State) (bs data : List Byte) (n : Nat), s.CardUp → s.awaitsImage = true → n = s.la.sdio.fwl.granules → n ≠ 0 →
      s.la.sdio.fwl.done = false → data = (s.la.sdio.fwl.data ++ bs).take (n * 4096) →
      ∃ t, exec (.fwlData bs) s = .next t ∧ t = { s with la := t.la } ∧ s.MarkedFwl t
        ∧ t.la = { s.la with sdio := { s.la.sdio with
            fwl := { granules := n, data := data, done := decide (data.length = n * 4096) }, int1 := t.la.sdio.int1 } })
  ∧ (∀ (s : State), s.CardUp →
      ∃ t, exec .fwlAbort s = .next t ∧ t = { s with la := t.la } ∧ s.MarkedFwl t
        ∧ t.la = { s.la with sdio := { s.la.sdio with fwl := {}, int1 := t.la.sdio.int1 } })
  ∧ (∀ (s : State) (src : ImgSource) (bs : List Byte) (ws : Nat), s.awaitsImage = true → s.rc.untrained = [] → s.rc.logDue = false →
      s.mn.bit F.FW_CACHE_enable = false →
      (src = .sdio ∧ s.la.sdio.fwl.done = true ∧ bs = s.la.sdio.fwl.data.take (max 0x600 (imgNat s.la.sdio.fwl.data 0x14 4))
        ∨ src = .host ∧ s.rc.fetching = true ∧ bs = (s.mn.host.rdN (hostKey 0 (s.mn.pair 0x4024 0x4028 12))
            (min 2048 (s.mn.fld F.BOOT_CTL_granules) * 4096)).take (max 0x600 (imgNat (s.mn.host.rdN (hostKey 0 (s.mn.pair 0x4024 0x4028 12))
            (min 2048 (s.mn.fld F.BOOT_CTL_granules) * 4096)) 0x14 4))) →
      ws = imgNat bs 0xC 4 →
      ∃ t, exec (.bootImageReceived src) s = .next t ∧ t = { s with mn := { s.mn with regs := t.mn.regs }, la := t.la, rc := t.rc }
        ∧ s.mn.RegsBut t.mn [0x4, F.BOOT_STATUS_stage.off, F.SEC_CTL_raise_arm.off, F.HOST_STATUS_recovery_needed.off]
        ∧ t.la = { s.la with image := t.la.image, sdio := { s.la.sdio with fwl := {}, int1 := t.la.sdio.int1 } } ∧ s.MarkedFwl t
        ∧ (if imageCheck s.rc bs = 0 then
            t.rc = { s.rc with
                imem := some ((bs.drop 0x600).take ws), measure := sha512 ((bs.drop 0x600).take ws), fwVer := imgNat bs 8 4, reload := false
                fetching := false, ready := true, blown := t.rc.blown, revoked0 := t.rc.revoked0, revoked1 := t.rc.revoked1 }
              ∧ t.la.image = some ((bs.drop (0x600 + ws)).take (imgNat bs 0x10 4)) ∧ t.mn.fld F.BOOT_STATUS_stage = 3
              ∧ t.mn.fld F.BOOT_STATUS_error = 0 ∧ t.mn.fld F.BOOT_STATUS_source = sourceCode src ∧ t.mn.fld F.BOOT_STATUS_key_slot = imgNat bs 6 1
              ∧ t.mn.word 0x4 = BitVec.ofNat 32 (imgNat bs 8 4) ∧ (s.rc.wakeBoot = false → t.mn.fld F.HOST_STATUS_recovery_needed = 1)
              ∧ s.rc.blown ≤ t.rc.blown ∧ (s.mn.bit F.SEC_CTL_raise_arm = false →
                  t.rc.blown = s.rc.blown ∧ t.rc.revoked0 = s.rc.revoked0 ∧ t.rc.revoked1 = s.rc.revoked1)
          else t.rc = { s.rc with fetching := false } ∧ t.la.image = s.la.image ∧ t.mn.fld F.BOOT_STATUS_error = imageCheck s.rc bs
              ∧ t.mn.fld F.BOOT_STATUS_stage = 1))
  ∧ (∀ (s : State) (src : ImgSource), (s.awaitsImage = false ∨ src = .host ∧ s.rc.fetching = false
        ∨ src = .sdio ∧ s.la.sdio.fwl.done = false ∨ src = .psram ∧ s.rc.wakeBoot = false) →
      exec (.bootImageReceived src) s = .next s)

/-- RESET_N from outside (R391): 10 µs or longer is a warm reset, unless the part itself drives the pin; less than 1 µs nothing; between,
one of the two. -/
def Obligations.ResetPinIsTaken : Prop :=
  (∀ (s : State) (us : Nat), 10 ≤ us → s.rc.phase = .run → ∃ t, exec (.resetNAsserted us) s = .next t ∧ s.WarmReset t 3 0 false false)
  ∧ (∀ (s : State) (us : Nat), 10 ≤ us → s.rc.phase = .stretch → exec (.resetNAsserted us) s = .next s)
  ∧ (∀ (s : State) (us : Nat), us < 1 → exec (.resetNAsserted us) s = .next s)
  ∧ (∀ (s : State) (us : Nat), 1 ≤ us → us < 10 → s.rc.phase = .run →
      ∃ t, exec (.resetNAsserted us) s = .next t
        ∧ (t = { s with free := s.free + 1 } ∨ State.WarmReset { s with free := s.free + 1 } t 3 0 false false))

/-- Resets of warm class (R388, R389, R392, R396 to R398, R405): each source begins one, with its cause; one that comes while the reset is
stretched does not begin another. -/
def Obligations.WarmResetsKeepAndClear : Prop :=
  (∀ (s : State), s.fwRuns = true → s.rc.phase = .run → ∃ t, exec .watchdogExpiry s = .next t ∧ s.WarmReset t 4 0 false false)
  ∧ (∀ (s : State) (reload : Bool), s.HostUp → s.rc.phase = .run →
      ∃ t, exec (.resetCtlWarm reload false) s = .next t ∧ s.WarmReset t 5 0 false reload)
  ∧ (∀ (s : State) (reload : Bool), s.fwRuns = true → s.rc.phase = .run →
      ∃ t, exec (.resetCtlWarm reload true) s = .next t ∧ s.WarmReset t 5 0 true reload)
  ∧ (∀ (s : State), s.cfgUp = true → s.rc.phase = .run → ∃ t, exec .functionLevelReset s = .next t ∧ s.WarmReset t 5 0 false false)
  ∧ (∀ (s : State) (ev : LinkEvent), s.mn.sleepState < 3 → s.rc.phase = .run → (ev = .linkDown → s.rc.latchMode = false) →
      ∃ t, exec (.hostLinkReset ev) s = .next t ∧ s.WarmReset t 9 0 false false)
  ∧ (∀ (s : State) (ev : LinkEvent), s.rc.phase = .stretch → s.rc.cls = 1 → s.mn.sleepState < 3 → s.rc.latchMode = false →
      exec (.hostLinkReset ev) s = .next s)
  ∧ (∀ (s : State), s.mn.conf = false → s.rc.latchMode = false → s.rc.phase = .run →
      ∃ t, exec (.debugResetRequest false none) s = .next t ∧ s.WarmReset t 6 0 false false)
  ∧ (∀ (s : State), s.rc.wardenHeld = false → s.mn.sleepState = 0 → s.rc.phase = .run →
      (∃ t, exec (.clockFailure .warden) s = .next t ∧ s.WarmReset t 7 0x90 false false)
        ∧ (∃ t, exec (.clockFailure .sysRef) s = .next t ∧ s.WarmReset t 7 0xB1 false false)
        ∧ (∃ t, exec (.lockUp .warden) s = .next t ∧ s.WarmReset t 8 0x90 false false))
  ∧ (∀ (s : State) (k : Fin 2), s.islandUp (0xA0 + k.val) = true → s.rc.phase = .run →
      ∃ t, exec (.clockFailure (.mc k)) s = .next t ∧ s.WarmReset t 7 (0xA0 + k.val) false false)

/-- Power-up (R388, R390, R481): power-on and brown-out reset everything; rails are enabled in order, each once those before it are good; an
input not good in time switches them off, and after the wait power-up starts again. -/
def Obligations.RailsComeUpInOrder : Prop :=
  (∀ (s : State) (head : Bool), ∃ t, exec (.powerOn head) s = .next t ∧ s.PoweredUp t 1 head)
  ∧ (∀ (s : State) (sup : Supply), (sup = .alwaysOn ∨ s.rc.enables.contains 0 = true ∧ s.rc.pgs.contains 0 = true) →
      ∃ t, exec (.brownOut sup) s = .next t ∧ s.PoweredUp t 2 s.rc.chainHead)
  ∧ (∀ (s : State), (s.rc.enables.contains 0 = false ∨ s.rc.pgs.contains 0 = false) → exec (.brownOut .core) s = .next s)
  ∧ (∀ (s : State) (r : Fin 8), r.val < 5 → s.rc.phase = .rails → s.rc.enables.contains r.val = true → s.rc.pgs.contains r.val = false →
      OnReset (.railPowerGood r) s fun x =>
        x = { s.rc with pgs := r.val :: s.rc.pgs, enables := x.enables
                        phase := if ([0, 1, 2, 3, 4].all (r.val :: s.rc.pgs).contains) then .stretch else .rails }
          ∧ (∀ k < 5, x.enables.contains k = (s.rc.enables.contains k || decide (k = 2 ∨ k = 3) && [0, 1].all (r.val :: s.rc.pgs).contains
              || decide (k = 4) && [2, 3].all (r.val :: s.rc.pgs).contains)))
  ∧ (∀ (s : State) (r : Fin 8), (5 ≤ r.val ∨ s.rc.enables.contains r.val = false ∨ s.rc.pgs.contains r.val = true) →
      exec (.railPowerGood r) s = .next s)
  ∧ (∀ (s : State) (r : Fin 8), s.rc.phase = .rails → s.rc.enables.contains r.val = true → s.rc.pgs.contains r.val = false →
      OnReset (.railGoodTimeout r) s fun x => x = { s.rc with phase := .retryWait, enables := [], pgs := [] })
  ∧ (∀ (s : State), s.rc.phase = .retryWait →
      OnReset .railRetryWaitEnd s fun x => x = { s.rc with phase := .rails, enables := [0, 1], pgs := [] })

/-- Release (R392 to R394, R441): after the stretch blocks are released in the order of Table 18-3, each once its detectors have passed; a
ward whose clock does not come is held and fenced, a Warden or memory controller means Latch mode, the Latch island holds everything. -/
def Obligations.ReleaseFollowsTheClocks : Prop :=
  (∀ (s : State), s.rc.phase = .stretch → s.rc.latchDue = false → s.rc.latchMode = false → s.rc.good = [] →
      ∃ t, exec .stretchEnd s = .next t ∧ t = { s with mn := { s.mn with regs := t.mn.regs, absent := t.mn.absent }, la := t.la, rc := t.rc }
        ∧ s.mn.RegsBut t.mn [0x4004] ∧ t.mn.word 0x4004 = 0#32 ∧ s.la.Redriven t.la
        ∧ t.rc = { s.rc with phase := .release, wait := (if s.rc.cls = 1 then [] else [0xB0]) ++ [0xC0, 0x90, 0xA0, 0xA1]
                                                   ++ (List.range 16).map (0x80 + ·) })
  ∧ (∀ (s : State) (rest : List Nat), s.rc.phase = .release → s.rc.wait = 0xC0 :: rest → rest.contains 0xB0 = false → s.rc.good = [] →
      s.rc.fuseBad = false → rest.contains 0xC0 = false → rest.contains 0x90 = true →
      ∃ t, exec (.clockGood .fuse true) s = .next t ∧ t = { s with mn := { s.mn with absent := t.mn.absent }, la := t.la, rc := t.rc }
        ∧ s.la.Redriven t.la ∧ t.rc = { s.rc with wait := rest, good := [0xC0] })
  ∧ (∀ (s : State) (rest : List Nat), s.rc.phase = .release → s.rc.wait = 0x90 :: rest → rest ≠ [] →
      (∀ c ∈ rest, 0x80 ≤ c ∧ c < 0xA2 ∧ c ≠ 0x90) → s.rc.good = [] → s.rc.imem = none → s.rc.reload = false →
      ∃ t, exec (.clockGood .warden true) s = .next t ∧ s.MarkedFwl t
        ∧ t = { s with mn := { s.mn with regs := t.mn.regs, absent := t.mn.absent }, la := t.la, rc := t.rc }
        ∧ s.mn.RegsBut t.mn [F.BOOT_STATUS_stage.off] ∧ t.mn.fld F.BOOT_STATUS_stage = 1
        ∧ t.rc = { s.rc with wait := rest, good := [0x90], imem := none, fetching := false })
  ∧ (∀ (s : State) (w : Fin 16), s.rc.phase = .release → s.rc.wait = [0x80 + w.val] → s.rc.good.contains (0x80 + w.val) = false →
      (∀ i < 8, s.rc.good.contains (8 * w.val + i) = true) → s.mn.fld F.BOOT_STATUS_stage ≠ 3 → s.rc.perstDue = false → s.la.cand = none →
      s.rc.linkHeld = false → s.rc.latchMode = false →
      ∃ t, exec (.clockGood (.ward w) true) s = .next t
        ∧ t = { s with mn := { s.mn with regs := t.mn.regs, absent := t.mn.absent }, la := t.la, rc := t.rc }
        ∧ s.mn.RegsBut t.mn [F.RESET_CAUSE_held.off] ∧ t.mn.fld F.RESET_CAUSE_held = b2n (s.mn.word 0x4004 != 0#32) ∧ s.la.Redriven t.la
        ∧ t.rc = { s.rc with phase := .run, wait := [], good := (0x80 + w.val) :: s.rc.good })
  ∧ (∀ (s : State), s.rc.phase = .run → s.rc.linkHeld = true → s.rc.wait = [] → s.rc.blk = none →
      s.rc.good.contains 0xC1 = false →
      OnReset (.clockGood .hostLink true) s fun r => r = { s.rc with linkHeld := false, good := 0xC1 :: s.rc.good })
  ∧ (∀ (s : State) (isl : Island), s.rc.phase = .stretch → isl ≠ .fuse → (∀ k, isl ≠ .mc k) → s.rc.good.contains (clockCode isl) = false →
      OnReset (.clockGood isl true) s fun r => r = { s.rc with good := clockCode isl :: s.rc.good })
  ∧ (∀ (s : State) (w : Fin 16) (c : Nat) (rest : List Nat), s.rc.phase = .release → s.rc.wait = (0x80 + w.val) :: c :: rest →
      (∀ x ∈ c :: rest, 0x80 ≤ x ∧ x < 0x90 ∧ x ≠ 0x80 + w.val) → s.rc.good = [] → s.mn.Quiet → s.mn.insts = [] →
      (∀ l < 4, (s.mn.lane l).st = .idle ∧ (s.mn.lane l).saving = false) → s.mn.fencedWard w.val = false → s.la.cand = none →
      ∃ t, exec (.clockHoldTimeout (.ward w)) s = .next t
        ∧ t.mn.fld F.CLK_HELD_wards = (s.mn.fld F.CLK_HELD_wards ||| 2 ^ w.val) % 2 ^ 16 ∧ t.mn.fencedWard w.val = true
        ∧ t.mn.fence.clock = s.mn.fence.clock ||| 2 ^ w.val ∧ t.mn.err.next = nextIndex s.mn.err.next
        ∧ t.rc = { s.rc with wait := c :: rest } ∧ t.mn.host = s.mn.host ∧ t.mn.ctxs = s.mn.ctxs)
  ∧ (∀ (s : State), s.rc.phase = .release → s.rc.wait.contains 0xB0 = true → s.rc.good.contains 0xB0 = false →
      OnReset (.clockHoldTimeout .latch) s fun r => r = { s.rc with phase := .dead })
  ∧ (∀ (s : State), s.rc.phase = .release → s.rc.turn = [0x90] → s.rc.good.contains 0x90 = false → s.la.cand = none →
      s.rc.wait.contains 0xB0 = false →
      ∃ t, exec (.clockHoldTimeout .warden) s = .next t ∧ s.LatchEntered t 1 ∧ t.mn.fld F.CLK_HELD_warden = 1 ∧ t.mn.fld F.RESET_CAUSE_held = 1)
  ∧ (∀ (s : State), s.rc.linkHeld = false → s.mn.sleepState < 3 → s.la.fifo = [] →
      OnReset .hostLinkUp s fun r => r = { s.rc with linkUp := true })

/-- Block resets (R396, R397, R399 to R401): one asked for starts once no other runs; idle or not, its block is held and cleared and
BLOCK_RESET_LAST tells of it; it is released once its detectors pass, and logged. -/
def Obligations.BlocksAreReset : Prop :=
  (∀ (s : State) (v : Word), s.HostUp → v.getLsbD 8 = true → v.toNat % 256 < 0x90 → s.rc.phase = .run → s.rc.queue = [] → s.rc.blk = none →
      ∃ t, exec (.blockResetGo v) s = .next t ∧ t = { s with mn := { s.mn with regs := t.mn.regs }, rc := t.rc } ∧ s.mn.RegsBut t.mn [0x4008]
        ∧ t.rc = { s.rc with blk := some ({ isl := v.toNat % 256, cause := 5 }, .idleReq) })
  ∧ (∀ (s : State) (v : Word), s.HostUp → v.getLsbD 8 = false →
      OnWarden (.blockResetGo v) s fun n => n = { s.mn with regs := n.regs } ∧ s.mn.RegsBut n [0x4008])
  ∧ (∀ (s : State) (k : Fin 128), s.rc.phase = .run → s.rc.queue = [] → s.rc.blk = none → s.rc.latchMode = false → s.mn.sleepState = 0 →
      s.islandUp k.val = true →
      OnReset (.clockFailure (.cyl k)) s (fun r => r = { s.rc with blk := some ({ isl := k.val, cause := 7 }, .idleReq) })
        ∧ OnReset (.lockUp (.cyl k)) s (fun r => r = { s.rc with blk := some ({ isl := k.val, cause := 8 }, .idleReq) }))
  ∧ (∀ (s : State) (w : Fin 16), s.rc.phase = .run → s.rc.queue = [] → s.rc.blk = none → s.rc.latchMode = false → s.mn.sleepState = 0 →
      s.islandUp (0x80 + w.val) = true →
      OnReset (.clockFailure (.ward w)) s (fun r => r = { s.rc with blk := some ({ isl := 0x80 + w.val, cause := 7 }, .idleReq) })
        ∧ OnReset (.lockUp (.ward w)) s (fun r => r = { s.rc with blk := some ({ isl := 0x80 + w.val, cause := 8 }, .idleReq) }))
  ∧ (∀ (s : State) (x : Fin 144), s.rc.phase = .run → s.rc.queue = [] → s.rc.blk = none → s.rc.latchMode = false → s.mn.sleepState = 0 →
      s.mn.conf = false →
      OnReset (.debugResetRequest false (some x)) s fun r => r = { s.rc with blk := some ({ isl := x.val, cause := 6 }, .idleReq) })
  ∧ (∀ (s : State) (c : Instr) (late : Bool) (q : BlkReq), (c, late) ∈ [(Instr.blockIdle, false), (.blockIdleTimeout, true)] →
      s.rc.blk = some (q, .idleReq) → q.isl < 128 → q.cause < 16 → s.mn.Quiet → s.mn.insts = [] →
      (∀ l < 4, (s.mn.lane l).st = .idle ∧ (s.mn.lane l).saving = false) →
      ∃ t, exec c s = .next t ∧ t = { s with mn := t.mn, rc := t.rc }
        ∧ t.rc = { s.rc with blk := some (q, .held), good := s.rc.good.filter (· != q.isl) }
        ∧ t.mn.cyl q.isl = {} ∧ (∀ i < 4, t.mn.tum (4 * q.isl + i) = {}) ∧ (t.mn.ward (q.isl / 8)).loaded = none
        ∧ t.mn.fld F.BLOCK_LAST_island = q.isl ∧ t.mn.fld F.BLOCK_LAST_cause = q.cause ∧ t.mn.fld F.BLOCK_LAST_timed_out = b2n late
        ∧ t.mn.host = s.mn.host ∧ t.mn.sp = s.mn.sp ∧ t.mn.ctxs = s.mn.ctxs)
  ∧ (∀ (s : State) (q : BlkReq), s.rc.blk = some (q, .held) →
      OnReset .blockResetHoldEnd s fun r => r = { s.rc with blk := some (q, .waitClock) })
  ∧ (∀ (s : State) (k : Fin 128) (cause : Nat), s.rc.blk = some ({ isl := k.val, cause := cause }, .waitClock) → s.rc.phase = .run →
      s.rc.queue = [] → s.rc.linkHeld = false → s.rc.good.contains k.val = false → s.mn.strikeOn 3 = false →
      ∃ t, exec (.clockGood (.cyl k) true) s = .next t
        ∧ t = { s with mn := { s.mn with err := t.mn.err, absent := t.mn.absent }, rc := { s.rc with blk := none, good := k.val :: s.rc.good } }
        ∧ t.mn.err.next = nextIndex s.mn.err.next ∧ Tab.get winDef t.mn.err.window (s.mn.err.next % 64)
            = errBytes s.mn.err.next { code := 0x52, island := k.val, aux1 := (s.mn.word 0x400c).toNat })

/-- Latch mode and what is refused (R388, R395, R396, R440 to R443): it is entered when a run of resets is over its limit, and left by a
retry; a Latch reset clears the Latch island; held wards are forced, unless confidential mode forbids. -/
def Obligations.LatchModeAndForcing : Prop :=
  (∀ (s : State), s.rc.phase = .stretch → s.rc.latchDue = true → s.la.cand = none →
      ∃ t, exec .stretchEnd s = .next t ∧ s.LatchEntered t 5 ∧ t.rc.linkHeld = s.rc.linkHeld)
  ∧ (∀ (s : State) (viaSdio : Bool), s.rc.latchMode = true → s.rc.phase = .run → s.mn.sleepState = 0 → s.rc.latchHeld = false →
      s.rc.linkHeld = false → ∃ t, exec (.latchRetry viaSdio) s = .next t ∧ s.WarmReset t 5 0 false false)
  ∧ (∀ (s : State) (viaSdio : Bool), s.rc.latchMode = false → s.mn.sleepState = 0 → exec (.latchRetry viaSdio) s = .next s)
  ∧ (∀ (s : State), s.rc.phase = .run → s.rc.latchHeld = false →
      ∃ t, exec (.clockFailure .latch) s = .next t ∧ t = { s with mn := t.mn, la := t.la, rc := t.rc }
        ∧ t.mn.err = {} ∧ t.mn.host = s.mn.host ∧ t.mn.ctxs = [] ∧ t.mn.fld F.RESET_CAUSE_class = 2 ∧ t.mn.fld F.RESET_CAUSE_cause = 7
        ∧ t.mn.fld F.RESET_CAUSE_island = 0xB0 ∧ t.rc.cls = 2 ∧ t.rc.wait = [] ∧ t.rc.latchMode = s.rc.latchMode ∧ t.rc.logDue = false
        ∧ Latch.Redriven { s.la.cleared with sdio := t.la.sdio } t.la)
  ∧ (∀ (s : State) (mask : Word) (held go : Nat), s.HostUp → s.mn.conf = false → held = s.mn.fld F.CLK_HELD_wards →
      go = held &&& mask.toNat % 2 ^ 16 → go ≠ 0 →
      OnWarden (.resetForce mask) s fun n => n = { s.mn with regs := n.regs } ∧ s.mn.RegsBut n [0x4000, 0x4004]
        ∧ n.fld F.CLK_HELD_wards = held ^^^ go ∧ n.fld F.RESET_CAUSE_forced = 1)
  ∧ (∀ (s : State) (mask : Word), s.HostUp → s.mn.conf = true →
      OnWarden (.resetForce mask) s fun n => n = { s.mn with regs := n.regs } ∧ s.mn.RegsBut n [0x4018] ∧ n.fld F.RESET_FORCE_refused = 1)
  ∧ (∀ (s : State) (viaBar4 : Bool) (target : Option (Fin 144)), s.HostUp → s.mn.conf = true → s.mn.strikeOn 3 = false →
      OnWarden (.debugResetRequest viaBar4 target) s fun n => n = { s.mn with err := n.err, absent := n.absent }
        ∧ n.err.next = nextIndex s.mn.err.next
        ∧ Tab.get winDef n.err.window (s.mn.err.next % 64) = errBytes s.mn.err.next { code := 0x63, aux1 := b2n viaBar4 })
  ∧ (∀ (s : State) (c : Instr), c ∈ [Instr.clockFailure .fuse, .clockFailure .hostLink, .lockUp .latch, .lockUp .sysRef, .lockUp .fuse,
        .lockUp .hostLink] → exec c s = .next s)
end

