-- ==== Sys2Proof/Laws/Tab.lean ====
section
/-! SUPPORT. What a table and a memory answer after a write, and that every operation keeps their canonical form. -/

namespace Sys2Proof

variable {α : Type}

theorem Tab.get_del_same (d : Nat → α) (k : Nat) (t : Tab α) : Tab.get d (Tab.del k t) k = d k := by
  induction t with
  | nil => rfl
  | cons p t ih =>
    by_cases h : p.1 = k
    · simp [Tab.del, h, ih]
    · simp [Tab.del, Tab.get, h, ih]

theorem Tab.get_del_other (d : Nat → α) (j k : Nat) (t : Tab α) (h : j ≠ k) : Tab.get d (Tab.del k t) j = Tab.get d t j := by
  induction t with
  | nil => rfl
  | cons p t ih =>
    by_cases e : p.1 = k
    · have : p.1 ≠ j := by omega
      simp [Tab.del, Tab.get, e, ih]
      omega
    · simp [Tab.del, Tab.get, e, ih]

theorem Tab.get_ins_same (d : Nat → α) (k : Nat) (v : α) (t : Tab α) (h : ∀ p ∈ t, p.1 ≠ k) : Tab.get d (Tab.ins k v t) k = v := by
  induction t with
  | nil => simp [Tab.ins, Tab.get]
  | cons p t ih =>
    have hp : p.1 ≠ k := h p (by simp)
    by_cases e : k < p.1
    · simp [Tab.ins, e, Tab.get]
    · simp [Tab.ins, e, Tab.get, hp]
      exact ih fun q hq => h q (by simp [hq])

theorem Tab.get_ins_other (d : Nat → α) (j k : Nat) (v : α) (t : Tab α) (h : j ≠ k) : Tab.get d (Tab.ins k v t) j = Tab.get d t j := by
  induction t with
  | nil => simp [Tab.ins, Tab.get, Ne.symm h]
  | cons p t ih =>
    by_cases e : k < p.1
    · simp [Tab.ins, e, Tab.get, Ne.symm h]
    · simp [Tab.ins, e, Tab.get, ih]

theorem Tab.del_ne (k : Nat) (t : Tab α) : ∀ p ∈ Tab.del k t, p.1 ≠ k := by
  induction t with
  | nil => simp [Tab.del]
  | cons p t ih =>
    by_cases e : p.1 = k
    · simp only [Tab.del, e, if_true]; exact ih
    · intro q hq
      simp [Tab.del, e] at hq
      rcases hq with rfl | hq
      · exact e
      · exact ih q hq

/-- A read of what was written. -/
@[simp] theorem Tab.get_put_same [DecidableEq α] (d : Nat → α) (k : Nat) (v : α) (t : Tab α) :
    Tab.get d (Tab.put d k v t) k = v := by
  unfold Tab.put
  split
  · rename_i h; rw [Tab.get_del_same, h]
  · exact Tab.get_ins_same d k v _ (Tab.del_ne k t)

/-- A write leaves every other number alone. -/
theorem Tab.get_put_other [DecidableEq α] (d : Nat → α) (j k : Nat) (v : α) (t : Tab α) (h : j ≠ k) :
    Tab.get d (Tab.put d k v t) j = Tab.get d t j := by
  unfold Tab.put
  split
  · exact Tab.get_del_other d j k t h
  · rw [Tab.get_ins_other d j k v _ h, Tab.get_del_other d j k t h]

/-- The canonical form, by its head and its rest. -/
def Tab.Above (k : Nat) (t : Tab α) : Prop := ∀ p ∈ t, k < p.1

theorem Tab.wf_cons [DecidableEq α] (d : Nat → α) (p : Nat × α) (t : Tab α) :
    Tab.wf d (p :: t) = true ↔ p.2 ≠ d p.1 ∧ Tab.Above p.1 t ∧ Tab.wf d t = true := by
  induction t generalizing p with
  | nil => simp [Tab.wf, Tab.Above]
  | cons q t ih =>
    have := ih q
    simp only [Tab.wf, Bool.and_eq_true, decide_eq_true_eq, this, Tab.Above, List.mem_cons, forall_eq_or_imp]
    constructor
    · rintro ⟨⟨a, b⟩, c, e, f⟩
      exact ⟨a, ⟨b, fun x hx => Nat.lt_trans b (e x hx)⟩, c, e, f⟩
    · rintro ⟨a, ⟨b, _⟩, c, e, f⟩
      exact ⟨⟨a, b⟩, c, e, f⟩

theorem Tab.above_del (j k : Nat) (t : Tab α) (h : Tab.Above j t) : Tab.Above j (Tab.del k t) := by
  induction t with
  | nil => exact h
  | cons p t ih =>
    have ht : Tab.Above j t := fun q hq => h q (by simp [hq])
    by_cases e : p.1 = k
    · simp only [Tab.del, e, if_true]; exact ih ht
    · intro q hq
      simp [Tab.del, e] at hq
      rcases hq with rfl | hq
      · exact h _ (by simp)
      · exact ih ht q hq

theorem Tab.wf_del [DecidableEq α] (d : Nat → α) (k : Nat) (t : Tab α) (h : Tab.wf d t = true) : Tab.wf d (Tab.del k t) = true := by
  induction t with
  | nil => exact h
  | cons p t ih =>
    obtain ⟨a, b, c⟩ := (Tab.wf_cons d p t).1 h
    by_cases e : p.1 = k
    · simp only [Tab.del, e, if_true]; exact ih c
    · simp only [Tab.del, e, if_false]
      exact (Tab.wf_cons d p _).2 ⟨a, Tab.above_del _ _ _ b, ih c⟩

theorem Tab.above_ins (j k : Nat) (v : α) (t : Tab α) (h : Tab.Above j t) (hk : j < k) : Tab.Above j (Tab.ins k v t) := by
  induction t with
  | nil => intro p hp; simp [Tab.ins] at hp; subst hp; exact hk
  | cons p t ih =>
    have ht : Tab.Above j t := fun q hq => h q (by simp [hq])
    by_cases e : k < p.1
    · intro q hq
      simp [Tab.ins, e] at hq
      rcases hq with rfl | rfl | hq
      · exact hk
      · exact h _ (by simp)
      · exact ht q hq
    · intro q hq
      simp [Tab.ins, e] at hq
      rcases hq with rfl | hq
      · exact h _ (by simp)
      · exact ih ht q hq

theorem Tab.wf_ins [DecidableEq α] (d : Nat → α) (k : Nat) (v : α) (t : Tab α) (h : Tab.wf d t = true) (hv : v ≠ d k)
    (hk : ∀ p ∈ t, p.1 ≠ k) : Tab.wf d (Tab.ins k v t) = true := by
  induction t with
  | nil => simp [Tab.ins, Tab.wf, hv]
  | cons p t ih =>
    obtain ⟨a, b, c⟩ := (Tab.wf_cons d p t).1 h
    by_cases e : k < p.1
    · simp only [Tab.ins, e, if_true]
      refine (Tab.wf_cons d _ _).2 ⟨hv, ?_, h⟩
      intro q hq
      rcases List.mem_cons.1 hq with rfl | hq
      · exact e
      · exact Nat.lt_trans e (b q hq)
    · simp only [Tab.ins, e, if_false]
      have hp : p.1 ≠ k := hk p (by simp)
      refine (Tab.wf_cons d p _).2 ⟨a, Tab.above_ins _ _ _ _ b (by omega), ih c fun q hq => hk q (by simp [hq])⟩

/-- A write keeps the canonical form. -/
theorem Tab.wf_put [DecidableEq α] (d : Nat → α) (k : Nat) (v : α) (t : Tab α) (h : Tab.wf d t = true) :
    Tab.wf d (Tab.put d k v t) = true := by
  unfold Tab.put
  split
  · exact Tab.wf_del d k t h
  · rename_i hv; exact Tab.wf_ins d k v _ (Tab.wf_del d k t h) hv (Tab.del_ne k t)

theorem Tab.wf_filter [DecidableEq α] (d : Nat → α) (f : Nat × α → Bool) (t : Tab α) (h : Tab.wf d t = true) :
    Tab.wf d (t.filter f) = true := by
  induction t with
  | nil => exact h
  | cons p t ih =>
    obtain ⟨a, b, c⟩ := (Tab.wf_cons d p t).1 h
    by_cases e : f p = true
    · rw [List.filter_cons_of_pos e]
      exact (Tab.wf_cons d p _).2 ⟨a, fun q hq => b q (List.mem_filter.1 hq).1, ih c⟩
    · rw [List.filter_cons_of_neg e]; exact ih c

/-! ## Memories -/

@[simp] theorem Mem.rd_wr_same (a : Nat) (b : Byte) (m : Mem) : Mem.rd (Mem.wr a b m) a = b := Tab.get_put_same _ _ _ _

theorem Mem.rd_wr_other (a c : Nat) (b : Byte) (m : Mem) (h : c ≠ a) : Mem.rd (Mem.wr a b m) c = Mem.rd m c :=
  Tab.get_put_other _ _ _ _ _ h

/-- A write of several bytes leaves every byte outside them alone. -/
theorem Mem.rd_wrN_out (bs : List Byte) (a c : Nat) (m : Mem) (h : c < a ∨ a + bs.length ≤ c) :
    Mem.rd (Mem.wrN a bs m) c = Mem.rd m c := by
  induction bs generalizing a m with
  | nil => rfl
  | cons b bs ih =>
    simp only [List.length_cons] at h
    rw [Mem.wrN, ih (a + 1) _ (by omega), Mem.rd_wr_other _ _ _ _ (by omega)]

/-- A byte of a write of several reads back. -/
theorem Mem.rd_wrN_in (bs : List Byte) (a i : Nat) (m : Mem) (h : i < bs.length) :
    Mem.rd (Mem.wrN a bs m) (a + i) = bs.getD i 0#8 := by
  induction bs generalizing a i m with
  | nil => simp at h
  | cons b bs ih =>
    cases i with
    | zero => rw [Mem.wrN, Mem.rd_wrN_out _ _ _ _ (by omega)]; simp
    | succ i =>
      have := ih (a + 1) i (Mem.wr a b m) (by simpa using h)
      rw [Mem.wrN, show a + (i + 1) = a + 1 + i by omega, this]; simp

/-- A write of a byte keeps the canonical form. -/
theorem Mem.wf_wr (a : Nat) (b : Byte) (m : Mem) (h : Memory.wf m = true) : Memory.wf (Mem.wr a b m) = true := Tab.wf_put _ _ _ _ h

/-- A write of several bytes keeps it. -/
theorem Mem.wf_wrN (bs : List Byte) (a : Nat) (m : Mem) (h : Memory.wf m = true) : Memory.wf (Mem.wrN a bs m) = true := by
  induction bs generalizing a m with
  | nil => exact h
  | cons b bs ih => exact ih _ _ (Mem.wf_wr _ _ _ h)

/-- Zeroing a range keeps it. -/
theorem Mem.wf_zero (a n : Nat) (m : Mem) (h : Memory.wf m = true) : Memory.wf (Mem.zero a n m) = true := Tab.wf_filter _ _ _ h

end Sys2Proof
end

