-- ==== Sys2Proof/Laws/State.lean ====
section
/-! SUPPORT. One lemma for each field after each update, so that no proof unfolds a record update. -/

namespace Sys2Proof
open Machine

/-! ## The state -/

variable (s : State)

@[simp] theorem Machine.State.onMn_la (f : Main → Main) : (s.onMn f).la = s.la := rfl
@[simp] theorem Machine.State.onMn_rc (f : Main → Main) : (s.onMn f).rc = s.rc := rfl
@[simp] theorem Machine.State.onMn_free (f : Main → Main) : (s.onMn f).free = s.free := rfl
@[simp] theorem Machine.State.onMn_pending (f : Main → Main) : (s.onMn f).pending = s.pending := rfl
@[simp] theorem Machine.State.onMn_mn (f : Main → Main) : (s.onMn f).mn = f s.mn := rfl
@[simp] theorem Machine.State.onLa_mn (f : Latch → Latch) : (s.onLa f).mn = s.mn := rfl
@[simp] theorem Machine.State.onLa_rc (f : Latch → Latch) : (s.onLa f).rc = s.rc := rfl
@[simp] theorem Machine.State.onLa_free (f : Latch → Latch) : (s.onLa f).free = s.free := rfl
@[simp] theorem Machine.State.onLa_pending (f : Latch → Latch) : (s.onLa f).pending = s.pending := rfl
@[simp] theorem Machine.State.onLa_la (f : Latch → Latch) : (s.onLa f).la = f s.la := rfl
@[simp] theorem Machine.State.sync_la : s.sync.la = s.la := rfl
@[simp] theorem Machine.State.sync_rc : s.sync.rc = s.rc := rfl
@[simp] theorem Machine.State.sync_free : s.sync.free = s.free := rfl
@[simp] theorem Machine.State.sync_pending : s.sync.pending = s.pending := rfl
@[simp] theorem Machine.State.sync_mn : s.sync.mn = { s.mn with absent := s.absentNow } := rfl
@[simp] theorem Machine.State.redrive_mn : s.redrive.mn = s.mn := rfl
@[simp] theorem Machine.State.redrive_rc : s.redrive.rc = s.rc := rfl
@[simp] theorem Machine.State.redrive_free : s.redrive.free = s.free := rfl
@[simp] theorem Machine.State.redrive_pending : s.redrive.pending = s.pending := rfl
@[simp] theorem Machine.State.answer_la (bs : List Byte) : (s.answer bs).la = s.la := rfl
@[simp] theorem Machine.State.answer_rc (bs : List Byte) : (s.answer bs).rc = s.rc := rfl
@[simp] theorem Machine.State.answer_free (bs : List Byte) : (s.answer bs).free = s.free := rfl
@[simp] theorem Machine.State.answer_pending (bs : List Byte) : (s.answer bs).pending = s.pending := rfl

/-- An effect of the Warden's side while it is up. -/
theorem Machine.State.warden_up (f : Main → Main) (h : s.wardenUp = true) : s.warden f = (s.onMn f).sync := by
  simp [State.warden, h]

/-- Outside it nothing happens. -/
theorem Machine.State.warden_down (f : Main → Main) (h : s.wardenUp = false) : s.warden f = s := by
  simp [State.warden, h]

/-- A host access to the Warden's domain while BAR0 answers and the part is awake. -/
theorem Machine.State.hostWarden_up (f : Main → Main) (h : s.rc.barUp = true) (a : s.mn.sleepState = 0) :
    s.hostWarden f = (s.onMn f).sync := by
  simp [State.hostWarden, h, a]

/-- The same for an effect on the whole state. -/
theorem Machine.State.hostDo_up (f : State → State) (h : s.rc.barUp = true) (a : s.mn.sleepState = 0) : s.hostDo f = f s := by
  simp [State.hostDo, h, a]

/-- A host access to a register that the Latch island or the reset controller holds, awake. -/
theorem Machine.State.hostLatch_up (f : State → State) (h : s.rc.barUp = true) (a : s.mn.sleepState = 0) : s.hostLatch f = f s := by
  simp [State.hostLatch, h, a]

/-- An SDIO access while the Latch island runs, awake. -/
theorem Machine.State.viaSdio_up (f : State → State) (h : s.rc.latchHeld = false) (a : s.mn.sleepState = 0) : s.viaSdio f = f s := by
  simp [State.viaSdio, h, a]

@[simp] theorem Machine.State.markFwl_mn (f : State → State) : (s.markFwl f).mn = (f s).mn := by
  unfold State.markFwl; dsimp only; split <;> rfl

@[simp] theorem Machine.State.markFwl_rc (f : State → State) : (s.markFwl f).rc = (f s).rc := by
  unfold State.markFwl; dsimp only; split <;> rfl

@[simp] theorem Machine.State.markFwl_free (f : State → State) : (s.markFwl f).free = (f s).free := by
  unfold State.markFwl; dsimp only; split <;> rfl

@[simp] theorem Machine.State.markFwl_pending (f : State → State) : (s.markFwl f).pending = (f s).pending := by
  unfold State.markFwl; dsimp only; split <;> rfl

@[simp] theorem Machine.State.markFwl_hasp (f : State → State) : (s.markFwl f).la.hasp = (f s).la.hasp := by
  unfold State.markFwl; dsimp only; split <;> rfl

/-- Of the Latch island, only F1_INT changes with FWL_STATUS. -/
theorem Machine.State.markFwl_la (f : State → State) :
    (s.markFwl f).la = { (f s).la with sdio := { (f s).la.sdio with int1 := (s.markFwl f).la.sdio.int1 } } := by
  unfold State.markFwl; dsimp only; split <;> rfl

/-! ## The Warden's side -/

variable (m : Main)

@[simp] theorem Main.word_setWord_same (off : Nat) (w : Word) : (m.setWord off w).word off = w := Tab.get_put_same _ _ _ _

theorem Main.word_setWord_other (off o : Nat) (w : Word) (h : o ≠ off) : (m.setWord off w).word o = m.word o :=
  Tab.get_put_other _ _ _ _ _ h

theorem Main.fld_setWord_other (off : Nat) (w : Word) (f : Fld) (h : f.off ≠ off) : (m.setWord off w).fld f = m.fld f := by
  unfold Main.fld; rw [Main.word_setWord_other _ _ _ _ h]

theorem Main.fld_setFld_other (f g : Fld) (v : Nat) (h : g.off ≠ f.off) : (m.setFld f v).fld g = m.fld g :=
  Main.fld_setWord_other _ _ _ _ h

@[simp] theorem Main.setWord_host (off : Nat) (w : Word) : (m.setWord off w).host = m.host := rfl
@[simp] theorem Main.setFld_host (f : Fld) (v : Nat) : (m.setFld f v).host = m.host := rfl
@[simp] theorem Main.setWord_stack (off : Nat) (w : Word) : (m.setWord off w).stack = m.stack := rfl
@[simp] theorem Main.setFld_stack (f : Fld) (v : Nat) : (m.setFld f v).stack = m.stack := rfl
@[simp] theorem Main.setWord_sp (off : Nat) (w : Word) : (m.setWord off w).sp = m.sp := rfl
@[simp] theorem Main.setFld_sp (f : Fld) (v : Nat) : (m.setFld f v).sp = m.sp := rfl
@[simp] theorem Main.setWord_ws (off : Nat) (w : Word) : (m.setWord off w).ws = m.ws := rfl
@[simp] theorem Main.setFld_ws (f : Fld) (v : Nat) : (m.setFld f v).ws = m.ws := rfl
@[simp] theorem Main.setWord_msgs (off : Nat) (w : Word) : (m.setWord off w).msgs = m.msgs := rfl
@[simp] theorem Main.setFld_msgs (f : Fld) (v : Nat) : (m.setFld f v).msgs = m.msgs := rfl
@[simp] theorem Main.setWord_pba (off : Nat) (w : Word) : (m.setWord off w).pba = m.pba := rfl
@[simp] theorem Main.setFld_pba (f : Fld) (v : Nat) : (m.setFld f v).pba = m.pba := rfl
@[simp] theorem Main.setWord_ctr (off : Nat) (w : Word) : (m.setWord off w).ctr = m.ctr := rfl
@[simp] theorem Main.setFld_ctr (f : Fld) (v : Nat) : (m.setFld f v).ctr = m.ctr := rfl
@[simp] theorem Main.setWord_err (off : Nat) (w : Word) : (m.setWord off w).err = m.err := rfl
@[simp] theorem Main.setFld_err (f : Fld) (v : Nat) : (m.setFld f v).err = m.err := rfl
@[simp] theorem Main.setWord_strk (off : Nat) (w : Word) : (m.setWord off w).strk = m.strk := rfl
@[simp] theorem Main.setFld_strk (f : Fld) (v : Nat) : (m.setFld f v).strk = m.strk := rfl
@[simp] theorem Main.setWord_prot (off : Nat) (w : Word) : (m.setWord off w).prot = m.prot := rfl
@[simp] theorem Main.setFld_prot (f : Fld) (v : Nat) : (m.setFld f v).prot = m.prot := rfl
@[simp] theorem Main.setWord_hq (off : Nat) (w : Word) : (m.setWord off w).hq = m.hq := rfl
@[simp] theorem Main.setFld_hq (f : Fld) (v : Nat) : (m.setFld f v).hq = m.hq := rfl
@[simp] theorem Main.setWord_svc (off : Nat) (w : Word) : (m.setWord off w).svc = m.svc := rfl
@[simp] theorem Main.setFld_svc (f : Fld) (v : Nat) : (m.setFld f v).svc = m.svc := rfl
@[simp] theorem Main.setWord_fence (off : Nat) (w : Word) : (m.setWord off w).fence = m.fence := rfl
@[simp] theorem Main.setFld_fence (f : Fld) (v : Nat) : (m.setFld f v).fence = m.fence := rfl
@[simp] theorem Main.setWord_absent (off : Nat) (w : Word) : (m.setWord off w).absent = m.absent := rfl
@[simp] theorem Main.setFld_absent (f : Fld) (v : Nat) : (m.setFld f v).absent = m.absent := rfl
@[simp] theorem Main.setWord_acceptStop (off : Nat) (w : Word) : (m.setWord off w).acceptStop = m.acceptStop := rfl
@[simp] theorem Main.setFld_acceptStop (f : Fld) (v : Nat) : (m.setFld f v).acceptStop = m.acceptStop := rfl
@[simp] theorem Main.setWord_ctxs (off : Nat) (w : Word) : (m.setWord off w).ctxs = m.ctxs := rfl
@[simp] theorem Main.setFld_ctxs (f : Fld) (v : Nat) : (m.setFld f v).ctxs = m.ctxs := rfl
@[simp] theorem Main.setWord_kr (off : Nat) (w : Word) : (m.setWord off w).kr = m.kr := rfl
@[simp] theorem Main.setFld_kr (f : Fld) (v : Nat) : (m.setFld f v).kr = m.kr := rfl
@[simp] theorem Main.setWord_plans (off : Nat) (w : Word) : (m.setWord off w).plans = m.plans := rfl
@[simp] theorem Main.setFld_plans (f : Fld) (v : Nat) : (m.setFld f v).plans = m.plans := rfl
@[simp] theorem Main.setWord_bindSeq (off : Nat) (w : Word) : (m.setWord off w).bindSeq = m.bindSeq := rfl
@[simp] theorem Main.setFld_bindSeq (f : Fld) (v : Nat) : (m.setFld f v).bindSeq = m.bindSeq := rfl
@[simp] theorem Main.setWord_stamps (off : Nat) (w : Word) : (m.setWord off w).stamps = m.stamps := rfl
@[simp] theorem Main.setFld_stamps (f : Fld) (v : Nat) : (m.setFld f v).stamps = m.stamps := rfl
@[simp] theorem Main.setWord_regions (off : Nat) (w : Word) : (m.setWord off w).regions = m.regions := rfl
@[simp] theorem Main.setFld_regions (f : Fld) (v : Nat) : (m.setFld f v).regions = m.regions := rfl
@[simp] theorem Main.setWord_pages (off : Nat) (w : Word) : (m.setWord off w).pages = m.pages := rfl
@[simp] theorem Main.setFld_pages (f : Fld) (v : Nat) : (m.setFld f v).pages = m.pages := rfl
@[simp] theorem Main.setWord_freeOrder (off : Nat) (w : Word) : (m.setWord off w).freeOrder = m.freeOrder := rfl
@[simp] theorem Main.setFld_freeOrder (f : Fld) (v : Nat) : (m.setFld f v).freeOrder = m.freeOrder := rfl
@[simp] theorem Main.setWord_lastWriter (off : Nat) (w : Word) : (m.setWord off w).lastWriter = m.lastWriter := rfl
@[simp] theorem Main.setFld_lastWriter (f : Fld) (v : Nat) : (m.setFld f v).lastWriter = m.lastWriter := rfl
@[simp] theorem Main.setWord_scrubbed (off : Nat) (w : Word) : (m.setWord off w).scrubbed = m.scrubbed := rfl
@[simp] theorem Main.setFld_scrubbed (f : Fld) (v : Nat) : (m.setFld f v).scrubbed = m.scrubbed := rfl
@[simp] theorem Main.setWord_scrubWant (off : Nat) (w : Word) : (m.setWord off w).scrubWant = m.scrubWant := rfl
@[simp] theorem Main.setFld_scrubWant (f : Fld) (v : Nat) : (m.setFld f v).scrubWant = m.scrubWant := rfl
@[simp] theorem Main.setWord_scrub (off : Nat) (w : Word) : (m.setWord off w).scrub = m.scrub := rfl
@[simp] theorem Main.setFld_scrub (f : Fld) (v : Nat) : (m.setFld f v).scrub = m.scrub := rfl
@[simp] theorem Main.setWord_h9Defer (off : Nat) (w : Word) : (m.setWord off w).h9Defer = m.h9Defer := rfl
@[simp] theorem Main.setFld_h9Defer (f : Fld) (v : Nat) : (m.setFld f v).h9Defer = m.h9Defer := rfl
@[simp] theorem Main.setWord_resp (off : Nat) (w : Word) : (m.setWord off w).resp = m.resp := rfl
@[simp] theorem Main.setFld_resp (f : Fld) (v : Nat) : (m.setFld f v).resp = m.resp := rfl
@[simp] theorem Main.setWord_wards (off : Nat) (w : Word) : (m.setWord off w).wards = m.wards := rfl
@[simp] theorem Main.setFld_wards (f : Fld) (v : Nat) : (m.setFld f v).wards = m.wards := rfl
@[simp] theorem Main.setWord_cyls (off : Nat) (w : Word) : (m.setWord off w).cyls = m.cyls := rfl
@[simp] theorem Main.setFld_cyls (f : Fld) (v : Nat) : (m.setFld f v).cyls = m.cyls := rfl
@[simp] theorem Main.setWord_tums (off : Nat) (w : Word) : (m.setWord off w).tums = m.tums := rfl
@[simp] theorem Main.setFld_tums (f : Fld) (v : Nat) : (m.setFld f v).tums = m.tums := rfl
@[simp] theorem Main.setWord_insts (off : Nat) (w : Word) : (m.setWord off w).insts = m.insts := rfl
@[simp] theorem Main.setFld_insts (f : Fld) (v : Nat) : (m.setFld f v).insts = m.insts := rfl
@[simp] theorem Main.setWord_log (off : Nat) (w : Word) : (m.setWord off w).log = m.log := rfl
@[simp] theorem Main.setFld_log (f : Fld) (v : Nat) : (m.setFld f v).log = m.log := rfl
@[simp] theorem Main.setWord_lanes (off : Nat) (w : Word) : (m.setWord off w).lanes = m.lanes := rfl
@[simp] theorem Main.setFld_lanes (f : Fld) (v : Nat) : (m.setFld f v).lanes = m.lanes := rfl
@[simp] theorem Main.setWord_kw (off : Nat) (w : Word) : (m.setWord off w).kw = m.kw := rfl
@[simp] theorem Main.setFld_kw (f : Fld) (v : Nat) : (m.setFld f v).kw = m.kw := rfl
@[simp] theorem Main.setWord_clip (off : Nat) (w : Word) : (m.setWord off w).clip = m.clip := rfl
@[simp] theorem Main.setFld_clip (f : Fld) (v : Nat) : (m.setFld f v).clip = m.clip := rfl
@[simp] theorem Main.setWord_lz (off : Nat) (w : Word) : (m.setWord off w).lz = m.lz := rfl
@[simp] theorem Main.setFld_lz (f : Fld) (v : Nat) : (m.setFld f v).lz = m.lz := rfl
@[simp] theorem Main.setWord_cam (off : Nat) (w : Word) : (m.setWord off w).cam = m.cam := rfl
@[simp] theorem Main.setFld_cam (f : Fld) (v : Nat) : (m.setFld f v).cam = m.cam := rfl
@[simp] theorem Main.setWord_therm (off : Nat) (w : Word) : (m.setWord off w).therm = m.therm := rfl
@[simp] theorem Main.setFld_therm (f : Fld) (v : Nat) : (m.setFld f v).therm = m.therm := rfl
@[simp] theorem Main.setWord_attest (off : Nat) (w : Word) : (m.setWord off w).attest = m.attest := rfl
@[simp] theorem Main.setFld_attest (f : Fld) (v : Nat) : (m.setFld f v).attest = m.attest := rfl
@[simp] theorem Main.setWord_latched (off : Nat) (w : Word) : (m.setWord off w).latched = m.latched := rfl
@[simp] theorem Main.setFld_latched (f : Fld) (v : Nat) : (m.setFld f v).latched = m.latched := rfl
@[simp] theorem Main.setTum_regs (t : Nat) (x : Tum) : (m.setTum t x).regs = m.regs := rfl
@[simp] theorem Main.setTum_host (t : Nat) (x : Tum) : (m.setTum t x).host = m.host := rfl
@[simp] theorem Main.setTum_stack (t : Nat) (x : Tum) : (m.setTum t x).stack = m.stack := rfl
@[simp] theorem Main.setTum_sp (t : Nat) (x : Tum) : (m.setTum t x).sp = m.sp := rfl
@[simp] theorem Main.setTum_ws (t : Nat) (x : Tum) : (m.setTum t x).ws = m.ws := rfl
@[simp] theorem Main.setTum_msgs (t : Nat) (x : Tum) : (m.setTum t x).msgs = m.msgs := rfl
@[simp] theorem Main.setTum_pba (t : Nat) (x : Tum) : (m.setTum t x).pba = m.pba := rfl
@[simp] theorem Main.setTum_ctr (t : Nat) (x : Tum) : (m.setTum t x).ctr = m.ctr := rfl
@[simp] theorem Main.setTum_err (t : Nat) (x : Tum) : (m.setTum t x).err = m.err := rfl
@[simp] theorem Main.setTum_strk (t : Nat) (x : Tum) : (m.setTum t x).strk = m.strk := rfl
@[simp] theorem Main.setTum_prot (t : Nat) (x : Tum) : (m.setTum t x).prot = m.prot := rfl
@[simp] theorem Main.setTum_hq (t : Nat) (x : Tum) : (m.setTum t x).hq = m.hq := rfl
@[simp] theorem Main.setTum_svc (t : Nat) (x : Tum) : (m.setTum t x).svc = m.svc := rfl
@[simp] theorem Main.setTum_fence (t : Nat) (x : Tum) : (m.setTum t x).fence = m.fence := rfl
@[simp] theorem Main.setTum_absent (t : Nat) (x : Tum) : (m.setTum t x).absent = m.absent := rfl
@[simp] theorem Main.setTum_acceptStop (t : Nat) (x : Tum) : (m.setTum t x).acceptStop = m.acceptStop := rfl
@[simp] theorem Main.setTum_ctxs (t : Nat) (x : Tum) : (m.setTum t x).ctxs = m.ctxs := rfl
@[simp] theorem Main.setTum_kr (t : Nat) (x : Tum) : (m.setTum t x).kr = m.kr := rfl
@[simp] theorem Main.setTum_plans (t : Nat) (x : Tum) : (m.setTum t x).plans = m.plans := rfl
@[simp] theorem Main.setTum_bindSeq (t : Nat) (x : Tum) : (m.setTum t x).bindSeq = m.bindSeq := rfl
@[simp] theorem Main.setTum_stamps (t : Nat) (x : Tum) : (m.setTum t x).stamps = m.stamps := rfl
@[simp] theorem Main.setTum_regions (t : Nat) (x : Tum) : (m.setTum t x).regions = m.regions := rfl
@[simp] theorem Main.setTum_pages (t : Nat) (x : Tum) : (m.setTum t x).pages = m.pages := rfl
@[simp] theorem Main.setTum_freeOrder (t : Nat) (x : Tum) : (m.setTum t x).freeOrder = m.freeOrder := rfl
@[simp] theorem Main.setTum_lastWriter (t : Nat) (x : Tum) : (m.setTum t x).lastWriter = m.lastWriter := rfl
@[simp] theorem Main.setTum_scrubbed (t : Nat) (x : Tum) : (m.setTum t x).scrubbed = m.scrubbed := rfl
@[simp] theorem Main.setTum_scrubWant (t : Nat) (x : Tum) : (m.setTum t x).scrubWant = m.scrubWant := rfl
@[simp] theorem Main.setTum_scrub (t : Nat) (x : Tum) : (m.setTum t x).scrub = m.scrub := rfl
@[simp] theorem Main.setTum_h9Defer (t : Nat) (x : Tum) : (m.setTum t x).h9Defer = m.h9Defer := rfl
@[simp] theorem Main.setTum_resp (t : Nat) (x : Tum) : (m.setTum t x).resp = m.resp := rfl
@[simp] theorem Main.setTum_wards (t : Nat) (x : Tum) : (m.setTum t x).wards = m.wards := rfl
@[simp] theorem Main.setTum_cyls (t : Nat) (x : Tum) : (m.setTum t x).cyls = m.cyls := rfl
@[simp] theorem Main.setTum_insts (t : Nat) (x : Tum) : (m.setTum t x).insts = m.insts := rfl
@[simp] theorem Main.setTum_log (t : Nat) (x : Tum) : (m.setTum t x).log = m.log := rfl
@[simp] theorem Main.setTum_lanes (t : Nat) (x : Tum) : (m.setTum t x).lanes = m.lanes := rfl
@[simp] theorem Main.setTum_kw (t : Nat) (x : Tum) : (m.setTum t x).kw = m.kw := rfl
@[simp] theorem Main.setTum_clip (t : Nat) (x : Tum) : (m.setTum t x).clip = m.clip := rfl
@[simp] theorem Main.setTum_lz (t : Nat) (x : Tum) : (m.setTum t x).lz = m.lz := rfl
@[simp] theorem Main.setTum_cam (t : Nat) (x : Tum) : (m.setTum t x).cam = m.cam := rfl
@[simp] theorem Main.setTum_therm (t : Nat) (x : Tum) : (m.setTum t x).therm = m.therm := rfl
@[simp] theorem Main.setTum_attest (t : Nat) (x : Tum) : (m.setTum t x).attest = m.attest := rfl
@[simp] theorem Main.setTum_latched (t : Nat) (x : Tum) : (m.setTum t x).latched = m.latched := rfl
@[simp] theorem Main.setCtx_regs (c : Nat) (x : Ctx) : (m.setCtx c x).regs = m.regs := rfl
@[simp] theorem Main.setCtx_host (c : Nat) (x : Ctx) : (m.setCtx c x).host = m.host := rfl
@[simp] theorem Main.setCtx_stack (c : Nat) (x : Ctx) : (m.setCtx c x).stack = m.stack := rfl
@[simp] theorem Main.setCtx_sp (c : Nat) (x : Ctx) : (m.setCtx c x).sp = m.sp := rfl
@[simp] theorem Main.setCtx_ws (c : Nat) (x : Ctx) : (m.setCtx c x).ws = m.ws := rfl
@[simp] theorem Main.setCtx_msgs (c : Nat) (x : Ctx) : (m.setCtx c x).msgs = m.msgs := rfl
@[simp] theorem Main.setCtx_pba (c : Nat) (x : Ctx) : (m.setCtx c x).pba = m.pba := rfl
@[simp] theorem Main.setCtx_ctr (c : Nat) (x : Ctx) : (m.setCtx c x).ctr = m.ctr := rfl
@[simp] theorem Main.setCtx_err (c : Nat) (x : Ctx) : (m.setCtx c x).err = m.err := rfl
@[simp] theorem Main.setCtx_strk (c : Nat) (x : Ctx) : (m.setCtx c x).strk = m.strk := rfl
@[simp] theorem Main.setCtx_prot (c : Nat) (x : Ctx) : (m.setCtx c x).prot = m.prot := rfl
@[simp] theorem Main.setCtx_hq (c : Nat) (x : Ctx) : (m.setCtx c x).hq = m.hq := rfl
@[simp] theorem Main.setCtx_svc (c : Nat) (x : Ctx) : (m.setCtx c x).svc = m.svc := rfl
@[simp] theorem Main.setCtx_fence (c : Nat) (x : Ctx) : (m.setCtx c x).fence = m.fence := rfl
@[simp] theorem Main.setCtx_absent (c : Nat) (x : Ctx) : (m.setCtx c x).absent = m.absent := rfl
@[simp] theorem Main.setCtx_acceptStop (c : Nat) (x : Ctx) : (m.setCtx c x).acceptStop = m.acceptStop := rfl
@[simp] theorem Main.setCtx_kr (c : Nat) (x : Ctx) : (m.setCtx c x).kr = m.kr := rfl
@[simp] theorem Main.setCtx_plans (c : Nat) (x : Ctx) : (m.setCtx c x).plans = m.plans := rfl
@[simp] theorem Main.setCtx_bindSeq (c : Nat) (x : Ctx) : (m.setCtx c x).bindSeq = m.bindSeq := rfl
@[simp] theorem Main.setCtx_stamps (c : Nat) (x : Ctx) : (m.setCtx c x).stamps = m.stamps := rfl
@[simp] theorem Main.setCtx_regions (c : Nat) (x : Ctx) : (m.setCtx c x).regions = m.regions := rfl
@[simp] theorem Main.setCtx_pages (c : Nat) (x : Ctx) : (m.setCtx c x).pages = m.pages := rfl
@[simp] theorem Main.setCtx_freeOrder (c : Nat) (x : Ctx) : (m.setCtx c x).freeOrder = m.freeOrder := rfl
@[simp] theorem Main.setCtx_lastWriter (c : Nat) (x : Ctx) : (m.setCtx c x).lastWriter = m.lastWriter := rfl
@[simp] theorem Main.setCtx_scrubbed (c : Nat) (x : Ctx) : (m.setCtx c x).scrubbed = m.scrubbed := rfl
@[simp] theorem Main.setCtx_scrubWant (c : Nat) (x : Ctx) : (m.setCtx c x).scrubWant = m.scrubWant := rfl
@[simp] theorem Main.setCtx_scrub (c : Nat) (x : Ctx) : (m.setCtx c x).scrub = m.scrub := rfl
@[simp] theorem Main.setCtx_h9Defer (c : Nat) (x : Ctx) : (m.setCtx c x).h9Defer = m.h9Defer := rfl
@[simp] theorem Main.setCtx_resp (c : Nat) (x : Ctx) : (m.setCtx c x).resp = m.resp := rfl
@[simp] theorem Main.setCtx_wards (c : Nat) (x : Ctx) : (m.setCtx c x).wards = m.wards := rfl
@[simp] theorem Main.setCtx_cyls (c : Nat) (x : Ctx) : (m.setCtx c x).cyls = m.cyls := rfl
@[simp] theorem Main.setCtx_tums (c : Nat) (x : Ctx) : (m.setCtx c x).tums = m.tums := rfl
@[simp] theorem Main.setCtx_insts (c : Nat) (x : Ctx) : (m.setCtx c x).insts = m.insts := rfl
@[simp] theorem Main.setCtx_log (c : Nat) (x : Ctx) : (m.setCtx c x).log = m.log := rfl
@[simp] theorem Main.setCtx_lanes (c : Nat) (x : Ctx) : (m.setCtx c x).lanes = m.lanes := rfl
@[simp] theorem Main.setCtx_kw (c : Nat) (x : Ctx) : (m.setCtx c x).kw = m.kw := rfl
@[simp] theorem Main.setCtx_clip (c : Nat) (x : Ctx) : (m.setCtx c x).clip = m.clip := rfl
@[simp] theorem Main.setCtx_lz (c : Nat) (x : Ctx) : (m.setCtx c x).lz = m.lz := rfl
@[simp] theorem Main.setCtx_cam (c : Nat) (x : Ctx) : (m.setCtx c x).cam = m.cam := rfl
@[simp] theorem Main.setCtx_therm (c : Nat) (x : Ctx) : (m.setCtx c x).therm = m.therm := rfl
@[simp] theorem Main.setCtx_attest (c : Nat) (x : Ctx) : (m.setCtx c x).attest = m.attest := rfl
@[simp] theorem Main.setCtx_latched (c : Nat) (x : Ctx) : (m.setCtx c x).latched = m.latched := rfl
@[simp] theorem Main.setInst_regs (k : Nat) (x : Inst) : (m.setInst k x).regs = m.regs := rfl
@[simp] theorem Main.setInst_host (k : Nat) (x : Inst) : (m.setInst k x).host = m.host := rfl
@[simp] theorem Main.setInst_stack (k : Nat) (x : Inst) : (m.setInst k x).stack = m.stack := rfl
@[simp] theorem Main.setInst_sp (k : Nat) (x : Inst) : (m.setInst k x).sp = m.sp := rfl
@[simp] theorem Main.setInst_ws (k : Nat) (x : Inst) : (m.setInst k x).ws = m.ws := rfl
@[simp] theorem Main.setInst_msgs (k : Nat) (x : Inst) : (m.setInst k x).msgs = m.msgs := rfl
@[simp] theorem Main.setInst_pba (k : Nat) (x : Inst) : (m.setInst k x).pba = m.pba := rfl
@[simp] theorem Main.setInst_ctr (k : Nat) (x : Inst) : (m.setInst k x).ctr = m.ctr := rfl
@[simp] theorem Main.setInst_err (k : Nat) (x : Inst) : (m.setInst k x).err = m.err := rfl
@[simp] theorem Main.setInst_strk (k : Nat) (x : Inst) : (m.setInst k x).strk = m.strk := rfl
@[simp] theorem Main.setInst_prot (k : Nat) (x : Inst) : (m.setInst k x).prot = m.prot := rfl
@[simp] theorem Main.setInst_hq (k : Nat) (x : Inst) : (m.setInst k x).hq = m.hq := rfl
@[simp] theorem Main.setInst_svc (k : Nat) (x : Inst) : (m.setInst k x).svc = m.svc := rfl
@[simp] theorem Main.setInst_fence (k : Nat) (x : Inst) : (m.setInst k x).fence = m.fence := rfl
@[simp] theorem Main.setInst_absent (k : Nat) (x : Inst) : (m.setInst k x).absent = m.absent := rfl
@[simp] theorem Main.setInst_acceptStop (k : Nat) (x : Inst) : (m.setInst k x).acceptStop = m.acceptStop := rfl
@[simp] theorem Main.setInst_ctxs (k : Nat) (x : Inst) : (m.setInst k x).ctxs = m.ctxs := rfl
@[simp] theorem Main.setInst_kr (k : Nat) (x : Inst) : (m.setInst k x).kr = m.kr := rfl
@[simp] theorem Main.setInst_plans (k : Nat) (x : Inst) : (m.setInst k x).plans = m.plans := rfl
@[simp] theorem Main.setInst_bindSeq (k : Nat) (x : Inst) : (m.setInst k x).bindSeq = m.bindSeq := rfl
@[simp] theorem Main.setInst_stamps (k : Nat) (x : Inst) : (m.setInst k x).stamps = m.stamps := rfl
@[simp] theorem Main.setInst_regions (k : Nat) (x : Inst) : (m.setInst k x).regions = m.regions := rfl
@[simp] theorem Main.setInst_pages (k : Nat) (x : Inst) : (m.setInst k x).pages = m.pages := rfl
@[simp] theorem Main.setInst_freeOrder (k : Nat) (x : Inst) : (m.setInst k x).freeOrder = m.freeOrder := rfl
@[simp] theorem Main.setInst_lastWriter (k : Nat) (x : Inst) : (m.setInst k x).lastWriter = m.lastWriter := rfl
@[simp] theorem Main.setInst_scrubbed (k : Nat) (x : Inst) : (m.setInst k x).scrubbed = m.scrubbed := rfl
@[simp] theorem Main.setInst_scrubWant (k : Nat) (x : Inst) : (m.setInst k x).scrubWant = m.scrubWant := rfl
@[simp] theorem Main.setInst_scrub (k : Nat) (x : Inst) : (m.setInst k x).scrub = m.scrub := rfl
@[simp] theorem Main.setInst_h9Defer (k : Nat) (x : Inst) : (m.setInst k x).h9Defer = m.h9Defer := rfl
@[simp] theorem Main.setInst_resp (k : Nat) (x : Inst) : (m.setInst k x).resp = m.resp := rfl
@[simp] theorem Main.setInst_wards (k : Nat) (x : Inst) : (m.setInst k x).wards = m.wards := rfl
@[simp] theorem Main.setInst_cyls (k : Nat) (x : Inst) : (m.setInst k x).cyls = m.cyls := rfl
@[simp] theorem Main.setInst_tums (k : Nat) (x : Inst) : (m.setInst k x).tums = m.tums := rfl
@[simp] theorem Main.setInst_log (k : Nat) (x : Inst) : (m.setInst k x).log = m.log := rfl
@[simp] theorem Main.setInst_lanes (k : Nat) (x : Inst) : (m.setInst k x).lanes = m.lanes := rfl
@[simp] theorem Main.setInst_kw (k : Nat) (x : Inst) : (m.setInst k x).kw = m.kw := rfl
@[simp] theorem Main.setInst_clip (k : Nat) (x : Inst) : (m.setInst k x).clip = m.clip := rfl
@[simp] theorem Main.setInst_lz (k : Nat) (x : Inst) : (m.setInst k x).lz = m.lz := rfl
@[simp] theorem Main.setInst_cam (k : Nat) (x : Inst) : (m.setInst k x).cam = m.cam := rfl
@[simp] theorem Main.setInst_therm (k : Nat) (x : Inst) : (m.setInst k x).therm = m.therm := rfl
@[simp] theorem Main.setInst_attest (k : Nat) (x : Inst) : (m.setInst k x).attest = m.attest := rfl
@[simp] theorem Main.setInst_latched (k : Nat) (x : Inst) : (m.setInst k x).latched = m.latched := rfl
@[simp] theorem Main.setWard_regs (w : Nat) (x : Ward) : (m.setWard w x).regs = m.regs := rfl
@[simp] theorem Main.setWard_host (w : Nat) (x : Ward) : (m.setWard w x).host = m.host := rfl
@[simp] theorem Main.setWard_stack (w : Nat) (x : Ward) : (m.setWard w x).stack = m.stack := rfl
@[simp] theorem Main.setWard_sp (w : Nat) (x : Ward) : (m.setWard w x).sp = m.sp := rfl
@[simp] theorem Main.setWard_ws (w : Nat) (x : Ward) : (m.setWard w x).ws = m.ws := rfl
@[simp] theorem Main.setWard_msgs (w : Nat) (x : Ward) : (m.setWard w x).msgs = m.msgs := rfl
@[simp] theorem Main.setWard_pba (w : Nat) (x : Ward) : (m.setWard w x).pba = m.pba := rfl
@[simp] theorem Main.setWard_ctr (w : Nat) (x : Ward) : (m.setWard w x).ctr = m.ctr := rfl
@[simp] theorem Main.setWard_err (w : Nat) (x : Ward) : (m.setWard w x).err = m.err := rfl
@[simp] theorem Main.setWard_strk (w : Nat) (x : Ward) : (m.setWard w x).strk = m.strk := rfl
@[simp] theorem Main.setWard_prot (w : Nat) (x : Ward) : (m.setWard w x).prot = m.prot := rfl
@[simp] theorem Main.setWard_hq (w : Nat) (x : Ward) : (m.setWard w x).hq = m.hq := rfl
@[simp] theorem Main.setWard_svc (w : Nat) (x : Ward) : (m.setWard w x).svc = m.svc := rfl
@[simp] theorem Main.setWard_fence (w : Nat) (x : Ward) : (m.setWard w x).fence = m.fence := rfl
@[simp] theorem Main.setWard_absent (w : Nat) (x : Ward) : (m.setWard w x).absent = m.absent := rfl
@[simp] theorem Main.setWard_acceptStop (w : Nat) (x : Ward) : (m.setWard w x).acceptStop = m.acceptStop := rfl
@[simp] theorem Main.setWard_ctxs (w : Nat) (x : Ward) : (m.setWard w x).ctxs = m.ctxs := rfl
@[simp] theorem Main.setWard_kr (w : Nat) (x : Ward) : (m.setWard w x).kr = m.kr := rfl
@[simp] theorem Main.setWard_plans (w : Nat) (x : Ward) : (m.setWard w x).plans = m.plans := rfl
@[simp] theorem Main.setWard_bindSeq (w : Nat) (x : Ward) : (m.setWard w x).bindSeq = m.bindSeq := rfl
@[simp] theorem Main.setWard_stamps (w : Nat) (x : Ward) : (m.setWard w x).stamps = m.stamps := rfl
@[simp] theorem Main.setWard_regions (w : Nat) (x : Ward) : (m.setWard w x).regions = m.regions := rfl
@[simp] theorem Main.setWard_pages (w : Nat) (x : Ward) : (m.setWard w x).pages = m.pages := rfl
@[simp] theorem Main.setWard_freeOrder (w : Nat) (x : Ward) : (m.setWard w x).freeOrder = m.freeOrder := rfl
@[simp] theorem Main.setWard_lastWriter (w : Nat) (x : Ward) : (m.setWard w x).lastWriter = m.lastWriter := rfl
@[simp] theorem Main.setWard_scrubbed (w : Nat) (x : Ward) : (m.setWard w x).scrubbed = m.scrubbed := rfl
@[simp] theorem Main.setWard_scrubWant (w : Nat) (x : Ward) : (m.setWard w x).scrubWant = m.scrubWant := rfl
@[simp] theorem Main.setWard_scrub (w : Nat) (x : Ward) : (m.setWard w x).scrub = m.scrub := rfl
@[simp] theorem Main.setWard_h9Defer (w : Nat) (x : Ward) : (m.setWard w x).h9Defer = m.h9Defer := rfl
@[simp] theorem Main.setWard_resp (w : Nat) (x : Ward) : (m.setWard w x).resp = m.resp := rfl
@[simp] theorem Main.setWard_cyls (w : Nat) (x : Ward) : (m.setWard w x).cyls = m.cyls := rfl
@[simp] theorem Main.setWard_tums (w : Nat) (x : Ward) : (m.setWard w x).tums = m.tums := rfl
@[simp] theorem Main.setWard_insts (w : Nat) (x : Ward) : (m.setWard w x).insts = m.insts := rfl
@[simp] theorem Main.setWard_log (w : Nat) (x : Ward) : (m.setWard w x).log = m.log := rfl
@[simp] theorem Main.setWard_lanes (w : Nat) (x : Ward) : (m.setWard w x).lanes = m.lanes := rfl
@[simp] theorem Main.setWard_kw (w : Nat) (x : Ward) : (m.setWard w x).kw = m.kw := rfl
@[simp] theorem Main.setWard_clip (w : Nat) (x : Ward) : (m.setWard w x).clip = m.clip := rfl
@[simp] theorem Main.setWard_lz (w : Nat) (x : Ward) : (m.setWard w x).lz = m.lz := rfl
@[simp] theorem Main.setWard_cam (w : Nat) (x : Ward) : (m.setWard w x).cam = m.cam := rfl
@[simp] theorem Main.setWard_therm (w : Nat) (x : Ward) : (m.setWard w x).therm = m.therm := rfl
@[simp] theorem Main.setWard_attest (w : Nat) (x : Ward) : (m.setWard w x).attest = m.attest := rfl
@[simp] theorem Main.setWard_latched (w : Nat) (x : Ward) : (m.setWard w x).latched = m.latched := rfl
@[simp] theorem Main.setRegion_regs (r : Nat) (x : Region) : (m.setRegion r x).regs = m.regs := rfl
@[simp] theorem Main.setRegion_host (r : Nat) (x : Region) : (m.setRegion r x).host = m.host := rfl
@[simp] theorem Main.setRegion_stack (r : Nat) (x : Region) : (m.setRegion r x).stack = m.stack := rfl
@[simp] theorem Main.setRegion_sp (r : Nat) (x : Region) : (m.setRegion r x).sp = m.sp := rfl
@[simp] theorem Main.setRegion_ws (r : Nat) (x : Region) : (m.setRegion r x).ws = m.ws := rfl
@[simp] theorem Main.setRegion_msgs (r : Nat) (x : Region) : (m.setRegion r x).msgs = m.msgs := rfl
@[simp] theorem Main.setRegion_pba (r : Nat) (x : Region) : (m.setRegion r x).pba = m.pba := rfl
@[simp] theorem Main.setRegion_ctr (r : Nat) (x : Region) : (m.setRegion r x).ctr = m.ctr := rfl
@[simp] theorem Main.setRegion_err (r : Nat) (x : Region) : (m.setRegion r x).err = m.err := rfl
@[simp] theorem Main.setRegion_strk (r : Nat) (x : Region) : (m.setRegion r x).strk = m.strk := rfl
@[simp] theorem Main.setRegion_prot (r : Nat) (x : Region) : (m.setRegion r x).prot = m.prot := rfl
@[simp] theorem Main.setRegion_hq (r : Nat) (x : Region) : (m.setRegion r x).hq = m.hq := rfl
@[simp] theorem Main.setRegion_svc (r : Nat) (x : Region) : (m.setRegion r x).svc = m.svc := rfl
@[simp] theorem Main.setRegion_fence (r : Nat) (x : Region) : (m.setRegion r x).fence = m.fence := rfl
@[simp] theorem Main.setRegion_absent (r : Nat) (x : Region) : (m.setRegion r x).absent = m.absent := rfl
@[simp] theorem Main.setRegion_acceptStop (r : Nat) (x : Region) : (m.setRegion r x).acceptStop = m.acceptStop := rfl
@[simp] theorem Main.setRegion_ctxs (r : Nat) (x : Region) : (m.setRegion r x).ctxs = m.ctxs := rfl
@[simp] theorem Main.setRegion_kr (r : Nat) (x : Region) : (m.setRegion r x).kr = m.kr := rfl
@[simp] theorem Main.setRegion_plans (r : Nat) (x : Region) : (m.setRegion r x).plans = m.plans := rfl
@[simp] theorem Main.setRegion_bindSeq (r : Nat) (x : Region) : (m.setRegion r x).bindSeq = m.bindSeq := rfl
@[simp] theorem Main.setRegion_stamps (r : Nat) (x : Region) : (m.setRegion r x).stamps = m.stamps := rfl
@[simp] theorem Main.setRegion_pages (r : Nat) (x : Region) : (m.setRegion r x).pages = m.pages := rfl
@[simp] theorem Main.setRegion_freeOrder (r : Nat) (x : Region) : (m.setRegion r x).freeOrder = m.freeOrder := rfl
@[simp] theorem Main.setRegion_lastWriter (r : Nat) (x : Region) : (m.setRegion r x).lastWriter = m.lastWriter := rfl
@[simp] theorem Main.setRegion_scrubbed (r : Nat) (x : Region) : (m.setRegion r x).scrubbed = m.scrubbed := rfl
@[simp] theorem Main.setRegion_scrubWant (r : Nat) (x : Region) : (m.setRegion r x).scrubWant = m.scrubWant := rfl
@[simp] theorem Main.setRegion_scrub (r : Nat) (x : Region) : (m.setRegion r x).scrub = m.scrub := rfl
@[simp] theorem Main.setRegion_h9Defer (r : Nat) (x : Region) : (m.setRegion r x).h9Defer = m.h9Defer := rfl
@[simp] theorem Main.setRegion_resp (r : Nat) (x : Region) : (m.setRegion r x).resp = m.resp := rfl
@[simp] theorem Main.setRegion_wards (r : Nat) (x : Region) : (m.setRegion r x).wards = m.wards := rfl
@[simp] theorem Main.setRegion_cyls (r : Nat) (x : Region) : (m.setRegion r x).cyls = m.cyls := rfl
@[simp] theorem Main.setRegion_tums (r : Nat) (x : Region) : (m.setRegion r x).tums = m.tums := rfl
@[simp] theorem Main.setRegion_insts (r : Nat) (x : Region) : (m.setRegion r x).insts = m.insts := rfl
@[simp] theorem Main.setRegion_log (r : Nat) (x : Region) : (m.setRegion r x).log = m.log := rfl
@[simp] theorem Main.setRegion_lanes (r : Nat) (x : Region) : (m.setRegion r x).lanes = m.lanes := rfl
@[simp] theorem Main.setRegion_kw (r : Nat) (x : Region) : (m.setRegion r x).kw = m.kw := rfl
@[simp] theorem Main.setRegion_clip (r : Nat) (x : Region) : (m.setRegion r x).clip = m.clip := rfl
@[simp] theorem Main.setRegion_lz (r : Nat) (x : Region) : (m.setRegion r x).lz = m.lz := rfl
@[simp] theorem Main.setRegion_cam (r : Nat) (x : Region) : (m.setRegion r x).cam = m.cam := rfl
@[simp] theorem Main.setRegion_therm (r : Nat) (x : Region) : (m.setRegion r x).therm = m.therm := rfl
@[simp] theorem Main.setRegion_attest (r : Nat) (x : Region) : (m.setRegion r x).attest = m.attest := rfl
@[simp] theorem Main.setRegion_latched (r : Nat) (x : Region) : (m.setRegion r x).latched = m.latched := rfl
@[simp] theorem Main.setPage_regs (p : Nat) (x : Page) : (m.setPage p x).regs = m.regs := rfl
@[simp] theorem Main.setPage_host (p : Nat) (x : Page) : (m.setPage p x).host = m.host := rfl
@[simp] theorem Main.setPage_stack (p : Nat) (x : Page) : (m.setPage p x).stack = m.stack := rfl
@[simp] theorem Main.setPage_sp (p : Nat) (x : Page) : (m.setPage p x).sp = m.sp := rfl
@[simp] theorem Main.setPage_ws (p : Nat) (x : Page) : (m.setPage p x).ws = m.ws := rfl
@[simp] theorem Main.setPage_msgs (p : Nat) (x : Page) : (m.setPage p x).msgs = m.msgs := rfl
@[simp] theorem Main.setPage_pba (p : Nat) (x : Page) : (m.setPage p x).pba = m.pba := rfl
@[simp] theorem Main.setPage_ctr (p : Nat) (x : Page) : (m.setPage p x).ctr = m.ctr := rfl
@[simp] theorem Main.setPage_err (p : Nat) (x : Page) : (m.setPage p x).err = m.err := rfl
@[simp] theorem Main.setPage_strk (p : Nat) (x : Page) : (m.setPage p x).strk = m.strk := rfl
@[simp] theorem Main.setPage_prot (p : Nat) (x : Page) : (m.setPage p x).prot = m.prot := rfl
@[simp] theorem Main.setPage_hq (p : Nat) (x : Page) : (m.setPage p x).hq = m.hq := rfl
@[simp] theorem Main.setPage_svc (p : Nat) (x : Page) : (m.setPage p x).svc = m.svc := rfl
@[simp] theorem Main.setPage_fence (p : Nat) (x : Page) : (m.setPage p x).fence = m.fence := rfl
@[simp] theorem Main.setPage_absent (p : Nat) (x : Page) : (m.setPage p x).absent = m.absent := rfl
@[simp] theorem Main.setPage_acceptStop (p : Nat) (x : Page) : (m.setPage p x).acceptStop = m.acceptStop := rfl
@[simp] theorem Main.setPage_ctxs (p : Nat) (x : Page) : (m.setPage p x).ctxs = m.ctxs := rfl
@[simp] theorem Main.setPage_kr (p : Nat) (x : Page) : (m.setPage p x).kr = m.kr := rfl
@[simp] theorem Main.setPage_plans (p : Nat) (x : Page) : (m.setPage p x).plans = m.plans := rfl
@[simp] theorem Main.setPage_bindSeq (p : Nat) (x : Page) : (m.setPage p x).bindSeq = m.bindSeq := rfl
@[simp] theorem Main.setPage_stamps (p : Nat) (x : Page) : (m.setPage p x).stamps = m.stamps := rfl
@[simp] theorem Main.setPage_regions (p : Nat) (x : Page) : (m.setPage p x).regions = m.regions := rfl
@[simp] theorem Main.setPage_freeOrder (p : Nat) (x : Page) : (m.setPage p x).freeOrder = m.freeOrder := rfl
@[simp] theorem Main.setPage_lastWriter (p : Nat) (x : Page) : (m.setPage p x).lastWriter = m.lastWriter := rfl
@[simp] theorem Main.setPage_scrubbed (p : Nat) (x : Page) : (m.setPage p x).scrubbed = m.scrubbed := rfl
@[simp] theorem Main.setPage_scrubWant (p : Nat) (x : Page) : (m.setPage p x).scrubWant = m.scrubWant := rfl
@[simp] theorem Main.setPage_scrub (p : Nat) (x : Page) : (m.setPage p x).scrub = m.scrub := rfl
@[simp] theorem Main.setPage_h9Defer (p : Nat) (x : Page) : (m.setPage p x).h9Defer = m.h9Defer := rfl
@[simp] theorem Main.setPage_resp (p : Nat) (x : Page) : (m.setPage p x).resp = m.resp := rfl
@[simp] theorem Main.setPage_wards (p : Nat) (x : Page) : (m.setPage p x).wards = m.wards := rfl
@[simp] theorem Main.setPage_cyls (p : Nat) (x : Page) : (m.setPage p x).cyls = m.cyls := rfl
@[simp] theorem Main.setPage_tums (p : Nat) (x : Page) : (m.setPage p x).tums = m.tums := rfl
@[simp] theorem Main.setPage_insts (p : Nat) (x : Page) : (m.setPage p x).insts = m.insts := rfl
@[simp] theorem Main.setPage_log (p : Nat) (x : Page) : (m.setPage p x).log = m.log := rfl
@[simp] theorem Main.setPage_lanes (p : Nat) (x : Page) : (m.setPage p x).lanes = m.lanes := rfl
@[simp] theorem Main.setPage_kw (p : Nat) (x : Page) : (m.setPage p x).kw = m.kw := rfl
@[simp] theorem Main.setPage_clip (p : Nat) (x : Page) : (m.setPage p x).clip = m.clip := rfl
@[simp] theorem Main.setPage_lz (p : Nat) (x : Page) : (m.setPage p x).lz = m.lz := rfl
@[simp] theorem Main.setPage_cam (p : Nat) (x : Page) : (m.setPage p x).cam = m.cam := rfl
@[simp] theorem Main.setPage_therm (p : Nat) (x : Page) : (m.setPage p x).therm = m.therm := rfl
@[simp] theorem Main.setPage_attest (p : Nat) (x : Page) : (m.setPage p x).attest = m.attest := rfl
@[simp] theorem Main.setPage_latched (p : Nat) (x : Page) : (m.setPage p x).latched = m.latched := rfl
@[simp] theorem Main.setPlan_regs (h : Nat) (x : Plan) : (m.setPlan h x).regs = m.regs := rfl
@[simp] theorem Main.setPlan_host (h : Nat) (x : Plan) : (m.setPlan h x).host = m.host := rfl
@[simp] theorem Main.setPlan_stack (h : Nat) (x : Plan) : (m.setPlan h x).stack = m.stack := rfl
@[simp] theorem Main.setPlan_sp (h : Nat) (x : Plan) : (m.setPlan h x).sp = m.sp := rfl
@[simp] theorem Main.setPlan_ws (h : Nat) (x : Plan) : (m.setPlan h x).ws = m.ws := rfl
@[simp] theorem Main.setPlan_msgs (h : Nat) (x : Plan) : (m.setPlan h x).msgs = m.msgs := rfl
@[simp] theorem Main.setPlan_pba (h : Nat) (x : Plan) : (m.setPlan h x).pba = m.pba := rfl
@[simp] theorem Main.setPlan_ctr (h : Nat) (x : Plan) : (m.setPlan h x).ctr = m.ctr := rfl
@[simp] theorem Main.setPlan_err (h : Nat) (x : Plan) : (m.setPlan h x).err = m.err := rfl
@[simp] theorem Main.setPlan_strk (h : Nat) (x : Plan) : (m.setPlan h x).strk = m.strk := rfl
@[simp] theorem Main.setPlan_prot (h : Nat) (x : Plan) : (m.setPlan h x).prot = m.prot := rfl
@[simp] theorem Main.setPlan_hq (h : Nat) (x : Plan) : (m.setPlan h x).hq = m.hq := rfl
@[simp] theorem Main.setPlan_svc (h : Nat) (x : Plan) : (m.setPlan h x).svc = m.svc := rfl
@[simp] theorem Main.setPlan_fence (h : Nat) (x : Plan) : (m.setPlan h x).fence = m.fence := rfl
@[simp] theorem Main.setPlan_absent (h : Nat) (x : Plan) : (m.setPlan h x).absent = m.absent := rfl
@[simp] theorem Main.setPlan_acceptStop (h : Nat) (x : Plan) : (m.setPlan h x).acceptStop = m.acceptStop := rfl
@[simp] theorem Main.setPlan_ctxs (h : Nat) (x : Plan) : (m.setPlan h x).ctxs = m.ctxs := rfl
@[simp] theorem Main.setPlan_kr (h : Nat) (x : Plan) : (m.setPlan h x).kr = m.kr := rfl
@[simp] theorem Main.setPlan_bindSeq (h : Nat) (x : Plan) : (m.setPlan h x).bindSeq = m.bindSeq := rfl
@[simp] theorem Main.setPlan_stamps (h : Nat) (x : Plan) : (m.setPlan h x).stamps = m.stamps := rfl
@[simp] theorem Main.setPlan_regions (h : Nat) (x : Plan) : (m.setPlan h x).regions = m.regions := rfl
@[simp] theorem Main.setPlan_pages (h : Nat) (x : Plan) : (m.setPlan h x).pages = m.pages := rfl
@[simp] theorem Main.setPlan_freeOrder (h : Nat) (x : Plan) : (m.setPlan h x).freeOrder = m.freeOrder := rfl
@[simp] theorem Main.setPlan_lastWriter (h : Nat) (x : Plan) : (m.setPlan h x).lastWriter = m.lastWriter := rfl
@[simp] theorem Main.setPlan_scrubbed (h : Nat) (x : Plan) : (m.setPlan h x).scrubbed = m.scrubbed := rfl
@[simp] theorem Main.setPlan_scrubWant (h : Nat) (x : Plan) : (m.setPlan h x).scrubWant = m.scrubWant := rfl
@[simp] theorem Main.setPlan_scrub (h : Nat) (x : Plan) : (m.setPlan h x).scrub = m.scrub := rfl
@[simp] theorem Main.setPlan_h9Defer (h : Nat) (x : Plan) : (m.setPlan h x).h9Defer = m.h9Defer := rfl
@[simp] theorem Main.setPlan_resp (h : Nat) (x : Plan) : (m.setPlan h x).resp = m.resp := rfl
@[simp] theorem Main.setPlan_wards (h : Nat) (x : Plan) : (m.setPlan h x).wards = m.wards := rfl
@[simp] theorem Main.setPlan_cyls (h : Nat) (x : Plan) : (m.setPlan h x).cyls = m.cyls := rfl
@[simp] theorem Main.setPlan_tums (h : Nat) (x : Plan) : (m.setPlan h x).tums = m.tums := rfl
@[simp] theorem Main.setPlan_insts (h : Nat) (x : Plan) : (m.setPlan h x).insts = m.insts := rfl
@[simp] theorem Main.setPlan_log (h : Nat) (x : Plan) : (m.setPlan h x).log = m.log := rfl
@[simp] theorem Main.setPlan_lanes (h : Nat) (x : Plan) : (m.setPlan h x).lanes = m.lanes := rfl
@[simp] theorem Main.setPlan_kw (h : Nat) (x : Plan) : (m.setPlan h x).kw = m.kw := rfl
@[simp] theorem Main.setPlan_clip (h : Nat) (x : Plan) : (m.setPlan h x).clip = m.clip := rfl
@[simp] theorem Main.setPlan_lz (h : Nat) (x : Plan) : (m.setPlan h x).lz = m.lz := rfl
@[simp] theorem Main.setPlan_cam (h : Nat) (x : Plan) : (m.setPlan h x).cam = m.cam := rfl
@[simp] theorem Main.setPlan_therm (h : Nat) (x : Plan) : (m.setPlan h x).therm = m.therm := rfl
@[simp] theorem Main.setPlan_attest (h : Nat) (x : Plan) : (m.setPlan h x).attest = m.attest := rfl
@[simp] theorem Main.setPlan_latched (h : Nat) (x : Plan) : (m.setPlan h x).latched = m.latched := rfl
@[simp] theorem Main.setCyl_regs (c : Nat) (x : Cyl) : (m.setCyl c x).regs = m.regs := rfl
@[simp] theorem Main.setCyl_host (c : Nat) (x : Cyl) : (m.setCyl c x).host = m.host := rfl
@[simp] theorem Main.setCyl_stack (c : Nat) (x : Cyl) : (m.setCyl c x).stack = m.stack := rfl
@[simp] theorem Main.setCyl_sp (c : Nat) (x : Cyl) : (m.setCyl c x).sp = m.sp := rfl
@[simp] theorem Main.setCyl_ws (c : Nat) (x : Cyl) : (m.setCyl c x).ws = m.ws := rfl
@[simp] theorem Main.setCyl_msgs (c : Nat) (x : Cyl) : (m.setCyl c x).msgs = m.msgs := rfl
@[simp] theorem Main.setCyl_pba (c : Nat) (x : Cyl) : (m.setCyl c x).pba = m.pba := rfl
@[simp] theorem Main.setCyl_ctr (c : Nat) (x : Cyl) : (m.setCyl c x).ctr = m.ctr := rfl
@[simp] theorem Main.setCyl_err (c : Nat) (x : Cyl) : (m.setCyl c x).err = m.err := rfl
@[simp] theorem Main.setCyl_strk (c : Nat) (x : Cyl) : (m.setCyl c x).strk = m.strk := rfl
@[simp] theorem Main.setCyl_prot (c : Nat) (x : Cyl) : (m.setCyl c x).prot = m.prot := rfl
@[simp] theorem Main.setCyl_hq (c : Nat) (x : Cyl) : (m.setCyl c x).hq = m.hq := rfl
@[simp] theorem Main.setCyl_svc (c : Nat) (x : Cyl) : (m.setCyl c x).svc = m.svc := rfl
@[simp] theorem Main.setCyl_fence (c : Nat) (x : Cyl) : (m.setCyl c x).fence = m.fence := rfl
@[simp] theorem Main.setCyl_absent (c : Nat) (x : Cyl) : (m.setCyl c x).absent = m.absent := rfl
@[simp] theorem Main.setCyl_acceptStop (c : Nat) (x : Cyl) : (m.setCyl c x).acceptStop = m.acceptStop := rfl
@[simp] theorem Main.setCyl_ctxs (c : Nat) (x : Cyl) : (m.setCyl c x).ctxs = m.ctxs := rfl
@[simp] theorem Main.setCyl_kr (c : Nat) (x : Cyl) : (m.setCyl c x).kr = m.kr := rfl
@[simp] theorem Main.setCyl_plans (c : Nat) (x : Cyl) : (m.setCyl c x).plans = m.plans := rfl
@[simp] theorem Main.setCyl_bindSeq (c : Nat) (x : Cyl) : (m.setCyl c x).bindSeq = m.bindSeq := rfl
@[simp] theorem Main.setCyl_stamps (c : Nat) (x : Cyl) : (m.setCyl c x).stamps = m.stamps := rfl
@[simp] theorem Main.setCyl_regions (c : Nat) (x : Cyl) : (m.setCyl c x).regions = m.regions := rfl
@[simp] theorem Main.setCyl_pages (c : Nat) (x : Cyl) : (m.setCyl c x).pages = m.pages := rfl
@[simp] theorem Main.setCyl_freeOrder (c : Nat) (x : Cyl) : (m.setCyl c x).freeOrder = m.freeOrder := rfl
@[simp] theorem Main.setCyl_lastWriter (c : Nat) (x : Cyl) : (m.setCyl c x).lastWriter = m.lastWriter := rfl
@[simp] theorem Main.setCyl_scrubbed (c : Nat) (x : Cyl) : (m.setCyl c x).scrubbed = m.scrubbed := rfl
@[simp] theorem Main.setCyl_scrubWant (c : Nat) (x : Cyl) : (m.setCyl c x).scrubWant = m.scrubWant := rfl
@[simp] theorem Main.setCyl_scrub (c : Nat) (x : Cyl) : (m.setCyl c x).scrub = m.scrub := rfl
@[simp] theorem Main.setCyl_h9Defer (c : Nat) (x : Cyl) : (m.setCyl c x).h9Defer = m.h9Defer := rfl
@[simp] theorem Main.setCyl_resp (c : Nat) (x : Cyl) : (m.setCyl c x).resp = m.resp := rfl
@[simp] theorem Main.setCyl_wards (c : Nat) (x : Cyl) : (m.setCyl c x).wards = m.wards := rfl
@[simp] theorem Main.setCyl_tums (c : Nat) (x : Cyl) : (m.setCyl c x).tums = m.tums := rfl
@[simp] theorem Main.setCyl_insts (c : Nat) (x : Cyl) : (m.setCyl c x).insts = m.insts := rfl
@[simp] theorem Main.setCyl_log (c : Nat) (x : Cyl) : (m.setCyl c x).log = m.log := rfl
@[simp] theorem Main.setCyl_lanes (c : Nat) (x : Cyl) : (m.setCyl c x).lanes = m.lanes := rfl
@[simp] theorem Main.setCyl_kw (c : Nat) (x : Cyl) : (m.setCyl c x).kw = m.kw := rfl
@[simp] theorem Main.setCyl_clip (c : Nat) (x : Cyl) : (m.setCyl c x).clip = m.clip := rfl
@[simp] theorem Main.setCyl_lz (c : Nat) (x : Cyl) : (m.setCyl c x).lz = m.lz := rfl
@[simp] theorem Main.setCyl_cam (c : Nat) (x : Cyl) : (m.setCyl c x).cam = m.cam := rfl
@[simp] theorem Main.setCyl_therm (c : Nat) (x : Cyl) : (m.setCyl c x).therm = m.therm := rfl
@[simp] theorem Main.setCyl_attest (c : Nat) (x : Cyl) : (m.setCyl c x).attest = m.attest := rfl
@[simp] theorem Main.setCyl_latched (c : Nat) (x : Cyl) : (m.setCyl c x).latched = m.latched := rfl
@[simp] theorem Main.setLane_regs (k : Nat) (x : Lane) : (m.setLane k x).regs = m.regs := rfl
@[simp] theorem Main.setLane_host (k : Nat) (x : Lane) : (m.setLane k x).host = m.host := rfl
@[simp] theorem Main.setLane_stack (k : Nat) (x : Lane) : (m.setLane k x).stack = m.stack := rfl
@[simp] theorem Main.setLane_sp (k : Nat) (x : Lane) : (m.setLane k x).sp = m.sp := rfl
@[simp] theorem Main.setLane_ws (k : Nat) (x : Lane) : (m.setLane k x).ws = m.ws := rfl
@[simp] theorem Main.setLane_msgs (k : Nat) (x : Lane) : (m.setLane k x).msgs = m.msgs := rfl
@[simp] theorem Main.setLane_pba (k : Nat) (x : Lane) : (m.setLane k x).pba = m.pba := rfl
@[simp] theorem Main.setLane_ctr (k : Nat) (x : Lane) : (m.setLane k x).ctr = m.ctr := rfl
@[simp] theorem Main.setLane_err (k : Nat) (x : Lane) : (m.setLane k x).err = m.err := rfl
@[simp] theorem Main.setLane_strk (k : Nat) (x : Lane) : (m.setLane k x).strk = m.strk := rfl
@[simp] theorem Main.setLane_prot (k : Nat) (x : Lane) : (m.setLane k x).prot = m.prot := rfl
@[simp] theorem Main.setLane_hq (k : Nat) (x : Lane) : (m.setLane k x).hq = m.hq := rfl
@[simp] theorem Main.setLane_svc (k : Nat) (x : Lane) : (m.setLane k x).svc = m.svc := rfl
@[simp] theorem Main.setLane_fence (k : Nat) (x : Lane) : (m.setLane k x).fence = m.fence := rfl
@[simp] theorem Main.setLane_absent (k : Nat) (x : Lane) : (m.setLane k x).absent = m.absent := rfl
@[simp] theorem Main.setLane_acceptStop (k : Nat) (x : Lane) : (m.setLane k x).acceptStop = m.acceptStop := rfl
@[simp] theorem Main.setLane_ctxs (k : Nat) (x : Lane) : (m.setLane k x).ctxs = m.ctxs := rfl
@[simp] theorem Main.setLane_kr (k : Nat) (x : Lane) : (m.setLane k x).kr = m.kr := rfl
@[simp] theorem Main.setLane_plans (k : Nat) (x : Lane) : (m.setLane k x).plans = m.plans := rfl
@[simp] theorem Main.setLane_bindSeq (k : Nat) (x : Lane) : (m.setLane k x).bindSeq = m.bindSeq := rfl
@[simp] theorem Main.setLane_stamps (k : Nat) (x : Lane) : (m.setLane k x).stamps = m.stamps := rfl
@[simp] theorem Main.setLane_regions (k : Nat) (x : Lane) : (m.setLane k x).regions = m.regions := rfl
@[simp] theorem Main.setLane_pages (k : Nat) (x : Lane) : (m.setLane k x).pages = m.pages := rfl
@[simp] theorem Main.setLane_freeOrder (k : Nat) (x : Lane) : (m.setLane k x).freeOrder = m.freeOrder := rfl
@[simp] theorem Main.setLane_lastWriter (k : Nat) (x : Lane) : (m.setLane k x).lastWriter = m.lastWriter := rfl
@[simp] theorem Main.setLane_scrubbed (k : Nat) (x : Lane) : (m.setLane k x).scrubbed = m.scrubbed := rfl
@[simp] theorem Main.setLane_scrubWant (k : Nat) (x : Lane) : (m.setLane k x).scrubWant = m.scrubWant := rfl
@[simp] theorem Main.setLane_scrub (k : Nat) (x : Lane) : (m.setLane k x).scrub = m.scrub := rfl
@[simp] theorem Main.setLane_h9Defer (k : Nat) (x : Lane) : (m.setLane k x).h9Defer = m.h9Defer := rfl
@[simp] theorem Main.setLane_resp (k : Nat) (x : Lane) : (m.setLane k x).resp = m.resp := rfl
@[simp] theorem Main.setLane_wards (k : Nat) (x : Lane) : (m.setLane k x).wards = m.wards := rfl
@[simp] theorem Main.setLane_cyls (k : Nat) (x : Lane) : (m.setLane k x).cyls = m.cyls := rfl
@[simp] theorem Main.setLane_tums (k : Nat) (x : Lane) : (m.setLane k x).tums = m.tums := rfl
@[simp] theorem Main.setLane_insts (k : Nat) (x : Lane) : (m.setLane k x).insts = m.insts := rfl
@[simp] theorem Main.setLane_log (k : Nat) (x : Lane) : (m.setLane k x).log = m.log := rfl
@[simp] theorem Main.setLane_kw (k : Nat) (x : Lane) : (m.setLane k x).kw = m.kw := rfl
@[simp] theorem Main.setLane_clip (k : Nat) (x : Lane) : (m.setLane k x).clip = m.clip := rfl
@[simp] theorem Main.setLane_lz (k : Nat) (x : Lane) : (m.setLane k x).lz = m.lz := rfl
@[simp] theorem Main.setLane_cam (k : Nat) (x : Lane) : (m.setLane k x).cam = m.cam := rfl
@[simp] theorem Main.setLane_therm (k : Nat) (x : Lane) : (m.setLane k x).therm = m.therm := rfl
@[simp] theorem Main.setLane_attest (k : Nat) (x : Lane) : (m.setLane k x).attest = m.attest := rfl
@[simp] theorem Main.setLane_latched (k : Nat) (x : Lane) : (m.setLane k x).latched = m.latched := rfl
@[simp] theorem Main.tum_setTum_same (t : Nat) (x : Tum) : (m.setTum t x).tum t = x := Tab.get_put_same _ _ _ _
theorem Main.tum_setTum_other (t : Nat) (x : Tum) (j : Nat) (h : j ≠ t) : (m.setTum t x).tum j = m.tum j := Tab.get_put_other _ _ _ _ _ h
@[simp] theorem Main.ctx_setCtx_same (c : Nat) (x : Ctx) : (m.setCtx c x).ctx c = x := Tab.get_put_same _ _ _ _
theorem Main.ctx_setCtx_other (c : Nat) (x : Ctx) (j : Nat) (h : j ≠ c) : (m.setCtx c x).ctx j = m.ctx j := Tab.get_put_other _ _ _ _ _ h
@[simp] theorem Main.inst_setInst_same (k : Nat) (x : Inst) : (m.setInst k x).inst k = x := Tab.get_put_same _ _ _ _
theorem Main.inst_setInst_other (k : Nat) (x : Inst) (j : Nat) (h : j ≠ k) : (m.setInst k x).inst j = m.inst j := Tab.get_put_other _ _ _ _ _ h
@[simp] theorem Main.ward_setWard_same (w : Nat) (x : Ward) : (m.setWard w x).ward w = x := Tab.get_put_same _ _ _ _
theorem Main.ward_setWard_other (w : Nat) (x : Ward) (j : Nat) (h : j ≠ w) : (m.setWard w x).ward j = m.ward j := Tab.get_put_other _ _ _ _ _ h
@[simp] theorem Main.region_setRegion_same (r : Nat) (x : Region) : (m.setRegion r x).region r = x := Tab.get_put_same _ _ _ _
theorem Main.region_setRegion_other (r : Nat) (x : Region) (j : Nat) (h : j ≠ r) : (m.setRegion r x).region j = m.region j := Tab.get_put_other _ _ _ _ _ h
@[simp] theorem Main.page_setPage_same (p : Nat) (x : Page) : (m.setPage p x).page p = x := Tab.get_put_same _ _ _ _
theorem Main.page_setPage_other (p : Nat) (x : Page) (j : Nat) (h : j ≠ p) : (m.setPage p x).page j = m.page j := Tab.get_put_other _ _ _ _ _ h
@[simp] theorem Main.plan_setPlan_same (h : Nat) (x : Plan) : (m.setPlan h x).plan h = x := Tab.get_put_same _ _ _ _
theorem Main.plan_setPlan_other (k : Nat) (x : Plan) (j : Nat) (h : j ≠ k) : (m.setPlan k x).plan j = m.plan j := Tab.get_put_other _ _ _ _ _ h
@[simp] theorem Main.cyl_setCyl_same (c : Nat) (x : Cyl) : (m.setCyl c x).cyl c = x := Tab.get_put_same _ _ _ _
theorem Main.cyl_setCyl_other (c : Nat) (x : Cyl) (j : Nat) (h : j ≠ c) : (m.setCyl c x).cyl j = m.cyl j := Tab.get_put_other _ _ _ _ _ h
@[simp] theorem Main.lane_setLane_same (k : Nat) (x : Lane) : (m.setLane k x).lane k = x := Tab.get_put_same _ _ _ _
theorem Main.lane_setLane_other (k : Nat) (x : Lane) (j : Nat) (h : j ≠ k) : (m.setLane k x).lane j = m.lane j := Tab.get_put_other _ _ _ _ _ h

end Sys2Proof
end

