-- ==== Sys2Proof/Laws/Complete.lean ====
section
/-! SUPPORT. How a command whose effect is one shared form completes. -/

namespace Sys2Proof
open Machine

namespace Machine

/-- An effect of the Warden's side, while it is up. -/
theorem onWarden_warden {c : Instr} {s : State} {f : Main → Main} {P : Main → Prop} (e : exec c s = .next (s.warden f))
    (h : s.wardenUp = true) (p : P { f s.mn with absent := (s.onMn f).absentNow }) : OnWarden c s P := by
  refine ⟨_, ?_, p⟩
  rw [e, State.warden_up _ _ h]; rfl

/-- A host access to the Warden's side, while it is up. -/
theorem onWarden_host {c : Instr} {s : State} {f : Main → Main} {P : Main → Prop} (e : exec c s = .next (s.hostWarden f))
    (h : s.HostUp) (p : P { f s.mn with absent := (s.onMn f).absentNow }) : OnWarden c s P := by
  refine ⟨_, ?_, p⟩
  rw [e, State.hostWarden_up _ _ h.1 h.2]; rfl

/-- A host access with an effect on the whole state. -/
theorem next_hostDo {c : Instr} {s : State} {f : State → State} (e : exec c s = .next (s.hostDo f)) (h : s.HostUp) :
    exec c s = .next (f s) := by rw [e, State.hostDo_up _ _ h.1 h.2]

/-- A host access to what the Latch island or the reset controller holds. -/
theorem next_hostLatch {c : Instr} {s : State} {f : State → State} (e : exec c s = .next (s.hostLatch f)) (h : s.HostUp) :
    exec c s = .next (f s) := by rw [e, State.hostLatch_up _ _ h.1 h.2]

/-- An SDIO command. -/
theorem next_viaSdio {c : Instr} {s : State} {f : State → State} (e : exec c s = .next (s.viaSdio f)) (h : s.CardUp) :
    exec c s = .next (f s) := by rw [e, State.viaSdio_up _ _ h.1 h.2]

/-- An effect of the Latch island. -/
theorem next_latch {c : Instr} {s : State} {f : State → State} (e : exec c s = .next (s.latch f)) (h : s.rc.latchHeld = false) :
    exec c s = .next (f s) := by rw [e]; simp [State.latch, h]

end Machine

/-- Nothing lapses while no request is raised (R305). -/
theorem Main.lapseNew_none (n m : Main) (h : n.hq.length ≤ m.hq.length) : n.lapseNew m = n := by
  unfold Main.lapseNew; rw [if_neg (by simp; omega)]

/-- Nothing lapses while the service ring is enabled. -/
theorem Main.lapseNew_on (n m : Main) (h : n.bit F.SVC_CTL_enable = true) : n.lapseNew m = n := by
  simp [Main.lapseNew, h]

/-- The words of a register file after a word is set. -/
theorem Main.regsBut_setWord (m : Main) (o : Nat) (w : Word) : m.RegsBut (m.setWord o w) [o] := by
  intro x hx; exact Main.word_setWord_other _ _ _ _ (by simpa using hx)

theorem Main.regsBut_setFld (m : Main) (f : Fld) (v : Nat) : m.RegsBut (m.setFld f v) [f.off] := Main.regsBut_setWord _ _ _

theorem Main.ctxsBut_setCtx (m : Main) (c : Nat) (x : Ctx) : m.CtxsBut (m.setCtx c x) c := by
  intro j h; exact Main.ctx_setCtx_other _ _ _ _ h

theorem Mem.but_wrN (m : Mem) (a : Nat) (bs : List Byte) : m.But (Mem.wrN a bs m) a bs.length := by
  intro x h; exact Mem.rd_wrN_out _ _ _ _ h

end Sys2Proof
end

