-- ==== Sys2Proof/Laws/Fld.lean ====
section
/-! SUPPORT. A field of a register word after a field is set: the value where it is the same field, the old one where the fields
do not meet. -/

namespace Sys2Proof

/-- A field that lies in a word. -/
def Fld.In (f : Fld) : Prop := f.lo ≤ f.hi ∧ f.hi < 32

/-- The number of its bits. -/
def Fld.width (f : Fld) : Nat := f.hi + 1 - f.lo

theorem word_parts (w lo n : Nat) : ∃ a r, w = a * 2 ^ (lo + n) + w / 2 ^ lo % 2 ^ n * 2 ^ lo + r ∧ r < 2 ^ lo := by
  refine ⟨w / 2 ^ (lo + n), w % 2 ^ lo, ?_, Nat.mod_lt _ (by positivity)⟩
  have h1 := Nat.div_add_mod w (2 ^ lo)
  have h2 := Nat.div_add_mod (w / 2 ^ lo) (2 ^ n)
  rw [Nat.div_div_eq_div_mul, ← pow_add] at h2
  calc w = 2 ^ lo * (w / 2 ^ lo) + w % 2 ^ lo := h1.symm
    _ = 2 ^ lo * (2 ^ n * (w / 2 ^ (lo + n)) + w / 2 ^ lo % 2 ^ n) + w % 2 ^ lo := by rw [h2]
    _ = _ := by rw [pow_add]; ring

theorem Fld.into_toNat (f : Fld) (v : Nat) (w : Word) (h : f.In) :
    ∃ a r, w.toNat = a * 2 ^ (f.lo + f.width) + Fld.of f w * 2 ^ f.lo + r ∧ r < 2 ^ f.lo ∧
      (f.into v w).toNat = a * 2 ^ (f.lo + f.width) + v % 2 ^ f.width * 2 ^ f.lo + r := by
  obtain ⟨a, r, e, hr⟩ := word_parts w.toNat f.lo f.width
  have hof : Fld.of f w = w.toNat / 2 ^ f.lo % 2 ^ f.width := rfl
  refine ⟨a, r, by rw [hof]; exact e, hr, ?_⟩
  have hv : v % 2 ^ f.width < 2 ^ f.width := Nat.mod_lt _ (by positivity)
  have hw : w.toNat < 2 ^ 32 := w.isLt
  have hlo : f.lo + f.width = f.hi + 1 := by unfold Fld.width; have := h.1; omega
  have hx : w.toNat - Fld.of f w * 2 ^ f.lo = a * 2 ^ (f.lo + f.width) + r := by rw [hof]; omega
  unfold Fld.into
  rw [show f.hi + 1 - f.lo = f.width from rfl, hx, BitVec.toNat_ofNat]
  have hp : (2 : Nat) ^ (f.lo + f.width) = 2 ^ f.lo * 2 ^ f.width := by rw [pow_add]
  have ha : a * 2 ^ (f.lo + f.width) < 2 ^ 32 := by omega
  have hd : (2 : Nat) ^ (f.lo + f.width) ∣ 2 ^ 32 := pow_dvd_pow 2 (by rw [hlo]; have := h.2; omega)
  have hle : a * 2 ^ (f.lo + f.width) + 2 ^ (f.lo + f.width) ≤ 2 ^ 32 := by
    obtain ⟨k, hk⟩ := hd
    have : a < k := by
      by_contra hc
      have : 2 ^ (f.lo + f.width) * k ≤ a * 2 ^ (f.lo + f.width) := by
        rw [Nat.mul_comm a]; exact Nat.mul_le_mul_left _ (by omega)
      omega
    calc a * 2 ^ (f.lo + f.width) + 2 ^ (f.lo + f.width) = (a + 1) * 2 ^ (f.lo + f.width) := by ring
      _ ≤ k * 2 ^ (f.lo + f.width) := Nat.mul_le_mul_right _ this
      _ = 2 ^ 32 := by rw [hk]; ring
  have hs : v % 2 ^ f.width * 2 ^ f.lo + r < 2 ^ (f.lo + f.width) := by
    calc v % 2 ^ f.width * 2 ^ f.lo + r < v % 2 ^ f.width * 2 ^ f.lo + 2 ^ f.lo := by omega
      _ = (v % 2 ^ f.width + 1) * 2 ^ f.lo := by ring
      _ ≤ 2 ^ f.width * 2 ^ f.lo := Nat.mul_le_mul_right _ hv
      _ = _ := by rw [hp]; ring
  rw [Nat.mod_eq_of_lt (by omega)]
  omega

/-- The field that was set reads as the value, cut to its width. -/
theorem Fld.of_into (f : Fld) (v : Nat) (w : Word) (h : f.In) : Fld.of f (f.into v w) = v % 2 ^ f.width := by
  obtain ⟨a, r, _, hr, e⟩ := Fld.into_toNat f v w h
  have hv : v % 2 ^ f.width < 2 ^ f.width := Nat.mod_lt _ (by positivity)
  show (f.into v w).toNat / 2 ^ f.lo % 2 ^ f.width = _
  rw [e]
  have : (a * 2 ^ (f.lo + f.width) + v % 2 ^ f.width * 2 ^ f.lo + r) / 2 ^ f.lo = a * 2 ^ f.width + v % 2 ^ f.width := by
    rw [pow_add, show a * (2 ^ f.lo * 2 ^ f.width) + v % 2 ^ f.width * 2 ^ f.lo + r
        = r + 2 ^ f.lo * (a * 2 ^ f.width + v % 2 ^ f.width) by ring, Nat.add_mul_div_left _ _ (by positivity),
      Nat.div_eq_of_lt hr, Nat.zero_add]
  rw [this, Nat.mul_comm, Nat.mul_add_mod, Nat.mod_eq_of_lt hv]

/-- A field that does not meet it keeps its value. -/
theorem Fld.of_into_other (f g : Fld) (v : Nat) (w : Word) (h : f.In) (hg : g.In) (d : f.hi < g.lo ∨ g.hi < f.lo) :
    Fld.of g (f.into v w) = Fld.of g w := by
  obtain ⟨a, r, e0, hr, e⟩ := Fld.into_toNat f v w h
  have hv : v % 2 ^ f.width < 2 ^ f.width := Nat.mod_lt _ (by positivity)
  have ho : Fld.of f w < 2 ^ f.width := Nat.mod_lt _ (by positivity)
  have hlo : f.lo + f.width = f.hi + 1 := by unfold Fld.width; have := h.1; omega
  show (f.into v w).toNat / 2 ^ g.lo % 2 ^ g.width = w.toNat / 2 ^ g.lo % 2 ^ g.width
  rw [e, e0]
  rcases d with d | d
  · obtain ⟨k, hk⟩ : ∃ k, g.lo = f.lo + f.width + k := ⟨g.lo - (f.lo + f.width), by omega⟩
    have aux : ∀ x, x < 2 ^ f.width → (a * 2 ^ (f.lo + f.width) + x * 2 ^ f.lo + r) / 2 ^ g.lo = a / 2 ^ k := by
      intro x hx
      have hs : x * 2 ^ f.lo + r < 2 ^ (f.lo + f.width) := by
        calc x * 2 ^ f.lo + r < x * 2 ^ f.lo + 2 ^ f.lo := by omega
          _ = (x + 1) * 2 ^ f.lo := by ring
          _ ≤ 2 ^ f.width * 2 ^ f.lo := Nat.mul_le_mul_right _ hx
          _ = _ := by rw [pow_add]; ring
      rw [hk, pow_add _ (f.lo + f.width) k, ← Nat.div_div_eq_div_mul,
        show a * 2 ^ (f.lo + f.width) + x * 2 ^ f.lo + r = (x * 2 ^ f.lo + r) + 2 ^ (f.lo + f.width) * a by ring,
        Nat.add_mul_div_left _ _ (by positivity), Nat.div_eq_of_lt hs, Nat.zero_add]
    rw [aux _ hv, aux _ ho]
  · have hgw : g.lo + g.width = g.hi + 1 := by unfold Fld.width; have := hg.1; omega
    obtain ⟨k, hk⟩ : ∃ k, f.lo = g.lo + g.width + k := ⟨f.lo - (g.lo + g.width), by omega⟩
    have aux : ∀ x, (a * 2 ^ (f.lo + f.width) + x * 2 ^ f.lo + r) / 2 ^ g.lo % 2 ^ g.width = r / 2 ^ g.lo % 2 ^ g.width := by
      intro x
      rw [show a * 2 ^ (f.lo + f.width) + x * 2 ^ f.lo + r
          = r + 2 ^ g.lo * (2 ^ g.width * (2 ^ k * (a * 2 ^ f.width + x))) by
            rw [pow_add 2 f.lo, hk, pow_add, pow_add]; ring,
        Nat.add_mul_div_left _ _ (by positivity), Nat.add_mul_mod_self_left]
    rw [aux, aux]

/-- The same for a register of the Warden's side. -/
theorem Main.fld_setFld_same (m : Main) (f : Fld) (v : Nat) (h : f.In) : (m.setFld f v).fld f = v % 2 ^ f.width := by
  unfold Main.setFld Main.fld
  rw [Main.word_setWord_same, Fld.of_into _ _ _ h]

/-- Fields of one register that do not meet. -/
theorem Main.fld_setFld_apart (m : Main) (f g : Fld) (v : Nat) (h : f.In) (hg : g.In) (o : g.off = f.off)
    (d : f.hi < g.lo ∨ g.hi < f.lo) : (m.setFld f v).fld g = m.fld g := by
  unfold Main.setFld Main.fld
  rw [o, Main.word_setWord_same, Fld.of_into_other _ _ _ _ h hg d]

end Sys2Proof
end

