-- ==== Sys2Proof/Laws/Keep.lean ====
section
/-! SUPPORT. What no effect of any command does: it leaves the queue alone, keeps the hasp's promise, and clears no fuse. One
lemma for each operation on the whole state. -/

namespace Sys2Proof
open Machine

namespace Machine

/-- From `s` to `t` the queue stays, the hasp's promise is kept, and no fuse bit is lost. -/
structure State.Keeps (s t : State) : Prop where
  pending : t.pending = s.pending
  hasp : s.HaspSafe → t.HaspSafe
  blown : s.rc.blown ≤ t.rc.blown
  rev0 : s.rc.revoked0 = true → t.rc.revoked0 = true
  rev1 : s.rc.revoked1 = true → t.rc.revoked1 = true

end Machine

open State in

theorem Machine.State.Keeps.rfl' (s : State) : s.Keeps s := ⟨rfl, id, Nat.le_refl _, id, id⟩

theorem Machine.State.Keeps.trans {s t u : State} (h : s.Keeps t) (k : t.Keeps u) : s.Keeps u :=
  ⟨k.pending.trans h.pending, k.hasp ∘ h.hasp, Nat.le_trans h.blown k.blown, k.rev0 ∘ h.rev0, k.rev1 ∘ h.rev1⟩

/-- What changes neither queue, hasp nor fuses keeps all three. -/

theorem Machine.State.Keeps.of_eq {s t : State} (p : t.pending = s.pending) (h : t.la.hasp = s.la.hasp)
    (b : t.rc.blown = s.rc.blown) (r0 : t.rc.revoked0 = s.rc.revoked0) (r1 : t.rc.revoked1 = s.rc.revoked1) : s.Keeps t := by
  refine ⟨p, ?_, Nat.le_of_eq b.symm, ?_, ?_⟩
  · unfold State.HaspSafe; rw [h]; exact id
  · rw [r0]; exact id
  · rw [r1]; exact id

theorem Machine.State.Keeps.ite {s t u : State} (c : Prop) [Decidable c] (h : s.Keeps t) (k : s.Keeps u) :
    s.Keeps (if c then t else u) := by
  split <;> assumption

/-! ## The hasp itself -/

/-- Outputs driven from the hasp's inputs keep its promise. -/

theorem Hasp.safe_drive (h : Hasp) (a b : Bool) (p : h.pin = true → h.mute = true) : (h.drive a b).Safe := by
  refine ⟨p, rfl, rfl, ?_⟩
  intro m
  have m' : h.muted = true := m
  simp [Hasp.drive, m']

theorem Latch.hasp_redrive (a : Latch) (g : Bool) :
    (a.redrive g).hasp = a.hasp.drive (a.pathOn g 0) (a.pathOn g 1) := rfl

theorem Latch.safe_redrive (a : Latch) (g : Bool) (h : a.hasp.Safe) : (a.redrive g).hasp.Safe := by
  rw [Latch.hasp_redrive]; exact Hasp.safe_drive _ _ _ h.1

theorem Latch.safe_cleared (a : Latch) : a.cleared.hasp.Safe := by
  unfold Latch.cleared; exact Hasp.safe_drive _ _ _ (fun _ => rfl)

@[simp] theorem Latch.hasp_wardenLost (a : Latch) : a.wardenLost.hasp = a.hasp := rfl

@[simp] theorem Latch.hasp_putRecord (a : Latch) (r : WakeRec) : (a.putRecord r).hasp = a.hasp := by
  unfold Latch.putRecord; dsimp only; (repeat' split) <;> rfl

@[simp] theorem Latch.hasp_closeCand (a : Latch) (o x w : Nat) : (a.closeCand o x w).hasp = a.hasp := by
  unfold Latch.closeCand
  split
  · rfl
  · dsimp only; split <;> split <;> simp

@[simp] theorem Latch.hasp_enterMute (a : Latch) : a.enterMute.hasp = a.hasp := by
  unfold Latch.enterMute; simp

theorem Latch.safe_haspTake (a : Latch) (h : Hasp) (g : Bool) (p : h.pin = true → h.mute = true) :
    (a.haspTake h g).hasp.Safe := by
  unfold Latch.haspTake
  dsimp only
  split
  · rw [Latch.hasp_enterMute, Latch.hasp_redrive]; exact Hasp.safe_drive _ _ _ p
  · rw [Latch.hasp_redrive]; exact Hasp.safe_drive _ _ _ p

theorem Hasp.write_inputs (h : Hasp) (v : Word) (p : h.pin = true → h.mute = true) :
    (h.write v).pin = true → (h.write v).mute = true := by
  unfold Hasp.write
  dsimp only
  split
  · intro _; rfl
  · split
    · exact p
    · rename_i hp; intro q; exact absurd q hp

theorem Hasp.edge_inputs (h : Hasp) (b : Bool) : (h.edge b).pin = true → (h.edge b).mute = true := by
  unfold Hasp.edge; intro q; simp at q; simp [q]

/-! ## Effects on the state -/

theorem Machine.State.keeps_onMn (s : State) (f : Main → Main) : s.Keeps (s.onMn f) := .of_eq rfl rfl rfl rfl rfl

theorem Machine.State.keeps_sync (s : State) : s.Keeps s.sync := .of_eq rfl rfl rfl rfl rfl

theorem Machine.State.keeps_onLa (s : State) (f : Latch → Latch) (h : (f s.la).hasp = s.la.hasp) : s.Keeps (s.onLa f) :=
  .of_eq rfl h rfl rfl rfl

theorem Machine.State.keeps_redrive (s : State) : s.Keeps s.redrive :=
  ⟨rfl, Latch.safe_redrive _ _, Nat.le_refl _, id, id⟩

theorem Machine.State.keeps_wakeFrom (s : State) (n : Nat) : s.Keeps (s.wakeFrom n) := by
  unfold State.wakeFrom
  dsimp only
  (repeat' split) <;> exact .of_eq rfl rfl rfl rfl rfl

theorem Machine.State.keeps_warden (s : State) (f : Main → Main) : s.Keeps (s.warden f) := by
  unfold State.warden; split
  · exact .of_eq rfl rfl rfl rfl rfl
  · exact .rfl' s

theorem Machine.State.keeps_hostWarden (s : State) (f : Main → Main) : s.Keeps (s.hostWarden f) := by
  unfold State.hostWarden; (repeat' split)
  · exact .rfl' s
  · exact .of_eq rfl rfl rfl rfl rfl
  · exact s.keeps_wakeFrom 4

theorem Machine.State.keeps_hostDo (s : State) (f : State → State) (h : ∀ t : State, t.Keeps (f t)) : s.Keeps (s.hostDo f) := by
  unfold State.hostDo; (repeat' split)
  · exact .rfl' s
  · exact h s
  · exact s.keeps_wakeFrom 4

theorem Machine.State.keeps_hostLatch (s : State) (f : State → State) (h : ∀ t : State, t.Keeps (f t)) : s.Keeps (s.hostLatch f) := by
  unfold State.hostLatch; (repeat' split)
  · exact .rfl' s
  · exact h s
  · exact (s.keeps_wakeFrom 4).trans (h _)

theorem Machine.State.keeps_latch (s : State) (f : State → State) (h : ∀ t : State, t.Keeps (f t)) : s.Keeps (s.latch f) := by
  unfold State.latch; split
  · exact .rfl' s
  · exact h s

theorem Machine.State.keeps_viaSdio (s : State) (f : State → State) (h : ∀ t : State, t.Keeps (f t)) : s.Keeps (s.viaSdio f) := by
  unfold State.viaSdio; (repeat' split)
  · exact .rfl' s
  · exact h s
  · exact (s.keeps_wakeFrom 5).trans (h _)

theorem Machine.State.keeps_markFwl (s : State) (f : State → State) (h : ∀ t : State, t.Keeps (f t)) : s.Keeps (s.markFwl f) := by
  unfold State.markFwl; dsimp only; split
  · exact h s
  · exact (h s).trans (.of_eq rfl rfl rfl rfl rfl)

theorem Machine.State.keeps_copyRecords (n : Nat) (s : State) : s.Keeps (State.copyRecords n s) := by
  induction n generalizing s with
  | zero => exact .rfl' s
  | succ n ih =>
    unfold State.copyRecords
    dsimp only
    split
    · exact .rfl' s
    · split
      · exact .rfl' s
      · refine State.Keeps.trans ?_ (ih _)
        exact .of_eq rfl rfl rfl rfl rfl

theorem Machine.State.keeps_drain (s : State) : s.Keeps s.drainRecords := s.keeps_copyRecords _

theorem Machine.State.keeps_ward0Off (s : State) : s.Keeps s.ward0Off := by
  unfold State.ward0Off; dsimp only; split <;> exact .of_eq rfl rfl rfl rfl rfl

theorem Machine.State.keeps_endCand (s : State) (a b c : Nat) : s.Keeps (s.endCand a b c) := by
  unfold State.endCand
  dsimp only
  refine State.Keeps.trans ?_ (State.keeps_drain _)
  have h1 : s.Keeps ((s.onLa fun x => x.closeCand a b c).ward0Off) :=
    (s.keeps_onLa _ (by simp)).trans (State.keeps_ward0Off _)
  split
  · exact h1.trans (State.Keeps.trans (State.keeps_onLa _ _ rfl) (State.keeps_wakeFrom _ _))
  · exact h1

theorem Machine.State.keeps_mn (s : State) (m : Main) : s.Keeps { s with mn := m } := .of_eq rfl rfl rfl rfl rfl

theorem Machine.State.keeps_awakePass (s : State) (c : Cand) : s.Keeps (s.awakePass c) := by
  unfold State.awakePass; dsimp only
  (repeat' split) <;> first
    | exact .of_eq rfl rfl rfl rfl rfl
    | exact (s.keeps_mn _).trans (State.keeps_endCand _ _ _ _)

theorem Machine.State.keeps_sleepPass (s : State) (c : Cand) : s.Keeps (s.sleepPass c) := by
  unfold State.sleepPass; dsimp only; split
  · exact State.keeps_endCand _ _ _ _
  · split <;> exact .of_eq rfl rfl rfl rfl rfl

theorem Machine.State.keeps_nowAwake (s : State) : s.Keeps s.nowAwake := by
  unfold State.nowAwake; (repeat' split)
  · exact s.keeps_awakePass _
  · exact .rfl' s
  · exact .rfl' s

theorem Machine.State.keeps_lapseH6 (s : State) : s.Keeps s.lapseH6 := by
  unfold State.lapseH6; (repeat' split)
  · exact .rfl' s
  · dsimp only
    split
    · exact .of_eq rfl rfl rfl rfl rfl
    · exact (s.keeps_mn _).trans (State.keeps_sleepPass _ _)
  · exact .rfl' s

theorem Machine.State.keeps_h6Take (s : State) (r : HingeReq) (a b : Bool) : s.Keeps (s.h6Take r a b) := by
  unfold State.h6Take; split
  · split
    · exact s.keeps_endCand _ _ _
    · exact .rfl' s
  · exact .rfl' s

theorem Machine.State.keeps_beginReset (s : State) (a b c : Nat) (d e : Bool) : s.Keeps (s.beginReset a b c d e) := by
  unfold State.beginReset
  dsimp only
  refine State.Keeps.trans ?_ (State.keeps_redrive _)
  refine State.Keeps.trans ?_ (State.keeps_sync _)
  refine ⟨rfl, ?_, Nat.le_refl _, id, id⟩
  intro h
  show Hasp.Safe (Latch.hasp _)
  dsimp only
  split
  · exact Latch.safe_cleared _
  · exact h

theorem Machine.State.keeps_takeReset (s : State) (a b c : Nat) (d e : Bool) : s.Keeps (s.takeReset a b c d e) := by
  unfold State.takeReset
  split
  · exact .rfl' s
  · exact .rfl' s
  · exact .rfl' s
  · split
    · exact .rfl' s
    · exact s.keeps_beginReset ..
  · split
    · exact .rfl' s
    · exact s.keeps_beginReset ..
  · exact s.keeps_beginReset ..

theorem Machine.State.keeps_powerOn (s : State) (a : Nat) (b : Bool) : s.Keeps (s.powerOn a b) := by
  unfold State.powerOn
  dsimp only
  refine State.Keeps.trans ?_ (State.keeps_sync _)
  exact ⟨rfl, fun _ => Latch.safe_cleared _, Nat.le_refl _, id, id⟩

theorem Machine.State.keeps_askBlock (s : State) (a b : Nat) : s.Keeps (s.askBlock a b) := by
  unfold State.askBlock ResetCtl.startBlk
  dsimp only
  split
  · exact .rfl' s
  · split
    · exact .rfl' s
    · split <;> exact .of_eq rfl rfl rfl rfl rfl

theorem Machine.State.keeps_enterLatch (s : State) (r : Nat) : s.Keeps (s.enterLatch r) := by
  unfold State.enterLatch
  extract_lets m src rc a src2 t
  have h : s.Keeps t := by
    refine State.Keeps.trans ?_ (State.keeps_redrive _)
    refine State.Keeps.trans ?_ (State.keeps_sync _)
    exact .of_eq rfl rfl rfl rfl rfl
  clear_value t
  split
  · split
    · exact h.trans (State.keeps_endCand _ _ _ _)
    · exact h
  · exact h

theorem Machine.State.keeps_afterBoot (s : State) : s.Keeps s.afterBoot := by
  unfold State.afterBoot; (repeat' split)
  · exact .rfl' s
  · exact s.keeps_enterLatch 4
  · exact .of_eq rfl rfl rfl rfl rfl
  · exact .rfl' s

theorem Machine.State.keeps_bootRun (s : State) (n : Nat) : s.Keeps (s.bootRun n) := by
  unfold State.bootRun
  dsimp only
  refine State.Keeps.trans ?_ (State.keeps_afterBoot _)
  exact .of_eq rfl rfl rfl rfl rfl

theorem Machine.State.keeps_bootWait (s : State) : s.Keeps s.bootWait := .of_eq rfl rfl rfl rfl rfl

theorem Machine.State.keeps_bootStart (s : State) : s.Keeps s.bootStart := by
  unfold State.bootStart; (repeat' split)
  · exact s.keeps_bootRun 0
  · exact s.keeps_bootWait
  · exact s.keeps_bootWait

theorem Machine.State.keeps_releaseDone (s : State) : s.Keeps s.releaseDone := by
  unfold State.releaseDone
  split
  · exact .rfl' s
  · extract_lets src t u
    have h : s.Keeps u := State.Keeps.trans (t := t) (.of_eq rfl rfl rfl rfl rfl) (State.keeps_afterBoot t)
    clear_value t u
    split
    · exact h
    · split
      · exact h.trans (State.keeps_beginReset ..)
      · exact h.trans (State.keeps_nowAwake _)

theorem Machine.State.keeps_releaseOne (s : State) (c : Nat) : s.Keeps (s.releaseOne c) := by
  unfold State.releaseOne
  extract_lets src t
  have h : s.Keeps t := .of_eq rfl rfl rfl rfl rfl
  clear_value t
  split
  · split
    · exact (h.trans (State.keeps_onMn _ _)).trans (State.keeps_enterLatch _ _)
    · exact h
  · split
    · exact h.trans (State.keeps_bootStart _)
    · split
      · exact h.trans (State.keeps_afterBoot _)
      · exact h

theorem Machine.State.keeps_releaseGo (n : Nat) (s : State) : s.Keeps (State.releaseGo n s) := by
  induction n generalizing s with
  | zero => exact .rfl' s
  | succ n ih =>
    unfold State.releaseGo
    split
    · exact .rfl' s
    · split
      · exact (s.keeps_releaseOne _).trans (ih _)
      · exact .rfl' s

theorem Machine.State.keeps_releaseLink (s : State) : s.Keeps s.releaseLink := by
  unfold State.releaseLink; dsimp only; split
  · exact .of_eq rfl rfl rfl rfl rfl
  · exact .rfl' s

theorem Machine.State.keeps_release (s : State) : s.Keeps s.release := by
  unfold State.release
  exact ((((s.keeps_releaseGo 24).trans (State.keeps_releaseLink _)).trans (State.keeps_releaseDone _)).trans
    (State.keeps_sync _)).trans (State.keeps_redrive _)

theorem Machine.State.keeps_haspTake (s : State) (h : Hasp) (p : s.HaspSafe → h.pin = true → h.mute = true) :
    s.Keeps (s.haspTake h) := by
  unfold State.haspTake
  dsimp only
  refine State.Keeps.trans ?_ (State.keeps_drain _)
  have h1 : s.Keeps (s.onLa fun a => a.haspTake h s.g1Off) :=
    ⟨rfl, fun k => Latch.safe_haspTake _ _ _ (p k), Nat.le_refl _, id, id⟩
  split
  · exact h1.trans (State.keeps_ward0Off _)
  · exact h1

theorem Machine.State.keeps_muteWrite (s : State) (v : Word) : s.Keeps (s.muteWrite v) :=
  s.keeps_haspTake _ fun k => Hasp.write_inputs _ v k.1

theorem Machine.State.keeps_muteEdge (s : State) (b : Bool) : s.Keeps (s.muteEdge b) := by
  unfold State.muteEdge; split
  · exact .rfl' s
  · exact (s.keeps_haspTake _ fun _ => Hasp.edge_inputs _ b).trans (State.keeps_wakeFrom _ _)

theorem Machine.State.keeps_brownOut (s : State) (x : Supply) : s.Keeps (s.brownOut x) := by
  unfold State.brownOut
  try dsimp only
  (repeat' split) <;> first | exact .rfl' s | exact .of_eq rfl rfl rfl rfl rfl | exact State.keeps_takeReset .. | exact State.keeps_powerOn .. | exact State.keeps_askBlock .. | exact (State.keeps_mn s _).trans (State.keeps_askBlock ..) | exact State.keeps_warden .. | exact State.keeps_enterLatch .. | exact (State.keeps_mn s _).trans (State.keeps_enterLatch ..) | exact State.keeps_endCand .. | exact (State.keeps_mn s _).trans (State.keeps_endCand ..)

theorem Machine.State.keeps_resetN (s : State) (us : Nat) : s.Keeps (s.resetN us) := by
  unfold State.resetN
  extract_lets go t
  have h : s.Keeps t := .ite _ (.of_eq rfl rfl rfl rfl rfl) (.rfl' s)
  clear_value t
  split
  · exact h.trans (State.keeps_takeReset ..)
  · exact h

theorem Machine.State.keeps_watchdog (s : State)  : s.Keeps (s.watchdog ) := by
  unfold State.watchdog
  try dsimp only
  (repeat' split) <;> first | exact .rfl' s | exact .of_eq rfl rfl rfl rfl rfl | exact State.keeps_takeReset .. | exact State.keeps_powerOn .. | exact State.keeps_askBlock .. | exact (State.keeps_mn s _).trans (State.keeps_askBlock ..) | exact State.keeps_warden .. | exact State.keeps_enterLatch .. | exact (State.keeps_mn s _).trans (State.keeps_enterLatch ..) | exact State.keeps_endCand .. | exact (State.keeps_mn s _).trans (State.keeps_endCand ..)

theorem Machine.State.keeps_softReset (s : State) (a b : Bool) : s.Keeps (s.softReset a b) := by
  unfold State.softReset
  try dsimp only
  (repeat' split) <;> first | exact .rfl' s | exact .of_eq rfl rfl rfl rfl rfl | exact State.keeps_takeReset .. | exact State.keeps_powerOn .. | exact State.keeps_askBlock .. | exact (State.keeps_mn s _).trans (State.keeps_askBlock ..) | exact State.keeps_warden .. | exact State.keeps_enterLatch .. | exact (State.keeps_mn s _).trans (State.keeps_enterLatch ..) | exact State.keeps_endCand .. | exact (State.keeps_mn s _).trans (State.keeps_endCand ..)

theorem Machine.State.keeps_flr (s : State)  : s.Keeps (s.flr ) := by
  unfold State.flr
  try dsimp only
  (repeat' split) <;> first | exact .rfl' s | exact .of_eq rfl rfl rfl rfl rfl | exact State.keeps_takeReset .. | exact State.keeps_powerOn .. | exact State.keeps_askBlock .. | exact (State.keeps_mn s _).trans (State.keeps_askBlock ..) | exact State.keeps_warden .. | exact State.keeps_enterLatch .. | exact (State.keeps_mn s _).trans (State.keeps_enterLatch ..) | exact State.keeps_endCand .. | exact (State.keeps_mn s _).trans (State.keeps_endCand ..)

theorem Machine.State.keeps_linkReset (s : State) (e : LinkEvent) : s.Keeps (s.linkReset e) := by
  unfold State.linkReset
  try dsimp only
  (repeat' split) <;> first | exact .rfl' s | exact .of_eq rfl rfl rfl rfl rfl | exact State.keeps_takeReset .. | exact State.keeps_powerOn .. | exact State.keeps_askBlock .. | exact (State.keeps_mn s _).trans (State.keeps_askBlock ..) | exact State.keeps_warden .. | exact State.keeps_enterLatch .. | exact (State.keeps_mn s _).trans (State.keeps_enterLatch ..) | exact State.keeps_endCand .. | exact (State.keeps_mn s _).trans (State.keeps_endCand ..)

theorem Machine.State.keeps_blockGo (s : State) (v : Word) : s.Keeps (s.blockGo v) := by
  unfold State.blockGo; dsimp only; split
  · exact (s.keeps_onMn _).trans (State.keeps_askBlock ..)
  · exact s.keeps_onMn _

theorem Machine.State.keeps_clockFailure (s : State) (i : Island) : s.Keeps (s.clockFailure i) := by
  unfold State.clockFailure
  try dsimp only
  (repeat' split) <;> first | exact .rfl' s | exact .of_eq rfl rfl rfl rfl rfl | exact State.keeps_takeReset .. | exact State.keeps_powerOn .. | exact State.keeps_askBlock .. | exact (State.keeps_mn s _).trans (State.keeps_askBlock ..) | exact State.keeps_warden .. | exact State.keeps_enterLatch .. | exact (State.keeps_mn s _).trans (State.keeps_enterLatch ..) | exact State.keeps_endCand .. | exact (State.keeps_mn s _).trans (State.keeps_endCand ..)

theorem Machine.State.keeps_lockUp (s : State) (i : Island) : s.Keeps (s.lockUp i) := by
  unfold State.lockUp
  try dsimp only
  (repeat' split) <;> first | exact .rfl' s | exact .of_eq rfl rfl rfl rfl rfl | exact State.keeps_takeReset .. | exact State.keeps_powerOn .. | exact State.keeps_askBlock .. | exact (State.keeps_mn s _).trans (State.keeps_askBlock ..) | exact State.keeps_warden .. | exact State.keeps_enterLatch .. | exact (State.keeps_mn s _).trans (State.keeps_enterLatch ..) | exact State.keeps_endCand .. | exact (State.keeps_mn s _).trans (State.keeps_endCand ..)

theorem Machine.State.keeps_debugReset (s : State) (a : Bool) (b : Option (Fin 144)) : s.Keeps (s.debugReset a b) := by
  unfold State.debugReset
  try dsimp only
  (repeat' split) <;> first | exact .rfl' s | exact .of_eq rfl rfl rfl rfl rfl | exact State.keeps_takeReset .. | exact State.keeps_powerOn .. | exact State.keeps_askBlock .. | exact (State.keeps_mn s _).trans (State.keeps_askBlock ..) | exact State.keeps_warden .. | exact State.keeps_enterLatch .. | exact (State.keeps_mn s _).trans (State.keeps_enterLatch ..) | exact State.keeps_endCand .. | exact (State.keeps_mn s _).trans (State.keeps_endCand ..)

theorem Machine.State.keeps_latchRetry (s : State)  : s.Keeps (s.latchRetry ) := by
  unfold State.latchRetry
  try dsimp only
  (repeat' split) <;> first | exact .rfl' s | exact .of_eq rfl rfl rfl rfl rfl | exact State.keeps_takeReset .. | exact State.keeps_powerOn .. | exact State.keeps_askBlock .. | exact (State.keeps_mn s _).trans (State.keeps_askBlock ..) | exact State.keeps_warden .. | exact State.keeps_enterLatch .. | exact (State.keeps_mn s _).trans (State.keeps_enterLatch ..) | exact State.keeps_endCand .. | exact (State.keeps_mn s _).trans (State.keeps_endCand ..)

theorem Machine.State.keeps_stretchEnd (s : State) : s.Keeps s.stretchEnd := by
  unfold State.stretchEnd
  split
  · exact .rfl' s
  · extract_lets src t
    have h : s.Keeps t := .of_eq rfl rfl rfl rfl rfl
    clear_value t
    split
    · exact h.trans (State.keeps_enterLatch ..)
    · exact h.trans (State.keeps_release _)

theorem Machine.State.keeps_holdWard (s : State) (w : Nat) : s.Keeps (s.holdWard w) := .of_eq rfl rfl rfl rfl rfl

theorem ResetCtl.startBlk_fuses (r : ResetCtl) :
    r.startBlk.blown = r.blown ∧ r.startBlk.revoked0 = r.revoked0 ∧ r.startBlk.revoked1 = r.revoked1 := by
  unfold ResetCtl.startBlk; split <;> exact ⟨rfl, rfl, rfl⟩

theorem Machine.State.keeps_blockHold (s : State) (b : Bool) : s.Keeps (s.blockHold b) := by
  unfold State.blockHold; split
  · exact .of_eq rfl rfl rfl rfl rfl
  · exact .rfl' s

theorem Machine.State.keeps_blockHoldEnd (s : State)  : s.Keeps (s.blockHoldEnd ) := by
  unfold State.blockHoldEnd
  try dsimp only
  (repeat' split) <;> first | exact .rfl' s | exact .of_eq rfl rfl rfl rfl rfl | exact State.keeps_takeReset .. | exact State.keeps_powerOn .. | exact State.keeps_askBlock .. | exact (State.keeps_mn s _).trans (State.keeps_askBlock ..) | exact State.keeps_warden .. | exact State.keeps_enterLatch .. | exact (State.keeps_mn s _).trans (State.keeps_enterLatch ..) | exact State.keeps_endCand .. | exact (State.keeps_mn s _).trans (State.keeps_endCand ..)

theorem Machine.State.keeps_blockRelease (s : State) : s.Keeps s.blockRelease := by
  unfold State.blockRelease; (repeat' split)
  · obtain ⟨a, b, c⟩ := ResetCtl.startBlk_fuses { s.rc with blk := none }
    exact .of_eq rfl rfl a b c
  · exact .rfl' s
  · exact .rfl' s

theorem Machine.State.keeps_blockClockLost (s : State) (n : Nat) : s.Keeps (s.blockClockLost n) := by
  unfold State.blockClockLost; (repeat' split)
  · obtain ⟨a, b, c⟩ := ResetCtl.startBlk_fuses { s.rc with blk := none }
    exact .of_eq rfl rfl a b c
  · exact .rfl' s
  · exact .rfl' s

theorem Machine.State.keeps_clockGood (s : State) (i : Island) (b : Bool) : s.Keeps (s.clockGood i b) := by
  unfold State.clockGood
  dsimp only
  split
  · exact .of_eq rfl rfl rfl rfl rfl
  · refine State.Keeps.trans ?_ (State.keeps_release _)
    exact .of_eq rfl rfl rfl rfl rfl
  · split
    · refine State.Keeps.trans ?_ (State.keeps_releaseLink _)
      refine State.Keeps.trans ?_ (State.keeps_blockRelease _)
      exact .of_eq rfl rfl rfl rfl rfl
    · exact .rfl' s
  · exact .rfl' s

theorem Machine.State.keeps_clockHold (s : State) (i : Island) : s.Keeps (s.clockHold i) := by
  unfold State.clockHold
  split
  · exact .rfl' s
  · (repeat' split) <;> first
      | exact .rfl' s
      | exact .of_eq rfl rfl rfl rfl rfl
      | exact (s.keeps_onMn _).trans (State.keeps_enterLatch ..)
      | exact (s.keeps_holdWard _).trans (State.keeps_release _)
      | exact s.keeps_blockClockLost _

theorem Machine.State.keeps_resetForce (s : State) (w : Word) : s.Keeps (s.resetForce w) := by
  unfold State.resetForce; split
  · exact s.keeps_onMn _
  · dsimp only; split
    · exact .rfl' s
    · exact s.keeps_onMn _

theorem Machine.State.keeps_railGood (s : State) (r : Nat) : s.Keeps (s.railGood r) := by
  unfold State.railGood
  try dsimp only
  (repeat' split) <;> first | exact .rfl' s | exact .of_eq rfl rfl rfl rfl rfl | exact State.keeps_takeReset .. | exact State.keeps_powerOn .. | exact State.keeps_askBlock .. | exact (State.keeps_mn s _).trans (State.keeps_askBlock ..) | exact State.keeps_warden .. | exact State.keeps_enterLatch .. | exact (State.keeps_mn s _).trans (State.keeps_enterLatch ..) | exact State.keeps_endCand .. | exact (State.keeps_mn s _).trans (State.keeps_endCand ..)

theorem Machine.State.keeps_railTimeout (s : State) (r : Nat) : s.Keeps (s.railTimeout r) := by
  unfold State.railTimeout
  try dsimp only
  (repeat' split) <;> first | exact .rfl' s | exact .of_eq rfl rfl rfl rfl rfl | exact State.keeps_takeReset .. | exact State.keeps_powerOn .. | exact State.keeps_askBlock .. | exact (State.keeps_mn s _).trans (State.keeps_askBlock ..) | exact State.keeps_warden .. | exact State.keeps_enterLatch .. | exact (State.keeps_mn s _).trans (State.keeps_enterLatch ..) | exact State.keeps_endCand .. | exact (State.keeps_mn s _).trans (State.keeps_endCand ..)

theorem Machine.State.keeps_railRetry (s : State)  : s.Keeps (s.railRetry ) := by
  unfold State.railRetry
  try dsimp only
  (repeat' split) <;> first | exact .rfl' s | exact .of_eq rfl rfl rfl rfl rfl | exact State.keeps_takeReset .. | exact State.keeps_powerOn .. | exact State.keeps_askBlock .. | exact (State.keeps_mn s _).trans (State.keeps_askBlock ..) | exact State.keeps_warden .. | exact State.keeps_enterLatch .. | exact (State.keeps_mn s _).trans (State.keeps_enterLatch ..) | exact State.keeps_endCand .. | exact (State.keeps_mn s _).trans (State.keeps_endCand ..)

theorem Machine.State.keeps_hostLinkUp (s : State) : s.Keeps s.hostLinkUp := by
  unfold State.hostLinkUp; split
  · exact .rfl' s
  · refine State.Keeps.trans ?_ (State.keeps_drain _)
    exact .of_eq rfl rfl rfl rfl rfl

theorem Machine.State.keeps_cacheWrite (s : State) (bs : List Byte) : s.Keeps (s.cacheWrite bs) := by
  unfold State.cacheWrite; dsimp only; split
  · exact .rfl' s
  · split
    · exact s.keeps_onMn _
    · exact .of_eq rfl rfl rfl rfl rfl

theorem Machine.State.keeps_takeImage (s : State) (x : ImgSource) (bs : List Byte) : s.Keeps (s.takeImage x bs) := by
  unfold State.takeImage
  extract_lets a b c t bs' e ws fw slot version flags arm k up kill rc0 rc m la u v
  have h : s.Keeps t := .of_eq rfl rfl rfl rfl rfl
  split
  · exact h.trans (State.keeps_onMn _ _)
  · have k : s.Keeps u := by
      refine ⟨rfl, id, Nat.le_add_right _ _, ?_, ?_⟩
      · intro q; show (_ || _) = true; rw [Bool.or_eq_true]; exact .inl q
      · intro q; show (_ || _) = true; rw [Bool.or_eq_true]; exact .inl q
    refine State.Keeps.trans ?_ (State.keeps_bootRun _ _)
    exact .ite _ k (k.trans (State.keeps_cacheWrite _ _))

theorem Machine.State.keeps_bootImage (s : State) (x : ImgSource) : s.Keeps (s.bootImage x) := by
  unfold State.bootImage
  split
  · exact .rfl' s
  · cases x with
    | psram =>
      dsimp only
      split
      · exact .rfl' s
      · split
        · exact s.keeps_onMn _
        · split
          · exact s.keeps_onMn _
          · exact s.keeps_takeImage ..
    | host =>
      dsimp only
      split
      · exact .rfl' s
      · exact s.keeps_takeImage ..
    | sdio =>
      dsimp only
      split
      · exact s.keeps_takeImage ..
      · exact .rfl' s

theorem Machine.State.keeps_bootGo (s : State)  : s.Keeps (s.bootGo ) := by
  unfold State.bootGo
  try dsimp only
  (repeat' split) <;> first | exact .rfl' s | exact .of_eq rfl rfl rfl rfl rfl | exact State.keeps_takeReset .. | exact State.keeps_powerOn .. | exact State.keeps_askBlock .. | exact (State.keeps_mn s _).trans (State.keeps_askBlock ..) | exact State.keeps_warden .. | exact State.keeps_enterLatch .. | exact (State.keeps_mn s _).trans (State.keeps_enterLatch ..) | exact State.keeps_endCand .. | exact (State.keeps_mn s _).trans (State.keeps_endCand ..)

theorem Machine.State.keeps_fwlStart (s : State) (n : Nat) : s.Keeps (s.fwlStart n) := by
  unfold State.fwlStart
  try dsimp only
  (repeat' split) <;> first | exact .rfl' s | exact .of_eq rfl rfl rfl rfl rfl | exact State.keeps_takeReset .. | exact State.keeps_powerOn .. | exact State.keeps_askBlock .. | exact (State.keeps_mn s _).trans (State.keeps_askBlock ..) | exact State.keeps_warden .. | exact State.keeps_enterLatch .. | exact (State.keeps_mn s _).trans (State.keeps_enterLatch ..) | exact State.keeps_endCand .. | exact (State.keeps_mn s _).trans (State.keeps_endCand ..)

theorem Machine.State.keeps_fwlData (s : State) (b : List Byte) : s.Keeps (s.fwlData b) := by
  unfold State.fwlData
  try dsimp only
  (repeat' split) <;> first | exact .rfl' s | exact .of_eq rfl rfl rfl rfl rfl | exact State.keeps_takeReset .. | exact State.keeps_powerOn .. | exact State.keeps_askBlock .. | exact (State.keeps_mn s _).trans (State.keeps_askBlock ..) | exact State.keeps_warden .. | exact State.keeps_enterLatch .. | exact (State.keeps_mn s _).trans (State.keeps_enterLatch ..) | exact State.keeps_endCand .. | exact (State.keeps_mn s _).trans (State.keeps_endCand ..)

theorem Machine.State.keeps_fwlAbort (s : State)  : s.Keeps (s.fwlAbort ) := by
  unfold State.fwlAbort
  try dsimp only
  (repeat' split) <;> first | exact .rfl' s | exact .of_eq rfl rfl rfl rfl rfl | exact State.keeps_takeReset .. | exact State.keeps_powerOn .. | exact State.keeps_askBlock .. | exact (State.keeps_mn s _).trans (State.keeps_askBlock ..) | exact State.keeps_warden .. | exact State.keeps_enterLatch .. | exact (State.keeps_mn s _).trans (State.keeps_enterLatch ..) | exact State.keeps_endCand .. | exact (State.keeps_mn s _).trans (State.keeps_endCand ..)

theorem Machine.State.keeps_retentionLoss (s : State)  : s.Keeps (s.retentionLoss ) := by
  unfold State.retentionLoss
  try dsimp only
  (repeat' split) <;> first | exact .rfl' s | exact .of_eq rfl rfl rfl rfl rfl | exact State.keeps_takeReset .. | exact State.keeps_powerOn .. | exact State.keeps_askBlock .. | exact (State.keeps_mn s _).trans (State.keeps_askBlock ..) | exact State.keeps_warden .. | exact State.keeps_enterLatch .. | exact (State.keeps_mn s _).trans (State.keeps_enterLatch ..) | exact State.keeps_endCand .. | exact (State.keeps_mn s _).trans (State.keeps_endCand ..)

theorem Machine.State.keeps_enterSleep (s : State) (t : Nat) : s.Keeps (s.enterSleep t) := by
  unfold State.enterSleep
  extract_lets m0 m1 m2 r0 r1 r2
  refine State.Keeps.trans ?_ (State.keeps_sync _)
  exact .of_eq rfl rfl (by show (if _ then _ else _ : ResetCtl).blown = _; split <;> rfl)
    (by show (if _ then _ else _ : ResetCtl).revoked0 = _; split <;> rfl)
    (by show (if _ then _ else _ : ResetCtl).revoked1 = _; split <;> rfl)

theorem Machine.State.keeps_sleepProceed (s : State) : s.Keeps s.sleepProceed := by
  unfold State.sleepProceed; split
  · exact .rfl' s
  · exact ((s.keeps_enterSleep _).trans (State.keeps_redrive _)).trans (State.keeps_lapseH6 _)

theorem Machine.State.keeps_wakeComplete (s : State) (b : Bool) : s.Keeps (s.wakeComplete b) := by
  unfold State.wakeComplete
  refine State.Keeps.ite _ (.rfl' s) ?_
  refine State.Keeps.trans ?_ (State.keeps_nowAwake _)
  refine State.Keeps.trans ?_ (State.keeps_drain _)
  refine State.Keeps.trans ?_ (State.keeps_redrive _)
  exact .of_eq rfl rfl rfl rfl rfl

theorem Machine.State.keeps_thermAlert (s : State) (i : Island) (t : Int) : s.Keeps (s.thermAlert i t) := by
  unfold State.thermAlert; split
  · exact .rfl' s
  · extract_lets a b c
    refine State.Keeps.trans ?_ (State.keeps_wakeFrom _ _)
    have h : s.Keeps a := .ite _ (s.keeps_onMn _) (.rfl' s)
    have k : s.Keeps c := h.trans (.of_eq rfl rfl rfl rfl rfl)
    exact .ite _ (k.trans (State.keeps_onMn _ _)) (k.trans (State.keeps_onMn _ _))

theorem Machine.State.keeps_sleepGo (s : State) (v : Word) : s.Keeps (s.sleepGo v) := by
  unfold State.sleepGo
  try dsimp only
  (repeat' split) <;> first | exact .rfl' s | exact .of_eq rfl rfl rfl rfl rfl | exact State.keeps_takeReset .. | exact State.keeps_powerOn .. | exact State.keeps_askBlock .. | exact (State.keeps_mn s _).trans (State.keeps_askBlock ..) | exact State.keeps_warden .. | exact State.keeps_enterLatch .. | exact (State.keeps_mn s _).trans (State.keeps_enterLatch ..) | exact State.keeps_endCand .. | exact (State.keeps_mn s _).trans (State.keeps_endCand ..)

theorem Machine.State.keeps_sleepTimeout (s : State)  : s.Keeps (s.sleepTimeout ) := by
  unfold State.sleepTimeout
  try dsimp only
  (repeat' split) <;> first | exact .rfl' s | exact .of_eq rfl rfl rfl rfl rfl | exact State.keeps_takeReset .. | exact State.keeps_powerOn .. | exact State.keeps_askBlock .. | exact (State.keeps_mn s _).trans (State.keeps_askBlock ..) | exact State.keeps_warden .. | exact State.keeps_enterLatch .. | exact (State.keeps_mn s _).trans (State.keeps_enterLatch ..) | exact State.keeps_endCand .. | exact (State.keeps_mn s _).trans (State.keeps_endCand ..)

theorem Machine.State.keeps_attestGo (s : State)  : s.Keeps (s.attestGo ) := by
  unfold State.attestGo
  try dsimp only
  (repeat' split) <;> first | exact .rfl' s | exact .of_eq rfl rfl rfl rfl rfl | exact State.keeps_takeReset .. | exact State.keeps_powerOn .. | exact State.keeps_askBlock .. | exact (State.keeps_mn s _).trans (State.keeps_askBlock ..) | exact State.keeps_warden .. | exact State.keeps_enterLatch .. | exact (State.keeps_mn s _).trans (State.keeps_enterLatch ..) | exact State.keeps_endCand .. | exact (State.keeps_mn s _).trans (State.keeps_endCand ..)

theorem Machine.State.keeps_attestDone (s : State)  : s.Keeps (s.attestDone ) := by
  unfold State.attestDone
  try dsimp only
  (repeat' split) <;> first | exact .rfl' s | exact .of_eq rfl rfl rfl rfl rfl | exact State.keeps_takeReset .. | exact State.keeps_powerOn .. | exact State.keeps_askBlock .. | exact (State.keeps_mn s _).trans (State.keeps_askBlock ..) | exact State.keeps_warden .. | exact State.keeps_enterLatch .. | exact (State.keeps_mn s _).trans (State.keeps_enterLatch ..) | exact State.keeps_endCand .. | exact (State.keeps_mn s _).trans (State.keeps_endCand ..)

theorem Machine.State.keeps_latchIsland (s : State) (c h o r : Nat) : s.Keeps (s.latchIsland c h o r) := by
  unfold State.latchIsland; dsimp only; (repeat' split)
  · exact s.keeps_onMn _
  · exact .rfl' s
  · exact .of_eq rfl rfl rfl rfl rfl
  · exact s.keeps_onMn _

theorem Machine.State.keeps_strike (s : State) (c h : Nat) : s.Keeps (s.strike c h) := by
  unfold State.strike; dsimp only; split
  · exact (s.keeps_onMn _).trans (State.keeps_latchIsland ..)
  · exact s.keeps_onMn _

theorem Machine.State.keeps_threshold (s : State) (i : Nat) : s.Keeps (s.threshold i) := by
  unfold State.threshold; dsimp only; split
  · exact .rfl' s
  · exact (s.keeps_onMn _).trans (State.keeps_strike ..)

theorem Machine.State.keeps_marker (s : State) (c h : Nat) : s.Keeps (s.marker c h) := by
  unfold State.marker; dsimp only; (repeat' split)
  · exact .rfl' s
  · exact .rfl' s
  · exact s.keeps_latchIsland ..
  · exact Keeps.trans (t := { s with free := s.free + 1 }) (.of_eq rfl rfl rfl rfl rfl) (State.keeps_latchIsland ..)

theorem Machine.State.keeps_readEffect (s : State) (o : Nat) : s.Keeps (s.readEffect o) := by
  unfold State.readEffect; dsimp only; (repeat' split) <;> first | exact .rfl' s | exact .of_eq rfl rfl rfl rfl rfl

theorem Machine.State.keeps_answer (s : State) (bs : List Byte) : s.Keeps (s.answer bs) := .of_eq rfl rfl rfl rfl rfl

theorem Machine.State.keeps_readBar (s : State) (o : Nat) : s.Keeps (s.readBar o) := by
  unfold State.readBar; dsimp only; (repeat' split)
  · exact .rfl' s
  · exact (s.keeps_readEffect _).trans (State.keeps_answer ..)
  · exact ((s.keeps_wakeFrom _).trans (State.keeps_readEffect ..)).trans (State.keeps_answer ..)
  · exact (s.keeps_wakeFrom _).trans (State.keeps_answer ..)

theorem Machine.State.keeps_readAny (s : State) (o : Nat) : s.Keeps (s.readAny o) := by
  unfold State.readAny; split
  · exact s.keeps_readBar o
  · exact s.keeps_viaSdio _ fun t => t.keeps_answer _

theorem Machine.State.keeps_lapse (rs : List HingeReq) (s : State) :
    s.Keeps (rs.foldl (fun (s : State) (r : HingeReq) => if r.hinge = 6 then s.h6Take r true true else s) s) := by
  induction rs generalizing s with
  | nil => exact .rfl' s
  | cons r rs ih => exact State.Keeps.trans (.ite _ (s.keeps_h6Take ..) (.rfl' s)) (ih _)

theorem Machine.State.keeps_lapseSvc (s : State) (f : Main → Main × List HingeReq) : s.Keeps (s.lapseSvc f) := by
  unfold State.lapseSvc
  exact (s.keeps_mn _).trans (State.keeps_lapse ..)

theorem Machine.State.keeps_h6Answer (s : State) (n : Nat) : s.Keeps (s.h6Answer n) := by
  unfold State.h6Answer; split
  · exact (s.keeps_mn _).trans (State.keeps_h6Take ..)
  · exact .rfl' s
/-! ## The Latch island -/

@[simp] theorem Latch.hasp_pump (n : Nat) (a : Latch) : (Latch.pump n a).hasp = a.hasp := by
  induction n generalizing a with
  | zero => rfl
  | succ n ih =>
    unfold Latch.pump
    dsimp only
    (repeat' split) <;> first | rfl | (rw [ih]; try (split <;> rfl))

@[simp] theorem Latch.hasp_pumpAll (a : Latch) : a.pumpAll.hasp = a.hasp := Latch.hasp_pump _ _

@[simp] theorem Latch.hasp_setFld (a : Latch) (f : Fld) (v : Nat) : (a.setFld f v).hasp = a.hasp := rfl

@[simp] theorem Latch.hasp_setStream (a : Latch) (r : ARing) (x : AStream) : (a.setStream r x).hasp = a.hasp := by
  cases r <;> rfl

@[simp] theorem Latch.hasp_takePair (a : Latch) (n : Nat) (m : Bool) (x y : Nat) : (a.takePair n m x y).hasp = a.hasp := by
  unfold Latch.takePair
  dsimp only
  (repeat' split) <;> rfl

@[simp] theorem Latch.hasp_groupFrame (a : Latch) (g : Nat) (x : List (List Nat)) : (a.groupFrame g x).hasp = a.hasp := by
  unfold Latch.groupFrame; dsimp only; split <;> rfl

theorem Latch.hasp_fold {α : Type} (f : Latch → α → Latch) (h : ∀ a x, (f a x).hasp = a.hasp) (l : List α) (a : Latch) :
    (l.foldl f a).hasp = a.hasp := by
  induction l generalizing a with
  | nil => rfl
  | cons x l ih => exact (ih _).trans (h a x)

@[simp] theorem Latch.hasp_wakeSamples (a : Latch) (x : List (Nat × Nat)) : (a.wakeSamples x).hasp = a.hasp := by
  unfold Latch.wakeSamples
  extract_lets m q n p g c1 c2 c3 b c st qu
  have e : b.hasp = a.hasp := by
    show (if _ then _ else _ : Latch).hasp = _
    split <;> rfl
  have f : c.hasp = b.hasp := by
    refine Latch.hasp_fold _ ?_ _ _
    intro a i
    dsimp only
    split
    · rw [Latch.hasp_takePair]
    · rfl
  clear_value c
  rw [Latch.hasp_pumpAll]
  exact f.trans e

@[simp] theorem Latch.hasp_stage0 (a : Latch) (n : Nat) (v : Bool) : (a.stage0 n v).hasp = a.hasp := by
  unfold Latch.stage0
  dsimp only
  (repeat' split) <;> rfl

@[simp] theorem Latch.hasp_stage1 (x : List (Nat × Nat)) (a : Latch) : (Latch.stage1 x a).hasp = a.hasp := by
  induction x generalizing a with
  | nil => rfl
  | cons p x ih =>
    unfold Latch.stage1
    (repeat' split) <;> first | rfl | rw [ih]

@[simp] theorem Latch.hasp_startSpool (a : Latch) (n : Nat) : (a.startSpool n).hasp = a.hasp := by
  unfold Latch.startSpool
  split
  · rfl
  · dsimp only; split <;> rfl

theorem Machine.State.keeps_flagBlocks (s : State) (n : Nat) : s.Keeps (s.flagBlocks n) := by
  unfold State.flagBlocks; exact .ite _ (s.keeps_onLa _ rfl) (.rfl' s)

theorem Machine.State.keeps_passed (s : State) (c : Cand) : s.Keeps (s.passed c) := by
  unfold State.passed
  extract_lets d t
  have h : s.Keeps t := s.keeps_onLa _ (by simp)
  split
  · exact h.trans (State.keeps_awakePass ..)
  · exact h.trans ((State.keeps_onLa _ _ rfl).trans (State.keeps_wakeFrom _ _))
  · exact h.trans (State.keeps_endCand ..)
  · exact h.trans (State.keeps_sleepPass ..)

theorem Machine.State.keeps_wakeFrame (s : State) (p : List (Nat × Nat)) (g0 g1 : List (List Nat)) (v : Bool)
    (x : List (Nat × Nat)) : s.Keeps (s.wakeFrame p g0 g1 v x) := by
  unfold State.wakeFrame
  extract_lets b a a1 a2 f a3 was t
  have e1 : a1.hasp = a.hasp := by show (if _ then _ else _ : Latch).hasp = _; split <;> simp
  have e2 : a2.hasp = a1.hasp := by show (if _ then _ else _ : Latch).hasp = _; split <;> simp
  have e3 : a3.hasp = a2.hasp := by show (if _ then _ else _ : Latch).hasp = _; split <;> simp
  have h : s.Keeps t := by
    refine State.Keeps.trans ?_ (State.keeps_flagBlocks _ _)
    exact .of_eq rfl (e3.trans (e2.trans e1)) rfl rfl rfl
  clear_value t
  split
  · exact .ite _ (h.trans (State.keeps_passed ..)) h
  · exact h

theorem Machine.State.keeps_kwExpiry (s : State) : s.Keeps s.kwExpiry := by
  unfold State.kwExpiry; split
  · exact .ite _ (s.keeps_onLa _ (by simp)) (.rfl' s)
  · exact .rfl' s

theorem Machine.State.keeps_verifyScore (s : State) (w : Word) (n : Nat) : s.Keeps (s.verifyScore w n) := by
  unfold State.verifyScore; split
  · split
    · exact .rfl' s
    · exact s.keeps_endCand ..
  · exact .rfl' s

theorem Machine.State.keeps_scored (s : State) (w : Word) : s.Keeps (s.scored w) := by
  unfold State.scored; exact (s.keeps_verifyScore _ _).trans (.of_eq rfl rfl rfl rfl rfl)

theorem Machine.State.keeps_verifyExpiry (s : State) : s.Keeps s.verifyExpiry := by
  unfold State.verifyExpiry; split
  · exact .ite _ (s.keeps_endCand ..) (.rfl' s)
  · exact .rfl' s

theorem Machine.State.keeps_granuleFail (s : State) : s.Keeps s.granuleFail := by
  unfold State.granuleFail; split
  · exact .ite _ ((s.keeps_onLa _ rfl).trans (State.keeps_endCand ..)) (.rfl' s)
  · exact .rfl' s

theorem Machine.State.keeps_writeBlock (s : State) (r : ARing) : s.Keeps (s.writeBlock r) := by
  unfold State.writeBlock; dsimp only; split
  · exact .rfl' s
  · split
    · exact .rfl' s
    · refine .of_eq rfl ?_ rfl rfl rfl
      show (if _ then _ else _ : Latch).hasp = _
      split <;> simp

theorem Machine.State.keeps_writeBlocks (r : ARing) (l : List Nat) (s : State) :
    s.Keeps (l.foldl (fun s _ => State.writeBlock s r) s) := by
  induction l generalizing s with
  | nil => exact .rfl' s
  | cons r rs ih => exact (s.keeps_writeBlock _).trans (ih _)

theorem Machine.State.keeps_streamStart (s : State) (r : ARing) : s.Keeps (s.streamStart r) := by
  unfold State.streamStart; split
  · exact (s.keeps_onLa _ rfl).trans (State.keeps_drain _)
  · exact .ite _ (s.keeps_onLa _ rfl) (s.keeps_onLa _ (by simp))
  · exact s.keeps_onLa _ (by simp)

theorem Machine.State.keeps_streamStop (s : State) (r : ARing) : s.Keeps (s.streamStop r) := by
  unfold State.streamStop; split
  · exact s.keeps_onLa _ rfl
  · split
    · exact .rfl' s
    · exact (s.keeps_onLa _ (by simp)).trans (State.keeps_writeBlocks ..)

theorem Machine.State.keeps_f2Start (s : State) : s.Keeps s.f2Start := by
  unfold State.f2Start; split
  · exact s.keeps_onLa _ rfl
  · exact (s.keeps_onLa _ (by simp)).trans (State.keeps_flagBlocks ..)

theorem Machine.State.keeps_f2Stop (s : State) : s.Keeps s.f2Stop := by
  unfold State.f2Stop; split
  · exact .rfl' s
  · exact (s.keeps_onLa _ rfl).trans (State.keeps_flagBlocks ..)

theorem Machine.State.keeps_f2Record (s : State) : s.Keeps s.f2Record := by
  unfold State.f2Record; split
  · exact s.keeps_answer _
  · exact (s.keeps_onLa _ rfl).trans (State.keeps_answer ..)

theorem Machine.State.keeps_f2Audio (s : State) : s.Keeps s.f2Audio := by
  unfold State.f2Audio; split
  · exact s.keeps_answer _
  · exact (s.keeps_onLa _ (by simp)).trans (State.keeps_answer ..)

theorem Machine.State.keeps_verifyLoad (s : State) (a : ContainerAux) (r : Bool) : s.Keeps (s.verifyLoad a r) := by
  unfold State.verifyLoad; dsimp only; split
  · exact s.keeps_onLa _ rfl
  · exact s.keeps_onLa _ rfl

theorem Machine.State.keeps_settleEnd (s : State) (g : Nat) : s.Keeps (s.settleEnd g) := by
  unfold State.settleEnd; exact s.keeps_onLa _ (by split <;> rfl)

theorem Machine.State.keeps_audClk (s : State) (b : Bool) : s.Keeps (s.audClk b) := by
  unfold State.audClk; exact (s.keeps_onLa _ rfl).trans (State.keeps_redrive _)

theorem Machine.State.keeps_muteLevel (s : State) (b : Bool) : s.Keeps (s.muteLevel b) := by
  unfold State.muteLevel; split
  · refine ⟨rfl, fun _ => Hasp.safe_drive _ _ _ ?_, Nat.le_refl _, id, id⟩
    intro q; simp at q; simp [q]
  · exact s.keeps_muteEdge b

theorem Latch.safe_pdmWrite (a : Latch) (g : Nat) (v : Word) (o : Bool) (h : a.hasp.Safe) : (a.pdmWrite g v o).hasp.Safe := by
  unfold Latch.pdmWrite
  extract_lets d ok
  clear_value ok
  split
  · exact h
  · exact Latch.safe_redrive _ _ h

theorem Machine.State.keeps_pdm (s : State) (g : Nat) (v : Word) (o : Bool) : s.Keeps (s.onLa fun a => a.pdmWrite g v o) :=
  ⟨rfl, Latch.safe_pdmWrite _ _ _ _, Nat.le_refl _, id, id⟩

/-! ## Register writes and the mailbox -/

theorem Machine.State.keeps_putHinge (s : State) (o : Nat) (v : Word) : s.Keeps (s.putHinge o v) := by
  unfold State.putHinge; split
  · exact s.keeps_onMn _
  · exact s.keeps_lapseSvc _
  · exact s.keeps_onMn _
  · exact s.keeps_onMn _

theorem Machine.State.keeps_putPower (s : State) (o : Nat) (v : Word) : s.Keeps (s.putPower o v) := by
  unfold State.putPower; split
  · exact s.keeps_onMn _
  · exact .ite _ (s.keeps_sleepGo _) (s.keeps_onMn _)
  · exact .ite _ ((s.keeps_onMn _).trans (State.keeps_onLa _ _ rfl)) (s.keeps_onMn _)
  · exact s.keeps_onMn _
  · exact s.keeps_onMn _

theorem Machine.State.keeps_putReset (s : State) (o : Nat) (v : Word) : s.Keeps (s.putReset o v) := by
  unfold State.putReset State.putBootCtl; split
  · exact s.keeps_blockGo _
  · exact .ite _ (s.keeps_softReset _ _) (.rfl' s)
  · exact (s.keeps_onMn _).trans (State.keeps_resetForce _ _)
  · exact .ite _ ((s.keeps_onMn _).trans (State.keeps_bootGo _)) (s.keeps_onMn _)
  · exact s.keeps_onMn _

theorem Machine.State.keeps_ringCtl (s : State) (r : ARing) (v : Word) : s.Keeps (s.ringCtl r v) := by
  unfold State.ringCtl
  extract_lets t
  have h : s.Keeps t := .ite _ (s.keeps_streamStart r) (.rfl' s)
  exact .ite _ (h.trans (State.keeps_streamStop ..)) h

theorem Latch.hasp_putReg (a : Latch) (o : Nat) (v : Word) : (a.putReg o v).hasp = a.hasp := by
  unfold Latch.putReg; split <;> rfl

theorem Machine.State.keeps_putUnless (s : State) (i o : Nat) (v : Word) :
    s.Keeps (s.onLa fun a => if a.ringRuns i then a else a.putReg o v) := by
  refine s.keeps_onLa _ ?_
  show (if s.la.ringRuns i = true then s.la else s.la.putReg o v).hasp = _
  split
  · rfl
  · exact Latch.hasp_putReg ..

theorem Machine.State.keeps_putAudio (s : State) (o : Nat) (v : Word) : s.Keeps (s.putAudio o v) := by
  have h : ∀ w : Latch → Word, s.Keeps (s.onLa fun a => a.putReg o (w a)) := fun w => s.keeps_onLa _ (Latch.hasp_putReg ..)
  unfold State.putAudio
  extract_lets i
  clear_value i
  generalize (o - 0xa010) / 4 = g
  refine .ite _ (s.keeps_muteWrite v) (.ite _ ?_ (.ite _ (s.keeps_pdm ..) (.ite _ ((h fun _ => v).trans (State.keeps_redrive _))
    (.ite _ (h fun _ => v) ?_))))
  · exact ⟨rfl, id, Nat.le_refl _, id, id⟩
  · generalize o % 0x10 = k
    split
    · exact h _
    · exact s.keeps_putUnless i o v
    · exact (h fun _ => v).trans (State.keeps_drain _)
    · exact s.keeps_ringCtl ..
    · exact .rfl' s

theorem Machine.State.keeps_putStrike (s : State) (o : Nat) (v : Word) : s.Keeps (s.putStrike o v) := by
  unfold State.putStrike; split
  · extract_lets t u
    have h : s.Keeps t := s.keeps_onMn _
    have k : s.Keeps u := .ite _ (h.trans (State.keeps_onMn _ _)) h
    exact .ite _ (k.trans (State.keeps_strike ..)) k
  · exact .ite _ (s.keeps_onMn _) (s.keeps_onMn _)

theorem Machine.State.keeps_putSecErr (s : State) (o : Nat) (v : Word) : s.Keeps (s.putSecErr o v) := by
  unfold State.putSecErr; split
  · exact .ite _ ((s.keeps_onMn _).trans (State.keeps_attestGo _)) (s.keeps_onMn _)
  · exact s.keeps_onMn _
  · exact s.keeps_onMn _
  · exact s.keeps_onMn _

theorem Machine.State.keeps_putWarden (s : State) (o : Nat) (v : Word) : s.Keeps (s.putWarden o v) := by
  unfold State.putWarden
  exact State.Keeps.ite _ (s.keeps_onMn _) (.ite _ (s.keeps_putHinge ..) (.ite _ (s.keeps_onMn _) (.ite _ (s.keeps_onMn _) (.ite _ (s.keeps_onMn _) (.ite _ (s.keeps_onMn _) (.ite _ (s.keeps_onMn _) (.ite _ (s.keeps_onMn _) (.ite _ (s.keeps_putStrike ..) (.ite _ (s.keeps_putSecErr ..) (.ite _ (.ite _ (s.keeps_onMn _) (.rfl' s)) (.ite _ (.ite _ (s.keeps_onMn _) (.rfl' s)) (.ite _ (s.keeps_onMn _) (s.keeps_onMn _)))))))))))))

theorem Machine.State.keeps_putLatch (s : State) (o : Nat) (v : Word) : s.Keeps (s.putLatch o v) := by
  unfold State.putLatch
  exact State.Keeps.ite _ (.rfl' s) (.ite _ (s.keeps_putPower ..) (.ite _ (s.keeps_putReset ..) (.ite _ (s.keeps_putAudio ..) (.ite _ (s.keeps_onMn _) (s.keeps_onMn _)))))

theorem Machine.State.keeps_reply (s : State) (q : List Byte) (n : Nat) (p : List Byte) : s.Keeps (s.reply q n p) :=
  .of_eq rfl rfl rfl rfl rfl

theorem Machine.State.keeps_mbxMute (s : State) (q p : List Byte) : s.Keeps (s.mbxMute q p) := by
  unfold State.mbxMute
  exact .ite _ (s.keeps_reply ..) ((s.keeps_muteWrite _).trans (State.keeps_reply ..))

theorem Machine.State.keeps_mbxRetry (s : State) (q : List Byte) : s.Keeps (s.mbxRetry q) := by
  unfold State.mbxRetry
  exact .ite _ ((s.keeps_reply ..).trans (State.keeps_latchRetry _)) (s.keeps_reply ..)

theorem Machine.State.keeps_mbxReadReg (s : State) (q p : List Byte) : s.Keeps (s.mbxReadReg q p) := by
  unfold State.mbxReadReg
  exact .ite _ (s.keeps_reply ..) ((s.keeps_readEffect _).trans (State.keeps_reply ..))

theorem Machine.State.keeps_mbxWriteReg (s : State) (q p : List Byte) : s.Keeps (s.mbxWriteReg q p) := by
  unfold State.mbxWriteReg
  exact .ite _ (s.keeps_reply ..) (.ite _ (s.keeps_reply ..) ((s.keeps_putLatch ..).trans (State.keeps_reply ..)))

theorem Machine.State.keeps_mbxDo (s : State) (q : List Byte) : s.Keeps (s.mbxDo q) := by
  unfold State.mbxDo; dsimp only
  refine .ite _ (s.keeps_reply ..) (.ite _ (s.keeps_reply ..) ?_)
  split
  · exact s.keeps_reply ..
  · exact s.keeps_mbxMute ..
  · exact s.keeps_mbxRetry ..
  · exact s.keeps_mbxReadReg ..
  · exact s.keeps_mbxWriteReg ..

theorem Machine.State.keeps_putCard (s : State) (f r : Nat) (v : Word) : s.Keeps (s.putCard f r v) := by
  unfold State.putCard; dsimp only; split
  · exact (s.keeps_onLa _ rfl).trans (State.keeps_drain _)
  · exact .ite _ (s.keeps_latchRetry) (.rfl' s)
  · exact s.keeps_onLa _ rfl
  · exact s.keeps_onLa _ rfl
  · exact .ite _ (s.keeps_mbxDo _) (.rfl' s)
  · have h : s.Keeps (if v.getLsbD 13 then s.fwlAbort else s) := .ite _ (s.keeps_fwlAbort) (.rfl' s)
    exact .ite _ (h.trans (State.keeps_fwlStart ..)) h
  · exact s.keeps_onLa _ rfl
  · have h : s.Keeps (if v.getLsbD 0 then s.f2Start else s) := .ite _ (s.keeps_f2Start) (.rfl' s)
    exact .ite _ (h.trans (State.keeps_f2Stop _)) h
  · exact s.keeps_fwlData _
  · exact s.keeps_onLa _ rfl
  · exact s.keeps_onLa _ rfl
  · exact .ite _ (s.keeps_onLa _ rfl) (.rfl' s)

theorem Machine.State.keeps_writeReg (s : State) (o : Nat) (v : Word) (b : Nat) : s.Keeps (s.writeReg o v b) := by
  unfold State.writeReg
  refine .ite _ (s.keeps_viaSdio _ fun t => t.keeps_putCard ..) (.ite _ (.rfl' s) (.ite _ ?_ ?_))
  · exact s.keeps_hostLatch _ fun t => t.keeps_putLatch ..
  · exact s.keeps_hostDo _ fun t => (t.keeps_putWarden o v).trans (State.keeps_sync _)

theorem Machine.State.keeps_mbx (s : State) (n : Nat) (b : List Byte) : s.Keeps (s.mbx n b) := by
  unfold State.mbx
  exact .ite _ (.rfl' s) (s.keeps_viaSdio _ fun t => t.keeps_mbxDo _)

theorem Machine.State.keeps_mbxUnknown (s : State) (b : List Byte) : s.Keeps (s.mbxUnknown b) := by
  unfold State.mbxUnknown
  exact .ite _ (.rfl' s) (s.keeps_viaSdio _ fun t => t.keeps_mbxDo _)

end Sys2Proof
end

