-- ==== Sys2Proof/Laws/Rings.lean ====
section
/-! SUPPORT. What the completion of a descriptor does: its record stands in the ring, the journal line and the context follow. -/

namespace Sys2Proof
open Machine

@[simp] theorem leBytes_length (n v : Nat) : (leBytes n v).length = n := by
  induction n generalizing v with
  | zero => rfl
  | succ n ih => simp [leBytes]

@[simp] theorem completionBytes_length (a b c d e f : Nat) : (completionBytes a b c d e f).length = 32 := by
  simp [completionBytes]

/-- Little-endian bytes read back as the number they hold. -/
theorem leNat_leBytes (n v : Nat) : leNat (leBytes n v) = v % 256 ^ n := by
  induction n generalizing v with
  | zero => simp [leBytes, leNat, Nat.mod_one]
  | succ n ih =>
    have e : leBytes (n + 1) v = byteOf v 0 :: leBytes n (v / 256) := by
      simp only [leBytes, List.range_succ_eq_map, List.map_cons, List.map_map]
      refine congrArg _ (List.map_congr_left ?_)
      intro k _
      simp only [Function.comp, byteOf, Nat.pow_succ, Nat.succ_eq_add_one, Nat.div_div_eq_div_mul]
      rw [Nat.mul_comm]
    rw [e, leNat, ih, Nat.pow_succ, Nat.mul_comm (256 ^ n) 256, Nat.mod_mul]
    simp [byteOf]

/-- Bytes written read back. -/
theorem Mem.rdN_wrN (m : Mem) (a : Nat) (bs : List Byte) : (Mem.wrN a bs m).rdN a bs.length = bs := by
  unfold Mem.rdN
  apply List.ext_getElem
  · simp
  · intro i h1 h2
    simp only [List.getElem_map, List.getElem_range]
    rw [Mem.rd_wrN_in _ _ _ _ h2]
    simp [h2]

/-- Bytes written to a tenant's host memory read back. -/
theorem Main.tenantRd_tenantWr (m : Main) (p a : Nat) (bs : List Byte) : (m.tenantWr p a bs).tenantRd p a bs.length = bs := by
  unfold Main.tenantRd Main.tenantWr Mem.rdN
  apply List.ext_getElem
  · simp
  · intro i h1 h2
    simp only [List.getElem_map, List.getElem_range]
    rw [Mem.rd_wrN_in _ _ _ _ h2]
    simp [h2]

/-- A write of the Master key leaves every tenant's memory alone. -/
theorem Main.tenantRd_hostWr (m : Main) (p a b n : Nat) (bs : List Byte) (h : bs.length ≤ 2 ^ 64) :
    (m.hostWr a bs).tenantRd p b n = m.tenantRd p b n := by
  unfold Main.tenantRd Main.hostWr Mem.rdN
  apply List.map_congr_left
  intro i _
  apply Mem.rd_wrN_out
  unfold hostKey
  have := Nat.mod_lt a (show 0 < 2 ^ 64 by norm_num)
  omega

@[simp] theorem Main.updCtx_host (m : Main) (c : Nat) (f : Ctx → Ctx) : (m.updCtx c f).host = m.host := rfl

@[simp] theorem Main.tenantRd_setCtx (m : Main) (c : Nat) (x : Ctx) (p a n : Nat) : (m.setCtx c x).tenantRd p a n = m.tenantRd p a n := rfl

@[simp] theorem Main.tenantRd_updCtx (m : Main) (c : Nat) (f : Ctx → Ctx) (p a n : Nat) :
    (m.updCtx c f).tenantRd p a n = m.tenantRd p a n := rfl

@[simp] theorem Main.ctx_updCtx_same (m : Main) (c : Nat) (f : Ctx → Ctx) : (m.updCtx c f).ctx c = f (m.ctx c) := by
  simp [Main.updCtx]

theorem Main.ctx_updCtx_other (m : Main) (c j : Nat) (f : Ctx → Ctx) (h : j ≠ c) : (m.updCtx c f).ctx j = m.ctx j :=
  Main.ctx_setCtx_other _ _ _ _ h

@[simp] theorem Main.ctx_hostWr (m : Main) (a : Nat) (bs : List Byte) (j : Nat) : (m.hostWr a bs).ctx j = m.ctx j := rfl

@[simp] theorem Main.ctx_tenantWr (m : Main) (p a : Nat) (bs : List Byte) (j : Nat) : (m.tenantWr p a bs).ctx j = m.ctx j := rfl

/-- From `m` to `n` host memory and contexts may differ, and nothing else. -/
def Main.HostCtxs (m n : Main) : Prop := ∃ h k, n = { m with host := h, ctxs := k }

theorem Main.hostCtxs_refl (m : Main) : m.HostCtxs m := ⟨m.host, m.ctxs, rfl⟩

theorem Main.hostCtxs_hostWr {m n : Main} (a : Nat) (bs : List Byte) (h : m.HostCtxs n) : m.HostCtxs (n.hostWr a bs) := by
  obtain ⟨u, k, e⟩ := h
  unfold Main.hostWr
  generalize Mem.wrN _ _ _ = z
  subst e
  exact ⟨z, k, rfl⟩

theorem Main.hostCtxs_tenantWr {m n : Main} (p a : Nat) (bs : List Byte) (h : m.HostCtxs n) : m.HostCtxs (n.tenantWr p a bs) := by
  obtain ⟨u, k, e⟩ := h
  unfold Main.tenantWr
  generalize Mem.wrN _ _ _ = z
  subst e
  exact ⟨z, k, rfl⟩

theorem Main.hostCtxs_setCtx {m n : Main} (c : Nat) (x : Ctx) (h : m.HostCtxs n) : m.HostCtxs (n.setCtx c x) := by
  obtain ⟨u, k, e⟩ := h
  unfold Main.setCtx
  generalize Tab.put ctxDef c x n.ctxs = z
  subst e
  exact ⟨u, z, rfl⟩

/-- A context's counts and queue do not change when it blocks or becomes runnable. -/
theorem Ctx.settle_eq (x : Ctx) : x.settle = { x with state := x.settle.state, cause := x.settle.cause } := by
  unfold Ctx.settle
  dsimp only
  (repeat' split) <;> rfl

@[simp] theorem Ctx.settle_queue (x : Ctx) : x.settle.queue = x.queue := by rw [Ctx.settle_eq]
@[simp] theorem Ctx.settle_completed (x : Ctx) : x.settle.completed = x.completed := by rw [Ctx.settle_eq]
@[simp] theorem Ctx.settle_busy (x : Ctx) : x.settle.busy = x.busy := by rw [Ctx.settle_eq]
@[simp] theorem Ctx.settle_run (x : Ctx) : x.settle.run = x.run := by rw [Ctx.settle_eq]

/-- The state of a context after its oldest descriptor completed. -/
def Ctx.popped (x : Ctx) (d : Desc) (q : List Desc) : Ctx :=
  Ctx.settle { x with written := max x.written d.seq, completed := d.seq, queue := q, run := none, busy := false, reExec := false }

theorem Main.irqRecord_off (m : Main) (c : Nat) (b : Bool) (h : (m.ctx c).irqArmed = false) : m.irqRecord c b = m := by
  unfold Main.irqRecord
  simp [h]

@[simp] theorem Main.ctx_lineCompleted (m : Main) (c n j : Nat) : (m.lineCompleted c n).ctx j = m.ctx j := rfl

/-- The record of a context whose vector is not armed. -/
theorem Main.writeRecord_eq (m : Main) (c : Nat) (d : Desc) (st cf res det : Nat) (h : (m.ctx c).irqArmed = false) :
    m.writeRecord c d st cf res det =
      ((m.tenantWr (m.ctx c).tenant ((m.ctx c).entry.cqBase + d.seq % 2 ^ (m.ctx c).entry.cqOrder * 32)
          (completionBytes d.seq st cf d.tag res det)).setCtx c
        { m.ctx c with written := max (m.ctx c).written d.seq, completed := d.seq }).lineCompleted c d.seq := by
  unfold Main.writeRecord
  rw [Main.irqRecord_off]
  rw [Main.ctx_lineCompleted, Main.ctx_setCtx_same]
  exact h

theorem Main.hostCtxs_writeRecord (m : Main) (c : Nat) (d : Desc) (st cf res det : Nat) (h : (m.ctx c).irqArmed = false) :
    m.HostCtxs (m.writeRecord c d st cf res det) := by
  rw [Main.writeRecord_eq _ _ _ _ _ _ _ h]
  exact Main.hostCtxs_hostWr _ _ (Main.hostCtxs_setCtx _ _ (Main.hostCtxs_tenantWr _ _ _ m.hostCtxs_refl))

theorem Main.recordAt_writeRecord (m : Main) (c : Nat) (d : Desc) (st cf res det : Nat) (h : (m.ctx c).irqArmed = false) :
    (m.writeRecord c d st cf res det).RecordAt (m.ctx c) d st cf res det := by
  rw [Main.writeRecord_eq _ _ _ _ _ _ _ h]
  unfold Main.RecordAt Main.lineCompleted
  rw [Main.tenantRd_hostWr _ _ _ _ _ _ (by simp), Main.tenantRd_setCtx]
  have := Main.tenantRd_tenantWr m (m.ctx c).tenant ((m.ctx c).entry.cqBase + d.seq % 2 ^ (m.ctx c).entry.cqOrder * 32)
    (completionBytes d.seq st cf d.tag res det)
  rwa [completionBytes_length] at this

theorem Main.ctx_writeRecord (m : Main) (c : Nat) (d : Desc) (st cf res det : Nat) (h : (m.ctx c).irqArmed = false) :
    (m.writeRecord c d st cf res det).ctx c
      = { m.ctx c with written := max (m.ctx c).written d.seq, completed := d.seq } := by
  rw [Main.writeRecord_eq _ _ _ _ _ _ _ h, Main.ctx_lineCompleted, Main.ctx_setCtx_same]

theorem Main.ctxsBut_writeRecord (m : Main) (c : Nat) (d : Desc) (st cf res det : Nat) (h : (m.ctx c).irqArmed = false) :
    m.CtxsBut (m.writeRecord c d st cf res det) c := by
  intro j hj
  rw [Main.writeRecord_eq _ _ _ _ _ _ _ h, Main.ctx_lineCompleted, Main.ctx_setCtx_other _ _ _ _ hj, Main.ctx_tenantWr]

/-- The next descriptor of a context, where it may be performed, is not looked at twice. -/
theorem Main.checkHead_ok (m : Main) (c : Nat) (h : ∀ e, (m.ctx c).head = some e → e.protErr = none) : m.checkHead c = m := by
  unfold Main.checkHead
  split
  · rename_i d e
    simp [h d e]
  · rfl

/-- What completing the oldest descriptor of a context does while its vector is not armed and the next may be performed. -/
theorem Main.completeHead_spec (m : Main) (c : Nat) (d : Desc) (q : List Desc) (st cf res det : Nat)
    (hq : (m.ctx c).queue = d :: q) (hp : ∀ e, q.head? = some e → e.protErr = none) (hi : (m.ctx c).irqArmed = false) :
    m.HostCtxs (m.completeHead c st cf res det)
      ∧ (m.completeHead c st cf res det).RecordAt (m.ctx c) d st cf res det
      ∧ (m.completeHead c st cf res det).ctx c = (m.ctx c).popped d q
      ∧ m.CtxsBut (m.completeHead c st cf res det) c := by
  have e0 : (m.ctx c).head = some d := by simp [Ctx.head, hq]
  have hc := Main.hostCtxs_writeRecord m c d st cf res det hi
  have hr := Main.recordAt_writeRecord m c d st cf res det hi
  have hx := Main.ctx_writeRecord m c d st cf res det hi
  have hb := Main.ctxsBut_writeRecord m c d st cf res det hi
  unfold Main.completeHead
  rw [e0]
  dsimp only
  generalize m.writeRecord c d st cf res det = n at hc hr hx hb
  have ec : (n.updCtx c fun x => Ctx.settle { x with queue := x.queue.drop 1, run := none, busy := false, reExec := false }).ctx c
      = (m.ctx c).popped d q := by
    rw [Main.ctx_updCtx_same, hx]
    simp [Ctx.popped, hq]
  rw [Main.checkHead_ok _ _ (by
    intro e he
    apply hp
    rw [← he, ec]
    simp [Ctx.head, Ctx.popped])]
  refine ⟨Main.hostCtxs_setCtx _ _ hc, ?_, ec, ?_⟩
  · unfold Main.RecordAt; rw [Main.tenantRd_updCtx]; exact hr
  · intro j hj; rw [Main.ctx_updCtx_other _ _ _ _ hj]; exact hb j hj

/-- A completion in the words of the statements. -/
theorem Main.completeHead_completed (m : Main) (c : Nat) (d : Desc) (q : List Desc) (st cf res det : Nat)
    (hq : (m.ctx c).queue = d :: q) (hp : ∀ e, q.head? = some e → e.protErr = none) (hi : (m.ctx c).irqArmed = false) :
    m.Completed (m.completeHead c st cf res det) c d q st cf res det := by
  obtain ⟨_, r, k, b⟩ := Main.completeHead_spec m c d q st cf res det hq hp hi
  exact ⟨r, by rw [k]; simp [Ctx.popped], by rw [k]; simp [Ctx.popped], by rw [k]; simp [Ctx.popped], by rw [k]; simp [Ctx.popped], b⟩

/-- A descriptor whose turn it is may be performed. -/
theorem Main.due_of_turn {m : Main} {c : Nat} {d : Desc} {q : List Desc} {op : Nat} (h : m.TurnOf c d q op) : m.due c op = some d := by
  obtain ⟨a, b, e, _, f, g, i, j, _⟩ := h
  unfold Main.due
  simp [Ctx.head, a, b, e, f, g, i, j]

end Sys2Proof
end

