-- ==== Sys2Proof/WellFormed.lean ====
section
/-! DEFINITION. Well-formed commands: operands within the widths that the tables of spec/ give them. The meanings are total; an
ill-formed command names an operand that no agent outside the part can send. -/

namespace Sys2Proof

/-- Whether a doorbell write has a width of memory requests: four or eight bytes (R269, R462). -/
def doorbellWidth (bytes : Nat) : Bool := bytes == 4 || bytes == 8

/-- Whether a walk's bounds fit their 8-bit fields and no more addresses are listed than units (R312, R320). -/
def walkOk (floorMax maxMin : Nat) (addrs : List Nat) : Bool :=
  decide (floorMax < 256) && decide (maxMin < 256) && decide (addrs.length ≤ 16) && addrs.all fun a => decide (a < 16)

/-- Whether a list of contexts names contexts. -/
def contextsOk (cs : List Nat) : Bool := cs.all fun c => decide (c < 3072)

/-- The operands of a command within their widths. -/
def WellFormed (i : Instr) : Bool :=
  match i with
  | .sqDb _ _ n => doorbellWidth n
  | .cqDb _ _ n => doorbellWidth n
  | .irqArm _ _ n => doorbellWidth n
  | .fwlStart n => decide (n < 4096)
  | .walk _ f x a => walkOk f x a
  | .walkEnd _ f x a => walkOk f x a
  | .chainMembership _ ms => ms.all fun p => decide (p.1 < 3072)
  | .chainStart _ f p => contextsOk f && contextsOk p
  | .chainResync cs => contextsOk cs
  | .wakeFrame pairs _ _ _ _ => pairs.length == 160
  | .mbxStatus bs => decide (bs.length ≤ 512)
  | .mbxMute bs => decide (bs.length ≤ 512)
  | .mbxRetry bs => decide (bs.length ≤ 512)
  | .mbxReadReg bs => decide (bs.length ≤ 512)
  | .mbxWriteReg bs => decide (bs.length ≤ 512)
  | .mbxUnknownCommand bs => decide (bs.length ≤ 512)
  | .cxlMemWrite _ bs pasid => decide (bs.length ≤ 64) && decide (pasid < 2 ^ 20)
  | .cxlMemRead _ n pasid => decide (n ≤ 64) && decide (pasid < 2 ^ 20)
  | .i3cIbi _ addr p => decide (addr < 128) && decide (p.length ≤ 4)
  | .csiLongPacket _ _ dt bs _ _ => decide (dt < 64) && decide (bs.length < 65536)
  | .strikeMarker _ hop => decide (hop < 256)
  | .strikeDoneBundle _ n => decide (n < 2 ^ 128)
  | _ => true

end Sys2Proof
end

