-- ==== Sys2Proof/Tests/Slice0.lean ====
section
/-! SUPPORT. Tests: ill-formed commands are refused, the worked examples of the spec's chapters, single steps, and for every clause of
every statement a state and operands that meet its hypotheses. -/

namespace Sys2Proof

set_option Elab.async false
set_option synthInstance.maxHeartbeats 400000
set_option synthInstance.maxSize 2000
set_option maxRecDepth 4000
open Machine

/-! ## Ill-formed commands are refused -/

theorem test_wf_doorbell : WellFormed (.sqDb 1 5 4) = true ∧ WellFormed (.sqDb 1 5 2) = false ∧ WellFormed (.cqDb 1 5 16) = false
    ∧ WellFormed (.irqArm 1 1 1) = false := by decide

theorem test_wf_fwl : WellFormed (.fwlStart 4095) = true ∧ WellFormed (.fwlStart 4096) = false := by decide

theorem test_wf_walk : WellFormed (.walk 3 7 9 [1, 2]) = true ∧ WellFormed (.walk 3 256 9 [1]) = false
    ∧ WellFormed (.walkEnd 3 7 9 [16]) = false := by decide

theorem test_wf_chain : WellFormed (.chainMembership 4 [(3072, 0, 0)]) = false ∧ WellFormed (.chainStart 0 [3072] []) = false
    ∧ WellFormed (.chainResync [5, 3072]) = false := by decide

theorem test_wf_frame : WellFormed (.wakeFrame [(1, 2)] [] [] true []) = false := by decide

theorem test_wf_mailbox : WellFormed (.mbxStatus (List.replicate 513 0)) = false ∧ WellFormed (.mbxMute (List.replicate 513 0)) = false
    ∧ WellFormed (.mbxRetry (List.replicate 513 0)) = false ∧ WellFormed (.mbxReadReg (List.replicate 513 0)) = false
    ∧ WellFormed (.mbxWriteReg (List.replicate 513 0)) = false ∧ WellFormed (.mbxUnknownCommand (List.replicate 513 0)) = false := by
  decide +kernel

theorem test_wf_cxl : WellFormed (.cxlMemWrite 0 (List.replicate 65 0) 7) = false ∧ WellFormed (.cxlMemRead 0 64 0x100000) = false := by
  decide

theorem test_wf_sensors : WellFormed (.i3cIbi 0 128 []) = false ∧ WellFormed (.csiLongPacket 0 0 64 [] true false) = false := by decide

theorem test_wf_strike : WellFormed (.strikeMarker .warden 256) = false ∧ WellFormed (.strikeDoneBundle .warden (2 ^ 128)) = false := by
  decide

theorem test_no_words : decodeTableWord 16 0x1234 = none := rfl

/-! ## Worked examples of the spec -/

/-- spec/02_number_formats.md, after R37: a UINT8 code of 3 with zero point 130. -/
theorem test_centred : centred .uint8 130 3 = -127 := by decide

/-- spec/02_number_formats.md, Table 2-8's steps: 0.3 is encoded as 0x2A, and 2^24 + 1.5 rounds to 16,777,218. -/
theorem test_e4m3 : (elemVal .e4m3 0 0x2A).eqv (.fin false 5 (-4)) = true ∧ f32Add 0x4B800000#32 0x3FC00000#32 = 0x4B800001#32 := by
  decide +kernel

/-- spec/05_quantisation.md, the integer rule: INT8 with amax 3.3, and UINT4 with zero point 12. -/
theorem test_first_pass : firstPassScale .int8 0 { amax := f32Val 0x40533333#32 } = 0x7A
    ∧ firstPassScale .uint4 12 { pmax := .fin false 1 (-1), nmax := f32Val 0x40333333#32 } = 0x7D := by decide +kernel

/-- spec/06_memory_tiers.md, after R151: base 40, range 195, an element of 100. -/
theorem test_lossy : fmcQ 6 40 195 100 = 19 ∧ fmcU 6 40 195 19 = 99 ∧ fmcQ 4 40 195 100 = 5 ∧ fmcU 4 40 195 5 = 105 := by
  decide

/-- spec/07_keyway.md, Table 7-7: four elements of block 5,311. -/
theorem test_keyway : (List.map (kwEncode .e5m2 2 5 [0, 10, 11, 12, 13, 14, 15, 16]) [0x36, 0x00, 0xC9, 0x27])
      = [(0x12, false), (0x00, false), (0x3D, true), (0x07, true)]
    ∧ List.map (kwExpand 2 5 [0, 10, 11, 12, 13, 14, 15, 16]) [0x12, 0x00, 0x3D, 0x07] = [0x36, 0x00, 0xC1, 0x2B] := by decide

/-- spec/07_keyway.md: line 0 of unit 0 at target bits 0x1C4 has line index 3. -/
theorem test_keyway_line : kwLineOffset 2 0x1C4 0 0 = 0xC0 := by decide

/-- spec/08_convolution.md, Table 8-9. -/
theorem test_extents : outExtent 5 7 1 1 0 0 = 0 ∧ samePad 5 7 2 1 = (3, 3) ∧ outExtent 5 7 2 1 3 3 = 3 ∧ outExtent 5 7 6 1 0 12 = 2 := by
  decide

/-- spec/04_bittings.md R80, spec/06_memory_tiers.md R132: the check values of the two CRCs over 123456789, as their parameters give. -/
theorem test_crc : crc32 ([0x31, 0x32, 0x33, 0x34, 0x35, 0x36, 0x37, 0x38, 0x39] : List Byte) = 0xCBF43926
    ∧ crc32c ([0x31, 0x32, 0x33, 0x34, 0x35, 0x36, 0x37, 0x38, 0x39] : List Byte) = 0xE3069283 := by decide +kernel

/-- spec/22_registers.md, the worked example: CYL_LEVEL of cylinder 86 at level 4, therm_level 4 and 104 degrees. -/
theorem test_cyl_level :
    (State.reset.onMn fun m => { m.setFld F.PLEVEL_CTL_cap 2 with therm := [(86, { temp := 104, lvl := 4 })] }).readReg 0x35804 = 0x1A24#32 := by
  decide +kernel

/-- FIPS 180-4's digest of the message abc, its first eight bytes. -/
theorem test_sha : (sha512 ([0x61, 0x62, 0x63] : List Byte)).take 8 = [0xdd, 0xaf, 0x35, 0xa1, 0x93, 0x61, 0x7a, 0xba] := by decide +kernel

/-! ## Single steps -/

/-- What step answers with a command in front. -/
def runs (c : Instr) (s : State) (f : State → Bool) : Bool :=
  match step { s with pending := [c] } with
  | .next t => f t
  | _ => false

/-- R344, R345: from reset the part is muted; a 0 unmutes it, and MUTE_N mutes it again. -/
theorem test_mute : State.reset.la.hasp.muted = true ∧ runs (.haspMuteWrite 0) State.reset (fun t => !t.la.hasp.muted) = true
    ∧ runs .muteNAssert { State.reset with la := { hasp := { mute := false } } } (fun t => t.la.hasp.muted) = true := by decide +kernel

/-- R391: 9 microseconds may be taken, 10 are. -/
theorem test_reset_n : runs (.resetNAsserted 10) State.reset (fun t => t.rc.phase == .stretch && t.mn.fld F.RESET_CAUSE_cause == 3) = true
    ∧ runs (.resetNAsserted 0) State.reset (fun t => t.rc.phase == .run) = true := by decide +kernel

/-- R448: a strike disarms; the next is missed. -/
theorem test_strike : runs .strikeFire State.reset (fun t => !t.mn.strk.armed && t.mn.strk.fired == 1 && t.mn.strk.origin == 0x90) = true := by
  decide +kernel

/-- R452: a strike of an island that the wave has not reached joins it: it latches with its own origin, and none is missed. -/
theorem test_strike_joins :
    (Main.strike { strk := { armed := false, busy := true, source := 1, origin := 0x90, expect := [0x90, 5], snaps := [(0x90, { flags := 5 })] } } 3 5).strk.snaps.map
      (fun p => (p.1, p.2.origin, p.2.source)) = [(5, 5, 3), (0x90, 0, 0)] := by decide +kernel

/-- R412, R391: power-on and RESET_N give back no fuse. -/
theorem test_fuses : runs (.powerOn false) { State.reset with rc := { blown := 3, revoked0 := true } }
    (fun t => t.rc.blown == 3 && t.rc.revoked0) = true := by decide +kernel

/-- R378: a go for S3 without SLEEP_IMG.enable gives result 5. -/
theorem test_sleep : runs (.sleepGo 3) State.reset (fun t => t.mn.fld F.SLEEP_STATUS_result == 5 && !t.mn.sleepBusy) = true := by
  decide +kernel

/-- R425, R431: confidential mode and the lock are set and not cleared. -/
theorem test_locks : runs (.confModeSet 1) State.reset (fun t => t.mn.conf) = true
    ∧ runs .protLock State.reset (fun t => t.mn.fld F.PROT_CTL_lock == 1) = true := by decide +kernel

/-- R481: CORE and W0 good enable RET and SERDES. -/
theorem test_rails : runs (.railPowerGood 0) { State.reset with rc := { phase := .rails, enables := [0, 1], pgs := [1] } }
    (fun t => t.rc.enables == [0, 1, 2, 3]) = true := by decide +kernel

/-- An empty queue idles (log entry 5). -/
theorem test_idle : step State.reset = .next State.reset := rfl

/-- The state after reset with another Warden side. -/
def wMn (m : Main) : State := { State.reset with mn := m }

/-- A descriptor with the given opcode and fields (offset, length, value). -/
def wDesc (seq op : Nat) (fs : List (Nat × Nat × Nat)) : Desc :=
  { seq := seq, bytes := fs.foldl (fun bs f => bs.take f.1 ++ leBytes f.2.1 f.2.2 ++ bs.drop (f.1 + f.2.1))
      (leBytes 6 seq ++ leBytes 1 op ++ List.replicate 57 0#8) }

/-- A valid context table entry with its rings of 16. -/
def wEntry : CtxEntry := { ok := true, sqBase := 0x1000, cqBase := 0x2000, histBase := 0x3000, vector := 3 }

/-- A resident context of tenant 7 with a queue. -/
def wCtx (q : List Desc) : Ctx := { state := .residentRunning, tenant := 7, entry := wEntry, queue := q, accepted := 1, issued := 1, sqSeq := 1 }

/-- Tenant 7, whose one window is its first 16 MiB. -/
def wTenant : Tenant := { pasid := 7, valid := true, windows := [(0, { base := 0, limit := 0xfff000, enable := true })] }

/-- Context 1 with a queue, tenant 7 in force. -/
def wQ (q : List Desc) : Main := { ctxs := [(1, wCtx q)], prot := { written := [(0, wTenant)], force := [(0, wTenant)] } }

/-- Bytes of a container with fields (offset, length, value) set. -/
def wPut (bs : List Byte) (fs : List (Nat × Nat × Nat)) : List Byte :=
  fs.foldl (fun bs f => bs.take f.1 ++ leBytes f.2.1 f.2.2 ++ bs.drop (f.1 + f.2.1)) bs

/-- A container's facts, with nothing in them. -/
def wAux : ContainerAux :=
  { dir := [], carried := [], rowMembers := [0], weights := [], pairs := [], converted := [], transposed := [], windowed := []
    portNames := [], portUses := [], writesCommitted := false, writesPages := false, wholeUnits := true, shapeRules := true
    maskIds := [], rowWidths := [] }

/-- The bytes other than zero of a container of 256 bytes: version 1.0, model 5, ward 0, one row, its eight mandatory sections empty
at offset 0x100, and its checksum. -/
def wTab : Mem := [
   (0, 66#8), (1, 84#8), (2, 78#8), (3, 71#8), (5, 1#8), (7, 1#8), (9, 1#8), (12, 207#8), (13, 11#8), (14, 148#8), (15, 39#8),
   (16, 5#8), (28, 1#8), (32, 1#8), (34, 1#8), (36, 1#8), (64, 1#8), (69, 1#8), (80, 2#8), (85, 1#8), (96, 3#8), (101, 1#8),
   (112, 4#8), (117, 1#8), (128, 5#8), (133, 1#8), (144, 6#8), (149, 1#8), (160, 7#8), (165, 1#8), (176, 8#8), (181, 1#8)]

/-- The container. -/
def wBytes : List Byte := (List.range 256).map wTab.rd

/-- A host memory that holds it at 0x8000 of tenant 7. -/
def wHost : Mem := wTab.map fun p => (hostKey 8 0x8000 + p.1, p.2)

/-- Its bitting. -/
def wPlan : Bitting := readBitting wBytes wAux

/-- The bitting of a Frame Lane plan for ward 0. -/
def wLanePlan : Bitting := { wPlan with flags := 2, stepBound := 100 }

/-- Context 1, tenant 7 in force, recovery done. -/
def wC (x : Ctx) : Main := Main.setFld { wQ [] with ctxs := [(1, x)] } F.HOST_STATUS_recovery_needed 0

/-- A register field set. -/
def wF (m : Main) (f : Fld) (v : Nat) : Main := m.setFld f v
/-- The container with its checksum taken as zero. -/
def wZero : List Byte := wBytes.take 12 ++ List.replicate 4 0#8 ++ wBytes.drop 16

/-- The CRC's register after each 8 bytes. -/
def wAcc : List Word := [0xffffffff#32, 0x8fbb9d46#32, 0x842113d7#32, 0x9a9837f3#32, 0xce1f448f#32, 0x21b094b6#32, 0xed7598ce#32, 0x38a0f242#32,
  0x10140cc9#32, 0x97868bce#32, 0x4ef2e7c8#32, 0x933af76b#32, 0x1f1fc1b1#32, 0xef4b9fcf#32, 0x751df9ef#32, 0xa0e452f0#32,
  0xb6d32ad6#32, 0xe9b0ee2f#32, 0x4cc71b6b#32, 0xbe1b8c2d#32, 0xeb23b32c#32, 0x6a7fc05c#32, 0xe762a9fa#32, 0xb1775a23#32,
  0xcbdccf91#32, 0x22465e93#32, 0xb0e5b4ed#32, 0x9aa1d926#32, 0x48b4d0bd#32, 0x0fe882d8#32, 0xb236984c#32, 0x1a31503d#32,
  0xd86bf430#32]

theorem wCrcStep : ∀ k < 32, ((wZero.drop (8 * k)).take 8).foldl (crcByte 0xEDB88320#32) (wAcc.getD k 0) = wAcc.getD (k + 1) 0 := by
  decide +kernel

theorem wZeroParts : wZero = (List.range 32).flatMap fun k => (wZero.drop (8 * k)).take 8 := by decide +kernel

theorem wFoldUpTo (k : Nat) (h : k ≤ 32) :
    ((List.range k).flatMap fun j => (wZero.drop (8 * j)).take 8).foldl (crcByte 0xEDB88320#32) 0xffffffff#32 = wAcc.getD k 0 := by
  induction k with
  | zero => rfl
  | succ k ih =>
    rw [List.range_succ, List.flatMap_append, List.foldl_append, ih (by omega)]
    simpa using wCrcStep k (by omega)

theorem wCrc : crc32 wZero = 0x27940bcf := by
  unfold crc32 crcOf
  rw [wZeroParts, wFoldUpTo 32 (by omega)]
  rfl

theorem wHeaderOk : headerOk wBytes wPlan = true := by
  unfold headerOk
  rw [show wBytes.take 12 ++ List.replicate 4 0#8 ++ wBytes.drop 16 = wZero from rfl, wCrc]
  decide +kernel

theorem wBindOk (m : Main) (c : Nat) (h : (rangesOk m wPlan && carriedOk m c wPlan && m.sameCarried wPlan && m.chainOk wPlan) = true) :
    m.bindOk c 0 0 wBytes wPlan = true := by
  simp only [Bool.and_eq_true] at h
  obtain ⟨⟨⟨a, b⟩, d⟩, e⟩ := h
  have f : m.weightsOk (m.ctx c).tenant wPlan = true := rfl
  unfold Main.bindOk
  rw [wHeaderOk, a, b, d, e, f, show m.roleOk c 0 0 wBytes wPlan = true from rfl]
  decide +kernel

theorem wBlank (m : Main) (h : m.host = []) (k n : Nat) : List.replicate n 0#8 = m.host.rdN k n := by
  unfold Mem.rdN
  refine (List.eq_replicate_iff.2 ⟨by simp, ?_⟩).symm
  intro b hb
  obtain ⟨i, _, rfl⟩ := List.mem_map.1 hb
  rw [h]
  rfl

/-- A region of one granule for context 1 of tenant 7, its golden copy at 0x8000. -/
def wRegion : Region := { st := .loading, base := 0x10000, size := 0x1000, golden := 0x8000, pasid := 7, ctx := some 1 }

/-- The LOAD that waits for it. -/
def wLoad : Desc := wDesc 2 4 []

/-- A machine with that region as number 3. -/
def wR (x : Region) : Main := { wQ [wLoad] with ctxs := [(1, { wCtx [wLoad] with busy := true })], regions := [(3, x)] }

/-- The same region HELD, granule 0 on its list. -/
def wHeld : Region := { wRegion with st := .held, ctx := none, refetch := [(0, 0, 5)] }

/-- A machine whose HELD region has a check tail that matches the bytes of its golden copy. -/
def wTail (bs : List Byte) (x : Region) : Main :=
  { wQ [] with ctxs := [(1, wCtx [])], regions := [(3, x)], stack := Mem.wrN 0x11000 (leBytes 4 (crc32c bs)) [] }

theorem wTailOk (bs : List Byte) (x : Region) (h : tailAddr x 0 = 0x11000) :
    crc32c bs = leNat ((wTail bs x).stack.rdN (tailAddr x 0) 4) := by
  have e := Mem.rdN_wrN [] 0x11000 (leBytes 4 (crc32c bs))
  rw [leBytes_length] at e
  unfold wTail
  rw [h, e, leNat_leBytes, Nat.mod_eq_of_lt]
  exact (crcOf _ _).isLt

theorem wStored (bs : List Byte) (x : Region) (h : x.base = 0x10000) :
    (wTail bs x).stack.rdN (x.base + 4096 * 0) 4096 = List.replicate 4096 0#8 := by
  rw [h]
  unfold Mem.rdN
  refine List.eq_replicate_iff.2 ⟨by simp, ?_⟩
  intro b hb
  obtain ⟨i, hi, rfl⟩ := List.mem_map.1 hb
  rw [List.mem_range] at hi
  unfold wTail
  rw [Mem.rd_wrN_out _ _ _ _ (by left; omega)]
  rfl

/-- A COMPRESS of 8 elements at 0x8000 into 0x9000, its report at 0xa000. -/
def wCompress : Desc := wDesc 2 6 [(0x10, 8, 0x8000), (0x18, 8, 0x9000), (0x20, 8, 0xa000), (0x28, 4, 8), (0x2C, 1, 0), (0x2D, 1, 1)]

/-- Its machine. -/
def wKwM (k : KwEngine) : Main := wF { wQ [] with ctxs := [(1, { wCtx [wCompress] with busy := true })], kw := k } F.KEYWAY_CTL_compress_enable 1

/-- A RUN of two positions on layer group 0 of model 5. -/
def wRun2 : Desc := wDesc 2 1 [(0x10, 8, 5), (0x1C, 4, 2)]

/-- A bitting of up to four rows. -/
def wPlan4 : Bitting := { wPlan with rowsMax := 4, minPlevel := 5 }

/-- A resident in berth 0 that goes on with that RUN. -/
def wResident : Ctx := { wCtx [wRun2] with run := some { seq := 2, group := 0, startLen := 0 }, berth := some (5, 1, 0) }

/-- Its machine: one hosted set, one stored plan, the Keyring enabled. -/
def wKey : Main :=
  wF { wQ [] with
    ctxs := [(1, wResident)], plans := [(0, { valid := true, contexts := [1], bitting := some wPlan4 })]
    kr := { step := 1, sets := [{ model := 5, mask := 1, berths := [(some 1, some 7)] }] } } F.KEYRING_CFG_enable 1

/-- A switch of context 1 into ward 0, which displaces context 2. -/
def wSwitch : Switch := { ctx := 1, mask := 1, model := 5, displaced := [2], atListPoint := true }

/-- Its machine. -/
def wSw (w : Switch) : Main :=
  { wQ [] with ctxs := [(1, { wCtx [] with state := .swappedRunnable }), (2, { wCtx [] with berth := some (5, 1, 0) })], kr := { switches := [w] } }

/-- A context table entry of context 1 and a write of CTX_BIND. -/
def wTable : Main :=
  { (wF (wF (wQ []) F.HOST_STATUS_recovery_needed 0) F.CTX_BIND_context 0) with
    ctxs := [], host := [(hostKey 0 65, 0x10#8), (hostKey 0 73, 0x20#8), (hostKey 0 81, 0x30#8), (hostKey 0 88, 4#8), (hostKey 0 89, 4#8),
      (hostKey 0 90, 10#8), (hostKey 0 91, 1#8)] }

theorem wNoRecords (m : Main) (h : m.host = []) : m.soundRecords = [] := by
  have e : ∀ i, m.logRecAt i = none := by
    intro i
    unfold Main.logRecAt
    rw [if_pos]
    simp [Main.logLine, h, Mem.rdN, Mem.rd, Tab.get, numAt, memZero]
    decide
  unfold Main.soundRecords
  rw [show (List.range m.logLines).filterMap m.logRecAt = [] from List.filterMap_eq_nil_iff.2 fun i _ => e i]
  rfl

/-- After boot, with recovery still needed. -/
def wBooted : Main := wF (wQ []) F.BOOT_STATUS_stage 3

/-- An answer record to request `k` of hinge `h` with verdict `v` and payload fields. -/
def wAns (k h v : Nat) (fs : List (Nat × Nat × Nat)) : List Byte :=
  wPut (leBytes 4 1 ++ leBytes 4 k ++ leBytes 1 h ++ leBytes 1 v ++ List.replicate 54 0#8) fs

/-- A request of a hinge. -/
def wReq (h : Nat) (as : List Nat) : HingeReq := { hinge := h, args := as }

/-- A service ring that has read that answer to request 3. -/
def wSvc (r : HingeReq) (bs : List Byte) : Svc := { nextReq := 4, lastAns := 1, answers := [(3, r, bs)] }

/-- The machine of `wKey` with a requester that waits for host software. -/
def wWait (r : HingeReq) (bs : List Byte) : Main :=
  { wKey with
    svc := wSvc r bs
    ctxs := [(1, { wResident with state := .residentBlocked, cause := .serviceWait, streams := [{ layer := 0, kvGroup := 0, width := 1, fill := 31 }] })]
    plans := [(0, { valid := true, contexts := [1], bitting := some { wPlan4 with aux := { wAux with carried :=
      [{ tensorId := 0, a := { mem := .stack, addr := 0 }, b := { mem := .stack, addr := 0 }, size := 0, member := 0, kvSlot := some (0, 0, 1, 1) }] } } })]
    kr := { wKey.kr with h2Wait := some (1, 2), build := some { job := { model := 5, mask := 1, round := 0 }, handle := 0, cut := [(1, 2)], todo := [] } } }

/-- With a victim that holds the one page. -/
def wVictim : Main :=
  let m := wF (wWait (wReq 2 [1]) (wAns 3 2 0 [(0x10, 1, 1), (0x12, 2, 2)])) F.KV_POLICY_drop_enable 1
  { wF m F.KV_POLICY_keep_pages 0 with
    ctxs := m.ctxs ++ [(2, { wCtx [] with streams := [{ layer := 0, kvGroup := 0, width := 1, pages := [0], fill := 3 }], kvLimit := 35 })]
    pages := [(0, { st := .owned 2 })], prot := { written := [(0, { wTenant with quota := 1 })], force := [(0, { wTenant with quota := 1 })] } }

/-- The machine in which the requester has its cause taken away. -/
def wAsked : Main :=
  Main.setCtx { wVictim with svc := wVictim.svc.taken 3, kr := { wVictim.kr with event := true, h2Wait := none } } 1
    { wVictim.ctx 1 with state := .residentRunning, cause := .none }

/-- A COMPRESS of 128 elements of FP8 E5M2 that waits for the table of its one block. -/
def wAskKw : Main :=
  { wQ [wDesc 2 6 [(0x10, 8, 0x8000), (0x28, 4, 128), (0x2C, 1, 4)]] with kw := { running := some { ctx := 1, seq := 2 }, assisted := true } }

/-- A switch that waits for H8. -/
def wAskSw (m : Main) : Main :=
  { m with kr := { switches := [{ wSwitch with go := false }] }, ctxs := [(1, { wCtx [] with state := .swappedBlocked, cause := .serviceWait })] }

/-- The Latch island with a candidate. -/
def wCand (st : CandSt) : Latch := { cand := some { number := 5, first := 160, next := 3, st := st, rep := 200, last := 479, score1 := 300 }, sdio := { io2 := true } }

/-- A descriptor of number 2. -/
def wD (op : Nat) (fs : List (Nat × Nat × Nat)) : Desc := wDesc 2 op fs

/-- A BIND descriptor of the container at 0x8000. -/
def wBind : Desc := wD 2 [(0x10, 8, 0x8000), (0x18, 4, 256)]

/-- The context whose BIND has copied its container, which stands in the tenant's memory. -/
def wBound : Main := wF { wC { wCtx [wBind, wD 9 []] with busy := true } with host := wHost } F.PLAN_AREA_SIZE_size 1

/-- A LANE_START of plan 5 on lane 0. -/
def wLaneStart : Main :=
  Main.setFld { wC (wCtx [wD 7 [(0x10, 2, 5), (0x12, 1, 0)]]) with
    plans := [(5, { valid := true, contexts := [1], bitting := some wLanePlan })]
    lanes := [(0, { st := .reserved, ward := 0, ctxNo := 1 })] } (F.LANE_CTL_context 0) 1

/-- A RUN of layer group 0 of model 5. -/
def wRun : Desc := wD 1 [(0x10, 8, 5), (0x1C, 4, 1)]

/-- A slot entry without tokens. -/
def wEnt : Entry :=
  { op := 0, kind := 0, rep := 0, waitA := noToken, waitB := noToken, signal := noToken, relA := false, relB := false
    layerFirst := false, commitLast := false, operand := 0 }

/-- A bitting whose one list, of a resource, is two such entries. -/
def wList (r : Resource) : Bitting := { wPlan with lists := [(r, [wEnt, wEnt])] }

/-- A running instance on ward 0 with that list at its start. -/
def wRunning (r : Resource) : Main :=
  { wQ [] with
    plans := [(0, { valid := true, contexts := [1], bitting := some (wList r) })]
    insts := [(0, { live := true, mask := 1, members := [{ ctx := 1, berth := 0, rows := 1, pos0 := 0, recompute := false }]
                    loadedWards := [0], lists := [(r, { left := 1 })] })] }

/-- Where that list stands. -/
def wPos : ListPos := { left := 1 }

/-- A place in the stacked memory. -/
def wStack (a : Nat) : Ref := { mem := .stack, addr := a }

/-- Elements there. -/
def wElem : ElemSrc := { ref := wStack 0, fmt := .int8 }

/-- A tile of two slices that has taken none. -/
def wTile : Tile :=
  { cfg := { fa := .int8, fw := .int8, k := 2 }, done := 0, pins := [], e0r := [], e0c := [], rowCells := [], colCells := [], corner := []
    emin := none }

/-- A tile that has taken its slices. -/
def wWhole : Tile := { wTile with done := 2 }

/-- One whose corner disagrees. -/
def wWrong : Tile := { wWhole with pins := [[{}]], e0r := [0], e0c := [0], colCells := [{ x := .fin false 1 0 }] }

/-- A failed tile in buffer 0. -/
def wFailed : Failed := { start := wWhole, slices := [], buf := 0, members := none, guard := [], recorded := true }

/-- An instance on ward 0 of context 1, with a list of no entries left. -/
def wInst : Inst :=
  { live := true, mask := 1, members := [{ ctx := 1, berth := 0, rows := 1, pos0 := 0, recompute := false }], step := 5
    lists := [], cost := 100 }

/-- A machine that runs it. -/
def wI (i : Inst) : Main := { wQ [] with insts := [(0, i)] }

/-- A RUN of one layer group. -/
def wRun1 : Desc := wDesc 2 1 [(0x10, 8, 5), (0x1C, 4, 1)]

/-- A commit of that RUN's last group. -/
def wCommit : Commit :=
  { sealNo := 1, inst := wInst, step := 5, round := 0, kind := 0, line := 0, lines := 2, live := false
    members := [{ ctx := 1, flags := 3, status := 0, detail := 0, seq := 2, cursor := 0, positions := 1 }] }

/-- An instance whose WIDEN tensor 4 misfits, its plan 0 with companion 1. -/
def wWiden (i : Inst) : Main :=
  Main.setFld { wI i with plans := [(0, { valid := true, contexts := [1], bitting := some wPlan }),
    (1, { valid := true, contexts := [1], role := 1, base := 0, bitting := some wPlan })] } F.CLIP_STAT_CTL_enable 1

/-- A lane's plan with an input buffer of 64 bytes in ward 0's store. -/
def wLaneIn : Bitting := { wLanePlan with aux := { wAux with laneIn := some ({ mem := .ws 0, addr := 0x1000 }, 64) } }

/-- Lane 0 running that plan for context 1 on ward 0. -/
def wLane (x : Lane) : Main :=
  { wQ [] with plans := [(5, { valid := true, contexts := [1], bitting := some wLaneIn })], lanes := [(0, x)] }

/-- Its state before slot 3. -/
def wLaneAt : Lane := { st := .running, ward := 0, ctxNo := 1, handle := 5, level := 5, nextSlot := 3, tick := 2, listsLoaded := true
                        inputReady := [3], input := 0x8000, inStride := 64 }

/-- A unit's ports at given states, with the CHAIN_HEAD pin. -/
def wPorts (m : Main) (up down head : Nat) : Main :=
  wF (wF (wF m F.LANIZA_STATUS_up_state up) F.LANIZA_STATUS_down_state down) F.LANIZA_STATUS_head_pin head

/-- A chained instance of ward 0 with context 1. -/
def wChained : Inst :=
  { live := true, mask := 1, members := [{ ctx := 1, berth := 0, rows := 1, pos0 := 0, recompute := false }], chained := true }

/-- A bitting for two units. -/
def wTwo : Bitting := { wPlan4 with chainUnits := 2 }

/-- Its machine at a chain address. -/
def wChain (i : Inst) (a : Nat) : Main :=
  wF (wF (wPorts { wKey with insts := [(0, i)], plans := [(0, { valid := true, contexts := [1], bitting := some wTwo })] } 2 2 0)
    F.LANIZA_ADDR_valid 1) F.LANIZA_ADDR_addr a

/-- A context with one stream of three pages, of a sequence of 100 positions. -/
def wSeq : Ctx := { wCtx [] with streams := [{ layer := 0, kvGroup := 0, width := 1, pages := [4, 5, 6], fill := 4 }], kvLimit := 100, seqLen := 100 }

/-- A state after reset with another Latch island. -/
def wLa (a : Latch) : State := { State.reset with la := a }

/-- A Latch island whose wake path runs unmuted. -/
def wListen (a : Latch) : Latch :=
  Latch.setFld (Latch.setFld { a with hasp := { mute := false, led := false, micPwr := true, clk0 := true } } F.WAKE_CFG_enable 1) (F.PDM_GRP_enable 0) 1

/-- Asleep in S2 with a candidate in stage 2. -/
def wVerify : State :=
  { wLa { wCand .stage2 with w0On := true } with mn := wF (wQ []) F.SLEEP_STATUS_state 2 }

/-- A block of one pair. -/
def wBlock : ABlock := { first := 160, sets := [[1, 2]] }

/-- A stream with a full block. -/
def wStream : AStream := { running := true, full := [wBlock] }

/-- The words of a sensor of RAW8 on port 0, with a window of `w` by `h` at the origin. -/
def wCamWords (w h : Nat) : List Nat := [1, 0, w + h * 0x10000, w + h * 0x10000, 0, 0, 0, 0x10001000, 0x10001000, 0, 0, 0, 0, 0, 0, 0]

/-- A machine whose camera has that sensor as number 0. -/
def wCam (w h : Nat) (x : CamSensor) : Main :=
  let m := (List.range 16).foldl (fun (m : Main) i => m.setWord (0xb100 + 4 * i) (BitVec.ofNat 32 ((wCamWords w h).getD i 0))) (wQ [])
  (wF (wF m F.CAM_CTL_enable 1) (F.CAM_PORT_enable 0) 1).setSensor 0 x

/-- A frame of two rows of two pixels that is complete. -/
def wFrame : CamSensor := { frame := 6, cfg := wCamWords 2 2, inFrame := true, line := 2, rows := [[10, 20], [30, 40]] }

/-- An instance of ward 0 that runs. -/
def wLive : Inst := { live := true, mask := 1, step := 9 }

/-- An enabled I3C controller 1 with a command. -/
def wI3c (word : Nat) : Main := (wF (wQ []) (F.I3C_CTL_enable 1) 1).setI3c 1 { cmds := [{ word := word }], tx := [1#8, 2#8, 3#8] }

/-- A machine in a sleep state, an entry or a wake in progress. -/
def wSleep (st busy : Nat) (m : Main) : Main := wF (wF (wF m F.SLEEP_STATUS_state st) F.SLEEP_STATUS_busy busy) F.BOOT_STATUS_stage 3

/-- A lane of ward 0 that runs. -/
def wLaneOn : Main := { wQ [] with lanes := [(0, { st := .running, level := 2 })], wards := [(0, { lane := some 0 })] }

/-- A Latch island whose outputs follow its hasp. -/
def wSettled : Latch := { wakePin := true }

/-- A wave that the Warden started. -/
def wWave : Main :=
  { wQ [] with strk := { armed := false, busy := true, source := 1, origin := 0x90, fired := 1, expect := [0x90, 5]
                         snaps := [(0x90, { flags := 5, origin := 0x90, source := 1 })] } }

/-- A machine with an error record due for the mirror. -/
def wErr : Main := wF { wQ [] with err := { next := 2, window := [(1, errBytes 1 { code := 0x21 })], due := [1] } } F.ERR_RING_IDX_tail 5

/-- A request of a command with a payload. -/
def wMbx (cmd : Nat) (p : List Byte) : List Byte := leBytes 2 cmd ++ leBytes 2 p.length ++ leBytes 4 77 ++ p

/-- A machine in Latch mode. -/
def wInLatch : State := { wMn (wQ []) with rc := { latchMode := true, reason := 5 } }

/-- A state whose boot ROM waits for an image, with an SDIO load. -/
def wBoot (f : FwLoad) : State := { wMn (wF (wQ []) F.BOOT_STATUS_stage 1) with la := { sdio := { fwl := f } } }

/-- A machine at work: firmware runs, two resets counted. -/
def wWork : State := wMn (wF (wF (wF (wQ []) F.BOOT_STATUS_stage 3) F.ERR_STATUS_latch_run 2) F.WAKE_EN_enable 7)

/-- A reset under way. -/
def wRc (r : ResetCtl) : State := { wMn (wQ []) with rc := r }

/-! ## A state for every clause of every statement -/

theorem witness_StepRunsFrontCommand_1 : ∃ (c : Instr) (rest : List Instr) (s : State), s.pending = c :: rest :=
  ⟨.protLock, [.strikeArm], { State.reset with pending := [.protLock, .strikeArm] }, by decide +kernel⟩

theorem witness_HaspSafeKeptByEveryStep_1 : ∃ (s t : State), s.HaspSafe :=
  ⟨State.reset, State.reset, by decide +kernel⟩

theorem witness_MemoryWritesReadBack_1 : ∃ (m : Main) (r : Ref) (bs : List Byte), refOk r bs.length = true :=
  ⟨{}, { mem := .sp 1, addr := 0x20 }, [1#8, 2#8], by decide +kernel⟩

theorem witness_DoorbellsAndArmsTaken_1 : ∃ (s : State) (c : Fin 3072) (v : DWord), s.HostUp ∧ s.mn.recoveryNeeded = false ∧ (s.mn.ctx c.val).entry.ok = true ∧ (s.mn.ctx c.val).state ≠ .free ∧ (s.mn.ctx c.val).state ≠ .faulted ∧ (s.mn.ctx c.val).accepted < v.toNat % 2 ^ 48 ∧ v.toNat % 2 ^ 48 ≤ (s.mn.ctx c.val).accepted + 2 ^ (s.mn.ctx c.val).entry.sqOrder :=
  ⟨wMn (wC (wCtx [])), 1, 2#64, by decide +kernel, by decide +kernel, by decide +kernel, by decide +kernel, by decide +kernel, by decide +kernel, by decide +kernel⟩

theorem witness_DoorbellsAndArmsTaken_2 : ∃ (s : State) (c : Fin 3072) (v : DWord), s.HostUp ∧ s.mn.recoveryNeeded = false ∧ (s.mn.ctx c.val).cqSeq ≤ v.toNat % 2 ^ 48 ∧ v.toNat % 2 ^ 48 ≤ (s.mn.ctx c.val).written :=
  ⟨wMn (wC { wCtx [] with written := 3 }), 1, 2#64, by decide +kernel, by decide +kernel, by decide +kernel, by decide +kernel⟩

theorem witness_DoorbellsAndArmsTaken_3 : ∃ (s : State) (c : Fin 3072) (v : DWord), s.HostUp ∧ s.mn.h10Hardware = true ∧ v.getLsbD 0 = true :=
  ⟨wMn (wQ []), 1, 1#64, by decide +kernel, by decide +kernel, by decide +kernel⟩

theorem witness_DoorbellsAndArmsTaken_4 : ∃ (s : State) (c : Fin 3072), s.wardenUp = true ∧ s.mn.h10Hardware = true ∧ (s.mn.ctx c.val).irqArmed = true ∧ 0 < (s.mn.ctx c.val).irqCount ∧ s.mn.masked (s.mn.ctx c.val).entry.vector = false :=
  ⟨wMn (wF (wC { wCtx [] with irqArmed := true, irqCount := 1 }) (F.MSIX_CTRL_mask 3) 0), 1, by decide +kernel, by decide +kernel, by decide +kernel, by decide +kernel, by decide +kernel⟩

theorem witness_DescriptorsAccepted_1 : ∃ (s : State) (c : Fin 3072) (k : Nat), s.wardenUp = true ∧ s.mn.recoveryNeeded = false ∧ s.mn.acceptStop = false ∧ (s.mn.ctx c.val).entry.ok = true ∧ (s.mn.ctx c.val).needCq = false ∧ (s.mn.ctx c.val).reading = [] ∧ (s.mn.ctx c.val).state ≠ .free ∧ (s.mn.ctx c.val).state ≠ .faulted ∧ (s.mn.ctx c.val).dbErr = none ∧ (s.mn.ctx c.val).eligible = [k] ∧ s.mn.dmaOk (s.mn.ctx c.val).tenant ((s.mn.ctx c.val).sqAddr k) 64 = true ∧ leNat ((s.mn.tenantRd (s.mn.ctx c.val).tenant ((s.mn.ctx c.val).sqAddr k) 64).take 6) = k :=
  ⟨wMn ((wC { wCtx [] with sqSeq := 2 }).tenantWr 7 (wCtx []).entry.sqBase (leBytes 6 0) |>.tenantWr 7 (0x1000 + 128) (leBytes 6 2)), 1, 2, by decide +kernel, by decide +kernel, by decide +kernel, by decide +kernel, by decide +kernel, by decide +kernel, by decide +kernel, by decide +kernel, by decide +kernel, by decide +kernel, by decide +kernel, by decide +kernel⟩

theorem witness_DescriptorsAccepted_2 : ∃ (s : State) (c : Fin 3072) (d e : Desc) (q : List Desc), s.wardenUp = true ∧ (s.mn.ctx c.val).state = .residentRunning ∧ (s.mn.ctx c.val).reading = [d] ∧ d.protErr = none ∧ d.opcode ≠ 8 ∧ (s.mn.ctx c.val).queue = e :: q ∧ e.protErr = none :=
  ⟨wMn (wC { wCtx [wD 1 []] with reading := [wDesc 3 9 []] }), 1, wDesc 3 9 [], wD 1 [], [], by decide +kernel, by decide +kernel, by decide +kernel, by decide +kernel, by decide +kernel, by decide +kernel, by decide +kernel⟩

theorem witness_EngineDescriptorsStart_1 : ∃ (s : State) (c : Fin 3072) (d : Desc) (q : List Desc), s.wardenUp = true ∧ s.mn.TurnOf c.val d q 1 ∧ (s.mn.ctx c.val).run = none ∧ d.field 0x38 1 % 2 = 0 ∧ 0 < d.field 0x1C 4 ∧ d.field 0x18 2 ≤ d.field 0x1A 2 ∧ (s.mn.ctx c.val).seqLen + d.field 0x1C 4 ≤ 2 ^ (s.mn.ctx c.val).entry.histOrder ∧ ((∀ g ≤ d.field 0x1A 2, d.field 0x18 2 ≤ g → s.mn.serves c.val (d.field 0x10 8) g = true)) :=
  ⟨wMn { wC (wCtx [wRun]) with plans := [(5, { valid := true, contexts := [1], bitting := some wPlan })] }, 1, wRun, [], by decide +kernel, by decide +kernel, by decide +kernel, by decide +kernel, by decide +kernel, by decide +kernel, by decide +kernel, by decide +kernel⟩

theorem witness_EngineDescriptorsStart_2 : ∃ (s : State) (c : Fin 3072) (d : Desc) (q : List Desc), s.wardenUp = true ∧ s.mn.TurnOf c.val d q 2 ∧ s.mn.dmaOk (s.mn.ctx c.val).tenant (d.field 0x10 8) (d.field 0x18 4) = true ∧ 0 < s.mn.fld F.PLAN_AREA_SIZE_size ∧ 0x100 ≤ d.field 0x18 4 ∧ d.field 0x18 4 ≤ 0x4000000 :=
  ⟨wMn (wF (wC (wCtx [wBind])) F.PLAN_AREA_SIZE_size 1), 1, wBind, [], by decide +kernel, by decide +kernel, by decide +kernel, by decide +kernel, by decide +kernel, by decide +kernel⟩

theorem witness_EngineDescriptorsStart_3 : ∃ (s : State) (c : Fin 3072) (d : Desc) (q : List Desc), s.wardenUp = true ∧ s.mn.TurnOf c.val d q 6 ∧ (fmtOfCode (kwOps d).fmt).isSome = true :=
  ⟨wMn (wC (wCtx [wD 6 []])), 1, wD 6 [], [], by decide +kernel, by decide +kernel, by decide +kernel⟩

theorem witness_EngineDescriptorsStart_4 : ∃ (s : State) (c : Fin 3072) (d : Desc) (q : List Desc) (l : Nat) (b : Bitting), s.wardenUp = true ∧ s.mn.TurnOf c.val d q 7 ∧ l = d.field 0x12 1 ∧ l ≤ 3 ∧ (s.mn.lane l).st = .reserved ∧ s.mn.laneCtxNo l = c.val ∧ (s.mn.plan (d.field 0x10 2)).valid = true ∧ c.val ∈ (s.mn.plan (d.field 0x10 2)).contexts ∧ (s.mn.plan (d.field 0x10 2)).bitting = some b ∧ lanePlanOk b (s.mn.lane l).ward = true ∧ (s.mn.ctx c.val).laneStops = [] ∧ (s.mn.ctx c.val).reExec = false :=
  ⟨wMn wLaneStart, 1, wD 7 [(0x10, 2, 5), (0x12, 1, 0)], [], 0, wLanePlan, by decide +kernel, by decide +kernel, by decide +kernel, by decide +kernel, by decide +kernel, by decide +kernel, by decide +kernel, by decide +kernel, by decide +kernel, by decide +kernel, by decide +kernel, by decide +kernel⟩

theorem witness_BindAndLoadTakeEffect_1 : ∃ (s : State) (c : Fin 3072) (aux : ContainerAux) (d : Desc) (q : List Desc) (bs : List Byte) (h a : Nat), s.wardenUp = true ∧ (s.mn.ctx c.val).queue = d :: q ∧ d.opcode = 2 ∧ (s.mn.ctx c.val).busy = true ∧ ((∀ e ∈ q.head?, e.protErr = none)) ∧ (s.mn.ctx c.val).irqArmed = false ∧ (s.mn.ctx c.val).state = .residentRunning ∧ q ≠ [] ∧ bs = s.mn.tenantRd (s.mn.ctx c.val).tenant (d.field 0x10 8) (d.field 0x18 4) ∧ s.mn.bindOk c.val (d.field 0x1C 1) (d.field 0x1E 2) bs (readBitting bs aux) = true ∧ (s.mn.plans.any fun p => p.2.valid && p.2.bytes == bs) = false ∧ s.mn.freeHandle = some h ∧ s.mn.planGap bs.length = some a :=
  ⟨wMn wBound, 1, wAux, wBind, [wD 9 []], wBytes, 0, 0, by decide +kernel, by decide +kernel, by decide +kernel, by decide +kernel, by decide +kernel, by decide +kernel, by decide +kernel, by decide +kernel, by decide +kernel, by exact wBindOk _ _ (by decide +kernel), by decide +kernel, by decide +kernel, by decide +kernel⟩

theorem witness_BindAndLoadTakeEffect_2 : ∃ (s : State) (c : Fin 3072) (d : Desc) (q : List Desc) (r : Nat), s.wardenUp = true ∧ s.mn.TurnOf c.val d q 4 ∧ d.field 0x29 1 = 0 ∧ d.field 0x18 8 % 0x10000 = 0 ∧ 0 < d.field 0x20 8 ∧ d.field 0x20 8 % 4096 = 0 ∧ d.field 0x28 1 ≤ 15 ∧ d.field 0x18 8 + regionBytes (d.field 0x20 8) ≤ 0x1200000000 ∧ (s.mn.areas.any fun a => spanHits (d.field 0x18 8 / 0x10000) (regionBytes (d.field 0x20 8) / 0x10000) a.1 a.2) = false ∧ s.mn.hitsRegion (d.field 0x18 8 / 0x10000) (regionBytes (d.field 0x20 8) / 0x10000) = false ∧ s.mn.freeRegion = some r ∧ s.mn.dirty (s.mn.ctx c.val).tenant (unitsOf (d.field 0x18 8) (regionBytes (d.field 0x20 8))) = [] ∧ (s.mn.scrubWant.any fun p => (unitsOf (d.field 0x18 8) (regionBytes (d.field 0x20 8))).contains p.1) = false :=
  ⟨wMn { wC (wCtx [wD 4 [(0x20, 8, 4096)]]) with scrubbed := [0] }, 1, wD 4 [(0x20, 8, 4096)], [], 0, by decide +kernel, by decide +kernel, by decide +kernel, by decide +kernel, by decide +kernel, by decide +kernel, by decide +kernel, by decide +kernel, by decide +kernel, by decide +kernel, by decide +kernel, by decide +kernel, by decide +kernel⟩

theorem witness_SetUpDescriptorsComplete_1 : ∃ (s : State) (c : Fin 3072) (d : Desc) (q : List Desc), s.wardenUp = true ∧ s.mn.TurnOf c.val d q 3 ∧ c.val ∈ (s.mn.plan (d.field 0x10 2)).contexts ∧ (s.mn.plan (d.field 0x10 2)).contexts.Nodup :=
  ⟨wMn { (wQ [wD 3 [(0x10, 2, 5)]]) with plans := [(5, { valid := true, contexts := [1] })] }, 1, wD 3 [(0x10, 2, 5)], [], by decide +kernel, by decide +kernel, by decide +kernel, by decide +kernel⟩

theorem witness_SetUpDescriptorsComplete_2 : ∃ (s : State) (c : Fin 3072) (d : Desc) (q : List Desc), s.wardenUp = true ∧ s.mn.TurnOf c.val d q 9 :=
  ⟨wMn (wQ [wD 9 []]), 1, wD 9 [], [], by decide +kernel, by decide +kernel⟩

theorem witness_SetUpDescriptorsComplete_3 : ∃ (s : State) (c : Fin 3072) (d : Desc) (q : List Desc), s.wardenUp = true ∧ s.mn.TurnOf c.val d q 5 ∧ d.field 0x10 2 < 8192 ∧ (s.mn.plans.any fun p => p.2.valid && Main.planNames p.2 (d.field 0x10 2)) = false ∧ (s.mn.region (d.field 0x10 2)).st = .sealed ∧ (s.mn.region (d.field 0x10 2)).pasid = (s.mn.ctx c.val).tenant :=
  ⟨wMn { (wQ [wD 5 [(0x10, 2, 9)]]) with regions := [(9, { st := .sealed, size := 4096, pasid := 7 })] }, 1, wD 5 [(0x10, 2, 9)], [], by decide +kernel, by decide +kernel, by decide +kernel, by decide +kernel, by decide +kernel, by decide +kernel⟩

theorem witness_SetUpDescriptorsComplete_4 : ∃ (s : State) (c : Fin 3072) (d : Desc) (q : List Desc), s.wardenUp = true ∧ s.mn.TurnOf c.val d q 8 ∧ d.field 0x10 1 ≤ 3 ∧ s.mn.laneCtxNo (d.field 0x10 1) = c.val :=
  ⟨wMn { (wQ []) with ctxs := [(0, wCtx [wD 8 []])] }, 0, wD 8 [], [], by decide +kernel, by decide +kernel, by decide +kernel, by decide +kernel⟩

theorem witness_SetUpDescriptorsComplete_5 : ∃ (s : State) (c : Fin 3072) (d : Desc) (q : List Desc) (k : Nat), s.wardenUp = true ∧ s.mn.TurnOf c.val d q k ∧ ((k = 0 ∨ 9 < k)) :=
  ⟨wMn (wQ [wD 10 []]), 1, wD 10 [], [], 10, by decide +kernel, by decide +kernel, by decide +kernel⟩

theorem witness_SlotsFire_1 : ∃ (s : State) (lead : Fin 16) (t : Fin 512) (a w : ElemSrc) (p : ListPos) (b : Bitting) (e : Entry) (x : Tile), s.wardenUp = true ∧ s.rc.blk = none ∧ s.mn.SlotReady lead.val (.tumbler t) (.slice none a .unscaled w .unscaled) p b e ∧ (s.mn.tum t.val).ramp = .on ∧ (s.mn.tum t.val).tile = some x ∧ x.done < x.cfg.k :=
  ⟨wMn { wRunning (.tumbler 0) with tums := [(0, { ramp := .on, tile := some wTile, start := some wTile })] }, 0, 0, wElem, wElem, wPos, wList (.tumbler 0), wEnt, wTile, by decide +kernel, by decide +kernel, by decide +kernel, by decide +kernel, by decide +kernel, by decide +kernel⟩

theorem witness_SlotsFire_2 : ∃ (s : State) (lead : Fin 16) (c : Fin 128) (op : VecOp) (d a b' x : Fin 32) (p : ListPos) (b : Bitting) (e : Entry), s.wardenUp = true ∧ s.rc.blk = none ∧ s.mn.SlotReady lead.val (.vec c) (.vop op d a b' x none none) p b e :=
  ⟨wMn (wRunning (.vec 0)), 0, 0, .add, 1, 2, 3, 4, wPos, wList (.vec 0), wEnt, by decide +kernel, by decide +kernel, by decide +kernel⟩

theorem witness_SlotsFire_3 : ∃ (s : State) (lead : Fin 16) (c : Fin 128) (v : Fin 32) (k : Nat) (dst : Ref) (p : ListPos) (b : Bitting) (e : Entry), s.wardenUp = true ∧ s.rc.blk = none ∧ s.mn.SlotReady lead.val (.vec c) (.vstore v k dst) p b e ∧ k ≤ 256 :=
  ⟨wMn { wRunning (.vec 0) with cyls := [(0, { vregs := [(257, 5#32)] })] }, 0, 0, 1, 4, wStack 0x100, wPos, wList (.vec 0), wEnt, by decide +kernel, by decide +kernel, by decide +kernel, by decide +kernel⟩

theorem witness_FailedTier3ReadGivesZeros_1 : ∃ (s : State) (lead w : Fin 16) (ms : List Nat) (dst : Ref) (k : Nat) (p : ListPos) (b : Bitting) (e : Entry), s.wardenUp = true ∧ s.rc.blk = none ∧ s.mn.SlotReady lead.val (.ring w) (.tier3Bad ms k dst) p b e ∧ ((s.mn.inst lead.val).members.any fun x => ms.contains x.berth) = true :=
  ⟨wMn (wRunning (.ring 0)), 0, 0, [0], wStack 0x100, 8, wPos, wList (.ring 0), wEnt, by decide +kernel, by decide +kernel, by decide +kernel, by decide +kernel⟩

theorem witness_ListsLoadAndRampsTurn_1 : ∃ (s : State) (w : Fin 16) (cycles lead : Nat) (i : Inst), s.wardenUp = true ∧ s.mn.instOn w.val = some (lead, i) ∧ w.val ∉ i.loadedWards :=
  ⟨wMn { wQ [] with insts := [(0, { live := true, mask := 1 })] }, 0, 9, 0, { live := true, mask := 1 }, by decide +kernel, by decide +kernel, by decide +kernel⟩

theorem witness_ListsLoadAndRampsTurn_2 : ∃ (s : State) (t : Fin 512), s.wardenUp = true ∧ (s.mn.tum t.val).ramp = .rest :=
  ⟨State.reset, 5, by decide +kernel, by decide +kernel⟩

theorem witness_ListsLoadAndRampsTurn_3 : ∃ (s : State) (t : Fin 512), s.wardenUp = true :=
  ⟨State.reset, 5, by decide +kernel⟩

theorem witness_ListsLoadAndRampsTurn_4 : ∃ (s : State) (t : Fin 512) (k : Fin 33), s.wardenUp = true ∧ (s.mn.tum t.val).ramp = .on :=
  ⟨wMn { wQ [] with tums := [(5, { ramp := .on })] }, 5, 7, by decide +kernel, by decide +kernel⟩

theorem witness_TilesSwapAndReplay_1 : ∃ (s : State) (t : Fin 512) (up : List (Nat × Word)) (y st : Tile) (b : Nat), s.wardenUp = true ∧ (s.mn.tum t.val).tile = some y ∧ (s.mn.tum t.val).start = some st ∧ y.cfg.k ≤ y.done ∧ freeFor (s.mn.tum t.val) y.cfg = some b ∧ firstFail (tileLines y (upsetRows (drainRows y) up)) = none :=
  ⟨wMn { wQ [] with tums := [(5, { ramp := .on, tile := some wWhole, start := some wTile })] }, 5, [], wWhole, wTile, 0, by decide +kernel, by decide +kernel, by decide +kernel, by decide +kernel, by decide +kernel, by decide +kernel⟩

theorem witness_TilesSwapAndReplay_2 : ∃ (s : State) (t : Fin 512) (up : List (Nat × Word)) (y st : Tile) (b : Nat) (l : LineRef), s.wardenUp = true ∧ (s.mn.tum t.val).tile = some y ∧ (s.mn.tum t.val).start = some st ∧ y.cfg.k ≤ y.done ∧ freeFor (s.mn.tum t.val) y.cfg = some b ∧ firstFail (tileLines y (upsetRows (drainRows y) up)) = some l ∧ s.mn.bit (F.CYL_TILE_ERR_valid (t.val / 4)) = false :=
  ⟨wMn { wQ [] with tums := [(5, { ramp := .on, tile := some wWrong, start := some wTile })] }, 5, [], wWrong, wTile, 0, ⟨.row, 0⟩, by decide +kernel, by decide +kernel, by decide +kernel, by decide +kernel, by decide +kernel, by decide +kernel, by decide +kernel⟩

theorem witness_TilesSwapAndReplay_3 : ∃ (s : State) (t : Fin 512) (lead : Nat) (i : Inst), s.wardenUp = true ∧ (s.mn.ward (t.val / 32)).holds.count t.val < (s.mn.tum t.val).failed.length ∧ s.mn.instOn (t.val / 32) = some (lead, i) :=
  ⟨wMn { wRunning (.tumbler 5) with tums := [(5, { failed := [wFailed] })] }, 5, 0, (wRunning (.tumbler 5)).inst 0, by decide +kernel, by decide +kernel, by decide +kernel⟩

theorem witness_TilesSwapAndReplay_4 : ∃ (s : State) (t : Fin 512) (up : List (Nat × Word)) (hs : List Nat) (f : Failed) (fs : List Failed) (lead : Nat) (i : Inst), s.wardenUp = true ∧ s.mn.Quiet ∧ (s.mn.ward (t.val / 32)).holds = t.val :: hs ∧ (s.mn.tum t.val).failed = f :: fs ∧ s.mn.instOn (t.val / 32) = some (lead, i) ∧ firstFail (tileLines (replayTile f) (upsetRows (drainRows (replayTile f)) up)) = none :=
  ⟨wMn { wRunning (.tumbler 5) with tums := [(5, { failed := [wFailed], buf0 := .held { cfg := wTile.cfg, rows := [], e0r := [], e0c := [] } })], wards := [(0, { holds := [5] })] }, 5, [], [], wFailed, [], 0, (wRunning (.tumbler 5)).inst 0, by decide +kernel, by decide +kernel, by decide +kernel, by decide +kernel, by decide +kernel, by decide +kernel⟩

theorem witness_StepsReachTheLog_1 : ∃ (s : State) (c : Fin 128) (cycles lead : Nat) (i : Inst), s.wardenUp = true ∧ s.mn.instOn (c.val / 8) = some (lead, i) ∧ i.stopped = false ∧ c.val ∉ i.doneCyls ∧ listsEnded i (inCyl c.val) = true ∧ s.mn.verdictsSettled c.val = true :=
  ⟨wMn (wI wInst), 3, 50, 0, wInst, by decide +kernel, by decide +kernel, by decide +kernel, by decide +kernel, by decide +kernel, by decide +kernel⟩

theorem witness_StepsReachTheLog_2 : ∃ (s : State) (w : Fin 16) (lead : Nat) (i : Inst), s.wardenUp = true ∧ s.mn.instOn w.val = some (lead, i) ∧ i.kind = .plan ∧ i.stopped = false ∧ i.staged = false ∧ i.widenTensor = none ∧ w.val ∉ i.readyWards ∧ i.chained = false ∧ ((∀ k < 8, 8 * w.val + k ∈ i.doneCyls)) ∧ listsEnded i (inWard w.val) = true ∧ ((∀ v ∈ wardsOf i.mask, v = w.val ∨ v ∈ i.readyWards)) :=
  ⟨wMn (wI { wInst with doneCyls := [0, 1, 2, 3, 4, 5, 6, 7] }), 0, 0, { wInst with doneCyls := [0, 1, 2, 3, 4, 5, 6, 7] }, by decide +kernel, by decide +kernel, by decide +kernel, by decide +kernel, by decide +kernel, by decide +kernel, by decide +kernel, by decide +kernel, by decide +kernel, by decide +kernel, by decide +kernel⟩

theorem witness_StepsReachTheLog_3 : ∃ (s : State) (w : Fin 16) (i : Inst) (k : Commit), s.wardenUp = true ∧ s.mn.laneOf w.val = none ∧ s.mn.inst w.val = i ∧ i.live = true ∧ i.staged = true ∧ i.chained = false ∧ (s.mn.log.pipe.any fun q => !q.live && q.kind == 0 && q.inst.mask == i.mask) = false ∧ k = { sealNo := s.mn.log.nextSeal, inst := i, step := i.step, round := i.round, kind := 0, members := i.members.map (s.mn.memberOutcome i), line := s.mn.log.nextLine, lines := 1 + (i.members.length + 3) / 4, live := false } ∧ (s.mn.log.pipe.map (·.lines)).sum + k.lines ≤ s.mn.logLines ∧ k.line + k.lines ≤ s.mn.logLines ∧ s.mn.logBase + 64 * s.mn.logLines ≤ 2 ^ 64 :=
  ⟨wMn { wI { wInst with staged := true } with ctxs := [(1, wCtx [wRun1])] }, 0, { wInst with staged := true }, { sealNo := 1, inst := { wInst with staged := true }, step := 5, round := 0, kind := 0, members := wInst.members.map (Main.memberOutcome { wI { wInst with staged := true } with ctxs := [(1, wCtx [wRun1])] } { wInst with staged := true }), line := 0, lines := 2, live := false }, by decide +kernel, by decide +kernel, by decide +kernel, by decide +kernel, by decide +kernel, by decide +kernel, by decide +kernel, by decide +kernel, by decide +kernel, by decide +kernel, by decide +kernel⟩

theorem witness_StepsReachTheLog_4 : ∃ (s : State) (k : Commit) (rest : List Commit), s.wardenUp = true ∧ s.mn.log.pipe = k :: rest ∧ k.live = true :=
  ⟨wMn { wQ [] with log := { pipe := [{ wCommit with live := true }] } }, { wCommit with live := true }, [], by decide +kernel, by decide +kernel, by decide +kernel⟩

theorem witness_CommitPointCompletesRun_1 : ∃ (s : State) (k : Commit) (x : CommitMember) (mem : Member) (d : Desc) (q : List Desc), s.wardenUp = true ∧ s.mn.Quiet ∧ s.mn.lz.phase = .idle ∧ s.mn.log.pipe = [k] ∧ k.live = false ∧ k.kind = 0 ∧ k.inst.kind = .plan ∧ k.inst.tensors = [] ∧ k.members = [x] ∧ k.inst.members = [mem] ∧ mem.ctx = x.ctx ∧ x.status = stDone ∧ mem.noCommit = false ∧ mem.recompute = false ∧ (s.mn.ctx x.ctx).state = .residentRunning ∧ (s.mn.ctx x.ctx).queue = d :: q ∧ ((∀ e ∈ q.head?, e.protErr = none)) ∧ (s.mn.ctx x.ctx).irqArmed = false ∧ x.flags = 3 ∧ x.cursor = d.field 0x1A 2 ∧ (s.mn.ctx x.ctx).cursor = x.cursor ∧ (s.mn.ctx x.ctx).kvLimit = (s.mn.ctx x.ctx).seqLen ∧ s.mn.fld F.HINGE_CTL_assist = 0 ∧ ((∀ p ∈ s.mn.ctxs, p.2.cause ≠ .pageWait)) :=
  ⟨wMn { wI wInst with ctxs := [(1, wCtx [wRun1])], log := { pipe := [wCommit] } }, wCommit, { ctx := 1, flags := 3, status := 0, detail := 0, seq := 2, cursor := 0, positions := 1 }, { ctx := 1, berth := 0, rows := 1, pos0 := 0, recompute := false }, wRun1, [], by decide +kernel, by decide +kernel, by decide +kernel, by decide +kernel, by decide +kernel, by decide +kernel, by decide +kernel, by decide +kernel, by decide +kernel, by decide +kernel, by decide +kernel, by decide +kernel, by decide +kernel, by decide +kernel, by decide +kernel, by decide +kernel, by decide +kernel, by decide +kernel, by decide +kernel, by decide +kernel, by decide +kernel, by decide +kernel, by decide +kernel, by decide +kernel⟩

theorem witness_MisfitStartsCompanion_1 : ∃ (s : State) (w : Fin 16) (lead t h : Nat) (i : Inst) (b : Bitting), s.wardenUp = true ∧ s.mn.instOn w.val = some (lead, i) ∧ i.widenTensor = some t ∧ s.mn.bittingOf i = some b ∧ s.mn.companionOf i = some h ∧ s.mn.bit F.CLIP_STAT_CTL_enable = true ∧ ringFull (ringOrder (s.mn.fld F.CLIP_STAT_CTL_ring_order) 4 16 4) s.mn.clip.head (s.mn.fld F.CLIP_STAT_TAIL_tail) = false :=
  ⟨wMn (wWiden { wInst with widenTensor := some 4 }), 0, 0, 4, 1, { wInst with widenTensor := some 4 }, wPlan, by decide +kernel, by decide +kernel, by decide +kernel, by decide +kernel, by decide +kernel, by decide +kernel, by decide +kernel⟩

theorem witness_MisfitStartsCompanion_2 : ∃ (s : State) (w : Fin 16) (lead h : Nat) (i : Inst) (b : Bitting), s.wardenUp = true ∧ s.mn.instOn w.val = some (lead, i) ∧ i.stopped = true ∧ s.mn.companionOf i = some h ∧ (s.mn.plan h).bitting = some b :=
  ⟨wMn (wWiden { wInst with stopped := true }), 0, 0, 1, { wInst with stopped := true }, wPlan, by decide +kernel, by decide +kernel, by decide +kernel, by decide +kernel, by decide +kernel⟩

theorem witness_ListPointsAndRoundsBuild_1 : ∃ (s : State), s.wardenUp = true ∧ s.mn.listPoint = true ∧ s.mn.kr.listed = true ∧ s.mn.kr.sets = [] ∧ s.mn.ctxs = [] ∧ s.mn.kr.switches = [] ∧ s.mn.kr.h2Wait = none ∧ s.mn.h9Defer = [] ∧ s.mn.fence.fenced = 0 ∧ s.mn.fld F.HINGE_CTL_assist = 0 :=
  ⟨wMn (wF { wQ [] with ctxs := [], kr := { step := 1, listed := true }, wards := (List.range 16).map fun w => (w, { roundDone := true }) } F.KEYRING_CFG_enable 1), by decide +kernel, by decide +kernel, by decide +kernel, by decide +kernel, by decide +kernel, by decide +kernel, by decide +kernel, by decide +kernel, by decide +kernel, by decide +kernel⟩

theorem witness_ListPointsAndRoundsBuild_2 : ∃ (s : State) (c h k : Nat) (p : Plan) (b : Bitting) (d : Desc) (r : RunProg) (last : Option Nat), s.wardenUp = true ∧ s.mn.listPoint = true ∧ s.mn.kr.listed = false ∧ s.mn.ReadyToBuild c h k p b d r last :=
  ⟨wMn wKey, 1, 0, 2, { valid := true, contexts := [1], bitting := some wPlan4 }, wPlan4, wRun2, { seq := 2, group := 0, startLen := 0 }, some 7, by decide +kernel, by decide +kernel, by decide +kernel, by decide +kernel⟩

theorem witness_ListPointsAndRoundsBuild_3 : ∃ (s : State) (w : Fin 16) (c h k : Nat) (p : Plan) (b : Bitting) (d : Desc) (r : RunProg) (last : Option Nat), s.wardenUp = true ∧ s.mn.bit F.KEYRING_CFG_enable = true ∧ s.mn.kr.listed = true ∧ s.mn.kr.h1Wait = false ∧ b.mask / 2 ^ w.val % 2 = 1 ∧ (s.mn.scheduled.all fun v => (s.mn.ward v).roundDone) = false ∧ s.mn.ReadyToBuild c h k p b d r last :=
  ⟨wMn { wKey with kr := { wKey.kr with listed := true, rounds := [(0, 0)] }, wards := [(0, { roundDone := true })] }, 0, 1, 0, 2, { valid := true, contexts := [1], bitting := some wPlan4 }, wPlan4, wRun2, { seq := 2, group := 0, startLen := 0 }, some 7, by decide +kernel, by decide +kernel, by decide +kernel, by decide +kernel, by decide +kernel, by decide +kernel, by decide +kernel⟩

theorem witness_SwitchesSaveAndRestore_1 : ∃ (s : State) (c : Fin 3072) (w : Switch), s.wardenUp = true ∧ s.mn.kr.switches = [w] ∧ w.ctx = c.val ∧ w.started = false ∧ w.go = true ∧ w.atListPoint = true ∧ (s.mn.ctx c.val).state = .swappedRunnable ∧ (wardsOf w.mask).all s.mn.scheduled.contains = true ∧ (s.mn.switchWards w).any (fun v => (s.mn.instOn v).isSome) = false ∧ w.displaced.filter (fun v => (s.mn.ctx v).resident) ≠ [] ∧ s.mn.switchFits w (w.displaced.filter fun v => (s.mn.ctx v).resident) = true :=
  ⟨wMn (wSw wSwitch), 1, wSwitch, by decide +kernel, by decide +kernel, by decide +kernel, by decide +kernel, by decide +kernel, by decide +kernel, by decide +kernel, by decide +kernel, by decide +kernel, by decide +kernel, by decide +kernel⟩

theorem witness_SwitchesSaveAndRestore_2 : ∃ (s : State) (c : Fin 3072) (cycles model mask b : Nat) (bs : List Byte) (slot : Nat), s.wardenUp = true ∧ s.mn.Quiet ∧ (s.mn.ctx c.val).state = .residentRunning ∧ (s.mn.ctx c.val).evict = true ∧ (s.mn.ctx c.val).berth = some (model, mask, b) ∧ s.mn.kr.switches = [] ∧ ((∀ w ∈ wardsOf mask, s.mn.instOn w = none)) ∧ slot = (if (s.mn.ctx c.val).imageValid then 1 - (s.mn.ctx c.val).imageSlot else 0) ∧ bs = (s.mn.updCtx c.val fun y => { y with imageCommit := y.lastCommit }).imageBytes c.val model mask b ∧ ((∀ w < 16, s.mn.fencedWard w = false)) :=
  ⟨wMn { wKey with ctxs := [(1, { wResident with evict := true })] }, 1, 40, 5, 1, 0, ({ wKey with ctxs := [(1, { wResident with evict := true })] } : Main).imageBytes 1 5 1 0, 0, by decide +kernel, by decide +kernel, by decide +kernel, by decide +kernel, by decide +kernel, by decide +kernel, by decide +kernel, by decide +kernel, by decide +kernel, by decide +kernel⟩

theorem witness_SwitchesSaveAndRestore_3 : ∃ (s : State) (c : Fin 3072) (cycles : Nat) (w : Switch), s.wardenUp = true ∧ s.mn.kr.switches = [w] ∧ w.ctx = c.val ∧ w.restoring = true ∧ (s.mn.ctx c.val).imageValid = false ∧ (s.mn.ctx c.val).state = .swappedRunnable :=
  ⟨wMn (wSw { wSwitch with displaced := [], started := true, restoring := true }), 1, 40, { wSwitch with displaced := [], started := true, restoring := true }, by decide +kernel, by decide +kernel, by decide +kernel, by decide +kernel, by decide +kernel, by decide +kernel⟩

theorem witness_TeardownAndRelease_1 : ∃ (s : State) (c : Fin 3072), s.wardenUp = true ∧ (s.mn.ctx c.val).state = .faulted ∧ (s.mn.ctx c.val).cause = .tearing ∧ (s.mn.ctx c.val).reading = [] ∧ s.mn.running c.val = false ∧ ((∀ p ∈ s.mn.plans, p.2.contexts.Nodup)) ∧ (s.mn.plans.map (·.1)).Nodup ∧ (s.mn.ctx c.val).berth = none :=
  ⟨wMn { wQ [] with ctxs := [(1, { wCtx [] with state := .faulted, cause := .tearing })], plans := [(0, { valid := true, contexts := [1, 2] })] }, 1, by decide +kernel, by decide +kernel, by decide +kernel, by decide +kernel, by decide +kernel, by decide +kernel, by decide +kernel, by decide +kernel⟩

theorem witness_TeardownAndRelease_2 : ∃ (s : State), s.HostUp ∧ (s.mn.ctx s.mn.selected).state = .faulted ∧ (s.mn.ctx s.mn.selected).cause = .torn :=
  ⟨wMn (wF { wQ [] with ctxs := [(1, { wCtx [] with state := .faulted, cause := .torn })] } F.CTX_SELECT_context 1), by decide +kernel, by decide +kernel, by decide +kernel⟩

theorem witness_TeardownAndRelease_3 : ∃ (s : State), s.HostUp ∧ (s.mn.ctx s.mn.selected).resident = true :=
  ⟨wMn (wF (wQ []) F.CTX_SELECT_context 1), by decide +kernel, by decide +kernel⟩

theorem witness_ContextsBindAndUnbind_1 : ∃ (s : State) (v : Word) (c k : Nat) (t : Tenant), s.HostUp ∧ s.mn.Quiet ∧ F.CTX_BIND_op.of v = 1 ∧ c = F.CTX_BIND_context.of v ∧ k = F.CTX_BIND_slot.of v ∧ t = Tab.get tenantDef s.mn.prot.written k ∧ c < 3072 ∧ (s.mn.ctx c).state = .free ∧ t.valid = true ∧ (s.mn.readEntry c).ok = true ∧ s.mn.recoveryNeeded = false ∧ s.mn.journalBase + 3072 * 64 ≤ 2 ^ 64 :=
  ⟨wMn wTable, F.CTX_BIND_op.into 1 (F.CTX_BIND_context.into 1 0#32), 1, 0, wTenant, by decide +kernel, by decide +kernel, by decide +kernel, by decide +kernel, by decide +kernel, by decide +kernel, by decide +kernel, by decide +kernel, by decide +kernel, by decide +kernel, by decide +kernel, by decide +kernel⟩

theorem witness_ContextsBindAndUnbind_2 : ∃ (s : State) (v : Word) (c : Nat), s.HostUp ∧ s.mn.Quiet ∧ F.CTX_BIND_op.of v = 2 ∧ c = F.CTX_BIND_context.of v ∧ c < 3072 ∧ (s.mn.ctx c).state = .residentRunning ∧ s.mn.running c = true :=
  ⟨wMn { wQ [] with insts := [(0, { live := true, mask := 1, members := [{ ctx := 1, berth := 0, rows := 1, pos0 := 0, recompute := false }] })] }, F.CTX_BIND_op.into 2 (F.CTX_BIND_context.into 1 0#32), 1, by decide +kernel, by decide +kernel, by decide +kernel, by decide +kernel, by decide +kernel, by decide +kernel, by decide +kernel⟩

theorem witness_RecoveryRuns_1 : ∃ (s : State), s.HostUp ∧ s.mn.mayRecover = true ∧ s.mn.recoveryNeeded = true ∧ s.mn.soundRecords = [] :=
  ⟨wMn wBooted, by decide +kernel, by decide +kernel, by decide +kernel, by exact wNoRecords _ rfl⟩

theorem witness_RecoveryRuns_2 : ∃ (s : State) (aux : List (Nat × ContainerAux)) (bad : List (Nat × Nat)), s.wardenUp = true ∧ s.mn.bit F.HOST_STATUS_recovering = true ∧ s.mn.host = [] ∧ ((∀ p ∈ s.mn.ctxs, p.2.rebound = false)) :=
  ⟨wMn (wF (wQ []) F.HOST_STATUS_recovering 1), [], [], by decide +kernel, by decide +kernel, by decide +kernel, by decide +kernel⟩

theorem witness_LanesAreSetAsideAndTick_1 : ∃ (s : State) (l : Fin 4) (v : Word) (w c : Nat), s.HostUp ∧ (F.LANE_CTL_reserve l.val).of v = 1 ∧ s.mn.bit F.PROT_CTL_lock = false ∧ s.mn.bit (F.LANE_CTL_reserve l.val) = false ∧ w = (F.LANE_CTL_ward l.val).of v ∧ c = (F.LANE_CTL_context l.val).of v ∧ c < 3072 ∧ s.mn.fencedWard w = false ∧ s.mn.laneTaking w = none ∧ s.mn.laneOf w = none ∧ (s.mn.lane l.val).st = .idle ∧ (s.mn.ctx c).state ≠ .free ∧ s.mn.kr.sets = [] :=
  ⟨wMn (wQ []), 2, (F.LANE_CTL_reserve 2).into 1 ((F.LANE_CTL_ward 2).into 3 ((F.LANE_CTL_context 2).into 1 0#32)), 3, 1, by decide +kernel, by decide +kernel, by decide +kernel, by decide +kernel, by decide +kernel, by decide +kernel, by decide +kernel, by decide +kernel, by decide +kernel, by decide +kernel, by decide +kernel, by decide +kernel, by decide +kernel⟩

theorem witness_LanesAreSetAsideAndTick_2 : ∃ (s : State) (l : Fin 4), s.wardenUp = true ∧ (s.mn.lane l.val).saving = true ∧ (s.mn.lane l.val).st = .idle ∧ s.mn.laneOf (s.mn.lane l.val).ward = some l.val ∧ s.mn.instOn (s.mn.lane l.val).ward = none ∧ s.mn.hasResidents (s.mn.lane l.val).ward = false :=
  ⟨wMn { wQ [] with lanes := [(2, { saving := true, ward := 3 })], wards := [(3, { lane := some 2 })] }, 2, by decide +kernel, by decide +kernel, by decide +kernel, by decide +kernel, by decide +kernel, by decide +kernel⟩

theorem witness_LanesAreSetAsideAndTick_3 : ∃ (s : State) (l : Fin 4), s.HostUp ∧ s.mn.bit F.PROT_CTL_lock = false ∧ s.mn.bit (F.LANE_CTL_reserve l.val) = true ∧ (s.mn.lane l.val).st = .reserved :=
  ⟨wMn (wF { wQ [] with lanes := [(2, { st := .reserved, ward := 3 })], wards := [(3, { lane := some 2 })] } (F.LANE_CTL_reserve 2) 1), 2, by decide +kernel, by decide +kernel, by decide +kernel, by decide +kernel⟩

theorem witness_LanesAreSetAsideAndTick_4 : ∃ (s : State) (l : Fin 4) (b : Bitting), s.wardenUp = true ∧ (s.mn.lane l.val).st = .running ∧ (s.mn.lane l.val).listsLoaded = true ∧ (s.mn.ward (s.mn.lane l.val).ward).fencePending = false ∧ (s.mn.plan (s.mn.lane l.val).handle).bitting = some b ∧ s.mn.capNow ≤ (s.mn.lane l.val).level ∧ (s.mn.lane l.val).cur = none ∧ (s.mn.lane l.val).inputReady.contains (s.mn.lane l.val).nextSlot = true ∧ (s.mn.lane l.val).staged.length < 4 ∧ (s.mn.lane l.val).miss = none ∧ (s.mn.lane l.val).badInput = [] :=
  ⟨wMn (wLane wLaneAt), 0, wLaneIn, by decide +kernel, by decide +kernel, by decide +kernel, by decide +kernel, by decide +kernel, by decide +kernel, by decide +kernel, by decide +kernel, by decide +kernel, by decide +kernel, by decide +kernel⟩

theorem witness_LanesAreSetAsideAndTick_5 : ∃ (s : State) (l : Fin 4) (b : Bitting), s.wardenUp = true ∧ (s.mn.lane l.val).st = .running ∧ (s.mn.lane l.val).listsLoaded = true ∧ (s.mn.ward (s.mn.lane l.val).ward).fencePending = false ∧ (s.mn.plan (s.mn.lane l.val).handle).bitting = some b ∧ s.mn.capNow ≤ (s.mn.lane l.val).level ∧ (s.mn.lane l.val).cur = none ∧ (s.mn.lane l.val).inputReady.contains (s.mn.lane l.val).nextSlot = false ∧ (s.mn.lane l.val).miss = none :=
  ⟨wMn (wLane { wLaneAt with inputReady := [] }), 0, wLaneIn, by decide +kernel, by decide +kernel, by decide +kernel, by decide +kernel, by decide +kernel, by decide +kernel, by decide +kernel, by decide +kernel, by decide +kernel⟩

theorem witness_LanesAreSetAsideAndTick_6 : ∃ (s : State) (l : Fin 4) (slot : Nat) (b : Bitting) (r : Ref) (k a : Nat), s.wardenUp = true ∧ (s.mn.lane l.val).st = .running ∧ (s.mn.lane l.val).nextSlot ≤ slot ∧ slot < (s.mn.lane l.val).nextSlot + 4 ∧ (s.mn.lane l.val).cur = none ∧ (s.mn.lane l.val).inputReady.contains slot = false ∧ (s.mn.plan (s.mn.lane l.val).handle).bitting = some b ∧ b.aux.laneIn = some (r, k) ∧ (s.mn.lane l.val).input ≠ 0 ∧ a = (s.mn.lane l.val).input + slot % 2 ^ (s.mn.lane l.val).bufOrder * (s.mn.lane l.val).inStride ∧ s.mn.dmaOk (s.mn.ctx (s.mn.lane l.val).ctxNo).tenant a k = true ∧ refOk { r with addr := r.addr + slot % 4 * k } k = true :=
  ⟨wMn (wLane { wLaneAt with inputReady := [] }), 0, 3, wLaneIn, { mem := .ws 0, addr := 0x1000 }, 64, 0x8000, by decide +kernel, by decide +kernel, by decide +kernel, by decide +kernel, by decide +kernel, by decide +kernel, by decide +kernel, by decide +kernel, by decide +kernel, by decide +kernel, by decide +kernel, by decide +kernel⟩

theorem witness_LoadsFillAndSeal_1 : ∃ (s : State) (r : Fin 8192) (x : Region) (c : Nat) (bs : List Byte), s.wardenUp = true ∧ s.mn.region r.val = x ∧ x.st = .loading ∧ x.ctx = some c ∧ x.openOnly = false ∧ x.loaded < x.size / 4096 ∧ bs = s.mn.tenantRd x.pasid (x.golden + 4096 * x.loaded) 4096 ∧ s.mn.dmaOk x.pasid (x.golden + 4096 * x.loaded) 4096 = true :=
  ⟨wMn (wR wRegion), 3, wRegion, 1, List.replicate 4096 0#8, by decide +kernel, by decide +kernel, by decide +kernel, by decide +kernel, by decide +kernel, by decide +kernel, by exact wBlank _ rfl _ _, by decide +kernel⟩

theorem witness_LoadsFillAndSeal_2 : ∃ (s : State) (r : Fin 8192) (x : Region) (c : Nat) (d : Desc) (q : List Desc), s.wardenUp = true ∧ s.mn.region r.val = x ∧ x.st = .loading ∧ x.size / 4096 ≤ x.loaded ∧ x.ctx = some c ∧ (s.mn.ctx c).queue = d :: q ∧ ((∀ e ∈ q.head?, e.protErr = none)) ∧ (s.mn.ctx c).irqArmed = false :=
  ⟨wMn (wR { wRegion with loaded := 1 }), 3, { wRegion with loaded := 1 }, 1, wLoad, [], by decide +kernel, by decide +kernel, by decide +kernel, by decide +kernel, by decide +kernel, by decide +kernel, by decide +kernel, by decide +kernel⟩

theorem witness_LoadsFillAndSeal_3 : ∃ (s : State) (r : Fin 8192) (x : Region) (c : Nat) (d : Desc) (q : List Desc), s.wardenUp = true ∧ s.mn.region r.val = x ∧ x.st = .loading ∧ x.ctx = some c ∧ (s.mn.ctx c).queue = d :: q ∧ ((∀ e ∈ q.head?, e.protErr = none)) ∧ (s.mn.ctx c).irqArmed = false :=
  ⟨wMn (wR wRegion), 3, wRegion, 1, wLoad, [], by decide +kernel, by decide +kernel, by decide +kernel, by decide +kernel, by decide +kernel, by decide +kernel, by decide +kernel⟩

theorem witness_HeldRegionsAreRefetched_1 : ∃ (s : State) (r : Fin 8192) (g : Nat) (ch : Fin 64) (x : Region), s.wardenUp = true ∧ s.mn.region r.val = x ∧ x.st = .sealed ∧ x.refetch = [] ∧ s.mn.fld F.HINGE_CTL_assist = 0 :=
  ⟨wMn (wR { wRegion with st := .sealed, ctx := none }), 3, 0, 5, { wRegion with st := .sealed, ctx := none }, by decide +kernel, by decide +kernel, by decide +kernel, by decide +kernel, by decide +kernel⟩

theorem witness_HeldRegionsAreRefetched_2 : ∃ (s : State) (r : Fin 8192) (x : Region) (g k ch : Nat) (rest : List (Nat × Nat × Nat)) (bs : List Byte), s.wardenUp = true ∧ s.mn.region r.val = x ∧ x.st = .held ∧ x.refetch = (g, k, ch) :: rest ∧ x.written = false ∧ x.assisted = false ∧ x.source = none ∧ bs = s.mn.tenantRd x.pasid (x.golden + 4096 * g) 4096 ∧ s.mn.dmaOk x.pasid (x.golden + 4096 * g) 4096 = true ∧ crc32c bs = leNat (s.mn.stack.rdN (tailAddr x g) 4) :=
  ⟨wMn (wTail (List.replicate 4096 0#8) wHeld), 3, wHeld, 0, 0, 5, [], List.replicate 4096 0#8, by decide +kernel, by decide +kernel, by decide +kernel, by decide +kernel, by decide +kernel, by decide +kernel, by decide +kernel, by exact wBlank _ rfl _ _, by decide +kernel, by exact wTailOk _ wHeld rfl⟩

theorem witness_HeldRegionsAreRefetched_3 : ∃ (s : State) (r : Fin 8192) (x : Region) (g k ch : Nat), s.wardenUp = true ∧ s.mn.region r.val = x ∧ x.st = .held ∧ x.refetch = [(g, k, ch)] ∧ x.written = true ∧ crc32c (s.mn.stack.rdN (x.base + 4096 * g) 4096) = leNat (s.mn.stack.rdN (tailAddr x g) 4) ∧ ((∀ p ∈ s.mn.ctxs, p.2.busy = false)) :=
  ⟨wMn (wTail (List.replicate 4096 0#8) { wHeld with written := true }), 3, { wHeld with written := true }, 0, 0, 5, by decide +kernel, by decide +kernel, by decide +kernel, by decide +kernel, by decide +kernel, by exact (congrArg crc32c (wStored _ { wHeld with written := true } rfl)).trans (wTailOk _ { wHeld with written := true } rfl), by decide +kernel⟩

theorem witness_HeldRegionsAreRefetched_4 : ∃ (s : State) (r : Fin 8192) (x : Region) (g k ch : Nat) (rest : List (Nat × Nat × Nat)), s.wardenUp = true ∧ s.mn.region r.val = x ∧ x.st = .held ∧ x.refetch = (g, k, ch) :: rest ∧ x.written = false ∧ x.assisted = false ∧ k + 1 < s.mn.attemptsMax :=
  ⟨wMn (wR wHeld), 3, wHeld, 0, 0, 5, [], by decide +kernel, by decide +kernel, by decide +kernel, by decide +kernel, by decide +kernel, by decide +kernel, by decide +kernel⟩

theorem witness_CxlAndAreasAreServed_1 : ∃ (s : State) (a k : Nat) (bs : List Byte) (pasid : Nat) (x : Region), s.HostUp ∧ s.mn.regionAt a bs.length = some (k, x) ∧ x.st = .loading ∧ x.openOnly = true ∧ x.ctx = none :=
  ⟨wMn (wR { wRegion with openOnly := true, ctx := none }), 0x10020, 3, [1#8, 2#8], 7, { wRegion with openOnly := true, ctx := none }, by decide +kernel, by decide +kernel, by decide +kernel, by decide +kernel, by decide +kernel⟩

theorem witness_CxlAndAreasAreServed_2 : ∃ (s : State) (a k j pasid : Nat) (x : Region), s.HostUp ∧ s.mn.regionAt a k = some (j, x) ∧ x.st = .sealed ∧ s.mn.bit F.PROT_CTL_cxlmem_read = true ∧ s.mn.conf = false :=
  ⟨wMn (wF (wR { wRegion with st := .sealed, ctx := none }) F.PROT_CTL_cxlmem_read 1), 0x10020, 2, 3, 7, { wRegion with st := .sealed, ctx := none }, by decide +kernel, by decide +kernel, by decide +kernel, by decide +kernel, by decide +kernel⟩

theorem witness_CxlAndAreasAreServed_3 : ∃ (s : State) (v : Word) (b k : Nat), s.HostUp ∧ s.mn.bit F.PROT_CTL_lock = false ∧ s.mn.plans = [] ∧ ((∀ p ∈ s.mn.ctxs, p.2.busy = false)) ∧ b = v.toNat % 2 ^ 21 ∧ k = s.mn.fld F.PLAN_AREA_SIZE_size ∧ b + k ≤ stackUnits ∧ spanHits b k (s.mn.fld F.PAGE_POOL_BASE_base) (s.mn.fld F.PAGE_POOL_SIZE_pages) = false ∧ spanHits b k (s.mn.fld F.SAVE_AREA_BASE_base) (s.mn.fld F.SAVE_AREA_SIZE_size) = false ∧ s.mn.hitsRegion b k = false :=
  ⟨wMn (wQ []), 0x20#32, 0x20, 0, by decide +kernel, by decide +kernel, by decide +kernel, by decide +kernel, by decide +kernel, by decide +kernel, by decide +kernel, by decide +kernel, by decide +kernel, by decide +kernel⟩

theorem witness_ScrubbingZeroes_1 : ∃ (s : State) (u : Nat), s.wardenUp = true ∧ u ∉ s.mn.scrub ∧ s.mn.scrubWant.find? (fun p => p.1 == u) = some (u, true) :=
  ⟨wMn { wQ [] with scrubWant := [(5, true)] }, 5, by decide +kernel, by decide +kernel, by decide +kernel⟩

theorem witness_ScrubbingZeroes_2 : ∃ (s : State) (u p : Nat) (us : List Nat), s.wardenUp = true ∧ s.mn.scrub = u :: us ∧ s.mn.pageOfUnit u = some p ∧ (s.mn.page p).st = .scrub ∧ ((∀ q ∈ s.mn.regions, q.2.ctx = none)) :=
  ⟨wMn (wF (wF { wQ [] with scrub := [5] } F.PAGE_POOL_BASE_base 4) F.PAGE_POOL_SIZE_pages 4), 5, 1, [], by decide +kernel, by decide +kernel, by decide +kernel, by decide +kernel, by decide +kernel⟩

theorem witness_CompressPassesRun_1 : ∃ (s : State) (j : KwJob), s.wardenUp = true ∧ s.mn.kw.running = none ∧ s.mn.bit F.KEYWAY_CTL_compress_enable = true ∧ s.mn.kw.queue.filter s.mn.kwLive = [j] ∧ s.mn.fld F.HINGE_CTL_assist = 0 :=
  ⟨wMn (wKwM { queue := [{ ctx := 1, seq := 2 }] }), { ctx := 1, seq := 2 }, by decide +kernel, by decide +kernel, by decide +kernel, by decide +kernel, by decide +kernel⟩

theorem witness_CompressPassesRun_2 : ∃ (s : State) (j : KwJob) (d : Desc) (q : List Desc) (f : Fmt) (o : KwOps) (p at_ : Nat) (r : KwResult), s.wardenUp = true ∧ s.mn.kw.running = some j ∧ s.mn.kwLive j = true ∧ s.mn.kw.assisted = false ∧ (s.mn.ctx j.ctx).queue = d :: q ∧ ((∀ e ∈ q.head?, e.protErr = none)) ∧ (s.mn.ctx j.ctx).irqArmed = false ∧ o = kwOps d ∧ p = (s.mn.ctx j.ctx).tenant ∧ fmtOfCode o.fmt = some f ∧ s.mn.dmaOk p o.source o.rawBytes = true ∧ r = kwPass f o.mode o.target (s.mn.fld F.KEYWAY_CTL_auto_raw_thresh) (fun b => (j.tables.find? fun t => t.1 == b).map (·.2)) (s.mn.tenantRd p o.source o.rawBytes) (s.mn.kwSource j o) ∧ s.mn.dmaOk p o.dest r.output.length = true ∧ s.mn.dmaOk p o.report 32 = true ∧ at_ = (s.mn.ctx j.ctx).entry.cqBase + d.seq % 2 ^ (s.mn.ctx j.ctx).entry.cqOrder * 32 ∧ at_ + 32 ≤ 2 ^ 64 ∧ o.dest + r.output.length ≤ 2 ^ 64 ∧ o.report + 32 ≤ 2 ^ 64 ∧ ((o.dest + r.output.length ≤ o.report ∨ o.report + 32 ≤ o.dest)) ∧ ((o.dest + r.output.length ≤ at_ ∨ at_ + 32 ≤ o.dest)) ∧ ((o.report + 32 ≤ at_ ∨ at_ + 32 ≤ o.report)) :=
  ⟨wMn (wKwM { running := some { ctx := 1, seq := 2 } }), { ctx := 1, seq := 2 }, wCompress, [], (fmtOfCode 0).getD .fp32, kwOps wCompress, 7, 0x2040, kwPass ((fmtOfCode 0).getD .fp32) (kwOps wCompress).mode (kwOps wCompress).target (Main.fld (wKwM { running := some { ctx := 1, seq := 2 } }) F.KEYWAY_CTL_auto_raw_thresh) (fun b => (([] : List (Nat × List Nat)).find? fun t => t.1 == b).map (·.2)) (Main.tenantRd (wKwM { running := some { ctx := 1, seq := 2 } }) 7 (kwOps wCompress).source (kwOps wCompress).rawBytes) (Main.kwSource (wKwM { running := some { ctx := 1, seq := 2 } }) { ctx := 1, seq := 2 } (kwOps wCompress)), by decide +kernel, by decide +kernel, by decide +kernel, by decide +kernel, by decide +kernel, by decide +kernel, by decide +kernel, by decide +kernel, by decide +kernel, by decide +kernel, by decide +kernel, by decide +kernel, by decide +kernel, by decide +kernel, by decide +kernel, by decide +kernel, by decide +kernel, by decide +kernel, by decide +kernel, by decide +kernel, by decide +kernel⟩

theorem witness_RequestsPostAndAnswersAreRead_1 : ∃ (s : State) (r : HingeReq) (q : List HingeReq) (k i at_ slot : Nat), s.wardenUp = true ∧ s.mn.hq = r :: q ∧ k = s.mn.svc.nextReq ∧ s.mn.bit F.SVC_CTL_enable = true ∧ k ≤ 0xFFFFFFFF ∧ ((∀ p ∈ s.mn.svc.out, p.1 + 2 ^ s.mn.svcOrder ≠ k)) ∧ i = k % 2 ^ s.mn.svcOrder ∧ at_ = hostKey 0 (s.mn.pair 0x2010 0x2014 12 + i * 64) ∧ slot = hostKey 0 (s.mn.pair 0x2020 0x2024 16 + i * 0x10000) ∧ ((slot + r.data.length ≤ at_ ∨ at_ + 64 ≤ slot)) ∧ (s.mn.bit F.SVC_CTL_irq = true → s.mn.masked (s.mn.fld F.SVC_CTL_vector) = false) :=
  ⟨wMn (wF (wF (wF { wQ [] with hq := [{ wReq 8 [1, 2, 3] with data := [1#8, 2#8] }] } F.SVC_CTL_enable 1) F.SVC_CTL_irq 1) (F.MSIX_CTRL_mask 0) 0), { wReq 8 [1, 2, 3] with data := [1#8, 2#8] }, [], 1, 1, 64, 0x10000, by decide +kernel, by decide +kernel, by decide +kernel, by decide +kernel, by decide +kernel, by decide +kernel, by decide +kernel, by decide +kernel, by decide +kernel, by decide +kernel, by decide +kernel⟩

theorem witness_RequestsPostAndAnswersAreRead_2 : ∃ (s : State) (r : HingeReq) (q : List HingeReq) (p : Nat × HingeReq), s.wardenUp = true ∧ s.mn.hq = r :: q ∧ s.mn.bit F.SVC_CTL_enable = true ∧ s.mn.svc.nextReq ≤ 0xFFFFFFFF ∧ p ∈ s.mn.svc.out ∧ p.1 + 2 ^ s.mn.svcOrder = s.mn.svc.nextReq :=
  ⟨wMn (wF { wQ [] with hq := [wReq 8 []], svc := { nextReq := 260, out := [(4, wReq 8 [])] } } F.SVC_CTL_enable 1), wReq 8 [], [], (4, wReq 8 []), by decide +kernel, by decide +kernel, by decide +kernel, by decide +kernel, by decide +kernel, by decide +kernel⟩

theorem witness_RequestsPostAndAnswersAreRead_3 : ∃ (s : State) (a k : Nat) (r : HingeReq) (bs slot : List Byte), s.HostUp ∧ s.mn.bit F.SVC_CTL_enable = true ∧ a = nextAnswer s.mn.svc.lastAns ∧ a < 2 ^ 32 ∧ bs = s.mn.host.rdN (hostKey 0 (s.mn.pair 0x2018 0x201c 12 + a % 2 ^ s.mn.svcOrder * 64)) 64 ∧ k = ansNat bs 4 4 ∧ (s.mn.svc.out.find? fun p => p.1 == k) = some (k, r) ∧ ansNat bs 8 1 = r.hinge ∧ verdictOk r.hinge (verdict bs) = true ∧ r.hinge ≠ 3 ∧ slot = (if r.hinge = 1 then s.mn.host.rdN (hostKey 0 (s.mn.pair 0x2020 0x2024 16 + k % 2 ^ s.mn.svcOrder * 0x10000 + 0xC000)) 0x4000 else []) :=
  ⟨wMn (wF { wQ [] with host := [(68, 3#8), (72, 8#8)], svc := { nextReq := 4, out := [(3, wReq 8 [])] } } F.SVC_CTL_enable 1), 1, 3, wReq 8 [], [0#8, 0#8, 0#8, 0#8, 3#8, 0#8, 0#8, 0#8, 8#8] ++ List.replicate 55 0#8, [], by decide +kernel, by decide +kernel, by decide +kernel, by decide +kernel, by decide +kernel, by decide +kernel, by decide +kernel, by decide +kernel, by decide +kernel, by decide +kernel, by decide +kernel⟩

theorem witness_RequestsPostAndAnswersAreRead_4 : ∃ (s : State) (v : Word), s.HostUp ∧ s.mn.Quiet :=
  ⟨wMn (wQ []), 0x2ff#32, by decide +kernel, by decide +kernel⟩

theorem witness_ListAnswersAreTaken_1 : ∃ (s : State) (num c h k : Nat) (rq : HingeReq) (bs : List Byte) (p : Plan) (b : Bitting) (d : Desc) (r : RunProg) (last : Option Nat), s.wardenUp = true ∧ s.mn.AnswerRead 1 num rq bs ∧ s.mn.kr.h1Wait = true ∧ s.mn.ReadyToBuild c h k p b d r last ∧ ((verdict bs = 1 ∨ verdict bs = 0 ∧ h1Instances (min 16 (ansNat bs 0x10 4)) (bs.drop 64) = [(h, b.mask, [c])])) :=
  ⟨wMn { wKey with kr := { wKey.kr with h1Wait := true }, svc := wSvc (wReq 1 []) (wAns 3 1 0 [(0x10, 4, 1)] ++ leBytes 2 0 ++ leBytes 2 1 ++ leBytes 4 1 ++ leBytes 8 1) }, 3, 1, 0, 2, wReq 1 [], wAns 3 1 0 [(0x10, 4, 1)] ++ leBytes 2 0 ++ leBytes 2 1 ++ leBytes 4 1 ++ leBytes 8 1, { valid := true, contexts := [1], bitting := some wPlan4 }, wPlan4, wRun2, { seq := 2, group := 0, startLen := 0 }, some 7, by decide +kernel, by decide +kernel, by decide +kernel, by decide +kernel, by decide +kernel⟩

theorem witness_ListAnswersAreTaken_2 : ∃ (s : State) (num c k : Nat) (rq : HingeReq) (bs : List Byte) (bd : Build) (bt : Bitting), s.wardenUp = true ∧ s.mn.AnswerRead 2 num rq bs ∧ verdict bs = 1 ∧ s.mn.kr.h2Wait = some (c, k) ∧ s.mn.kr.build = some bd ∧ bd.todo = [] ∧ bd.got = [] ∧ s.mn.kr.jobs = [] ∧ (s.mn.plan bd.handle).bitting = some bt ∧ (s.mn.ctx c).state = .residentBlocked ∧ (s.mn.usablePages (s.mn.ctx c).tenant).length < (s.mn.ctx c).need bt (s.mn.ctx c).berthNo k ∧ s.mn.releaseReserved (fun j => j == c) = s.mn :=
  ⟨wMn (wWait (wReq 2 [1]) (wAns 3 2 1 [])), 3, 1, 2, wReq 2 [1], wAns 3 2 1 [], { job := { model := 5, mask := 1, round := 0 }, handle := 0, cut := [(1, 2)], todo := [] }, ((wWait (wReq 2 [1]) (wAns 3 2 1 [])).plan 0).bitting.getD wPlan4, by decide +kernel, by decide +kernel, by decide +kernel, by decide +kernel, by decide +kernel, by decide +kernel, by decide +kernel, by decide +kernel, by decide +kernel, by decide +kernel, by decide +kernel, by decide +kernel⟩

theorem witness_ListAnswersAreTaken_3 : ∃ (s : State) (num c k v need : Nat) (rq : HingeReq) (bs : List Byte) (bd : Build) (bt : Bitting) (m0 m1 : Main) (us : List Nat), s.wardenUp = true ∧ s.mn.AnswerRead 2 num rq bs ∧ verdict bs = 0 ∧ ansNat bs 0x10 1 = 1 ∧ ansNat bs 0x12 2 = v ∧ s.mn.kr.h2Wait = some (c, k) ∧ s.mn.kr.build = some bd ∧ bd.cut = [(c, k)] ∧ bd.todo = [] ∧ bd.got = [] ∧ s.mn.kr.jobs = [] ∧ (s.mn.plan bd.handle).bitting = some bt ∧ (s.mn.ctx c).state = .residentBlocked ∧ need = (s.mn.ctx c).need bt (s.mn.ctx c).berthNo k ∧ m0 = Main.setCtx { s.mn with svc := s.mn.svc.taken num, kr := { s.mn.kr with event := true, h2Wait := none } } c { s.mn.ctx c with state := .residentRunning, cause := .none } ∧ (m0.usablePages (s.mn.ctx c).tenant).length < need ∧ m0.eligible c need [c] v = true ∧ m1 = m0.dropTop v c ∧ us = m1.usablePages (s.mn.ctx c).tenant ∧ need ≤ us.length :=
  ⟨wMn wVictim, 3, 1, 2, 2, 1, wReq 2 [1], wAns 3 2 0 [(0x10, 1, 1), (0x12, 2, 2)], { job := { model := 5, mask := 1, round := 0 }, handle := 0, cut := [(1, 2)], todo := [] }, (wVictim.plan 0).bitting.getD wPlan4, wAsked, wAsked.dropTop 2 1, [0], by decide +kernel, by decide +kernel, by decide +kernel, by decide +kernel, by decide +kernel, by decide +kernel, by decide +kernel, by decide +kernel, by decide +kernel, by decide +kernel, by decide +kernel, by decide +kernel, by decide +kernel, by decide +kernel, by decide +kernel, by decide +kernel, by decide +kernel, by decide +kernel, by decide +kernel, by decide +kernel⟩

theorem witness_OtherAnswersAreTaken_1 : ∃ (s : State) (num lead t g : Nat) (r : HingeReq) (bs : List Byte), s.wardenUp = true ∧ s.mn.AnswerRead 3 num r bs ∧ r.args.getD 0 0 = lead ∧ r.args.getD 1 0 = t ∧ r.args.getD 2 0 = g ∧ s.mn.lapsed r = false ∧ verdict bs = 0 :=
  ⟨wMn { wQ [] with insts := [(0, { live := true, mask := 1, handle := 4, step := 6, h3Asked := [(9, 2)] })], svc := wSvc { wReq 3 [0, 9, 2, 4] with step := 6 } (wAns 3 3 0 [(0x12, 1, 99)]) }, 3, 0, 9, 2, { wReq 3 [0, 9, 2, 4] with step := 6 }, wAns 3 3 0 [(0x12, 1, 99)], by decide +kernel, by decide +kernel, by decide +kernel, by decide +kernel, by decide +kernel, by decide +kernel, by decide +kernel⟩

theorem witness_OtherAnswersAreTaken_2 : ∃ (s : State) (num blk e mm : Nat) (r : HingeReq) (bs : List Byte) (j : KwJob) (d : Desc) (f : Fmt) (t : List Nat), s.wardenUp = true ∧ s.mn.AnswerRead 4 num r bs ∧ r.args.getD 1 0 = blk ∧ s.mn.kw.running = some j ∧ (s.mn.ctx j.ctx).head = some d ∧ (s.mn.kwBlocksOf j (kwOps d)).length = blk + 1 ∧ fmtOfCode (kwOps d).fmt = some f ∧ kwShape f = some (mm, e) ∧ j.tables.length = blk ∧ j.ended = false ∧ verdict bs = 0 ∧ t = ((List.range 8).map fun i => ansNat bs (0x10 + i) 1) ∧ kwValid f e t = true :=
  ⟨wMn { wAskKw with svc := wSvc (wReq 4 [1, 0]) (wAns 3 4 0 [(0x10, 4, 0x03020100), (0x14, 4, 0x07060504)]) }, 3, 0, 5, 2, wReq 4 [1, 0], wAns 3 4 0 [(0x10, 4, 0x03020100), (0x14, 4, 0x07060504)], { ctx := 1, seq := 2 }, wDesc 2 6 [(0x10, 8, 0x8000), (0x28, 4, 128), (0x2C, 1, 4)], .e5m2, [0, 1, 2, 3, 4, 5, 6, 7], by decide +kernel, by decide +kernel, by decide +kernel, by decide +kernel, by decide +kernel, by decide +kernel, by decide +kernel, by decide +kernel, by decide +kernel, by decide +kernel, by decide +kernel, by decide +kernel, by decide +kernel⟩

theorem witness_OtherAnswersAreTaken_3 : ∃ (s : State) (num k g tries ch : Nat) (rest : List (Nat × Nat × Nat)) (r : HingeReq) (bs : List Byte), s.wardenUp = true ∧ s.mn.AnswerRead 5 num r bs ∧ r.args.getD 0 0 = k ∧ r.args.getD 1 0 = g ∧ r.args.getD 4 0 = tries + 1 ∧ (s.mn.region k).st = .held ∧ (s.mn.region k).refetch = (g, tries, ch) :: rest ∧ (s.mn.region k).source = none ∧ verdict bs ≤ 1 :=
  ⟨wMn { wR wHeld with svc := wSvc (wReq 5 [3, 0, 0, 0, 1]) (wAns 3 5 1 [(0x10, 8, 0x5000), (0x18, 4, 9)]) }, 3, 3, 0, 0, 5, [], wReq 5 [3, 0, 0, 0, 1], wAns 3 5 1 [(0x10, 8, 0x5000), (0x18, 4, 9)], by decide +kernel, by decide +kernel, by decide +kernel, by decide +kernel, by decide +kernel, by decide +kernel, by decide +kernel, by decide +kernel, by decide +kernel⟩

theorem witness_OtherAnswersAreTaken_4 : ∃ (s : State) (num a : Nat) (r : HingeReq) (bs : List Byte), s.wardenUp = true ∧ s.mn.AnswerRead 7 num r bs ∧ s.mn.lz.phase = .asking ∧ verdict bs = 0 ∧ a = ansNat bs 0x10 1 % 16 ∧ s.mn.portUp 1 = true :=
  ⟨wMn (wF { wQ [] with lz := { phase := .asking }, svc := wSvc (wReq 7 []) (wAns 3 7 0 [(0x10, 1, 6)]) } F.LANIZA_STATUS_down_state 2), 3, 6, wReq 7 [], wAns 3 7 0 [(0x10, 1, 6)], by decide +kernel, by decide +kernel, by decide +kernel, by decide +kernel, by decide +kernel, by decide +kernel⟩

theorem witness_OtherAnswersAreTaken_5 : ∃ (s : State) (num c : Nat) (w : Switch) (r : HingeReq) (bs : List Byte), s.wardenUp = true ∧ s.mn.AnswerRead 8 num r bs ∧ r.args.getD 0 0 = c ∧ s.mn.kr.switches = [w] ∧ w.ctx = c ∧ w.go = false ∧ (s.mn.ctx c).state = .swappedBlocked ∧ (s.mn.ctx c).cause = .serviceWait :=
  ⟨wMn (wAskSw { wQ [] with svc := wSvc (wReq 8 [1]) (wAns 3 8 0 []) }), 3, 1, { wSwitch with go := false }, wReq 8 [1], wAns 3 8 0 [], by decide +kernel, by decide +kernel, by decide +kernel, by decide +kernel, by decide +kernel, by decide +kernel, by decide +kernel, by decide +kernel⟩

theorem witness_OtherAnswersAreTaken_6 : ∃ (s : State) (num b len : Nat) (r : HingeReq) (bs : List Byte), s.wardenUp = true ∧ s.mn.AnswerRead 9 num r bs ∧ r.args.getD 0 0 ≠ 2 ∧ b = r.args.getD 1 0 / 0x10000 ∧ len = r.args.getD 2 0 :=
  ⟨wMn { wQ [] with scrubWant := [(5, false), (9, false)], svc := wSvc (wReq 9 [0, 0x50000, 2]) (wAns 3 9 0 []) }, 3, 5, 2, wReq 9 [0, 0x50000, 2], wAns 3 9 0 [], by decide +kernel, by decide +kernel, by decide +kernel, by decide +kernel, by decide +kernel⟩

theorem witness_VerdictsTimeoutsAndClosing_1 : ∃ (s : State) (num : Nat) (r : HingeReq) (bs : List Byte) (c : Cand), s.wardenUp = true ∧ s.mn.AnswerRead 6 num r bs ∧ s.la.cand = some c ∧ c.st = .verdict ∧ c.number = r.args.getD 1 0 ∧ s.la.fifo.length < 16 ∧ s.la.sdio.io2 = true :=
  ⟨{ wMn { wQ [] with svc := wSvc (wReq 6 [1, 5]) (wAns 3 6 1 []) } with la := wCand .verdict }, 3, wReq 6 [1, 5], wAns 3 6 1 [], { number := 5, first := 160, next := 3, st := .verdict, rep := 200, last := 479, score1 := 300 }, by decide +kernel, by decide +kernel, by decide +kernel, by decide +kernel, by decide +kernel, by decide +kernel, by decide +kernel⟩

theorem witness_VerdictsTimeoutsAndClosing_2 : ∃ (s : State) (num c : Nat) (r : HingeReq) (q : List HingeReq) (w : Switch), s.wardenUp = true ∧ ((num = 0 ∧ s.mn.hq = r :: q ∨ num ≠ 0 ∧ s.mn.hq = q ∧ (s.mn.svc.out.find? fun p => p.1 == num) = some (num, r))) ∧ r.hinge = 8 ∧ r.args.getD 0 0 = c ∧ s.mn.kr.switches = [w] ∧ w.ctx = c ∧ w.go = false ∧ (s.mn.ctx c).cause = .serviceWait :=
  ⟨wMn (wAskSw { wQ [] with svc := { nextReq := 4, out := [(3, wReq 8 [1])] } }), 3, 1, wReq 8 [1], [], { wSwitch with go := false }, by decide +kernel, by decide +kernel, by decide +kernel, by decide +kernel, by decide +kernel, by decide +kernel, by decide +kernel, by decide +kernel⟩

theorem witness_VerdictsTimeoutsAndClosing_3 : ∃ (s : State) (b len : Nat) (r : HingeReq), s.HostUp ∧ s.mn.svc.out = [] ∧ s.mn.hq = [r] ∧ r.hinge = 9 ∧ r.args.getD 0 0 ≠ 2 ∧ b = r.args.getD 1 0 / 0x10000 ∧ len = r.args.getD 2 0 :=
  ⟨wMn { wQ [] with scrubWant := [(5, false), (9, false)], hq := [wReq 9 [0, 0x50000, 2]] }, 5, 2, wReq 9 [0, 0x50000, 2], by decide +kernel, by decide +kernel, by decide +kernel, by decide +kernel, by decide +kernel, by decide +kernel, by decide +kernel⟩

theorem witness_WalksBegin_1 : ∃ (s : State) (st : Fin 4), s.wardenUp = true ∧ s.mn.bit F.LANIZA_STATUS_head_pin = true ∧ s.mn.bit F.LANIZA_CTL_down_en = true ∧ 2 ≤ st.val ∧ s.mn.fld F.LANIZA_STATUS_down_state < 2 ∧ s.mn.lz.phase = .idle ∧ s.mn.NoChainWork :=
  ⟨wMn (wF (wPorts (wQ []) 0 0 1) F.LANIZA_CTL_down_en 1), 2, by decide +kernel, by decide +kernel, by decide +kernel, by decide +kernel, by decide +kernel, by decide +kernel, by decide +kernel⟩

theorem witness_WalksBegin_2 : ∃ (s : State), s.wardenUp = true ∧ s.mn.bit F.LANIZA_STATUS_head_pin = false ∧ s.mn.portUp 0 = false ∧ s.mn.portUp 1 = true ∧ s.mn.lz.phase = .idle ∧ s.mn.NoChainWork :=
  ⟨wMn (wPorts (wQ []) 0 2 0), by decide +kernel, by decide +kernel, by decide +kernel, by decide +kernel, by decide +kernel, by decide +kernel⟩

theorem witness_WalksBegin_3 : ∃ (s : State), s.wardenUp = true ∧ s.mn.isHead = false ∧ s.mn.lz.reached = false ∧ s.mn.NoChainWork :=
  ⟨wMn (wPorts (wQ []) 2 2 0), by decide +kernel, by decide +kernel, by decide +kernel, by decide +kernel⟩

theorem witness_WalksBegin_4 : ∃ (s : State), s.HostUp ∧ s.mn.isHead = true ∧ s.mn.portUp 1 = true ∧ s.mn.lz.phase = .idle ∧ s.mn.NoChainWork :=
  ⟨wMn (wPorts (wQ []) 0 2 1), by decide +kernel, by decide +kernel, by decide +kernel, by decide +kernel, by decide +kernel⟩

theorem witness_WalksBegin_5 : ∃ (s : State), s.HostUp ∧ s.mn.isHead = false ∧ s.mn.portUp 0 = true ∧ s.mn.lz.phase = .idle :=
  ⟨wMn (wPorts (wQ []) 2 2 0), by decide +kernel, by decide +kernel, by decide +kernel, by decide +kernel⟩

theorem witness_WalksGoRound_1 : ∃ (s : State), s.wardenUp = true ∧ s.mn.isHead = false ∧ s.mn.lz.phase ≠ .quiescing ∧ s.mn.NoChainWork ∧ s.mn.portUp 0 = true :=
  ⟨wMn (wPorts (wQ []) 2 0 0), by decide +kernel, by decide +kernel, by decide +kernel, by decide +kernel, by decide +kernel⟩

theorem witness_WalksGoRound_2 : ∃ (s : State), s.wardenUp = true ∧ s.mn.isHead = true ∧ s.mn.lz.phase = .quiescing ∧ s.mn.NoChainWork ∧ s.mn.portUp 1 = true ∧ s.mn.assisted 7 = false :=
  ⟨wMn (wPorts { wQ [] with lz := { phase := .quiescing } } 0 2 1), by decide +kernel, by decide +kernel, by decide +kernel, by decide +kernel, by decide +kernel, by decide +kernel⟩

theorem witness_WalksGoRound_3 : ∃ (s : State), s.wardenUp = true ∧ s.mn.isHead = false ∧ s.mn.portUp 0 = true :=
  ⟨wMn (wPorts (wQ []) 2 2 0), by decide +kernel, by decide +kernel, by decide +kernel⟩

theorem witness_WalksGoRound_4 : ∃ (s : State) (pos : Fin 17) (fl mx a b : Nat) (addrs : List Nat), s.wardenUp = true ∧ s.mn.isHead = false ∧ pos.val < 16 ∧ s.mn.assisted 7 = false ∧ s.mn.portUp 0 = true ∧ a = max fl s.mn.ownFloor ∧ b = min mx s.mn.ownMax :=
  ⟨wMn (wPorts (wQ []) 2 2 0), 3, 1, 4, max 1 (wPorts (wQ []) 2 2 0).ownFloor, min 4 (wPorts (wQ []) 2 2 0).ownMax, [0, 1, 2], by decide +kernel, by decide +kernel, by decide +kernel, by decide +kernel, by decide +kernel, rfl, rfl⟩

theorem witness_WalksGoRound_5 : ∃ (s : State) (units : Fin 17) (fl mx : Nat) (addrs : List Nat), s.wardenUp = true ∧ s.mn.isHead = true ∧ s.mn.lz.phase = .walking ∧ fl ≤ mx ∧ addrs.Nodup ∧ s.mn.portUp 1 = true ∧ s.mn.lz.resyncDue = false ∧ s.mn.NoChainWork :=
  ⟨wMn (wPorts { wQ [] with lz := { phase := .walking } } 0 2 1), 3, 1, 4, [0, 1, 2], by decide +kernel, by decide +kernel, by decide +kernel, by decide +kernel, by decide +kernel, by decide +kernel, by decide +kernel, by decide +kernel⟩

theorem witness_WalksGoRound_6 : ∃ (s : State) (units : Fin 17) (fl mx : Nat) (addrs : List Nat), s.wardenUp = true ∧ s.mn.isHead = true ∧ s.mn.lz.phase = .walking ∧ mx < fl ∧ s.mn.portUp 0 = false ∧ s.mn.portUp 1 = true ∧ s.mn.NoChainWork :=
  ⟨wMn (wPorts { wQ [] with lz := { phase := .walking } } 0 2 1), 3, 5, 4, [0, 1, 2], by decide +kernel, by decide +kernel, by decide +kernel, by decide +kernel, by decide +kernel, by decide +kernel, by decide +kernel⟩

theorem witness_WalksGoRound_7 : ∃ (s : State) (units : Fin 17) (fl mx : Nat) (addrs : List Nat), s.wardenUp = true ∧ s.mn.isHead = false ∧ s.mn.portUp 0 = true :=
  ⟨wMn (wPorts (wQ []) 2 2 0), 3, 1, 4, [0, 1, 2], by decide +kernel, by decide +kernel, by decide +kernel⟩

theorem witness_WalksGoRound_8 : ∃ (s : State) (units : Fin 17) (ring : Bool) (gen : Nat) (addrs : List Nat), s.wardenUp = true ∧ s.mn.lz.phase ≠ .idle ∧ s.mn.portUp 1 = true ∧ s.mn.lz.resyncDue = false ∧ s.mn.NoChainWork :=
  ⟨wMn (wF (wPorts { wQ [] with lz := { phase := .walking } } 2 2 0) F.LANIZA_ADDR_position 2), 3, true, 4, [0, 1, 2], by decide +kernel, by decide +kernel, by decide +kernel, by decide +kernel, by decide +kernel⟩

theorem witness_WalksGoRound_9 : ∃ (s : State) (units : Fin 17) (ring : Bool) (gen : Nat) (addrs : List Nat), s.wardenUp = true ∧ s.mn.lz.phase ≠ .idle ∧ s.mn.portUp 1 = true ∧ s.mn.NoChainWork :=
  ⟨wMn (wPorts { wQ [] with lz := { phase := .walking } } 2 2 0), 3, true, 4, [0, 1, 2], by decide +kernel, by decide +kernel, by decide +kernel, by decide +kernel⟩

theorem witness_ChainedInstancesRun_1 : ∃ (s : State) (h : Fin 4096) (c k : Nat) (p : Plan) (b : Bitting) (t : BerthSet), s.wardenUp = true ∧ s.mn.stored = [(h.val, p, b)] ∧ 1 < b.chainUnits ∧ b.aux.carried = [] ∧ s.mn.hosted b.modelKey b.mask = some t ∧ t.berths.filterMap (·.1) = [c] ∧ (s.mn.ctx c).state = .residentRunning ∧ p.contexts = [c] ∧ s.mn.bit F.LANIZA_ADDR_valid = true ∧ s.mn.lz.needWalk = false ∧ s.mn.lz.phase = .idle ∧ s.mn.setIdle t = true ∧ s.mn.building = false ∧ s.mn.bit F.KEYRING_CFG_enable = true ∧ (s.mn.ctx c).recompute = false :=
  ⟨wMn { wChain wChained 1 with insts := [] }, 0, 1, 2, { valid := true, contexts := [1], bitting := some wTwo }, wTwo, { model := 5, mask := 1, berths := [(some 1, some 7)] }, by decide +kernel, by decide +kernel, by decide +kernel, by decide +kernel, by decide +kernel, by decide +kernel, by decide +kernel, by decide +kernel, by decide +kernel, by decide +kernel, by decide +kernel, by decide +kernel, by decide +kernel, by decide +kernel, by decide +kernel⟩

theorem witness_ChainedInstancesRun_2 : ∃ (s : State) (lead : Fin 16) (i : Inst), s.wardenUp = true ∧ s.mn.inst lead.val = i ∧ i.live = true ∧ i.hold = true ∧ i.members ≠ [] ∧ s.mn.fld F.LANIZA_ADDR_addr ≠ 0 :=
  ⟨wMn (wChain { wChained with hold := true } 1), 0, { wChained with hold := true }, by decide +kernel, by decide +kernel, by decide +kernel, by decide +kernel, by decide +kernel, by decide +kernel⟩

theorem witness_ChainedInstancesRun_3 : ∃ (s : State) (lead : Fin 16) (i : Inst) (x y : Member), s.wardenUp = true ∧ s.mn.inst lead.val = i ∧ i.live = true ∧ i.hold = true ∧ i.members = [x, y] ∧ x.ctx ≠ y.ctx ∧ s.mn.releaseReserved (fun j => j == y.ctx) = s.mn ∧ i.reserved.all (fun q => q.1 == x.ctx) = true ∧ s.mn.fld F.LANIZA_ADDR_addr = 0 ∧ s.mn.portUp 1 = true :=
  ⟨wMn (wChain { wChained with hold := true, members := wChained.members ++ [{ ctx := 2, berth := 1, rows := 1, pos0 := 0, recompute := false }] } 0), 0, { wChained with hold := true, members := wChained.members ++ [{ ctx := 2, berth := 1, rows := 1, pos0 := 0, recompute := false }] }, { ctx := 1, berth := 0, rows := 1, pos0 := 0, recompute := false }, { ctx := 2, berth := 1, rows := 1, pos0 := 0, recompute := false }, by decide +kernel, by decide +kernel, by decide +kernel, by decide +kernel, by decide +kernel, by decide +kernel, by decide +kernel, by decide +kernel, by decide +kernel, by decide +kernel⟩

theorem witness_ChainedInstancesRun_4 : ∃ (s : State) (lead unit : Fin 16) (i : Inst) (b : Bitting), s.wardenUp = true ∧ s.mn.inst lead.val = i ∧ i.live = true ∧ i.chained = true ∧ i.staged = true ∧ i.chainGo = false ∧ s.mn.bittingOf i = some b ∧ unit ≠ 0 ∧ unit.val ∉ i.readyFrom ∧ s.mn.fld F.LANIZA_ADDR_addr = 0 ∧ b.chainUnits ≤ i.readyFrom.length + 2 ∧ s.mn.portUp 1 = true :=
  ⟨wMn (wChain { wChained with staged := true } 0), 0, 1, { wChained with staged := true }, wTwo, by decide +kernel, by decide +kernel, by decide +kernel, by decide +kernel, by decide +kernel, by decide +kernel, by decide +kernel, by decide +kernel, by decide +kernel, by decide +kernel, by decide +kernel, by decide +kernel⟩

theorem witness_ChainedInstancesRun_5 : ∃ (s : State) (lead : Fin 16) (i : Inst), s.wardenUp = true ∧ s.mn.inst lead.val = i ∧ i.live = true ∧ i.chained = true ∧ i.staged = true ∧ s.mn.portUp 1 = true :=
  ⟨wMn (wChain { wChained with staged := true } 1), 0, { wChained with staged := true }, by decide +kernel, by decide +kernel, by decide +kernel, by decide +kernel, by decide +kernel, by decide +kernel⟩

theorem witness_ChainedInstancesRun_6 : ∃ (s : State) (lead : Fin 16) (i : Inst), s.wardenUp = true ∧ s.mn.inst lead.val = i ∧ i.live = true ∧ i.chained = true ∧ i.staged = true ∧ i.chainGo = false ∧ s.mn.Quiet ∧ s.mn.lz.phase = .idle :=
  ⟨wMn (wChain { wChained with staged := true } 1), 0, { wChained with staged := true }, by decide +kernel, by decide +kernel, by decide +kernel, by decide +kernel, by decide +kernel, by decide +kernel, by decide +kernel, by decide +kernel⟩

theorem witness_NoticesAndPortsAct_1 : ∃ (s : State) (c : Fin 3072) (kv : Nat), s.wardenUp = true ∧ (s.mn.ctx c.val).state ≠ .free ∧ s.mn.Quiet ∧ s.mn.running c.val = false ∧ c.val ∈ s.mn.ctxs.map (·.1) ∧ kv < (s.mn.ctx c.val).kvLimit :=
  ⟨wMn (wC wSeq), 1, 50, by decide +kernel, by decide +kernel, by decide +kernel, by decide +kernel, by decide +kernel, by decide +kernel⟩

theorem witness_NoticesAndPortsAct_2 : ∃ (s : State) (c : Nat), s.wardenUp = true ∧ (s.mn.ctx c).state = .residentRunning ∧ s.mn.Quiet ∧ s.mn.running c = false ∧ c ∈ s.mn.ctxs.map (·.1) ∧ s.mn.chainedCtx c = true ∧ 0 < (s.mn.ctx c).seqLen ∧ (s.mn.ctx c).run = none ∧ (s.mn.ctx c).queue = [] :=
  ⟨wMn { wChain wChained 1 with insts := [], ctxs := [(1, wSeq)] }, 1, by decide +kernel, by decide +kernel, by decide +kernel, by decide +kernel, by decide +kernel, by decide +kernel, by decide +kernel, by decide +kernel, by decide +kernel⟩

theorem witness_NoticesAndPortsAct_3 : ∃ (s : State) (u d : Bool), s.HostUp :=
  ⟨wMn (wQ []), true, false, by decide +kernel⟩

theorem witness_NoticesAndPortsAct_4 : ∃ (s : State) (p : Fin 2) (k : Nat), s.wardenUp = true ∧ s.mn.portUp p.val = true ∧ k = (if p = 0 then s.mn.lz.failUp else s.mn.lz.failDown) ∧ k + 1 < 64 :=
  ⟨wMn (wPorts { wQ [] with lz := { failUp := 62 } } 2 2 0), 0, 62, by decide +kernel, by decide +kernel, by decide +kernel, by decide +kernel⟩

theorem witness_NoticesAndPortsAct_5 : ∃ (s : State), s.wardenUp = true ∧ s.mn.portUp 1 = true ∧ s.mn.lz.failDown = 63 ∧ s.mn.isHead = false ∧ s.mn.portUp 0 = true ∧ s.mn.NoChainWork :=
  ⟨wMn (wPorts { wQ [] with lz := { failDown := 63 } } 2 2 0), by decide +kernel, by decide +kernel, by decide +kernel, by decide +kernel, by decide +kernel, by decide +kernel⟩

theorem witness_MuteFollowsThePin_1 : ∃ (s : State), s.la.hasp.pin = false :=
  ⟨wLa { hasp := { mute := false, led := false, micPwr := true } }, by decide +kernel⟩

theorem witness_MuteFollowsThePin_2 : ∃ (s : State) (v : Word), s.HostUp ∧ s.la.hasp.pin = true ∧ v.getLsbD 0 = false :=
  ⟨wLa { hasp := { pin := true } }, 0#32, by decide +kernel, by decide +kernel, by decide +kernel⟩

theorem witness_MuteFollowsThePin_3 : ∃ (s : State), s.la.hasp.pin = true :=
  ⟨wLa { hasp := { pin := true } }, by decide +kernel⟩

theorem witness_MuteFollowsThePin_4 : ∃ (s : State) (v : Word), s.HostUp ∧ s.la.hasp.pin = false ∧ v.getLsbD 0 = false :=
  ⟨wLa {}, 0#32, by decide +kernel, by decide +kernel, by decide +kernel⟩

theorem witness_MuteFollowsThePin_5 : ∃ (s : State) (bytes : List Byte), s.CardUp ∧ s.la.hasp.pin = false ∧ mbxCmd (mbxPad bytes) = (2, 1) ∧ leNat (mbxPayload (mbxPad bytes)) = 0 :=
  ⟨wLa {}, [2#8, 0#8, 1#8], by decide +kernel, by decide +kernel, by decide +kernel, by decide +kernel⟩

theorem witness_TheHaspMutes_1 : ∃ (s : State) (v : Word), s.HostUp ∧ s.la.cand = none ∧ s.la.spool = none ∧ s.la.w0On = false ∧ s.la.fifo = [] :=
  ⟨wLa {}, 0#32, by decide +kernel, by decide +kernel, by decide +kernel, by decide +kernel, by decide +kernel⟩

theorem witness_TheHaspMutes_2 : ∃ (s : State), s.rc.latchHeld = false ∧ s.mn.sleepState = 0 ∧ s.mn.sleepBusy = false ∧ s.la.cand = none ∧ s.la.spool = none ∧ s.la.w0On = false ∧ s.la.fifo = [] ∧ s.la.hasp.pin = false :=
  ⟨wLa (wListen {}), by decide +kernel, by decide +kernel, by decide +kernel, by decide +kernel, by decide +kernel, by decide +kernel, by decide +kernel, by decide +kernel⟩

theorem witness_TheHaspMutes_3 : ∃ (s : State), s.rc.latchHeld = false ∧ s.mn.sleepState = 0 ∧ s.mn.sleepBusy = false ∧ s.la.w0On = false ∧ s.la.fifo = [] ∧ s.la.hasp.pin = true :=
  ⟨wLa { hasp := { pin := true } }, by decide +kernel, by decide +kernel, by decide +kernel, by decide +kernel, by decide +kernel, by decide +kernel⟩

theorem witness_FramesAreHeard_1 : ∃ (s : State) (g : Fin 2) (v : Word) (d : Nat), s.HostUp ∧ s.la.bit (F.PDM_GRP_enable g.val) = false ∧ d = v.toNat / 4 % 2 ^ 9 ∧ (if v.getLsbD 1 then 22 ≤ d ∧ d ≤ 100 else 64 ≤ d ∧ d ≤ 300) :=
  ⟨wLa {}, 0, 0x30101#32, 64, by decide +kernel, by decide +kernel, by decide +kernel, by decide +kernel⟩

theorem witness_FramesAreHeard_2 : ∃ (s : State) (g : Fin 2), s.rc.latchHeld = false :=
  ⟨wLa { settle0 := true }, 0, by decide +kernel⟩

theorem witness_FramesAreHeard_3 : ∃ (s : State), s.rc.latchHeld = false :=
  ⟨wLa (wListen {}), by decide +kernel⟩

theorem witness_FramesAreHeard_4 : ∃ (s : State), s.rc.latchHeld = false :=
  ⟨wLa { wListen {} with audStop := true }, by decide +kernel⟩

theorem witness_FramesAreHeard_5 : ∃ (s : State) (pairs : List (Nat × Nat)) (g0 g1 : List (List Nat)) (voice : Bool) (scores : List (Nat × Nat)) (n : Nat), s.Listening ∧ s.la.cand = none ∧ ((s.la.judgedNext voice).filter (·.2)).length < s.la.vldMin ∧ n = s.la.wake.next :=
  ⟨wLa (wListen { wake := { next := 39920 } }), [(1, 2), (0xffffff, 4)], [], [], false, [(5, 6)], 39920, by decide +kernel, by decide +kernel, by decide +kernel, by decide +kernel⟩

theorem witness_FramesAreHeard_6 : ∃ (s : State) (pairs : List (Nat × Nat)) (g0 g1 : List (List Nat)) (voice : Bool) (h : List Nat) (start : Nat), s.Listening ∧ s.la.cand = none ∧ s.la.fifo.length < 16 ∧ h = ((s.la.judgedNext voice).filter (·.2)).map (·.1) ∧ s.la.vldMin ≤ h.length ∧ start = max (max (h.foldl min (s.la.wake.next / 160) * 160 - s.la.fld F.VLD_CFG_lookback * 160) ((s.la.wake.next / 160 + 1) * 160 - 40000)) ((s.la.prevLast.map (· + 1)).getD 0) :=
  ⟨wLa (wListen { wake := { next := 32000 }, judged := [(199, true), (198, true)], prevLast := some 100 }), [], [], [], true, [200, 199, 198], 23680, by decide +kernel, by decide +kernel, by decide +kernel, by decide +kernel, by decide +kernel, by decide +kernel⟩

theorem witness_FramesAreHeard_7 : ∃ (s : State) (pairs : List (Nat × Nat)) (g0 g1 : List (List Nat)) (voice : Bool) (score rep : Nat) (c : Cand), s.Listening ∧ s.la.cand = some c ∧ c.st = .stage1 ∧ ((s.la.judgedNext voice).filter (·.2)).length < s.la.vldMin ∧ s.la.image.isSome = true ∧ c.next * 160 ≤ s.la.wake.next ∧ c.next < c.first / 160 + s.la.kwWindow ∧ q78 (s.la.fld F.KW_CFG_thresh) ≤ q78 score ∧ s.la.spoolPairs = 0 ∧ s.la.fifo.length < 16 ∧ s.la.sdio.io2 = true ∧ s.mn.sleepState = 0 ∧ s.rc.latchMode = false ∧ s.mn.fld F.HINGE_CTL_assist = 0 :=
  ⟨wLa (Latch.setFld (wListen { wCand .stage1 with image := some [], wake := { next := 480 } }) F.SPOOL_CFG_size 0), [], [], [], false, 0x400, 200, { number := 5, first := 160, next := 3, rep := 200, last := 479, score1 := 300 }, by decide +kernel, by decide +kernel, by decide +kernel, by decide +kernel, by decide +kernel, by decide +kernel, by decide +kernel, by decide +kernel, by decide +kernel, by decide +kernel, by decide +kernel, by decide +kernel, by decide +kernel, by decide +kernel⟩

theorem witness_CandidatesAreDecided_1 : ∃ (s : State) (c : Cand), s.rc.latchHeld = false ∧ s.la.cand = some c ∧ c.st = .stage1 ∧ c.first / 160 + s.la.kwWindow ≤ c.next :=
  ⟨wLa { wCand .stage1 with cand := some { number := 5, first := 160, next := 201 } }, { number := 5, first := 160, next := 201 }, by decide +kernel, by decide +kernel, by decide +kernel, by decide +kernel⟩

theorem witness_CandidatesAreDecided_2 : ∃ (s : State) (c : Cand) (w : Word) (q : Nat), s.rc.latchHeld = false ∧ s.la.cand = some c ∧ c.st = .stage2 ∧ s.la.w0On = true ∧ s.la.wake.next ≤ s.la.budgetEnd c ∧ s.rc.pgs.contains 1 = true ∧ scoreQ78 w = some q ∧ q78 q < q78 (s.la.fld F.VERIFY_CFG_thresh) ∧ s.la.fifo.length < 16 ∧ 2 ≤ s.mn.sleepState :=
  ⟨wVerify, { number := 5, first := 160, next := 3, st := .stage2, rep := 200, last := 479, score1 := 300 }, 0x3f800000#32, 256, by decide +kernel, by decide +kernel, by decide +kernel, by decide +kernel, by decide +kernel, by decide +kernel, by decide +kernel, by decide +kernel, by decide +kernel, by decide +kernel⟩

theorem witness_CandidatesAreDecided_3 : ∃ (s : State) (c : Cand) (w : Word) (q : Nat), s.rc.latchHeld = false ∧ s.la.cand = some c ∧ c.st = .stage2 ∧ s.la.w0On = true ∧ s.la.wake.next ≤ s.la.budgetEnd c ∧ s.rc.pgs.contains 1 = true ∧ scoreQ78 w = some q ∧ q78 (s.la.fld F.VERIFY_CFG_thresh) ≤ q78 q ∧ s.la.fifo.length < 16 ∧ s.mn.sleepState = 2 ∧ s.mn.sleepBusy = false ∧ s.rc.wardenHeld = false ∧ s.mn.wakeEnabled 6 = true :=
  ⟨wVerify, { number := 5, first := 160, next := 3, st := .stage2, rep := 200, last := 479, score1 := 300 }, 0x40400000#32, 768, by decide +kernel, by decide +kernel, by decide +kernel, by decide +kernel, by decide +kernel, by decide +kernel, by decide +kernel, by decide +kernel, by decide +kernel, by decide +kernel, by decide +kernel, by decide +kernel, by decide +kernel⟩

theorem witness_CandidatesAreDecided_4 : ∃ (s : State) (c : Cand), s.rc.latchHeld = false ∧ s.la.cand = some c ∧ c.st = .stage2 ∧ s.la.budgetEnd c ≤ s.la.wake.next ∧ s.la.fifo.length < 16 ∧ s.mn.sleepState = 2 :=
  ⟨{ wVerify with la := { wVerify.la with wake := { next := 8000 } } }, { number := 5, first := 160, next := 3, st := .stage2, rep := 200, last := 479, score1 := 300 }, by decide +kernel, by decide +kernel, by decide +kernel, by decide +kernel, by decide +kernel, by decide +kernel⟩

theorem witness_CandidatesAreDecided_5 : ∃ (s : State) (c : Cand), s.rc.latchHeld = false ∧ s.la.cand = some c ∧ c.st = .stage2 ∧ s.la.fifo.length < 16 ∧ s.mn.sleepState = 2 :=
  ⟨wVerify, { number := 5, first := 160, next := 3, st := .stage2, rep := 200, last := 479, score1 := 300 }, by decide +kernel, by decide +kernel, by decide +kernel, by decide +kernel, by decide +kernel⟩

theorem witness_CandidatesAreDecided_6 : ∃ (s : State) (aux : ContainerAux) (b n src : Nat) (bs : List Byte), s.HostUp ∧ b = s.la.fld F.VERIFY_BASE_base * 0x10000 ∧ n = s.la.fld F.VERIFY_BASE_length * 0x10000 ∧ 0 < n ∧ s.la.psramOk b n = true ∧ src = (s.la.word 0xa030).toNat / 4096 * 4096 + (s.la.word 0xa034).toNat * 2 ^ 32 ∧ bs = s.mn.host.rdN (hostKey 0 src) n :=
  ⟨wLa (Latch.setFld { psram1 := 64 } F.VERIFY_BASE_length 1), wAux, 0x4000000, 0x10000, 0, List.replicate 0x10000 0#8, by decide +kernel, by decide +kernel, by decide +kernel, by decide +kernel, by decide +kernel, by decide +kernel, by exact wBlank _ rfl _ _⟩

theorem witness_StreamsDeliver_1 : ∃ (s : State) (r : ARing) (v : Word), s.HostUp ∧ r ≠ .wake ∧ v.getLsbD 0 = true ∧ s.la.sdio.stream.running = false ∧ s.la.spool = none :=
  ⟨wLa {}, .capture0, 1#32, by decide +kernel, by decide +kernel, by decide +kernel, by decide +kernel, by decide +kernel⟩

theorem witness_StreamsDeliver_2 : ∃ (s : State) (v : Word) (x : WakeRec), s.HostUp ∧ v.getLsbD 0 = true ∧ s.la.fifo = [x] ∧ s.rc.linkUp = true ∧ s.la.sdio.io2 = false ∧ s.la.bit F.WAKE_CFG_irq = false ∧ ringFull (s.la.ring 0).2 s.la.wakeRing.head (s.la.fld (F.ARING_IDX_tail 0)) = false :=
  ⟨{ wLa { fifo := [{ cand := 1, first := 2, last := 3, score1 := 4, state := 0, outcome := 0 }] } with rc := { linkUp := true } }, 1#32, { cand := 1, first := 2, last := 3, score1 := 4, state := 0, outcome := 0 }, by decide +kernel, by decide +kernel, by decide +kernel, by decide +kernel, by decide +kernel, by decide +kernel, by decide +kernel⟩

theorem witness_StreamsDeliver_3 : ∃ (s : State) (r : ARing) (b : ABlock) (q : List ABlock) (at_ : Nat), s.rc.latchHeld = false ∧ s.ringDma = true ∧ r ≠ .wake ∧ (s.la.streamOf r).full = b :: q ∧ s.la.spool = none ∧ at_ = hostKey 0 ((s.la.ring (ringNo r)).1 + (s.la.streamOf r).ring.head * 4096) ∧ ringFull (s.la.ring (ringNo r)).2 (s.la.streamOf r).ring.head (s.la.fld (F.ARING_IDX_tail (ringNo r))) = false ∧ b.sets.length * (s.la.streamKind r).1 ≤ 1008 ∧ ((∀ x ∈ b.sets, x.length = (s.la.streamKind r).1)) :=
  ⟨wLa { stream := wStream }, .stream, wBlock, [], 0, by decide +kernel, by decide +kernel, by decide +kernel, by decide +kernel, by decide +kernel, by decide +kernel, by decide +kernel, by decide +kernel, by decide +kernel⟩

theorem witness_StreamsDeliver_4 : ∃ (s : State) (r : ARing) (v : Word) (b : ABlock) (at_ : Nat), s.HostUp ∧ v.getLsbD 1 = true ∧ r ≠ .wake ∧ (s.la.streamOf r).running = true ∧ (s.la.streamOf r).full = [] ∧ (s.la.streamOf r).part = some b ∧ s.la.spool = none ∧ at_ = hostKey 0 ((s.la.ring (ringNo r)).1 + (s.la.streamOf r).ring.head * 4096) ∧ ringFull (s.la.ring (ringNo r)).2 (s.la.streamOf r).ring.head (s.la.fld (F.ARING_IDX_tail (ringNo r))) = false ∧ b.sets.length * (s.la.streamKind r).1 ≤ 1008 ∧ ((∀ x ∈ b.sets, x.length = (s.la.streamKind r).1)) :=
  ⟨wLa { stream := { wStream with full := [], part := some wBlock } }, .stream, 2#32, wBlock, 0, by decide +kernel, by decide +kernel, by decide +kernel, by decide +kernel, by decide +kernel, by decide +kernel, by decide +kernel, by decide +kernel, by decide +kernel, by decide +kernel, by decide +kernel⟩

theorem witness_StreamsDeliver_5 : ∃ (s : State) (v : Word), s.HostUp ∧ v.getLsbD 1 = true :=
  ⟨wLa {}, 2#32, by decide +kernel, by decide +kernel⟩

theorem witness_StreamsDeliver_6 : ∃ (s : State), s.CardUp ∧ s.la.stream.running = false ∧ s.la.spool = none :=
  ⟨wLa {}, by decide +kernel, by decide +kernel, by decide +kernel⟩

theorem witness_StreamsDeliver_7 : ∃ (s : State), s.CardUp ∧ s.la.stream.running = true :=
  ⟨wLa { stream := wStream }, by decide +kernel, by decide +kernel⟩

theorem witness_StreamsDeliver_8 : ∃ (s : State), s.CardUp ∧ s.la.sdio.stream.running = true :=
  ⟨wLa { sdio := { stream := { wStream with full := [], part := some wBlock } } }, by decide +kernel, by decide +kernel⟩

theorem witness_StreamsDeliver_9 : ∃ (s : State) (x : WakeRec) (q : List WakeRec), s.CardUp ∧ s.la.fifo = x :: q :=
  ⟨wLa { fifo := [{ cand := 1, first := 2, last := 3, score1 := 4, state := 0, outcome := 0 }] }, { cand := 1, first := 2, last := 3, score1 := 4, state := 0, outcome := 0 }, [], by decide +kernel, by decide +kernel⟩

theorem witness_StreamsDeliver_10 : ∃ (s : State) (b : ABlock) (q : List ABlock), s.CardUp ∧ s.la.sdio.stream.full = b :: q ∧ s.la.spool = none :=
  ⟨wLa { sdio := { stream := wStream } }, wBlock, [], by decide +kernel, by decide +kernel, by decide +kernel⟩

theorem witness_FramesAreTaken_1 : ∃ (s : State) (port : Fin 4) (vc : Fin 16) (sn : Nat) (x : CamSensor) (w : Option (Nat × Nat × Nat)), s.wardenUp = true ∧ s.mn.camSensorAt port.val vc.val = some sn ∧ s.mn.sensor sn = x ∧ x.inFrame = false ∧ x.out = none ∧ w = x.waiting.filter s.mn.runLive :=
  ⟨wMn { wCam 2 2 { waiting := some (0, 9, 0) } with insts := [(0, wLive)] }, 0, 0, 0, { waiting := some (0, 9, 0) }, some (0, 9, 0), by decide +kernel, by decide +kernel, by decide +kernel, by decide +kernel, by decide +kernel, by decide +kernel⟩

theorem witness_FramesAreTaken_2 : ∃ (s : State) (port : Fin 4) (vc : Fin 16) (sn dt : Nat) (x : CamSensor) (c : List Nat) (bs : List Byte) (ok : Bool), s.wardenUp = true ∧ s.mn.camSensorAt port.val vc.val = some sn ∧ s.mn.sensor sn = x ∧ x.cfg = c ∧ x.inFrame = true ∧ x.ovf = false ∧ typeDt (csType (s.mn.camWords sn)) = some dt ∧ csY0 c ≤ x.line ∧ x.line < csY0 c + csH c ∧ 2 ≤ x.rows.length :=
  ⟨wMn (wCam 2 4 { wFrame with cfg := wCamWords 2 4 }), 0, 0, 0, 0x2A, { wFrame with cfg := wCamWords 2 4 }, wCamWords 2 4, [5#8, 6#8, 7#8], false, by decide +kernel, by decide +kernel, by decide +kernel, by decide +kernel, by decide +kernel, by decide +kernel, by decide +kernel, by decide +kernel, by decide +kernel, by decide +kernel⟩

theorem witness_FramesAreTaken_3 : ∃ (s : State) (port : Fin 4) (vc : Fin 16) (sn at_ : Nat) (x : CamSensor) (c : List Nat) (header : List Byte), s.wardenUp = true ∧ s.mn.camSensorAt port.val vc.val = some sn ∧ s.mn.sensor sn = x ∧ x.cfg = c ∧ x.inFrame = true ∧ x.claim = none ∧ x.rows.length = csH c ∧ csTnr c = false ∧ s.mn.bit F.CAM_CTL_stats_en = true ∧ s.mn.bit F.CAM_CTL_stats_irq = false ∧ ringFull (ringOrder (s.mn.fld F.CAM_STATS_LO_order) 4 12 6) s.mn.cam.stats.head (s.mn.fld F.CAM_STATS_IDX_tail) = false ∧ at_ = hostKey 0 (s.mn.pair 0xb020 0xb024 14 + s.mn.cam.stats.head * 16384) ∧ header = camHeader x.frame sn (b2n x.bad + 4 * b2n x.long + 8 * b2n x.ovf + 128) (csH c) 0 (csOutW c) (csOutH c) (x.emb.take 4096).length s.mn.cam.stats.head (b2n s.mn.cam.stats.phase) :=
  ⟨wMn (wF (wF (wCam 2 2 wFrame) F.CAM_CTL_stats_en 1) F.CAM_STATS_LO_order 4), 0, 0, 0, 0, wFrame, wCamWords 2 2, camHeader 6 0 128 2 0 2 2 0 0 1, by decide +kernel, by decide +kernel, by decide +kernel, by decide +kernel, by decide +kernel, by decide +kernel, by decide +kernel, by decide +kernel, by decide +kernel, by decide +kernel, by decide +kernel, by decide +kernel, by decide +kernel⟩

theorem witness_FramesAreTaken_4 : ∃ (s : State) (port : Fin 4) (vc : Fin 16) (sn l st rd : Nat) (x : CamSensor) (c : List Nat) (header : List Byte), s.wardenUp = true ∧ s.mn.camSensorAt port.val vc.val = some sn ∧ s.mn.sensor sn = x ∧ x.cfg = c ∧ x.inFrame = true ∧ x.claim = some (l, st, rd) ∧ s.mn.runLive (l, st, rd) = true ∧ x.rows.length = csH c ∧ csTnr c = false ∧ s.mn.bit F.CAM_CTL_stats_en = false ∧ header = camHeader x.frame sn (b2n x.bad + 4 * b2n x.long + 8 * b2n x.ovf) (csH c) 0 (csOutW c) (csOutH c) (x.emb.take 4096).length 0xFFFF (b2n s.mn.cam.stats.phase) :=
  ⟨wMn { wCam 2 2 { wFrame with claim := some (0, 9, 0) } with insts := [(0, wLive)] }, 0, 0, 0, 0, 9, 0, { wFrame with claim := some (0, 9, 0) }, wCamWords 2 2, camHeader 6 0 0 2 0 2 2 0 0xFFFF 1, by decide +kernel, by decide +kernel, by decide +kernel, by decide +kernel, by decide +kernel, by decide +kernel, by decide +kernel, by decide +kernel, by decide +kernel, by decide +kernel, by decide +kernel⟩

theorem witness_FramesAreTaken_5 : ∃ (s : State) (sn : Fin 16) (late : List Nat) (x : CamSensor), s.wardenUp = true ∧ s.mn.sensor sn.val = x ∧ x.inFrame = true ∧ x.claim = none ∧ s.mn.bit F.CAM_CTL_stats_en = false :=
  ⟨wMn (wCam 2 2 { wFrame with rows := [[10, 20]] }), 0, [], { wFrame with rows := [[10, 20]] }, by decide +kernel, by decide +kernel, by decide +kernel, by decide +kernel, by decide +kernel⟩

theorem witness_FramesAreTaken_6 : ∃ (s : State) (sn : Fin 16) (x : CamSensor) (c : List Nat) (l st rd : Nat), s.wardenUp = true ∧ s.mn.sensor sn.val = x ∧ x.waiting = some (l, st, rd) ∧ s.mn.runLive (l, st, rd) = true ∧ c = s.mn.camWords sn.val :=
  ⟨wMn { wCam 2 2 { waiting := some (0, 9, 0) } with insts := [(0, wLive)] }, 0, { waiting := some (0, 9, 0) }, wCamWords 2 2, 0, 9, 0, by decide +kernel, by decide +kernel, by decide +kernel, by decide +kernel, by decide +kernel⟩

theorem witness_SensorsAndControllersAnswer_1 : ∃ (s : State) (port : Fin 4) (corrected : Bool) (id : Nat), s.wardenUp = true ∧ id = (if corrected then 0x50 else 0x51) :=
  ⟨wMn (wQ []), 2, true, 0x50, by decide +kernel, by decide +kernel⟩

theorem witness_SensorsAndControllersAnswer_2 : ∃ (s : State) (sn : Fin 16) (v : Word) (off : Nat), s.HostUp ∧ off = 0xb100 + 0x40 * sn.val ∧ v.getLsbD 0 = true ∧ s.mn.camMayEnable sn.val (v.toNat :: (s.mn.camWords sn.val).drop 1) = true :=
  ⟨wMn (wF (wCam 64 48 {}) (F.CAM_LS_SRC_enable 0) 0), 0, 1#32, 0xb100, by decide +kernel, by decide +kernel, by decide +kernel, by decide +kernel⟩

theorem witness_SensorsAndControllersAnswer_3 : ∃ (s : State) (sn : Fin 16) (v : Word), s.HostUp ∧ v.getLsbD 0 = true ∧ s.mn.camMayEnable sn.val (v.toNat :: (s.mn.camWords sn.val).drop 1) = false :=
  ⟨wMn (wQ []), 0, 1#32, by decide +kernel, by decide +kernel, by decide +kernel⟩

theorem witness_SensorsAndControllersAnswer_4 : ∃ (s : State) (p : Fin 4) (v : Word), s.HostUp ∧ s.mn.bit (F.I3C_CTL_enable p.val) = true ∧ (s.mn.i3c p.val).cmds.length < 8 :=
  ⟨wMn (wI3c 5), 1, 0x1234567#32, by decide +kernel, by decide +kernel, by decide +kernel⟩

theorem witness_SensorsAndControllersAnswer_5 : ∃ (s : State) (p : Fin 4) (data : List Byte) (e : I3cEntry) (q : List I3cEntry) (k : Nat), s.wardenUp = true ∧ (s.mn.i3c p.val).cmds = e :: q ∧ s.mn.i3cHeld e = false ∧ k = bitsOf e.word 15 8 :=
  ⟨wMn (wI3c 0x200), 1, [], { word := 0x200 }, [], 2, by decide +kernel, by decide +kernel, by decide +kernel, by decide +kernel⟩

theorem witness_SensorsAndControllersAnswer_6 : ∃ (s : State) (p : Fin 4) (data : List Byte) (e : I3cEntry) (q : List I3cEntry), s.wardenUp = true ∧ (s.mn.i3c p.val).cmds = e :: q ∧ s.mn.i3cHeld e = false :=
  ⟨wMn (wI3c 0x200), 1, [], { word := 0x200 }, [], by decide +kernel, by decide +kernel, by decide +kernel⟩

theorem witness_SensorsAndControllersAnswer_7 : ∃ (s : State) (p : Fin 4) (a : Nat) (bs : List Byte), s.wardenUp = true ∧ s.mn.bit (F.I3C_CTL_enable p.val) = true :=
  ⟨wMn (wI3c 5), 1, 9, [1#8, 2#8], by decide +kernel, by decide +kernel⟩

theorem witness_SensorsAndControllersAnswer_8 : ∃ (s : State) (p : Fin 4), s.wardenUp = true ∧ s.mn.bit (F.I3C_CTL_enable p.val) = true :=
  ⟨wMn (wI3c 5), 1, by decide +kernel, by decide +kernel⟩

theorem witness_LevelsFollowCapAndHeat_1 : ∃ (s : State) (v : Word), s.HostUp ∧ ((∀ p ∈ s.mn.insts, p.2.kind = .plan)) :=
  ⟨wMn (wQ []), 3#32, by decide +kernel, by decide +kernel⟩

theorem witness_LevelsFollowCapAndHeat_2 : ∃ (s : State), s.rc.latchHeld = false ∧ ((∀ p ∈ s.mn.insts, p.2.kind = .plan)) :=
  ⟨wMn (wF (wQ []) F.PLEVEL_CTL_throttle_level 4), by decide +kernel, by decide +kernel⟩

theorem witness_LevelsFollowCapAndHeat_3 : ∃ (s : State), s.rc.latchHeld = false ∧ ((∀ p ∈ s.mn.insts, p.2.kind = .plan)) :=
  ⟨wMn (wF (wF (wQ []) F.PLEVEL_CTL_throttle_level 4) F.PLEVEL_CTL_throttle_pin 1), by decide +kernel, by decide +kernel⟩

theorem witness_LevelsFollowCapAndHeat_4 : ∃ (s : State) (i : Island) (t limit hyst : Int) (x : Therm), s.wardenUp = true ∧ levelled i = true ∧ x = s.mn.thermOf (islandCode i) ∧ limit = s.mn.fld F.THERM_CTL_limit ∧ hyst = (if s.mn.fld F.THERM_CTL_hyst = 0 then 5 else (s.mn.fld F.THERM_CTL_hyst : Int)) ∧ s.mn.islandLane (islandCode i) = none :=
  ⟨wMn (wF (wQ []) F.THERM_CTL_limit 95), .cyl 3, 99, 95, 5, {}, by decide +kernel, by decide +kernel, by decide +kernel, by decide +kernel, by decide +kernel, by decide +kernel⟩

theorem witness_LevelsFollowCapAndHeat_5 : ∃ (s : State) (i : Island) (t : Int), s.wardenUp = true ∧ levelled i = true ∧ (s.mn.islandLane (islandCode i)).isSome = true ∧ (s.mn.fld F.THERM_CTL_limit : Int) < t :=
  ⟨wMn (wF wLaneOn F.THERM_CTL_limit 95), .cyl 3, 99, by decide +kernel, by decide +kernel, by decide +kernel, by decide +kernel⟩

theorem witness_LevelsFollowCapAndHeat_6 : ∃ (s : State) (i : Island) (c : Int), s.rc.latchHeld = false ∧ s.wardenUp = true ∧ s.mn.sleepBusy = false ∧ levelled i = true ∧ (s.mn.fld F.THERM_CTL_alert : Int) ≤ c ∧ s.mn.bit F.THERM_CTL_irq = false :=
  ⟨wMn (wF (wQ []) F.THERM_CTL_alert 100), .ward 2, 104, by decide +kernel, by decide +kernel, by decide +kernel, by decide +kernel, by decide +kernel, by decide +kernel⟩

theorem witness_SleepIsEntered_1 : ∃ (s : State) (v : Word), s.HostUp ∧ s.mn.sleepBusy = false ∧ s.mn.wakeHeld = false ∧ 1 ≤ v.toNat % 8 ∧ v.toNat % 8 ≤ 4 ∧ (v.toNat % 8 = 3 → s.mn.bit F.SLEEP_IMG_enable = true) ∧ ((∀ l < 4, (s.mn.lane l).st = .idle)) ∧ ((∀ p ∈ s.mn.regions, p.2.st ≠ .loading)) :=
  ⟨wMn (wQ []), 4#32, by decide +kernel, by decide +kernel, by decide +kernel, by decide +kernel, by decide +kernel, by decide +kernel, by decide +kernel, by decide +kernel⟩

theorem witness_SleepIsEntered_2 : ∃ (s : State) (v : Word), s.HostUp ∧ ((v.toNat % 8 = 0 ∨ 4 < v.toNat % 8 ∨ v.toNat % 8 = 3 ∧ s.mn.bit F.SLEEP_IMG_enable = false)) :=
  ⟨wMn (wQ []), 3#32, by decide +kernel, by decide +kernel⟩

theorem witness_SleepIsEntered_3 : ∃ (s : State) (v : Word), s.HostUp ∧ s.mn.sleepBusy = false ∧ s.mn.wakeHeld = false ∧ 1 ≤ v.toNat % 8 ∧ v.toNat % 8 ≤ 2 ∧ (s.mn.lane 0).st = .running :=
  ⟨wMn wLaneOn, 2#32, by decide +kernel, by decide +kernel, by decide +kernel, by decide +kernel, by decide +kernel, by decide +kernel⟩

theorem witness_SleepIsEntered_4 : ∃ (s : State) (g : Nat), s.wardenUp = true ∧ s.mn.sleepBusy = true ∧ s.mn.sleepDelays s.rc.blkWard = [] ∧ g = s.mn.fld F.SLEEP_CTL_target ∧ g < 5 ∧ ((∀ p ∈ s.mn.ctxs, p.2.resident = false)) ∧ ((∀ i < 16, (s.mn.sensor i).inFrame = false)) ∧ s.la.cand = none :=
  ⟨wMn (wF (wSleep 0 1 { wQ [] with ctxs := [] }) F.SLEEP_CTL_target 3), 3, by decide +kernel, by decide +kernel, by decide +kernel, by decide +kernel, by decide +kernel, by decide +kernel, by decide +kernel, by decide +kernel⟩

theorem witness_SleepIsEntered_5 : ∃ (s : State) (b : Nat) (bs : List Nat), s.wardenUp = true ∧ s.mn.sleepBusy = true ∧ s.mn.sleepDelays s.rc.blkWard = b :: bs :=
  ⟨wMn { wSleep 0 1 (wQ []) with kw := { running := some { ctx := 1, seq := 2 } } }, 0xB1, [], by decide +kernel, by decide +kernel, by decide +kernel⟩

theorem witness_WakingIsRecorded_1 : ∃ (s : State) (src : Fin 8), s.rc.latchHeld = false ∧ s.rc.wardenHeld = false ∧ s.mn.wakeEnabled (src.val + 1) = true ∧ s.mn.sleepState = 0 ∧ s.mn.sleepBusy = true :=
  ⟨wMn (wF (wSleep 0 1 (wQ [])) F.WAKE_EN_enable 0x3f), 5, by decide +kernel, by decide +kernel, by decide +kernel, by decide +kernel, by decide +kernel⟩

theorem witness_WakingIsRecorded_2 : ∃ (s : State) (src : Fin 8), s.rc.latchHeld = false ∧ s.rc.wardenHeld = false ∧ s.mn.wakeEnabled (src.val + 1) = true ∧ ((s.mn.sleepState = 2 ∨ s.mn.sleepState = 1 ∧ 2 ≤ src.val)) ∧ s.mn.sleepBusy = false :=
  ⟨wMn (wF (wSleep 2 0 (wQ [])) F.WAKE_EN_enable 0x3f), 0, by decide +kernel, by decide +kernel, by decide +kernel, by decide +kernel, by decide +kernel⟩

theorem witness_WakingIsRecorded_3 : ∃ (s : State) (src : Fin 8), s.rc.latchHeld = false ∧ s.rc.wardenHeld = false ∧ s.mn.wakeEnabled (src.val + 1) = true ∧ 3 ≤ s.mn.sleepState ∧ s.mn.sleepState ≤ 4 ∧ s.mn.sleepBusy = false :=
  ⟨wMn (wF (wSleep 4 0 (wQ [])) F.WAKE_EN_enable 0x3f), 4, by decide +kernel, by decide +kernel, by decide +kernel, by decide +kernel, by decide +kernel, by decide +kernel⟩

theorem witness_WakingIsRecorded_4 : ∃ (s : State) (bad : Bool), s.rc.latchHeld = false ∧ s.rc.wardenHeld = false ∧ s.mn.sleepState = 1 ∧ s.mn.sleepBusy = true ∧ s.la.w0On = false ∧ s.la.fifo = [] ∧ s.la.cand = none ∧ s.mn.Quiet ∧ ((∀ i < 16, (s.mn.sensor i).inFrame = false)) :=
  ⟨{ wMn (wSleep 1 1 (wQ [])) with la := wSettled }, false, by decide +kernel, by decide +kernel, by decide +kernel, by decide +kernel, by decide +kernel, by decide +kernel, by decide +kernel, by decide +kernel, by decide +kernel⟩

theorem witness_WakingIsRecorded_5 : ∃ (s : State) (bad : Bool), s.rc.latchHeld = false ∧ s.rc.wardenHeld = false ∧ s.mn.sleepState = 2 ∧ s.mn.sleepBusy = true ∧ s.rc.retLost = false ∧ s.la.w0On = false ∧ s.la.fifo = [] ∧ s.la.cand = none ∧ s.mn.Quiet :=
  ⟨{ wMn (wSleep 2 1 { wQ [] with sp := [(5, 1#8), (0x160000, 2#8)] }) with la := wSettled }, false, by decide +kernel, by decide +kernel, by decide +kernel, by decide +kernel, by decide +kernel, by decide +kernel, by decide +kernel, by decide +kernel, by decide +kernel⟩

theorem witness_WakingIsRecorded_6 : ∃ (s : State) (bad : Bool), s.rc.latchHeld = false ∧ s.rc.wardenHeld = false ∧ s.mn.sleepState = 4 ∧ s.mn.sleepBusy = true ∧ s.rc.ready = true ∧ s.la.w0On = false ∧ s.la.fifo = [] ∧ s.la.cand = none :=
  ⟨{ wMn (wSleep 4 1 (wQ [])) with la := wSettled, rc := { ({} : ResetCtl) with ready := true } }, false, by decide +kernel, by decide +kernel, by decide +kernel, by decide +kernel, by decide +kernel, by decide +kernel, by decide +kernel, by decide +kernel⟩

theorem witness_WakingIsRecorded_7 : ∃ (s : State), s.rc.latchHeld = false ∧ s.mn.sleepState = 2 :=
  ⟨wMn (wSleep 2 0 (wQ [])), by decide +kernel, by decide +kernel⟩

theorem witness_ForbiddenProtectionWritesAreIgnored_1 : ∃ (s : State) (v : Word), s.HostUp ∧ ((∃ p ∈ s.mn.ctxs, p.2.slot = some s.mn.tenantSlot)) ∧ ((s.mn.tenantWritten.valid = true ∧ v.getLsbD 20 = false ∨ v.toNat % 2 ^ 20 ≠ s.mn.tenantWritten.pasid)) :=
  ⟨wMn { wQ [] with ctxs := [(1, { wCtx [] with slot := some 0 })] }, 0x7#32, by decide +kernel, by decide +kernel, by decide +kernel⟩

theorem witness_ForbiddenProtectionWritesAreIgnored_2 : ∃ (s : State) (v : Word), s.HostUp ∧ v.getLsbD 20 = true ∧ ((∃ p ∈ s.mn.prot.written, p.1 ≠ s.mn.tenantSlot ∧ p.2.valid = true ∧ p.2.pasid = v.toNat % 2 ^ 20)) :=
  ⟨wMn (wF (wQ []) F.TENANT_SELECT_slot 1), 0x100007#32, by decide +kernel, by decide +kernel, by decide +kernel⟩

theorem witness_ForbiddenProtectionWritesAreIgnored_3 : ∃ (s : State) (v : Word) (c : Nat), s.HostUp ∧ F.CTX_BIND_op.of v = 1 ∧ c = F.CTX_BIND_context.of v ∧ c < 3072 ∧ (((s.mn.ctx c).state ≠ .free ∨ (Tab.get tenantDef s.mn.prot.written (F.CTX_BIND_slot.of v)).valid = false)) :=
  ⟨wMn { wQ [] with ctxs := [] }, F.CTX_BIND_op.into 1 (F.CTX_BIND_slot.into 9 0#32), 0, by decide +kernel, by decide +kernel, by decide +kernel, by decide +kernel, by decide +kernel⟩

theorem witness_ForbiddenProtectionWritesAreIgnored_4 : ∃ (s : State) (v : Word), s.HostUp ∧ v.getLsbD 0 = true ∧ s.mn.windowWritten.limit / 2 ^ 32 * 2 ^ 32 + v.toNat / 4096 * 4096 < s.mn.windowWritten.base :=
  ⟨wMn { wQ [] with prot := { written := [(0, { wTenant with windows := [(0, { base := 0x5000 })] })] } }, 0x4001#32, by decide +kernel, by decide +kernel, by decide +kernel⟩

theorem witness_ProtectionIsWritten_1 : ∃ (s : State) (v : Word), s.HostUp ∧ v.getLsbD 0 = true :=
  ⟨wMn (wQ []), 1#32, by decide +kernel, by decide +kernel⟩

theorem witness_ProtectionIsWritten_2 : ∃ (s : State) (v : Word), s.HostUp ∧ v.getLsbD 0 = false :=
  ⟨wMn (wF (wQ []) F.CONF_MODE_enable 1), 0#32, by decide +kernel, by decide +kernel⟩

theorem witness_ProtectionIsWritten_3 : ∃ (s : State), s.HostUp :=
  ⟨wMn (wF (wQ []) F.PROT_CTL_cxlmem_read 1), by decide +kernel⟩

theorem witness_ProtectionIsWritten_4 : ∃ (s : State) (off : Nat) (v : Word) (x : Tenant) (ts : Tab Tenant), s.HostUp ∧ s.mn.Quiet ∧ s.mn.insts = [] ∧ s.mn.plans = [] ∧ (s.mn.prot.written.map (·.1)).Nodup ∧ x = s.mn.tenantAfter off v ∧ x ≠ s.mn.tenantWritten ∧ x.valid = true ∧ s.mn.tenantRefused off v = false ∧ ts = Tab.put tenantDef s.mn.tenantSlot x s.mn.prot.written :=
  ⟨wMn (wF (wQ []) F.TENANT_SELECT_slot 1), 0x1014, 0x100009#32, { pasid := 9, valid := true }, [(0, wTenant), (1, { pasid := 9, valid := true })], by decide +kernel, by decide +kernel, by decide +kernel, by decide +kernel, by decide +kernel, by decide +kernel, by decide +kernel, by decide +kernel, by decide +kernel, by decide +kernel⟩

theorem witness_ProtectionIsWritten_5 : ∃ (s : State) (off : Nat) (v : Word), s.HostUp ∧ s.mn.tenantRefused off v = true :=
  ⟨wMn (wF (wQ []) F.TENANT_SELECT_slot 1), 0x1014, 0x100007#32, by decide +kernel, by decide +kernel⟩

theorem witness_ProtectionIsWritten_6 : ∃ (s : State) (off : Nat) (v : Word), s.HostUp ∧ s.mn.tenantRefused off v = false ∧ s.mn.tenantAfter off v = s.mn.tenantWritten :=
  ⟨wMn (wQ []), 0x1014, 0x100007#32, by decide +kernel, by decide +kernel, by decide +kernel⟩

theorem witness_ReportsAreAttested_1 : ∃ (s : State), s.HostUp ∧ s.mn.attest = .none ∧ s.mn.protPending = false ∧ s.mn.sleepBusy = false :=
  ⟨wMn (wQ []), by decide +kernel, by decide +kernel, by decide +kernel, by decide +kernel⟩

theorem witness_ReportsAreAttested_2 : ∃ (s : State), s.HostUp ∧ s.mn.attest = .none ∧ ((s.mn.protPending = true ∨ s.mn.sleepBusy = true)) :=
  ⟨wMn (wF (wQ []) F.SLEEP_STATUS_busy 1), by decide +kernel, by decide +kernel, by decide +kernel⟩

theorem witness_ReportsAreAttested_3 : ∃ (s : State), s.HostUp ∧ s.mn.attest ≠ .none :=
  ⟨wMn { wQ [] with attest := .waiting }, by decide +kernel, by decide +kernel⟩

theorem witness_ReportsAreAttested_4 : ∃ (s : State) (head : List Byte) (a : Nat), s.wardenUp = true ∧ head.length = 512 ∧ a = s.mn.pair 0xd014 0xd018 10 ∧ a + 1024 ≤ 2 ^ 64 ∧ ((s.mn.attest = .sampled head ∨ s.mn.attest = .waiting ∧ s.mn.protPending = false ∧ s.mn.sleepBusy = false ∧ s.reportHead = head)) :=
  ⟨wMn { wF (wQ []) F.ATTEST_BUF_LO_base_lo 5 with attest := .sampled (List.replicate 512 7#8) }, List.replicate 512 7#8, 0x1400, by decide +kernel, by decide +kernel, by decide +kernel, by decide +kernel, by decide +kernel⟩

theorem witness_ReportsAreAttested_5 : ∃ (s : State), ((s.wardenUp = false ∨ s.mn.attest = .none ∨ s.mn.attest = .waiting ∧ (s.mn.protPending = true ∨ s.mn.sleepBusy = true))) :=
  ⟨wMn (wQ []), by decide +kernel⟩

theorem witness_StrikesTakeACut_1 : ∃ (s : State), s.HostUp ∧ s.mn.conf = false ∧ s.mn.strk.armed = true ∧ s.mn.absent.contains 0x90 = false :=
  ⟨wMn (wQ []), by decide +kernel, by decide +kernel, by decide +kernel, by decide +kernel⟩

theorem witness_StrikesTakeACut_2 : ∃ (s : State), s.HostUp ∧ s.mn.conf = false ∧ s.mn.strk.armed = false ∧ s.mn.strikeJoins 0x90 = false :=
  ⟨wMn wWave, by decide +kernel, by decide +kernel, by decide +kernel, by decide +kernel⟩

theorem witness_StrikesTakeACut_3 : ∃ (s : State), s.HostUp ∧ s.mn.strikeOn 1 = false :=
  ⟨wMn (wF (wQ []) F.CONF_MODE_enable 1), by decide +kernel, by decide +kernel⟩

theorem witness_StrikesTakeACut_4 : ∃ (s : State), s.HostUp :=
  ⟨wMn { wQ [] with strk := { armed := false, complete := true } }, by decide +kernel⟩

theorem witness_StrikesTakeACut_5 : ∃ (s : State) (us : Nat), s.wardenUp = true ∧ 1 ≤ us ∧ s.mn.strikeOn 2 = true ∧ s.mn.strk.armed = true ∧ s.mn.absent.contains 0x90 = false :=
  ⟨wMn (wF (wQ []) F.STRIKE_CTL_pin_en 1), 1, by decide +kernel, by decide +kernel, by decide +kernel, by decide +kernel, by decide +kernel⟩

theorem witness_StrikesTakeACut_6 : ∃ (s : State) (us : Nat), s.wardenUp = true ∧ ((us = 0 ∨ s.mn.strikeOn 2 = false)) :=
  ⟨wMn (wF (wQ []) F.STRIKE_CTL_pin_en 1), 0, by decide +kernel, by decide +kernel⟩

theorem witness_StrikesTakeACut_7 : ∃ (s : State) (i : Fin 4) (id k : Nat), s.wardenUp = true ∧ s.mn.strikeOn 4 = true ∧ s.mn.strk.armed = true ∧ s.mn.strk.compFired.contains i.val = false ∧ id = (s.mn.word (0xc040 + 0x10 * i.val)).toNat % 256 ∧ k = (s.mn.word (0xc040 + 0x10 * i.val)).toNat / 256 % 4096 ∧ ctrGiven id k = true ∧ 0 < s.mn.threshValue i.val ∧ s.mn.threshValue i.val ≤ s.counter id k ∧ s.mn.absent.contains (ctrIsland id k) = false ∧ ctrIsland id k ≠ 0xB0 :=
  ⟨wMn (wF (wF (wF { wQ [] with ctr := [(1 * 4096 + 5, 10)] } F.STRIKE_CTL_thresh_en 1) ⟨0xc050, 19, 0⟩ 0x501) ⟨0xc054, 31, 0⟩ 10), 1, 1, 5, by decide +kernel, by decide +kernel, by decide +kernel, by decide +kernel, by decide +kernel, by decide +kernel, by decide +kernel, by decide +kernel, by decide +kernel, by decide +kernel, by decide +kernel⟩

theorem witness_StrikesTakeACut_8 : ∃ (s : State) (isl : Island) (hop o src : Nat), s.wardenUp = true ∧ islandCode isl ≠ 0xB0 ∧ islandCode isl ∈ islandCodes ∧ s.mn.strk.busy = true ∧ ((∃ p ∈ s.mn.strk.snaps, p.2.hop = hop)) ∧ ((∀ p ∈ s.mn.strk.snaps, p.2.hop = hop → p.2.origin = o ∧ p.2.source = src)) ∧ s.mn.absent.contains (islandCode isl) = false ∧ ((∀ p ∈ s.mn.strk.snaps, p.1 ≠ islandCode isl)) :=
  ⟨wMn wWave, .cyl 5, 0, 0x90, 1, by decide +kernel, by decide +kernel, by decide +kernel, by decide +kernel, by decide +kernel, by decide +kernel, by decide +kernel, by decide +kernel⟩

theorem witness_StrikesTakeACut_9 : ∃ (s : State) (hop o src : Nat), s.wardenUp = true ∧ s.mn.strk.busy = true ∧ ((∃ p ∈ s.mn.strk.snaps, p.2.hop = hop)) ∧ ((∀ p ∈ s.mn.strk.snaps, p.2.hop = hop → p.2.origin = o ∧ p.2.source = src)) ∧ s.mn.absent.contains 0xB0 = false ∧ ((∀ p ∈ s.mn.strk.snaps, p.1 ≠ 0xB0)) :=
  ⟨wMn wWave, 0, 0x90, 1, by decide +kernel, by decide +kernel, by decide +kernel, by decide +kernel, by decide +kernel, by decide +kernel⟩

theorem witness_StrikesTakeACut_10 : ∃ (s : State) (isl : Island) (k : Nat) (x : Snap) (rest : List Nat), s.wardenUp = true ∧ s.mn.strk.busy = true ∧ s.mn.strk.expect.contains (islandCode isl) = true ∧ (islandCode isl, x) ∈ s.mn.strk.snaps ∧ (s.mn.strk.snaps.map (·.1)).Nodup ∧ rest = s.mn.strk.expect.filter (fun c => c ≠ islandCode isl && !s.mn.absent.contains c) ∧ k < 2 ^ 128 :=
  ⟨wMn wWave, .warden, 3, { flags := 5, origin := 0x90, source := 1 }, [5], by decide +kernel, by decide +kernel, by decide +kernel, by decide +kernel, by decide +kernel, by decide +kernel, by decide +kernel⟩

theorem witness_StrikesTakeACut_12 : ∃ (s : State) (i : Fin 4) (v : Word), s.HostUp :=
  ⟨wMn { wQ [] with strk := { compFired := [2, 3] } }, 2, 0xfff12345#32, by decide +kernel⟩

theorem witness_RecordsAndRegistersAreCopied_1 : ∃ (s : State) (k order i : Nat) (rest : List Nat) (bs : List Byte), s.wardenUp = true ∧ s.mn.err.due = k :: rest ∧ order = ringOrder (s.mn.fld F.ERR_RING_LO_order) 4 16 6 ∧ i = k % 2 ^ order ∧ ringFull order i (s.mn.fld F.ERR_RING_IDX_tail) = false ∧ bs = Tab.get winDef s.mn.err.window (k % 64) ∧ bs.length = 32 ∧ s.mn.pair 0xe010 0xe014 12 + i * 32 + 32 ≤ 2 ^ 64 :=
  ⟨wMn wErr, 1, 6, 1, [], errBytes 1 { code := 0x21 }, by decide +kernel, by decide +kernel, by decide +kernel, by decide +kernel, by decide +kernel, by decide +kernel, by decide +kernel, by decide +kernel⟩

theorem witness_RecordsAndRegistersAreCopied_2 : ∃ (s : State), s.wardenUp = true ∧ ((s.mn.err.due = [] ∨ ∃ k ∈ s.mn.err.due.head?, ringFull (ringOrder (s.mn.fld F.ERR_RING_LO_order) 4 16 6) (k % 2 ^ ringOrder (s.mn.fld F.ERR_RING_LO_order) 4 16 6) (s.mn.fld F.ERR_RING_IDX_tail) = true)) :=
  ⟨wMn { wErr with err := { wErr.err with due := [] } }, by decide +kernel, by decide +kernel⟩

theorem witness_RecordsAndRegistersAreCopied_3 : ∃ (s : State) (off : Nat) (v : Word) (d : RegDef), s.HostUp ∧ off ∈ plainRegisters ∧ regAt off = some d :=
  ⟨wMn (wQ []), 0xc010, 0xffffffff#32, ⟨"CNT_SELECT", 0xc010, 1, 0x0, 0xfffff, 0x0, 0x0, 0x0, 0x0⟩, by decide +kernel, by decide +kernel, by decide +kernel⟩

theorem witness_RecordsAndRegistersAreCopied_4 : ∃ (s : State) (off : Nat) (v : Word) (be : Fin 16), off < cardBase ∧ ((be.val ≠ 15 ∨ off % 4 ≠ 0 ∨ regAt off = none)) :=
  ⟨wMn (wQ []), 0xc010, 1#32, 7, by decide +kernel, by decide +kernel⟩

theorem witness_RecordsAndRegistersAreCopied_5 : ∃ (s : State), s.HostUp ∧ s.wardenUp = true :=
  ⟨wMn { wQ [] with kr := { step := 0x500000007 } }, by decide +kernel, by decide +kernel⟩

theorem witness_RecordsAndRegistersAreCopied_6 : ∃ (s : State), s.HostUp :=
  ⟨{ wMn (wQ []) with la := { wake := { next := 0x300000002 } } }, by decide +kernel⟩

theorem witness_RecordsAndRegistersAreCopied_7 : ∃ (s : State) (off : Nat), s.HostUp ∧ off < cardBase ∧ hiOf off = none ∧ ((off < 0xbe00 ∨ 0xbf00 ≤ off)) :=
  ⟨wMn (wQ []), 0xd010, by decide +kernel, by decide +kernel, by decide +kernel, by decide +kernel⟩

theorem witness_RecordsAndRegistersAreCopied_8 : ∃ (s : State) (off : Nat), s.rc.barUp = false ∧ off < cardBase :=
  ⟨{ wMn (wQ []) with rc := { latchMode := true } }, 0xd010, by decide +kernel, by decide +kernel⟩

theorem witness_TheMailboxAnswers_1 : ∃ (s : State) (bytes req : List Byte), s.CardUp ∧ req = mbxPad bytes ∧ mbxCmd req = (1, 0) :=
  ⟨wMn (wQ []), wMbx 1 [], mbxPad (wMbx 1 []), by decide +kernel, by decide +kernel, by decide +kernel⟩

theorem witness_TheMailboxAnswers_2 : ∃ (s : State) (bytes req : List Byte) (c : Instr) (k : Nat), s.CardUp ∧ req = mbxPad bytes ∧ (c, k) ∈ [(Instr.mbxStatus bytes, 1), (.mbxMute bytes, 2), (.mbxRetry bytes, 3), (.mbxReadReg bytes, 4), (.mbxWriteReg bytes, 5)] ∧ (mbxCmd req).1 = k ∧ (mbxCmd req).2 ≠ [0, 0, 1, 0, 4, 8].getD k 0 :=
  ⟨wMn (wQ []), wMbx 4 [1#8], mbxPad (wMbx 4 [1#8]), .mbxReadReg (wMbx 4 [1#8]), 4, by decide +kernel, by decide +kernel, by decide +kernel, by decide +kernel, by decide +kernel⟩

theorem witness_TheMailboxAnswers_3 : ∃ (s : State) (bytes req : List Byte), s.CardUp ∧ req = mbxPad bytes ∧ mbxCmd req = (2, 1) ∧ leNat (mbxPayload req) = 1 ∧ s.la.cand = none ∧ s.la.spool = none ∧ s.la.w0On = false ∧ s.la.fifo = [] :=
  ⟨wMn (wQ []), wMbx 2 [1#8], mbxPad (wMbx 2 [1#8]), by decide +kernel, by decide +kernel, by decide +kernel, by decide +kernel, by decide +kernel, by decide +kernel, by decide +kernel, by decide +kernel⟩

theorem witness_TheMailboxAnswers_4 : ∃ (s : State) (bytes req : List Byte), s.CardUp ∧ req = mbxPad bytes ∧ mbxCmd req = (2, 1) ∧ leNat (mbxPayload req) = 0 ∧ s.la.cand = none ∧ s.la.spool = none ∧ s.la.w0On = false ∧ s.la.fifo = [] :=
  ⟨{ wMn (wQ []) with la := { hasp := { pin := true } } }, wMbx 2 [0#8], mbxPad (wMbx 2 [0#8]), by decide +kernel, by decide +kernel, by decide +kernel, by decide +kernel, by decide +kernel, by decide +kernel, by decide +kernel, by decide +kernel⟩

theorem witness_TheMailboxAnswers_5 : ∃ (s : State) (bytes req : List Byte), s.CardUp ∧ req = mbxPad bytes ∧ mbxCmd req = (3, 0) ∧ s.rc.latchMode = false :=
  ⟨wMn (wQ []), wMbx 3 [], mbxPad (wMbx 3 []), by decide +kernel, by decide +kernel, by decide +kernel, by decide +kernel⟩

theorem witness_TheMailboxAnswers_6 : ∃ (s : State) (bytes req : List Byte), s.CardUp ∧ req = mbxPad bytes ∧ mbxCmd req = (3, 0) ∧ s.rc.latchMode = true ∧ s.rc.phase = .run ∧ s.rc.enables = [0, 1, 2, 3, 4] ∧ s.rc.pgs = [0, 1, 2, 3, 4] :=
  ⟨wInLatch, wMbx 3 [], mbxPad (wMbx 3 []), by decide +kernel, by decide +kernel, by decide +kernel, by decide +kernel, by decide +kernel, by decide +kernel, by decide +kernel⟩

theorem witness_TheMailboxAnswers_7 : ∃ (s : State) (bytes req : List Byte) (off : Nat), s.CardUp ∧ req = mbxPad bytes ∧ mbxCmd req = (4, 4) ∧ off = leNat (mbxPayload req) ∧ mbxMayRead off = true :=
  ⟨wMn (wQ []), wMbx 4 (leBytes 4 0x300c), mbxPad (wMbx 4 (leBytes 4 0x300c)), 0x300c, by decide +kernel, by decide +kernel, by decide +kernel, by decide +kernel, by decide +kernel⟩

theorem witness_TheMailboxAnswers_8 : ∃ (s : State) (bytes req : List Byte), s.CardUp ∧ req = mbxPad bytes ∧ mbxCmd req = (4, 4) ∧ mbxMayRead (leNat (mbxPayload req)) = false :=
  ⟨wMn (wQ []), wMbx 4 (leBytes 4 0x5004), mbxPad (wMbx 4 (leBytes 4 0x5004)), by decide +kernel, by decide +kernel, by decide +kernel, by decide +kernel⟩

theorem witness_TheMailboxAnswers_9 : ∃ (s : State) (bytes req : List Byte), s.CardUp ∧ req = mbxPad bytes ∧ mbxCmd req = (5, 8) ∧ mbxMayWrite (leNat ((mbxPayload req).take 4)) = false :=
  ⟨wMn (wQ []), wMbx 5 (leBytes 4 0x3000 ++ leBytes 4 5), mbxPad (wMbx 5 (leBytes 4 0x3000 ++ leBytes 4 5)), by decide +kernel, by decide +kernel, by decide +kernel, by decide +kernel⟩

theorem witness_TheMailboxAnswers_10 : ∃ (s : State) (bytes req : List Byte), s.CardUp ∧ req = mbxPad bytes ∧ mbxCmd req = (5, 8) ∧ leNat ((mbxPayload req).take 4) = 0x3010 :=
  ⟨wMn (wQ []), wMbx 5 (leBytes 4 0x3010 ++ leBytes 4 0x85), mbxPad (wMbx 5 (leBytes 4 0x3010 ++ leBytes 4 0x85)), by decide +kernel, by decide +kernel, by decide +kernel, by decide +kernel⟩

theorem witness_TheMailboxAnswers_11 : ∃ (s : State) (bytes req : List Byte), s.CardUp ∧ req = mbxPad bytes ∧ (((mbxCmd req).1 = 0 ∨ 5 < (mbxCmd req).1)) :=
  ⟨wMn (wQ []), wMbx 9 [], mbxPad (wMbx 9 []), by decide +kernel, by decide +kernel, by decide +kernel⟩

theorem witness_TheMailboxAnswers_12 : ∃ (s : State) (bytes req : List Byte) (c : Instr) (k : Nat), req = mbxPad bytes ∧ (c, k) ∈ [(Instr.mbxStatus bytes, 1), (.mbxMute bytes, 2), (.mbxRetry bytes, 3), (.mbxReadReg bytes, 4), (.mbxWriteReg bytes, 5)] ∧ (mbxCmd req).1 ≠ k :=
  ⟨wMn (wQ []), wMbx 2 [0#8], mbxPad (wMbx 2 [0#8]), .mbxStatus (wMbx 2 [0#8]), 1, by decide +kernel, by decide +kernel, by decide +kernel⟩

theorem witness_ImagesAreTaken_1 : ∃ (s : State), s.HostUp ∧ s.awaitsImage = true :=
  ⟨wBoot {}, by decide +kernel, by decide +kernel⟩

theorem witness_ImagesAreTaken_2 : ∃ (s : State), s.HostUp ∧ s.awaitsImage = false :=
  ⟨wMn (wQ []), by decide +kernel, by decide +kernel⟩

theorem witness_ImagesAreTaken_3 : ∃ (s : State) (n : Nat), s.CardUp ∧ s.awaitsImage = true ∧ 1 ≤ n ∧ n ≤ 2048 :=
  ⟨wBoot {}, 2, by decide +kernel, by decide +kernel, by decide +kernel, by decide +kernel⟩

theorem witness_ImagesAreTaken_4 : ∃ (s : State) (n : Nat), s.CardUp ∧ ((s.awaitsImage = false ∨ n = 0)) :=
  ⟨wMn (wQ []), 2, by decide +kernel, by decide +kernel⟩

theorem witness_ImagesAreTaken_5 : ∃ (s : State) (bs data : List Byte) (n : Nat), s.CardUp ∧ s.awaitsImage = true ∧ n = s.la.sdio.fwl.granules ∧ n ≠ 0 ∧ s.la.sdio.fwl.done = false ∧ data = (s.la.sdio.fwl.data ++ bs).take (n * 4096) :=
  ⟨wBoot { granules := 1, data := [1#8] }, [2#8], [1#8, 2#8], 1, by decide +kernel, by decide +kernel, by decide +kernel, by decide +kernel, by decide +kernel, by decide +kernel⟩

theorem witness_ImagesAreTaken_6 : ∃ (s : State), s.CardUp :=
  ⟨wBoot { granules := 1, data := [1#8] }, by decide +kernel⟩

theorem witness_ImagesAreTaken_7 : ∃ (s : State) (src : ImgSource) (bs : List Byte) (ws : Nat), s.awaitsImage = true ∧ s.rc.untrained = [] ∧ s.rc.logDue = false ∧ s.mn.bit F.FW_CACHE_enable = false ∧ ((src = .sdio ∧ s.la.sdio.fwl.done = true ∧ bs = s.la.sdio.fwl.data.take (max 0x600 (imgNat s.la.sdio.fwl.data 0x14 4)) ∨ src = .host ∧ s.rc.fetching = true ∧ bs = (s.mn.host.rdN (hostKey 0 (s.mn.pair 0x4024 0x4028 12)) (min 2048 (s.mn.fld F.BOOT_CTL_granules) * 4096)).take (max 0x600 (imgNat (s.mn.host.rdN (hostKey 0 (s.mn.pair 0x4024 0x4028 12)) (min 2048 (s.mn.fld F.BOOT_CTL_granules) * 4096)) 0x14 4)))) ∧ ws = imgNat bs 0xC 4 :=
  ⟨wBoot { granules := 1, data := [1#8], done := true }, .sdio, [1#8], 0, by decide +kernel, by decide +kernel, by decide +kernel, by decide +kernel, by decide +kernel, by decide +kernel⟩

theorem witness_ImagesAreTaken_8 : ∃ (s : State) (src : ImgSource), ((s.awaitsImage = false ∨ src = .host ∧ s.rc.fetching = false ∨ src = .sdio ∧ s.la.sdio.fwl.done = false ∨ src = .psram ∧ s.rc.wakeBoot = false)) :=
  ⟨wBoot {}, .sdio, by decide +kernel⟩

theorem witness_ResetPinIsTaken_1 : ∃ (s : State) (us : Nat), 10 ≤ us ∧ s.rc.phase = .run :=
  ⟨wWork, 12, by decide +kernel, by decide +kernel⟩

theorem witness_ResetPinIsTaken_2 : ∃ (s : State) (us : Nat), 10 ≤ us ∧ s.rc.phase = .stretch :=
  ⟨wRc { phase := .stretch, cls := 1 }, 12, by decide +kernel, by decide +kernel⟩

theorem witness_ResetPinIsTaken_3 : ∃ (s : State) (us : Nat), us < 1 :=
  ⟨wWork, 0, by decide +kernel⟩

theorem witness_ResetPinIsTaken_4 : ∃ (s : State) (us : Nat), 1 ≤ us ∧ us < 10 ∧ s.rc.phase = .run :=
  ⟨wWork, 5, by decide +kernel, by decide +kernel, by decide +kernel⟩

theorem witness_WarmResetsKeepAndClear_1 : ∃ (s : State), s.fwRuns = true ∧ s.rc.phase = .run :=
  ⟨wWork, by decide +kernel, by decide +kernel⟩

theorem witness_WarmResetsKeepAndClear_2 : ∃ (s : State) (reload : Bool), s.HostUp ∧ s.rc.phase = .run :=
  ⟨wWork, true, by decide +kernel, by decide +kernel⟩

theorem witness_WarmResetsKeepAndClear_3 : ∃ (s : State) (reload : Bool), s.fwRuns = true ∧ s.rc.phase = .run :=
  ⟨wWork, false, by decide +kernel, by decide +kernel⟩

theorem witness_WarmResetsKeepAndClear_4 : ∃ (s : State), s.cfgUp = true ∧ s.rc.phase = .run :=
  ⟨{ wWork with rc := { latchMode := true } }, by decide +kernel, by decide +kernel⟩

theorem witness_WarmResetsKeepAndClear_5 : ∃ (s : State) (ev : LinkEvent), s.mn.sleepState < 3 ∧ s.rc.phase = .run ∧ (ev = .linkDown → s.rc.latchMode = false) :=
  ⟨wWork, .perst, by decide +kernel, by decide +kernel, by decide +kernel⟩

theorem witness_WarmResetsKeepAndClear_6 : ∃ (s : State) (ev : LinkEvent), s.rc.phase = .stretch ∧ s.rc.cls = 1 ∧ s.mn.sleepState < 3 ∧ s.rc.latchMode = false :=
  ⟨wRc { phase := .stretch, cls := 1 }, .linkDown, by decide +kernel, by decide +kernel, by decide +kernel, by decide +kernel⟩

theorem witness_WarmResetsKeepAndClear_7 : ∃ (s : State), s.mn.conf = false ∧ s.rc.latchMode = false ∧ s.rc.phase = .run :=
  ⟨wWork, by decide +kernel, by decide +kernel, by decide +kernel⟩

theorem witness_WarmResetsKeepAndClear_8 : ∃ (s : State), s.rc.wardenHeld = false ∧ s.mn.sleepState = 0 ∧ s.rc.phase = .run :=
  ⟨wWork, by decide +kernel, by decide +kernel, by decide +kernel⟩

theorem witness_WarmResetsKeepAndClear_9 : ∃ (s : State) (k : Fin 2), s.islandUp (0xA0 + k.val) = true ∧ s.rc.phase = .run :=
  ⟨wWork, 1, by decide +kernel, by decide +kernel⟩

theorem witness_RailsComeUpInOrder_2 : ∃ (s : State) (sup : Supply), ((sup = .alwaysOn ∨ s.rc.enables.contains 0 = true ∧ s.rc.pgs.contains 0 = true)) :=
  ⟨wWork, .core, by decide +kernel⟩

theorem witness_RailsComeUpInOrder_3 : ∃ (s : State), ((s.rc.enables.contains 0 = false ∨ s.rc.pgs.contains 0 = false)) :=
  ⟨wRc { phase := .rails, enables := [0, 1], pgs := [1] }, by decide +kernel⟩

theorem witness_RailsComeUpInOrder_4 : ∃ (s : State) (r : Fin 8), r.val < 5 ∧ s.rc.phase = .rails ∧ s.rc.enables.contains r.val = true ∧ s.rc.pgs.contains r.val = false :=
  ⟨wRc { phase := .rails, enables := [0, 1], pgs := [1] }, 0, by decide +kernel, by decide +kernel, by decide +kernel, by decide +kernel⟩

theorem witness_RailsComeUpInOrder_5 : ∃ (s : State) (r : Fin 8), ((5 ≤ r.val ∨ s.rc.enables.contains r.val = false ∨ s.rc.pgs.contains r.val = true)) :=
  ⟨wRc { phase := .rails, enables := [0, 1], pgs := [1] }, 1, by decide +kernel⟩

theorem witness_RailsComeUpInOrder_6 : ∃ (s : State) (r : Fin 8), s.rc.phase = .rails ∧ s.rc.enables.contains r.val = true ∧ s.rc.pgs.contains r.val = false :=
  ⟨wRc { phase := .rails, enables := [0, 1], pgs := [1] }, 0, by decide +kernel, by decide +kernel, by decide +kernel⟩

theorem witness_RailsComeUpInOrder_7 : ∃ (s : State), s.rc.phase = .retryWait :=
  ⟨wRc { phase := .retryWait, enables := [], pgs := [] }, by decide +kernel⟩

theorem witness_ReleaseFollowsTheClocks_1 : ∃ (s : State), s.rc.phase = .stretch ∧ s.rc.latchDue = false ∧ s.rc.latchMode = false ∧ s.rc.good = [] :=
  ⟨wRc { phase := .stretch, cls := 1, linkHeld := true }, by decide +kernel, by decide +kernel, by decide +kernel, by decide +kernel⟩

theorem witness_ReleaseFollowsTheClocks_2 : ∃ (s : State) (rest : List Nat), s.rc.phase = .release ∧ s.rc.wait = 0xC0 :: rest ∧ rest.contains 0xB0 = false ∧ s.rc.good = [] ∧ s.rc.fuseBad = false ∧ rest.contains 0xC0 = false ∧ rest.contains 0x90 = true :=
  ⟨wRc { phase := .release, cls := 1, wait := [0xC0, 0x90, 0xA0] }, [0x90, 0xA0], by decide +kernel, by decide +kernel, by decide +kernel, by decide +kernel, by decide +kernel, by decide +kernel, by decide +kernel⟩

theorem witness_ReleaseFollowsTheClocks_3 : ∃ (s : State) (rest : List Nat), s.rc.phase = .release ∧ s.rc.wait = 0x90 :: rest ∧ rest ≠ [] ∧ ((∀ c ∈ rest, 0x80 ≤ c ∧ c < 0xA2 ∧ c ≠ 0x90)) ∧ s.rc.good = [] ∧ s.rc.imem = none ∧ s.rc.reload = false :=
  ⟨wRc { phase := .release, cls := 1, wait := [0x90, 0xA0, 0x80] }, [0xA0, 0x80], by decide +kernel, by decide +kernel, by decide +kernel, by decide +kernel, by decide +kernel, by decide +kernel, by decide +kernel⟩

theorem witness_ReleaseFollowsTheClocks_4 : ∃ (s : State) (w : Fin 16), s.rc.phase = .release ∧ s.rc.wait = [0x80 + w.val] ∧ s.rc.good.contains (0x80 + w.val) = false ∧ ((∀ i < 8, s.rc.good.contains (8 * w.val + i) = true)) ∧ s.mn.fld F.BOOT_STATUS_stage ≠ 3 ∧ s.rc.perstDue = false ∧ s.la.cand = none ∧ s.rc.linkHeld = false ∧ s.rc.latchMode = false :=
  ⟨wRc { phase := .release, cls := 1, wait := [0x81], good := [8, 9, 10, 11, 12, 13, 14, 15] }, 1, by decide +kernel, by decide +kernel, by decide +kernel, by decide +kernel, by decide +kernel, by decide +kernel, by decide +kernel, by decide +kernel, by decide +kernel⟩

theorem witness_ReleaseFollowsTheClocks_5 : ∃ (s : State), s.rc.phase = .run ∧ s.rc.linkHeld = true ∧ s.rc.wait = [] ∧ s.rc.blk = none ∧ s.rc.good.contains 0xC1 = false :=
  ⟨wRc { linkHeld := true }, by decide +kernel, by decide +kernel, by decide +kernel, by decide +kernel, by decide +kernel⟩

theorem witness_ReleaseFollowsTheClocks_6 : ∃ (s : State) (isl : Island), s.rc.phase = .stretch ∧ isl ≠ .fuse ∧ ((∀ k, isl ≠ .mc k)) ∧ s.rc.good.contains (clockCode isl) = false :=
  ⟨wRc { phase := .stretch, cls := 1 }, .latch, by decide +kernel, by decide +kernel, by decide +kernel, by decide +kernel⟩

theorem witness_ReleaseFollowsTheClocks_7 : ∃ (s : State) (w : Fin 16) (c : Nat) (rest : List Nat), s.rc.phase = .release ∧ s.rc.wait = (0x80 + w.val) :: c :: rest ∧ ((∀ x ∈ c :: rest, 0x80 ≤ x ∧ x < 0x90 ∧ x ≠ 0x80 + w.val)) ∧ s.rc.good = [] ∧ s.mn.Quiet ∧ s.mn.insts = [] ∧ ((∀ l < 4, (s.mn.lane l).st = .idle ∧ (s.mn.lane l).saving = false)) ∧ s.mn.fencedWard w.val = false ∧ s.la.cand = none :=
  ⟨wRc { phase := .release, cls := 1, wait := [0x81, 0x82] }, 1, 0x82, [], by decide +kernel, by decide +kernel, by decide +kernel, by decide +kernel, by decide +kernel, by decide +kernel, by decide +kernel, by decide +kernel, by decide +kernel⟩

theorem witness_ReleaseFollowsTheClocks_8 : ∃ (s : State), s.rc.phase = .release ∧ s.rc.wait.contains 0xB0 = true ∧ s.rc.good.contains 0xB0 = false :=
  ⟨wRc { phase := .release, cls := 3, wait := [0xB0, 0xC0] }, by decide +kernel, by decide +kernel, by decide +kernel⟩

theorem witness_ReleaseFollowsTheClocks_9 : ∃ (s : State), s.rc.phase = .release ∧ s.rc.turn = [0x90] ∧ s.rc.good.contains 0x90 = false ∧ s.la.cand = none ∧ s.rc.wait.contains 0xB0 = false :=
  ⟨wRc { phase := .release, cls := 1, wait := [0x90, 0xA0] }, by decide +kernel, by decide +kernel, by decide +kernel, by decide +kernel, by decide +kernel⟩

theorem witness_ReleaseFollowsTheClocks_10 : ∃ (s : State), s.rc.linkHeld = false ∧ s.mn.sleepState < 3 ∧ s.la.fifo = [] :=
  ⟨wWork, by decide +kernel, by decide +kernel, by decide +kernel⟩

theorem witness_BlocksAreReset_1 : ∃ (s : State) (v : Word), s.HostUp ∧ v.getLsbD 8 = true ∧ v.toNat % 256 < 0x90 ∧ s.rc.phase = .run ∧ s.rc.queue = [] ∧ s.rc.blk = none :=
  ⟨wWork, 0x01f40185#32, by decide +kernel, by decide +kernel, by decide +kernel, by decide +kernel, by decide +kernel, by decide +kernel⟩

theorem witness_BlocksAreReset_2 : ∃ (s : State) (v : Word), s.HostUp ∧ v.getLsbD 8 = false :=
  ⟨wWork, 0x01f40085#32, by decide +kernel, by decide +kernel⟩

theorem witness_BlocksAreReset_3 : ∃ (s : State) (k : Fin 128), s.rc.phase = .run ∧ s.rc.queue = [] ∧ s.rc.blk = none ∧ s.rc.latchMode = false ∧ s.mn.sleepState = 0 ∧ s.islandUp k.val = true :=
  ⟨wWork, 5, by decide +kernel, by decide +kernel, by decide +kernel, by decide +kernel, by decide +kernel, by decide +kernel⟩

theorem witness_BlocksAreReset_4 : ∃ (s : State) (w : Fin 16), s.rc.phase = .run ∧ s.rc.queue = [] ∧ s.rc.blk = none ∧ s.rc.latchMode = false ∧ s.mn.sleepState = 0 ∧ s.islandUp (0x80 + w.val) = true :=
  ⟨wWork, 3, by decide +kernel, by decide +kernel, by decide +kernel, by decide +kernel, by decide +kernel, by decide +kernel⟩

theorem witness_BlocksAreReset_5 : ∃ (s : State) (x : Fin 144), s.rc.phase = .run ∧ s.rc.queue = [] ∧ s.rc.blk = none ∧ s.rc.latchMode = false ∧ s.mn.sleepState = 0 ∧ s.mn.conf = false :=
  ⟨wWork, 130, by decide +kernel, by decide +kernel, by decide +kernel, by decide +kernel, by decide +kernel, by decide +kernel⟩

theorem witness_BlocksAreReset_6 : ∃ (s : State) (c : Instr) (late : Bool) (q : BlkReq), (c, late) ∈ [(Instr.blockIdle, false), (.blockIdleTimeout, true)] ∧ s.rc.blk = some (q, .idleReq) ∧ q.isl < 128 ∧ q.cause < 16 ∧ s.mn.Quiet ∧ s.mn.insts = [] ∧ ((∀ l < 4, (s.mn.lane l).st = .idle ∧ (s.mn.lane l).saving = false)) :=
  ⟨wRc { blk := some ({ isl := 5, cause := 5 }, .idleReq), good := [5, 6] }, .blockIdleTimeout, true, { isl := 5, cause := 5 }, by decide +kernel, by decide +kernel, by decide +kernel, by decide +kernel, by decide +kernel, by decide +kernel, by decide +kernel⟩

theorem witness_BlocksAreReset_7 : ∃ (s : State) (q : BlkReq), s.rc.blk = some (q, .held) :=
  ⟨wRc { blk := some ({ isl := 5, cause := 5 }, .held) }, { isl := 5, cause := 5 }, by decide +kernel⟩

theorem witness_BlocksAreReset_8 : ∃ (s : State) (k : Fin 128) (cause : Nat), s.rc.blk = some ({ isl := k.val, cause := cause }, .waitClock) ∧ s.rc.phase = .run ∧ s.rc.queue = [] ∧ s.rc.linkHeld = false ∧ s.rc.good.contains k.val = false ∧ s.mn.strikeOn 3 = false :=
  ⟨{ wMn (wF (wQ []) F.STRIKE_CTL_fault_en 0) with rc := { blk := some ({ isl := 5, cause := 5 }, .waitClock) } }, 5, 5, by decide +kernel, by decide +kernel, by decide +kernel, by decide +kernel, by decide +kernel, by decide +kernel⟩

theorem witness_LatchModeAndForcing_1 : ∃ (s : State), s.rc.phase = .stretch ∧ s.rc.latchDue = true ∧ s.la.cand = none :=
  ⟨wRc { phase := .stretch, cls := 1, latchDue := true, linkHeld := true }, by decide +kernel, by decide +kernel, by decide +kernel⟩

theorem witness_LatchModeAndForcing_2 : ∃ (s : State) (viaSdio : Bool), s.rc.latchMode = true ∧ s.rc.phase = .run ∧ s.mn.sleepState = 0 ∧ s.rc.latchHeld = false ∧ s.rc.linkHeld = false :=
  ⟨{ wWork with rc := { latchMode := true } }, true, by decide +kernel, by decide +kernel, by decide +kernel, by decide +kernel, by decide +kernel⟩

theorem witness_LatchModeAndForcing_3 : ∃ (s : State) (viaSdio : Bool), s.rc.latchMode = false ∧ s.mn.sleepState = 0 :=
  ⟨wWork, true, by decide +kernel, by decide +kernel⟩

theorem witness_LatchModeAndForcing_4 : ∃ (s : State), s.rc.phase = .run ∧ s.rc.latchHeld = false :=
  ⟨wWork, by decide +kernel, by decide +kernel⟩

theorem witness_LatchModeAndForcing_5 : ∃ (s : State) (mask : Word) (held go : Nat), s.HostUp ∧ s.mn.conf = false ∧ held = s.mn.fld F.CLK_HELD_wards ∧ go = held &&& mask.toNat % 2 ^ 16 ∧ go ≠ 0 :=
  ⟨wMn (wF (wQ []) F.CLK_HELD_wards 6), 3#32, 6, 2, by decide +kernel, by decide +kernel, by decide +kernel, by decide +kernel, by decide +kernel⟩

theorem witness_LatchModeAndForcing_6 : ∃ (s : State) (mask : Word), s.HostUp ∧ s.mn.conf = true :=
  ⟨wMn (wF (wQ []) F.CONF_MODE_enable 1), 3#32, by decide +kernel, by decide +kernel⟩

theorem witness_LatchModeAndForcing_7 : ∃ (s : State) (viaBar4 : Bool) (target : Option (Fin 144)), s.HostUp ∧ s.mn.conf = true ∧ s.mn.strikeOn 3 = false :=
  ⟨wMn (wF (wF (wQ []) F.CONF_MODE_enable 1) F.STRIKE_CTL_fault_en 0), true, some 5, by decide +kernel, by decide +kernel, by decide +kernel⟩

theorem witness_LatchModeAndForcing_8 : ∃ (s : State) (c : Instr), c ∈ [Instr.clockFailure .fuse, .clockFailure .hostLink, .lockUp .latch, .lockUp .sysRef, .lockUp .fuse, .lockUp .hostLink] :=
  ⟨wWork, .lockUp .latch, by decide +kernel⟩

end Sys2Proof
end

section
/-! SUPPORT. Memories addressed by place: which sparse memory a place lies in and under which key, what a write at one place leaves
of it, and the block right after reset. -/

namespace Sys2Proof
open Machine

/-! ## Places -/

/-- The sparse memory a place lies in: one holds all scratchpads, one all ward stores, one every host address space. -/
def Main.store (m : Main) : MemSel → Mem
  | .sp _ => m.sp
  | .ws _ => m.ws
  | .stack => m.stack
  | .host _ => m.host

/-- The number of a place's byte in its sparse memory. -/
def MemSel.key : MemSel → Nat → Nat
  | .sp c, a => spKey c.val a
  | .ws w, a => wsKey w.val a
  | .stack, a => a
  | .host p, a => hostKey p a

/-- Two places lie in one sparse memory. -/
def MemSel.shares : MemSel → MemSel → Bool
  | .sp _, .sp _ => true
  | .ws _, .ws _ => true
  | .stack, .stack => true
  | .host _, .host _ => true
  | _, _ => false

@[simp] theorem MemSel.shares_self (k : MemSel) : k.shares k = true := by cases k <;> rfl

theorem Main.byteAt_eq_rd (m : Main) (k : MemSel) (a : Nat) : m.byteAt k a = (m.store k).rd (k.key a) := by cases k <;> rfl

/-- A write goes to the sparse memory of its place, under its key, and to no other. -/
theorem Main.store_write (m : Main) (r : Ref) (bs : List Byte) (k : MemSel) :
    (m.write r bs).store k = if k.shares r.mem then Mem.wrN (r.mem.key r.addr) bs (m.store k) else m.store k := by
  obtain ⟨j, addr⟩ := r
  cases j <;> cases k <;> rfl

/-- Inside a memory, places that follow each other have keys that follow each other. -/
theorem MemSel.key_add (k : MemSel) (a i n : Nat) (h : refOk { mem := k, addr := a } n = true) (hi : i < n) :
    k.key (a + i) = k.key a + i := by
  cases k with
  | sp c => exact (Nat.add_assoc ..).symm
  | ws w => exact (Nat.add_assoc ..).symm
  | stack => rfl
  | host p =>
    have hn : a + n ≤ 2 ^ 64 := of_decide_eq_true h
    simp only [MemSel.key, hostKey]
    omega

/-- Each cylinder, ward and address space has keys of its own: a place in another of them, or outside the range, lies outside the
range's keys (spec/03_tumbler_and_cylinder.md R72, spec/06_memory_tiers.md R125, R130). -/
theorem MemSel.key_apart (k j : MemSel) (a addr n : Nat) (hs : k.shares j = true) (ha : refOk { mem := k, addr := a } 1 = true)
    (hn : refOk { mem := j, addr := addr } n = true) (h : k ≠ j ∨ a < addr ∨ addr + n ≤ a) :
    k.key a < j.key addr ∨ j.key addr + n ≤ k.key a := by
  cases k <;> cases j <;> cases hs <;> simp only [refOk, decide_eq_true_eq] at ha hn
  case sp.sp c d =>
    simp only [ne_eq, MemSel.sp.injEq, Fin.ext_iff] at h
    simp only [MemSel.key, spKey]
    omega
  case ws.ws v w =>
    simp only [ne_eq, MemSel.ws.injEq, Fin.ext_iff] at h
    simp only [MemSel.key, wsKey]
    omega
  case stack.stack => simpa [MemSel.key] using h
  case host.host p q =>
    simp only [ne_eq, MemSel.host.injEq] at h
    simp only [MemSel.key, hostKey]
    omega

/-! ## Writes at a place -/

/-- Bytes written at a place read back. -/
theorem Main.bytesAt_write (m : Main) (r : Ref) (bs : List Byte) (h : refOk r bs.length = true) :
    (m.write r bs).bytesAt r bs.length = bs := by
  have hstore : (m.write r bs).store r.mem = Mem.wrN (r.mem.key r.addr) bs (m.store r.mem) := by
    rw [Main.store_write, MemSel.shares_self, if_pos rfl]
  calc (m.write r bs).bytesAt r bs.length
      = (Mem.wrN (r.mem.key r.addr) bs (m.store r.mem)).rdN (r.mem.key r.addr) bs.length := by
        refine List.map_congr_left fun i hi => ?_
        rw [Main.byteAt_eq_rd, hstore, MemSel.key_add _ _ _ _ h (List.mem_range.1 hi)]
    _ = bs := Mem.rdN_wrN _ _ _

/-- A write at a place leaves every byte of every memory outside it alone. -/
theorem Main.byteAt_write_out (m : Main) (r : Ref) (bs : List Byte) (k : MemSel) (a : Nat) (hr : refOk r bs.length = true)
    (ha : refOk { mem := k, addr := a } 1 = true) (h : k ≠ r.mem ∨ a < r.addr ∨ r.addr + bs.length ≤ a) :
    (m.write r bs).byteAt k a = m.byteAt k a := by
  rw [Main.byteAt_eq_rd, Main.byteAt_eq_rd, Main.store_write]
  split
  case isTrue hs => exact Mem.rd_wrN_out _ _ _ _ (MemSel.key_apart k r.mem a r.addr _ hs ha hr h)
  case isFalse => rfl

/-- A write at a place keeps the canonical form of every memory. -/
theorem Main.wf_store_write (m : Main) (r : Ref) (bs : List Byte) (k : MemSel) (h : Memory.wf (m.store k) = true) :
    Memory.wf ((m.write r bs).store k) = true := by
  rw [Main.store_write]
  split
  case isTrue => exact Mem.wf_wrN _ _ _ h
  case isFalse => exact h

/-- Settles O6: a write is a write of its place's sparse memory, in which keys of different places lie apart. -/
theorem memoryWritesReadBack : Obligations.MemoryWritesReadBack := by
  intro m r bs hr
  exact ⟨m.bytesAt_write r bs hr, fun k a ha h => m.byteAt_write_out r bs k a hr ha h,
    m.wf_store_write r bs (.host 0), m.wf_store_write r bs .stack, m.wf_store_write r bs (.sp 0), m.wf_store_write r bs (.ws 0)⟩

/-! ## Right after reset -/

namespace Machine

theorem State.reset_haspSafe : State.reset.HaspSafe := by decide

theorem State.reset_memoryWf : State.reset.MemoryWf := ⟨rfl, rfl, rfl, rfl, rfl, rfl⟩

/-- No register file stores a word, so each reads what its table gives. -/
theorem State.reset_word (o : Nat) : State.reset.mn.word o = regReset o ∧ State.reset.la.word o = regReset o := ⟨rfl, rfl⟩

theorem State.reset_ctx_free (c : Nat) : (State.reset.mn.ctx c).state = .free := rfl

theorem State.reset_store (k : MemSel) : State.reset.mn.store k = [] := by cases k <;> rfl

/-- Memory that nothing has written reads as zero (NOTES.md, log entry 3). -/
theorem State.reset_byteAt (k : MemSel) (a : Nat) : State.reset.mn.byteAt k a = 0#8 := by
  rw [Main.byteAt_eq_rd, State.reset_store]; rfl

end Machine

/-- Settles O3: at reset every table is empty, so registers, contexts and memories read as their defaults. -/
theorem resetIsAtTableValues : Obligations.ResetIsAtTableValues :=
  ⟨State.reset_haspSafe, State.reset_memoryWf, rfl, State.reset_word, State.reset_ctx_free, State.reset_byteAt⟩

end Sys2Proof
end

section
/-! SUPPORT AND PROOF. Tiles and their replays (spec/03_tumbler_and_cylinder.md R58, R65, R67): what raising a counter leaves, that
a boundary at which nothing waits changes one register alone, and an equation for each way a swap, a hold or a verdict ends. -/

namespace Sys2Proof
open Machine

/-! ## Counters and pieces of State -/

@[simp] theorem Main.counter_count_same (m : Main) (id k n : Nat) :
    (m.count id k n).counter id k = satAdd 48 (m.counter id k) n := Tab.get_put_same _ _ _ _

theorem Main.counter_count_other (m : Main) (id k n id' k' : Nat) (h : id' * 4096 + k' ≠ id * 4096 + k) :
    (m.count id k n).counter id' k' = m.counter id' k' := Tab.get_put_other _ _ _ _ _ h

theorem Main.countersBut_refl (m : Main) (l : List (Nat × Nat)) : m.CountersBut m l := fun _ _ _ _ => rfl

/-- Raising a listed counter leaves every other one alone. -/
theorem Main.CountersBut.count {m x : Main} {l : List (Nat × Nat)} (h : m.CountersBut x l) {id k : Nat} (n : Nat) (hk : k < 4096)
    (hl : (id, k) ∈ l) : m.CountersBut (x.count id k n) l := by
  intro id' k' hk' hn
  rw [Main.counter_count_other, h id' k' hk' hn]
  intro e
  obtain ⟨rfl, rfl⟩ : id' = id ∧ k' = k := by omega
  exact hn hl

theorem Main.CountersBut.of_ctr {m x y : Main} {l : List (Nat × Nat)} (h : m.CountersBut x l) (e : y.ctr = x.ctr) : m.CountersBut y l :=
  fun id k hk hn => (congrArg (Tab.get ctrDef · (id * 4096 + k)) e).trans (h id k hk hn)

section
variable {m n : Main} {k : Nat}

theorem Main.tum_of_put {x : Tum} (e : n.tums = Tab.put tumDef k x m.tums) : n.tum k = x := by
  rw [Main.tum, e, Tab.get_put_same]

theorem Main.tumsBut_of_put {x : Tum} (e : n.tums = Tab.put tumDef k x m.tums) : m.TumsBut n k := by
  intro j hj
  rw [Main.tum, e, Tab.get_put_other _ _ _ _ _ hj, Main.tum]

theorem Main.ward_of_put {x : Ward} (e : n.wards = Tab.put wardDef k x m.wards) : n.ward k = x := by
  rw [Main.ward, e, Tab.get_put_same]

theorem Main.wardsBut_of_put {x : Ward} (e : n.wards = Tab.put wardDef k x m.wards) : m.WardsBut n k := by
  intro j hj
  rw [Main.ward, e, Tab.get_put_other _ _ _ _ _ hj, Main.ward]

theorem Main.inst_of_put {x : Inst} (e : n.insts = Tab.put instDef k x m.insts) : n.inst k = x := by
  rw [Main.inst, e, Tab.get_put_same]

theorem Main.instsBut_of_put {x : Inst} (e : n.insts = Tab.put instDef k x m.insts) : m.InstsBut n k := by
  intro j hj
  rw [Main.inst, e, Tab.get_put_other _ _ _ _ _ hj, Main.inst]

end

namespace Machine

/-- An effect of the Warden's side, while it is up, whose result is known but for the islands absent, which are brought up to date. -/
theorem onWarden_eq {c : Instr} {s : State} {f : Main → Main} {n : Main} {P : Main → Prop} (e : exec c s = .next (s.warden f))
    (h : s.wardenUp = true) (hf : f s.mn = n) (p : ∀ k a, k = { n with absent := a } → P k) : OnWarden c s P :=
  onWarden_warden e h (p _ _ (by rw [hf]))

end Machine

/-! ## A boundary at which nothing waits -/

/-- The first entry of a listed number is in the table. -/
theorem Tab.get_mem {α : Type} (d : Nat → α) (t : Tab α) {p : Nat × α} (h : p ∈ t) : (p.1, Tab.get d t p.1) ∈ t := by
  induction t with
  | nil => cases h
  | cons q t ih =>
    by_cases e : q.1 = p.1
    · have hget : Tab.get d (q :: t) p.1 = q.2 := by simp [Tab.get, e]
      rw [hget, ← e]
      exact List.mem_cons_self
    · have hp : p ∈ t := (List.mem_cons.1 h).resolve_left fun hq => e (congrArg Prod.fst hq).symm
      have hget : Tab.get d (q :: t) p.1 = Tab.get d t p.1 := by simp [Tab.get, e]
      rw [hget]
      exact List.mem_cons_of_mem _ (ih hp)

theorem Main.settleFence_of_none (m : Main) (w : Nat) (h : (m.ward w).fencePending = false) : m.settleFence w = m := by
  simp [Main.settleFence, h]

theorem Main.settlePower_of_off (m : Main) (w : Nat) (h : m.fencedWard w = true → (m.ward w).powered = false) :
    m.settlePower w = m := by
  cases hf : m.fencedWard w with
  | false => simp [Main.settlePower, hf]
  | true => simp [Main.settlePower, h hf]

theorem Main.settleShare_of_none (m : Main) (c : Nat) (h : (m.ctx c).nextShare = none) : m.settleShare c = m := by
  simp [Main.settleShare, h]

theorem Main.settleChain_of_none (m : Main) (c : Nat) (hd : (m.ctx c).pendingDrop = none) (hr : (m.ctx c).pendingResync = false) :
    m.settleChain c = m := by
  simp [Main.settleChain, hd, hr]

theorem Main.settleUnbind_of_none (m : Main) (c : Nat) (h : (m.ctx c).unbindPending = false) : m.settleUnbind c = m := by
  simp [Main.settleUnbind, h]

theorem Main.settleProt_of_same (m : Main) (h : m.prot.force = m.prot.written) : m.settleProt = m := by
  simp [Main.settleProt, h]

/-- Where nothing waits, a boundary only brings hinge H3 up to date (R103, R295). -/
theorem Main.settle_of_quiet (m : Main) (h : m.Quiet) : m.settle = m.settleH3 := by
  obtain ⟨hward, hctx, hprot⟩ := h
  have hfence : (List.range 16).foldl Main.settleFence m = m :=
    List.foldlRecOn (motive := (· = m)) _ _ rfl fun x hx w hw => by
      rw [hx]; exact m.settleFence_of_none w (hward w (List.mem_range.1 hw)).1
  have hpower : (List.range 16).foldl Main.settlePower m = m :=
    List.foldlRecOn (motive := (· = m)) _ _ rfl fun x hx w hw => by
      rw [hx]; exact m.settlePower_of_off w (hward w (List.mem_range.1 hw)).2
  have hctxs : (m.ctxs.map (·.1)).foldl (fun m c => ((m.settleShare c).settleChain c).settleUnbind c) m = m :=
    List.foldlRecOn (motive := (· = m)) _ _ rfl fun x hx c hc => by
      obtain ⟨p, hp, rfl⟩ := List.mem_map.1 hc
      obtain ⟨hshare, hunbind, hdrop, hresync⟩ := hctx _ (Tab.get_mem ctxDef _ hp)
      rw [hx, m.settleShare_of_none _ hshare, m.settleChain_of_none _ hdrop hresync, m.settleUnbind_of_none _ hunbind]
  simp only [Main.settle, hfence, hpower, hctxs, m.settleProt_of_same hprot]

/-- Hinge H3's turn changes HINGE_NOW and nothing else (R295). -/
theorem Main.settleH3_regs (m : Main) :
    ∃ r, m.settleH3 = { m with regs := r } ∧ m.RegsBut { m with regs := r } [F.HINGE_NOW_in_force.off] := by
  unfold Main.settleH3
  dsimp only
  split
  case isTrue => exact ⟨m.regs, rfl, fun _ _ => rfl⟩
  case isFalse => exact ⟨_, rfl, Main.regsBut_setFld _ _ _⟩

/-- Whether something waits for a boundary shows in fences, protection, contexts, and two flags of each ward. -/
theorem Main.quiet_congr {m n : Main} (h : m.Quiet) (hfence : n.fence = m.fence) (hctxs : n.ctxs = m.ctxs) (hprot : n.prot = m.prot)
    (hward : ∀ w, (n.ward w).fencePending = (m.ward w).fencePending ∧ (n.ward w).powered = (m.ward w).powered) : n.Quiet := by
  obtain ⟨hw, hc, hp⟩ := h
  refine ⟨fun w hlt => ?_, hctxs ▸ hc, hprot ▸ hp⟩
  rw [(hward w).1, (hward w).2, Main.fencedWard, hfence]
  exact hw w hlt

/-! ## Drain buffers -/

/-- A tile as it lies in its drain buffer. -/
def Tile.drained (y : Tile) (up : List (Nat × Word)) : Drained :=
  { cfg := y.cfg, rows := upsetRows (drainRows y) up, e0r := y.e0r, e0c := y.e0c }

/-- The lines of a tile with their verdicts, as it drains. -/
def Tile.lines (y : Tile) (up : List (Nat × Word)) : List (LineRef × LineVerdict) := tileLines y (upsetRows (drainRows y) up)

@[simp] theorem bufOf_setBuf (x : Tum) (c : TileCfg) (b : Nat) (v : BufSt) : bufOf (setBuf x c b v) b = v := by
  by_cases hb : b = 0 <;> by_cases hc : tileMode c = .narrow <;> simp [bufOf, setBuf, hb, hc]

@[simp] theorem setBuf_tile (x : Tum) (c : TileCfg) (b : Nat) (v : BufSt) : (setBuf x c b v).tile = x.tile := by
  unfold setBuf
  split
  case isTrue => rfl
  case isFalse => split <;> rfl

/-! ## The swap -/

/-- A tumbler whose tile has passed to buffer `b` (R58). -/
def Tum.swapped (x : Tum) (b : Nat) : Tum :=
  { x with tile := none, start := none, slices := [], guard := [], swapWait := false, next := 1 - b }

/-- A tumbler's failed tiles once one more waits for its replay (Table 3-8). -/
def Tum.withFailed (x : Tum) (f : Failed) : List Failed :=
  (if f.recorded then x.failed.map fun g => { g with recorded := false } else x.failed) ++ [f]

theorem Tum.withFailed_length (x : Tum) (f : Failed) : (x.withFailed f).length = x.failed.length + 1 := by
  unfold Tum.withFailed
  split <;> simp

/-- What a replay of a tumbler's tile needs, kept when the tile fails (R66, R67). -/
def Tum.failure (x : Tum) (st : Tile) (b : Nat) (recorded : Bool) : Failed :=
  { start := st, slices := x.slices, buf := b, members := x.members, guard := x.guard, recorded := recorded }

/-- A tumbler whose tile failed: it stands in buffer `b` for its replay (R67). -/
def Tum.held (x : Tum) (y st : Tile) (b : Nat) (up : List (Nat × Word)) (recorded : Bool) : Tum :=
  { setBuf (x.swapped b) y.cfg b (.held (y.drained up)) with failed := x.withFailed (x.failure st b recorded) }

/-- A record in CYL_TILE_ERR changes that register alone, and a valid record stands in it afterwards (Table 3-8). -/
theorem Main.recordTile_regs (m : Main) (t : Nat) (l : LineRef) (ht : t < 512) :
    ∃ r, (m.recordTile t l).1 = { m with regs := r } ∧ m.RegsBut { m with regs := r } [0x20008 + t / 4 * 0x400]
      ∧ ({ m with regs := r } : Main).bit (F.CYL_TILE_ERR_valid (t / 4)) = true := by
  have hoff : (F.CYL_TILE_ERR_overrun (t / 4)).off = 0x20008 + t / 4 * 0x400 := by
    simp only [F.CYL_TILE_ERR_overrun]; omega
  have hoff' : (F.CYL_TILE_ERR_valid (t / 4)).off = 0x20008 + t / 4 * 0x400 := by
    simp only [F.CYL_TILE_ERR_valid]; omega
  unfold Main.recordTile tumCyl
  dsimp only
  split
  case isTrue hv =>
    refine ⟨_, rfl, hoff ▸ Main.regsBut_setFld _ _ _, ?_⟩
    have hkeep := Main.fld_setFld_apart m (F.CYL_TILE_ERR_overrun (t / 4)) (F.CYL_TILE_ERR_valid (t / 4)) 1
      ⟨Nat.le_refl 20, (by decide : 20 < 32)⟩ ⟨Nat.le_refl 31, (by decide : 31 < 32)⟩ rfl (.inl (by decide : 20 < 31))
    exact (congrArg (· != 0) hkeep).trans hv
  case isFalse =>
    refine ⟨_, rfl, Main.regsBut_setWord _ _ _, ?_⟩
    have hkind : lineKindCode l.kind ≤ 2 := by cases l.kind <;> decide
    have hover (b : Bool) : b2n b ≤ 1 := by cases b <;> decide
    generalize hw : BitVec.ofNat 32 _ = w
    have hbit : (m.setWord (0x20008 + t / 4 * 0x400) w).fld (F.CYL_TILE_ERR_valid (t / 4)) = 1 := by
      rw [Main.fld, hoff', Main.word_setWord_same, ← hw]
      have := hover (m.bit (F.CYL_TILE_ERR_overrun (t / 4)))
      simp only [F.CYL_TILE_ERR_valid, Fld.of, BitVec.toNat_ofNat]
      omega
    exact congrArg (· != 0) hbit

section
variable {m : Main} {t b : Nat} {up : List (Nat × Word)} {y st : Tile} (hy : (m.tum t).tile = some y)
  (hst : (m.tum t).start = some st) (hk : y.cfg.k ≤ y.done) (hb : freeFor (m.tum t) y.cfg = some b)
include hy hst hk hb

/-- A whole tile whose lines agree is released to its readers (R58, R65). -/
theorem Main.tileSwap_pass (hl : firstFail (y.lines up) = none) :
    m.tileSwap t up = (m.count 0x10 (t / 4) (skipCount (y.lines up))).setTum t
      (setBuf ((m.tum t).swapped b) y.cfg b (.ready (y.drained up))) := by
  unfold Tile.lines at hl
  simp only [Main.tileSwap, hy, hst, if_neg (Nat.not_lt.2 hk), hb, hl]
  rfl

/-- One that fails is recorded, counted and held for its replay (R67). -/
theorem Main.tileSwap_fail {l : LineRef} (hl : firstFail (y.lines up) = some l) :
    m.tileSwap t up = (((m.count 0x10 (t / 4) (skipCount (y.lines up))).recordTile t l).1.count 0x11 (t / 4) 1).setTum t
      ((m.tum t).held y st b up ((m.count 0x10 (t / 4) (skipCount (y.lines up))).recordTile t l).2) := by
  unfold Tile.lines at hl
  simp only [Main.tileSwap, hy, hst, if_neg (Nat.not_lt.2 hk), hb, hl]
  rfl

end

/-- TILE_SWAP of a tile that passes (R58, R65). -/
theorem Machine.tileSwap_releases {s : State} {t : Fin 512} {up : List (Nat × Word)} {y st : Tile} {b : Nat} (hup : s.wardenUp = true)
    (hy : (s.mn.tum t.val).tile = some y) (hst : (s.mn.tum t.val).start = some st) (hk : y.cfg.k ≤ y.done)
    (hb : freeFor (s.mn.tum t.val) y.cfg = some b) (hl : firstFail (y.lines up) = none) :
    OnWarden (.tileSwap t up) s fun n => n = { s.mn with tums := n.tums, ctr := n.ctr, absent := n.absent } ∧ s.mn.TumsBut n t.val
      ∧ n.tum t.val = setBuf ((s.mn.tum t.val).swapped b) y.cfg b (.ready (y.drained up))
      ∧ s.mn.CountersBut n [(0x10, t.val / 4), (0x13, t.val / 4)] := by
  have hcyl : t.val / 4 < 4096 := by omega
  refine onWarden_eq rfl hup (Main.tileSwap_pass hy hst hk hb hl) fun n a hn => ?_
  have htums : n.tums = Tab.put tumDef t.val (setBuf ((s.mn.tum t.val).swapped b) y.cfg b (.ready (y.drained up))) s.mn.tums := by
    subst hn; rfl
  have hctr : n.ctr = (s.mn.count 0x10 (t.val / 4) (skipCount (y.lines up))).ctr := by subst hn; rfl
  exact ⟨by subst hn; rfl, Main.tumsBut_of_put htums, Main.tum_of_put htums,
    ((Main.countersBut_refl _ _).count _ hcyl (by simp)).of_ctr hctr⟩

/-- TILE_SWAP of a tile that fails (R58, R67, Table 3-8); a record that stood before is kept. -/
theorem Machine.tileSwap_holds {s : State} {t : Fin 512} {up : List (Nat × Word)} {y st : Tile} {b : Nat} {l : LineRef}
    (hup : s.wardenUp = true) (hy : (s.mn.tum t.val).tile = some y) (hst : (s.mn.tum t.val).start = some st)
    (hk : y.cfg.k ≤ y.done) (hb : freeFor (s.mn.tum t.val) y.cfg = some b) (hl : firstFail (y.lines up) = some l) :
    OnWarden (.tileSwap t up) s fun n =>
      n = { s.mn with tums := n.tums, ctr := n.ctr, regs := n.regs, absent := n.absent } ∧ s.mn.TumsBut n t.val
        ∧ s.mn.RegsBut n [0x20008 + t.val / 4 * 0x400] ∧ n.bit (F.CYL_TILE_ERR_valid (t.val / 4)) = true
        ∧ (n.tum t.val).tile = none ∧ (n.tum t.val).failed.length = (s.mn.tum t.val).failed.length + 1
        ∧ bufOf (n.tum t.val) b = .held (y.drained up)
        ∧ n.counter 0x11 (t.val / 4) = satAdd 48 (s.mn.counter 0x11 (t.val / 4)) 1
        ∧ s.mn.CountersBut n [(0x10, t.val / 4), (0x11, t.val / 4), (0x13, t.val / 4)] := by
  have hcyl : t.val / 4 < 4096 := by omega
  obtain ⟨r, hr, hregs, hvalid⟩ := Main.recordTile_regs (s.mn.count 0x10 (t.val / 4) (skipCount (y.lines up))) t.val l t.isLt
  have hswap := Main.tileSwap_fail hy hst hk hb hl
  rw [hr] at hswap
  generalize ((s.mn.count 0x10 (t.val / 4) (skipCount (y.lines up))).recordTile t.val l).2 = recorded at hswap
  refine onWarden_eq rfl hup hswap fun n a hn => ?_
  have htums : n.tums = Tab.put tumDef t.val ((s.mn.tum t.val).held y st b up recorded) s.mn.tums := by subst hn; rfl
  have hctr : n.ctr = ((s.mn.count 0x10 (t.val / 4) (skipCount (y.lines up))).count 0x11 (t.val / 4) 1).ctr := by subst hn; rfl
  have hword (o : Nat) : n.word o = Tab.get regReset r o := by subst hn; rfl
  refine ⟨by subst hn; rfl, Main.tumsBut_of_put htums, ?regs, ?valid, ?tile, ?failed, ?held, ?count, ?ctrs⟩
  case regs => exact fun o ho => (hword o).trans (hregs o ho)
  case valid => rw [Main.bit, Main.fld, hword]; exact hvalid
  case tile => rw [Main.tum_of_put htums]; exact setBuf_tile _ _ _ _
  case failed => rw [Main.tum_of_put htums]; exact Tum.withFailed_length _ _
  case held => rw [Main.tum_of_put htums]; exact bufOf_setBuf _ _ _ _
  case count =>
    rw [Main.counter, hctr, ← Main.counter, Main.counter_count_same, Main.counter_count_other _ _ _ _ _ _ (by omega)]
  case ctrs => exact (((Main.countersBut_refl _ _).count _ hcyl (by simp)).count _ hcyl (by simp)).of_ctr hctr

/-! ## The hold -/

/-- A failed tile's hold joins its ward's queue and stops what runs there (R67, order 2). -/
theorem Main.replayHold_joins {m : Main} {t lead : Nat} {i : Inst}
    (hc : (m.ward (t / 32)).holds.count t < (m.tum t).failed.length) (hi : m.instOn (t / 32) = some (lead, i)) :
    m.replayHold t = (m.setWard (t / 32) { m.ward (t / 32) with holds := (m.ward (t / 32)).holds ++ [t] }).setInst lead
      { i with replayHeld := true } := by
  have hi' (x : Ward) : (m.setWard (t / 32) x).instOn (t / 32) = some (lead, i) := hi
  simp only [Main.replayHold, if_neg (Nat.not_le.2 hc), hi']

/-- REPLAY_HOLD_ARRIVAL (R67, order 2). -/
theorem Machine.replayHoldArrival_stops {s : State} {t : Fin 512} {lead : Nat} {i : Inst} (hup : s.wardenUp = true)
    (hc : (s.mn.ward (t.val / 32)).holds.count t.val < (s.mn.tum t.val).failed.length)
    (hi : s.mn.instOn (t.val / 32) = some (lead, i)) :
    OnWarden (.replayHoldArrival t) s fun n =>
      n = { s.mn with wards := n.wards, insts := n.insts, absent := n.absent } ∧ s.mn.WardsBut n (t.val / 32)
        ∧ s.mn.InstsBut n lead ∧ n.inst lead = { i with replayHeld := true }
        ∧ n.ward (t.val / 32) = { s.mn.ward (t.val / 32) with holds := (s.mn.ward (t.val / 32)).holds ++ [t.val] } := by
  refine onWarden_eq rfl hup (Main.replayHold_joins hc hi) fun n a hn => ?_
  have hwards : n.wards = Tab.put wardDef (t.val / 32)
      { s.mn.ward (t.val / 32) with holds := (s.mn.ward (t.val / 32)).holds ++ [t.val] } s.mn.wards := by subst hn; rfl
  have hinsts : n.insts = Tab.put instDef lead { i with replayHeld := true } s.mn.insts := by subst hn; rfl
  exact ⟨by subst hn; rfl, Main.wardsBut_of_put hwards, Main.instsBut_of_put hinsts, Main.inst_of_put hinsts,
    Main.ward_of_put hwards⟩

/-! ## The verdict of a replay -/

/-- A running plan's record once members have had a replayed tile: those named, or all where none are named (R67, order 7). -/
def Inst.replayed (i : Inst) (who : Option (List Nat)) : Inst :=
  { i with members := i.members.map fun z => if (who.map (·.contains z.berth)).getD true then { z with replayed := true } else z }

theorem Inst.replayed_of_named (i : Inst) (who : Option (List Nat)) :
    ∀ z ∈ (i.replayed who).members, (∀ l, who = some l → l.contains z.berth = true) → z.replayed = true := by
  intro z hz hwho
  obtain ⟨x, -, rfl⟩ := List.mem_map.1 hz
  split
  case isTrue => rfl
  case isFalse h =>
    rw [if_neg h] at hwho
    cases who with
    | none => exact absurd rfl h
    | some l => exact absurd (hwho l rfl) h

/-- A tumbler whose oldest failed tile `f` has agreed on its replay: its values stand released in its buffer, and `fs` remain. -/
def Tum.replayed (x : Tum) (f : Failed) (fs : List Failed) (up : List (Nat × Word)) : Tum :=
  { setBuf x (replayTile f).cfg f.buf (.ready ((replayTile f).drained up)) with failed := fs }

/-- The Warden's side once the replay of tile `f` of tumbler `t` has agreed: `fs` and `hs` are the tiles and holds that remain, and
the members of `i`, which runs on `lead`, take note (R67, orders 6 and 7). -/
def Main.replayAgreed (m : Main) (t : Nat) (up : List (Nat × Word)) (hs : List Nat) (f : Failed) (fs : List Failed) (lead : Nat)
    (i : Inst) : Main :=
  { m with
    tums := Tab.put tumDef t ((m.tum t).replayed f fs up) m.tums
    wards := Tab.put wardDef (t / 32) { m.ward (t / 32) with holds := hs } m.wards
    insts := Tab.put instDef lead (i.replayed f.members) m.insts
    ctr := ((m.count 0x10 (t / 4) (skipCount ((replayTile f).lines up))).count 0x13 (t / 4) (satCount (replayTile f))).ctr }

section
variable (m : Main) (t : Nat) (up : List (Nat × Word)) (hs : List Nat) (f : Failed) (fs : List Failed) (lead : Nat) (i : Inst)

theorem Main.replayVerdict_agrees (hh : (m.ward (t / 32)).holds = t :: hs) (hf : (m.tum t).failed = f :: fs)
    (hi : m.instOn (t / 32) = some (lead, i)) (hl : firstFail ((replayTile f).lines up) = none) :
    m.replayVerdict t up = m.replayAgreed t up hs f fs lead i := by
  have hi' (x : Tum) (v : Ward) (a b c d : Nat) :
      ((((m.setTum t x).setWard (t / 32) v).count 0x10 a b).count 0x13 c d).instOn (t / 32) = some (lead, i) := hi
  unfold Tile.lines at hl
  simp only [Main.replayVerdict, hh, hf, ne_eq, not_true_eq_false, if_false, hl, Main.updWard, hi']
  unfold Main.replayAgreed Main.setInst Main.setWard Main.setTum Main.count
  rfl

/-- A replay that agrees leaves nothing waiting for a boundary. -/
theorem Main.replayAgreed_quiet (h : m.Quiet) : (m.replayAgreed t up hs f fs lead i).Quiet := by
  refine Main.quiet_congr h rfl rfl rfl fun w => ?_
  have hwards : (m.replayAgreed t up hs f fs lead i).wards = Tab.put wardDef (t / 32) { m.ward (t / 32) with holds := hs } m.wards := rfl
  by_cases hw : w = t / 32
  · rw [hw, Main.ward_of_put hwards]
    exact ⟨rfl, rfl⟩
  · rw [Main.wardsBut_of_put hwards w hw]
    exact ⟨rfl, rfl⟩

end

/-- REPLAY_VERDICT of a tile that agrees (R67, orders 6 and 7). -/
theorem Machine.replayVerdict_releases {s : State} {t : Fin 512} {up : List (Nat × Word)} {hs : List Nat} {f : Failed}
    {fs : List Failed} {lead : Nat} {i : Inst} (hup : s.wardenUp = true) (hq : s.mn.Quiet)
    (hh : (s.mn.ward (t.val / 32)).holds = t.val :: hs) (hf : (s.mn.tum t.val).failed = f :: fs)
    (hi : s.mn.instOn (t.val / 32) = some (lead, i)) (hl : firstFail ((replayTile f).lines up) = none) :
    OnWarden (.replayVerdict t up) s fun n =>
      n = { s.mn with tums := n.tums, wards := n.wards, insts := n.insts, ctr := n.ctr, regs := n.regs, absent := n.absent }
        ∧ s.mn.TumsBut n t.val ∧ s.mn.WardsBut n (t.val / 32) ∧ s.mn.InstsBut n lead ∧ s.mn.RegsBut n [F.HINGE_NOW_in_force.off]
        ∧ n.ward (t.val / 32) = { s.mn.ward (t.val / 32) with holds := hs } ∧ (n.tum t.val).failed = fs
        ∧ bufOf (n.tum t.val) f.buf = .ready ((replayTile f).drained up)
        ∧ ∀ z ∈ (n.inst lead).members, (∀ l, f.members = some l → l.contains z.berth = true) → z.replayed = true := by
  obtain ⟨r, hr, hregs⟩ := (s.mn.replayAgreed t.val up hs f fs lead i).settleH3_regs
  have hsettled : ((s.mn.replayVerdict t.val up).settle).lapseNew s.mn
      = { s.mn.replayAgreed t.val up hs f fs lead i with regs := r } := by
    rw [Main.replayVerdict_agrees _ _ _ _ _ _ _ _ hh hf hi hl, Main.settle_of_quiet _ (Main.replayAgreed_quiet _ _ _ _ _ _ _ _ hq), hr]
    exact Main.lapseNew_none _ _ (Nat.le_refl _)
  refine onWarden_eq rfl hup hsettled fun n a hn => ?_
  have htums : n.tums = Tab.put tumDef t.val ((s.mn.tum t.val).replayed f fs up) s.mn.tums := by subst hn; rfl
  have hwards : n.wards = Tab.put wardDef (t.val / 32) { s.mn.ward (t.val / 32) with holds := hs } s.mn.wards := by subst hn; rfl
  have hinsts : n.insts = Tab.put instDef lead (i.replayed f.members) s.mn.insts := by subst hn; rfl
  have hword (o : Nat) : n.word o = Tab.get regReset r o := by subst hn; rfl
  refine ⟨by subst hn; rfl, Main.tumsBut_of_put htums, Main.wardsBut_of_put hwards, Main.instsBut_of_put hinsts, ?regs,
    Main.ward_of_put hwards, ?failed, ?ready, ?members⟩
  case regs => exact fun o ho => (hword o).trans (hregs o ho)
  case failed => rw [Main.tum_of_put htums]; rfl
  case ready => rw [Main.tum_of_put htums]; exact bufOf_setBuf _ _ _ _
  case members => rw [Main.inst_of_put hinsts]; exact Inst.replayed_of_named i f.members

/-- Settles O15: a swap that passes, one that fails, a hold's arrival, and a replay's verdict, each by the equation of its case. -/
theorem tilesSwapAndReplay : Obligations.TilesSwapAndReplay :=
  ⟨fun _ _ _ _ _ _ hup hy hst hk hb hl => tileSwap_releases hup hy hst hk hb hl,
    fun _ _ _ _ _ _ _ hup hy hst hk hb hl _ => tileSwap_holds hup hy hst hk hb hl,
    fun _ _ _ _ hup hc hi => replayHoldArrival_stops hup hc hi,
    fun _ _ _ _ _ _ _ _ hup hq hh hf hi hl => replayVerdict_releases hup hq hh hf hi hl⟩

end Sys2Proof
end

section
/-! SUPPORT AND PROOF. BIND and LOAD (spec/04_bittings.md R90, R91, spec/12_host_interface.md R274, R277): a container's place in the
plan area, the completion of its descriptor, and a region's opening. -/

namespace Sys2Proof
open Machine

/-! ## A container's place -/

/-- The container that descriptor `d` of context `c` binds, as it is stored at `a` in the plan area for that context alone (R90). -/
def Main.planFor (m : Main) (c : Nat) (d : Desc) (bs : List Byte) (b : Bitting) (a : Nat) : Plan :=
  { valid := true, bitting := some b, bytes := bs, addr := a, container := d.field 0x10 8, size := bs.length, crc := b.crc
    pasid := (m.ctx c).tenant, role := d.field 0x1C 1, base := if d.field 0x1C 1 = 1 then d.field 0x1E 2 else 0
    bindSeq := m.bindSeq + 1, contexts := [c] }

/-- The Warden's side once plan `p` stands under handle `h`: its bytes lie in the plan area, and `u` is host memory with its
journal record (R90). -/
def Main.withPlan (m : Main) (u : Mem) (h : Nat) (p : Plan) : Main :=
  { m with
    host := u
    stack := Mem.wrN (m.fld F.PLAN_AREA_BASE_base * 0x10000 + p.addr) p.bytes m.stack
    plans := Tab.put planDef h p m.plans
    bindSeq := m.bindSeq + 1 }

/-- A container that no record holds takes the lowest free handle and the lowest gap of the plan area (R90). -/
theorem Main.storePlan_of_new {m : Main} {bs : List Byte} {h a : Nat}
    (hnew : (m.plans.any fun p => p.2.valid && p.2.bytes == bs) = false) (hh : m.freeHandle = some h)
    (ha : m.planGap bs.length = some a) (c : Nat) (d : Desc) (b : Bitting) :
    ∃ u, m.storePlan c (d.field 0x10 8) (d.field 0x1C 1) (d.field 0x1E 2) bs b = some (m.withPlan u h (m.planFor c d bs b a), h) := by
  have hsame : (m.plans.find? fun p => p.2.valid && p.2.role == d.field 0x1C 1
      && (d.field 0x1C 1 != 1 || p.2.base == d.field 0x1E 2) && p.2.bytes == bs && p.2.pasid == (m.ctx c).tenant) = none := by
    rw [List.find?_eq_none]
    intro p hp hall
    simp only [Bool.and_eq_true] at hall
    obtain ⟨⟨⟨⟨hvalid, -⟩, -⟩, hbytes⟩, -⟩ := hall
    exact List.any_eq_false.1 hnew p hp (by rw [hvalid, hbytes]; rfl)
  simp only [Main.storePlan, hsame, hh, ha, Main.journalPlan, Main.plan_setPlan_same]
  exact ⟨_, rfl⟩

/-! ## The completion of a running context's descriptor -/

/-- Work left keeps a running context running (R229). -/
theorem Ctx.settle_of_running {x : Ctx} (hs : x.state = .residentRunning) (hq : x.queue ≠ []) : x.settle = x := by
  simp [Ctx.settle, hs, hq]

/-- A running context with work is no more runnable than it was: the Keyring only takes note of an event (R228). -/
theorem Main.wake_of_running {m : Main} {c : Nat} (hs : (m.ctx c).state = .residentRunning) (hq : (m.ctx c).queue ≠ []) :
    m.wake c = { m with ctxs := Tab.put ctxDef c (m.ctx c) m.ctxs, kr := { m.kr with event := true } } := by
  have hbound : ¬ ((m.ctx c).state = .bound ∧ (!(m.ctx c).queue.isEmpty) = true ∧ m.hasPlan c = true) := by simp [hs]
  simp only [Main.wake, if_neg hbound, Ctx.settle_of_running hs hq, Bool.and_not_self, Bool.false_eq_true, if_false]
  rfl

/-- A completion shows in host memory and contexts alone. -/
theorem Main.Completed.congr {m m' n n' : Main} {c st cf res det : Nat} {d : Desc} {q : List Desc}
    (h : m.Completed n c d q st cf res det) (hm : m'.ctxs = m.ctxs) (hhost : n'.host = n.host)
    (hctx : ∀ j, n'.ctx j = n.ctx j) : m'.Completed n' c d q st cf res det := by
  obtain ⟨hrec, hqueue, hdone, hbusy, hrun, hbut⟩ := h
  have hm' (j : Nat) : m'.ctx j = m.ctx j := congrArg (Tab.get ctxDef · j) hm
  refine ⟨?_, by rw [hctx, hqueue], by rw [hctx, hdone], by rw [hctx, hbusy], by rw [hctx, hrun], ?_⟩
  · rw [Main.RecordAt, Main.tenantRd, hhost, hm']
    exact hrec
  · intro j hj
    rw [hctx, hm', hbut j hj]

/-- A running context's set-up descriptor completes, with work left behind it, in host memory and contexts alone (R274). -/
theorem Main.setupDone_wake {m : Main} {c r : Nat} {d : Desc} {q : List Desc} (hq : (m.ctx c).queue = d :: q)
    (hp : ∀ e ∈ q.head?, e.protErr = none) (hi : (m.ctx c).irqArmed = false) (hs : (m.ctx c).state = .residentRunning)
    (hne : q ≠ []) :
    ∃ u k, (m.setupDone c r).wake c = { m with host := u, ctxs := k, kr := { m.kr with event := true } }
      ∧ m.Completed { m with host := u, ctxs := k } c d q stDone 0 r 0 := by
  obtain ⟨⟨u, k, hn⟩, -, hctx, -⟩ := m.completeHead_spec c d q stDone 0 r 0 hq hp hi
  have hdone := m.completeHead_completed c d q stDone 0 r 0 hq hp hi
  have hrun : ((m.ctx c).popped d q).state = .residentRunning := by
    rw [Ctx.popped, Ctx.settle_of_running]
    exacts [hs, hs, hne]
  rw [Main.setupDone, Main.wake_of_running (hctx ▸ hrun) (by rw [hctx]; simpa [Ctx.popped] using hne)]
  generalize m.completeHead c stDone 0 r 0 = n at hn hdone
  refine ⟨u, Tab.put ctxDef c (n.ctx c) k, by subst hn; rfl, hdone.congr rfl (by subst hn; rfl) fun j => ?_⟩
  rw [Main.ctx, Main.ctx]
  by_cases hj : j = c
  · subst hj
    exact Tab.get_put_same _ _ _ _
  · rw [hn]
    exact Tab.get_put_other _ _ _ _ _ hj

/-! ## The bind -/

/-- A container that passes every check is stored, and its BIND completes with its handle (R90, R91, R274). -/
theorem Main.bindCopyDone_of_ok {m : Main} {c h a : Nat} {aux : ContainerAux} {d : Desc} {q : List Desc} {bs : List Byte}
    (hq : (m.ctx c).queue = d :: q) (hop : d.opcode = 2) (hbusy : (m.ctx c).busy = true)
    (hp : ∀ e ∈ q.head?, e.protErr = none) (hi : (m.ctx c).irqArmed = false) (hs : (m.ctx c).state = .residentRunning)
    (hne : q ≠ []) (hbs : bs = m.tenantRd (m.ctx c).tenant (d.field 0x10 8) (d.field 0x18 4))
    (hok : m.bindOk c (d.field 0x1C 1) (d.field 0x1E 2) bs (readBitting bs aux) = true)
    (hnew : (m.plans.any fun p => p.2.valid && p.2.bytes == bs) = false) (hh : m.freeHandle = some h)
    (ha : m.planGap bs.length = some a) :
    ∃ u k, m.bindCopyDone c aux = { m.withPlan u h (m.planFor c d bs (readBitting bs aux) a) with
        ctxs := k, kr := { m.kr with event := true } }
      ∧ m.Completed { m with host := u, ctxs := k } c d q stDone 0 h 0 := by
  have hhead : (m.ctx c).head = some d := by rw [Ctx.head, hq]; rfl
  obtain ⟨v, hstore⟩ := Main.storePlan_of_new hnew hh ha c d (readBitting bs aux)
  obtain ⟨u, k, hwake, hdone⟩ := Main.setupDone_wake (m := m.withPlan v h (m.planFor c d bs (readBitting bs aux) a)) (r := h)
    hq hp hi hs hne
  refine ⟨u, k, ?_, hdone.congr rfl rfl fun _ => rfl⟩
  simp only [Main.bindCopyDone, hhead, hop, hbusy, ← hbs, hok, hstore, hwake, ne_eq, not_true_eq_false,
    Bool.not_true, Bool.false_eq_true, or_self, if_false]
  rfl

/-- BIND_COPY_DONE of a container that passes every check (R90, R91, R274). -/
theorem Machine.bindCopyDone_binds {s : State} {c : Fin 3072} {aux : ContainerAux} {d : Desc} {q : List Desc} {bs : List Byte}
    {h a : Nat} (hup : s.wardenUp = true) (hq : (s.mn.ctx c.val).queue = d :: q) (hop : d.opcode = 2)
    (hbusy : (s.mn.ctx c.val).busy = true) (hp : ∀ e ∈ q.head?, e.protErr = none) (hi : (s.mn.ctx c.val).irqArmed = false)
    (hs : (s.mn.ctx c.val).state = .residentRunning) (hne : q ≠ [])
    (hbs : bs = s.mn.tenantRd (s.mn.ctx c.val).tenant (d.field 0x10 8) (d.field 0x18 4))
    (hok : s.mn.bindOk c.val (d.field 0x1C 1) (d.field 0x1E 2) bs (readBitting bs aux) = true)
    (hnew : (s.mn.plans.any fun p => p.2.valid && p.2.bytes == bs) = false) (hh : s.mn.freeHandle = some h)
    (ha : s.mn.planGap bs.length = some a) :
    OnWarden (.bindCopyDone c aux) s fun n =>
      n = { s.mn with ctxs := n.ctxs, host := n.host, plans := n.plans, stack := n.stack, bindSeq := s.mn.bindSeq + 1
                      kr := { s.mn.kr with event := true }, absent := n.absent }
        ∧ s.mn.Completed n c.val d q stDone 0 h 0 ∧ (n.plan h).bitting = some (readBitting bs aux) ∧ (n.plan h).contexts = [c.val]
        ∧ (n.plan h).valid = true ∧ (n.plan h).addr = a ∧ (n.plan h).bytes = bs
        ∧ s.mn.stack.But n.stack (s.mn.fld F.PLAN_AREA_BASE_base * 0x10000 + a) bs.length
        ∧ n.stack.rdN (s.mn.fld F.PLAN_AREA_BASE_base * 0x10000 + a) bs.length = bs
        ∧ ∀ k, k ≠ h → n.plan k = s.mn.plan k := by
  obtain ⟨u, k, hbind, hdone⟩ := Main.bindCopyDone_of_ok hq hop hbusy hp hi hs hne hbs hok hnew hh ha
  rw [← Main.lapseNew_none (s.mn.bindCopyDone c.val aux) s.mn (congrArg (·.hq.length) hbind).le] at hbind
  refine onWarden_eq rfl hup hbind fun n ab hn => ?_
  have hplans : n.plans = Tab.put planDef h (s.mn.planFor c.val d bs (readBitting bs aux) a) s.mn.plans := by subst hn; rfl
  have hplan : n.plan h = s.mn.planFor c.val d bs (readBitting bs aux) a := by rw [Main.plan, hplans, Tab.get_put_same]
  have hstack : n.stack = Mem.wrN (s.mn.fld F.PLAN_AREA_BASE_base * 0x10000 + a) bs s.mn.stack := by subst hn; rfl
  refine ⟨by subst hn; rfl, hdone.congr rfl (by subst hn; rfl) fun j => by subst hn; rfl, by rw [hplan]; rfl, by rw [hplan]; rfl,
    by rw [hplan]; rfl, by rw [hplan]; rfl, by rw [hplan]; rfl, hstack ▸ Mem.but_wrN _ _ _, hstack ▸ Mem.rdN_wrN _ _ _, ?_⟩
  intro j hj
  rw [Main.plan, hplans, Tab.get_put_other _ _ _ _ _ hj, Main.plan]

/-! ## The load -/

/-- A region as a LOAD opens it (R277). -/
def Main.regionFor (m : Main) (c : Nat) (d : Desc) : Region :=
  { st := .loading, base := d.field 0x18 8, size := d.field 0x20 8, golden := d.field 0x10 8
    pasid := (m.ctx c).tenant, owner := d.field 0x28 1, ctx := some c }

/-- The operands of a LOAD hold (R277): whole granules in whole units inside stacked memory, which meet no area and no region. -/
abbrev Main.LoadFits (m : Main) (d : Desc) : Prop :=
  d.field 0x18 8 % 0x10000 = 0 ∧ 0 < d.field 0x20 8 ∧ d.field 0x20 8 % 4096 = 0 ∧ d.field 0x28 1 ≤ 15
    ∧ d.field 0x18 8 + regionBytes (d.field 0x20 8) ≤ 0x1200000000
    ∧ (m.areas.any fun a => spanHits (d.field 0x18 8 / 0x10000) (regionBytes (d.field 0x20 8) / 0x10000) a.1 a.2) = false
    ∧ m.hitsRegion (d.field 0x18 8 / 0x10000) (regionBytes (d.field 0x20 8) / 0x10000) = false

/-- A region whose units wait for no scrubbing enters LOADING (R423). -/
theorem Main.openRegion_of_clean {m : Main} {r : Nat} {x : Region} (hx : m.region r = x) (hst : x.st = .free)
    (hctx : x.ctx.isNone = false) (hopen : x.openOnly = false)
    (hwant : (m.scrubWant.any fun p => (unitsOf x.base (regionBytes x.size)).contains p.1) = false) :
    ∃ u l z, m.openRegion r = { m with
      host := u, lastWriter := l, scrubbed := z, regions := Tab.put regionDef r { x with st := .loading } m.regions } := by
  simp only [Main.openRegion, hx, hst, hctx, hopen, hwant, ne_eq, not_true_eq_false, Bool.false_eq_true, or_self, if_false]
  exact ⟨_, _, _, rfl⟩

/-- The Warden's side while region `r` is taken for a LOAD that has not yet opened it. -/
def Main.regionTaken (m : Main) (c : Nat) (d : Desc) (r : Nat) : Main :=
  { m with
    regions := Tab.put regionDef r { m.regionFor c d with st := .free } m.regions
    ctxs := Tab.put ctxDef c { m.ctx c with busy := true } m.ctxs }

/-- A LOAD whose operands hold takes the lowest free region; with no unit to scrub it opens at once (R277). -/
theorem Main.startLoad_of_clean {m : Main} {c r : Nat} {d : Desc} (hdue : m.due c 4 = some d) (hflags : d.field 0x29 1 = 0)
    (hfits : m.LoadFits d) (hr : m.freeRegion = some r)
    (hclean : m.dirty (m.ctx c).tenant (unitsOf (d.field 0x18 8) (regionBytes (d.field 0x20 8))) = []) :
    m.startLoad c = (m.regionTaken c d r).openRegion r := by
  obtain ⟨hbase, hpos, hsize, howner, htop, hareas, hregions⟩ := hfits
  have hclean' : (m.regionTaken c d r).dirty (m.ctx c).tenant (unitsOf (d.field 0x18 8) (regionBytes (d.field 0x20 8))) = [] := hclean
  have htaken : (m.setRegion r { m.regionFor c d with st := .free }).updCtx c (fun y => { y with busy := true })
      = m.regionTaken c d r := rfl
  simp only [Main.regionFor] at htaken
  simp [Main.startLoad, hdue, hflags, hr, hbase, hpos, hsize, howner, htop, hareas, hregions, htaken, hclean']

/-- LOAD of a weight object into clean units (R277). -/
theorem Machine.load_opens {s : State} {c : Fin 3072} {d : Desc} {q : List Desc} {r : Nat} (hup : s.wardenUp = true)
    (hturn : s.mn.TurnOf c.val d q 4) (hflags : d.field 0x29 1 = 0) (hfits : s.mn.LoadFits d) (hr : s.mn.freeRegion = some r)
    (hclean : s.mn.dirty (s.mn.ctx c.val).tenant (unitsOf (d.field 0x18 8) (regionBytes (d.field 0x20 8))) = [])
    (hwant : (s.mn.scrubWant.any fun p => (unitsOf (d.field 0x18 8) (regionBytes (d.field 0x20 8))).contains p.1) = false) :
    OnWarden (.load c) s fun n =>
      n = { s.mn with ctxs := n.ctxs, host := n.host, regions := n.regions, lastWriter := n.lastWriter, scrubbed := n.scrubbed
                      absent := n.absent }
        ∧ s.mn.CtxsBut n c.val ∧ n.ctx c.val = { s.mn.ctx c.val with busy := true } ∧ n.region r = s.mn.regionFor c.val d
        ∧ s.mn.RegionsBut n r := by
  have hregion : (s.mn.regionTaken c.val d r).region r = { s.mn.regionFor c.val d with st := .free } := Tab.get_put_same _ _ _ _
  obtain ⟨u, l, z, hopen⟩ := Main.openRegion_of_clean hregion rfl rfl rfl hwant
  have hload := (Main.startLoad_of_clean (Main.due_of_turn hturn) hflags hfits hr hclean).trans hopen
  rw [← Main.lapseNew_none (s.mn.startLoad c.val) s.mn (congrArg (·.hq.length) hload).le] at hload
  refine onWarden_eq rfl hup hload fun n a hn => ?_
  have hctxs : n.ctxs = Tab.put ctxDef c.val { s.mn.ctx c.val with busy := true } s.mn.ctxs := by subst hn; rfl
  have hregions : n.regions = Tab.put regionDef r (s.mn.regionFor c.val d)
      (Tab.put regionDef r { s.mn.regionFor c.val d with st := .free } s.mn.regions) := by subst hn; rfl
  refine ⟨by subst hn; rfl, ?others, ?busy, ?region, ?regions⟩
  case others => intro j hj; rw [Main.ctx, hctxs, Tab.get_put_other _ _ _ _ _ hj, Main.ctx]
  case busy => rw [Main.ctx, hctxs, Tab.get_put_same]
  case region => rw [Main.region, hregions, Tab.get_put_same]
  case regions =>
    intro j hj
    rw [Main.region, hregions, Tab.get_put_other _ _ _ _ _ hj, Tab.get_put_other _ _ _ _ _ hj, Main.region]

/-- Settles O10: a container checked and bound, and a load begun. -/
theorem bindAndLoadTakeEffect : Obligations.BindAndLoadTakeEffect := by
  refine ⟨?bind, ?load⟩
  case bind =>
    intro s c aux d q bs h a hup hq hop hbusy hp hi hs hne hbs hok hnew hh ha
    exact bindCopyDone_binds hup hq hop hbusy hp hi hs hne hbs hok hnew hh ha
  case load =>
    intro s c d q r hup hturn hflags hbase hpos hsize howner htop hareas hregions hr hclean hwant
    exact load_opens hup hturn hflags ⟨hbase, hpos, hsize, howner, htop, hareas, hregions⟩ hr hclean hwant

end Sys2Proof
end

section
/-! SUPPORT AND PROOF. Lists and ramps (spec/04_bittings.md R94, spec/03_tumbler_and_cylinder.md R60, R61): an equation for each of
their effects, and what each command leaves. -/

namespace Sys2Proof
open Machine

/-! ## One counter raised -/

section
variable {m n : Main} {id k c : Nat}

theorem Main.counter_of_count (e : n.ctr = (m.count id k c).ctr) : n.counter id k = satAdd 48 (m.counter id k) c :=
  (congrArg (Tab.get ctrDef · (id * 4096 + k)) e).trans (m.counter_count_same id k c)

theorem Main.countersBut_of_count (hk : k < 4096) (e : n.ctr = (m.count id k c).ctr) : m.CountersBut n [(id, k)] :=
  ((m.countersBut_refl _).count c hk List.mem_cons_self).of_ctr e

end

/-! ## Lists -/

/-- Once the lists of running plan `i` are loaded, its ward's caches hold them (R94). -/
theorem Main.planLoadEnd_of_instOn {m : Main} {w lead : Nat} {i : Inst} (hi : m.instOn w = some (lead, i)) (hw : w ∉ i.loadedWards)
    (cycles : Nat) :
    m.planLoadEnd w cycles none = { m with
      insts := Tab.put instDef lead { i with loadedWards := w :: i.loadedWards } m.insts
      wards := Tab.put wardDef w { m.ward w with loaded := some i.handle } m.wards
      ctr := (m.count 0x07 w cycles).ctr } := by
  have hw' : i.loadedWards.contains w = false := by simpa using hw
  simp only [Main.planLoadEnd, hi, hw', Bool.false_eq_true, if_false, Main.count, Main.counter, Main.updWard, Main.setWard, Main.ward,
    Main.setInst]

/-- PLAN_LOAD_END at a ward of a running plan, of lists that came whole (R94). -/
theorem Machine.planLoadEnd_loads {s : State} {w : Fin 16} {cycles lead : Nat} {i : Inst} (hup : s.wardenUp = true)
    (hi : s.mn.instOn w.val = some (lead, i)) (hw : w.val ∉ i.loadedWards) :
    OnWarden (.planLoadEnd w cycles none) s fun n =>
      n = { s.mn with insts := n.insts, wards := n.wards, ctr := n.ctr, absent := n.absent } ∧ s.mn.InstsBut n lead
        ∧ s.mn.WardsBut n w.val ∧ n.inst lead = { i with loadedWards := w.val :: i.loadedWards }
        ∧ n.ward w.val = { s.mn.ward w.val with loaded := some i.handle }
        ∧ n.counter 0x07 w.val = satAdd 48 (s.mn.counter 0x07 w.val) cycles ∧ s.mn.CountersBut n [(0x07, w.val)] := by
  have hload := Main.planLoadEnd_of_instOn hi hw cycles
  rw [← Main.lapseNew_none (s.mn.planLoadEnd w.val cycles none) s.mn (congrArg (·.hq.length) hload).le] at hload
  refine onWarden_eq rfl hup hload fun n a hn => ?_
  have hinsts : n.insts = Tab.put instDef lead { i with loadedWards := w.val :: i.loadedWards } s.mn.insts := by subst hn; rfl
  have hwards : n.wards = Tab.put wardDef w.val { s.mn.ward w.val with loaded := some i.handle } s.mn.wards := by subst hn; rfl
  have hctr : n.ctr = (s.mn.count 0x07 w.val cycles).ctr := by subst hn; rfl
  exact ⟨by subst hn; rfl, Main.instsBut_of_put hinsts, Main.wardsBut_of_put hwards, Main.inst_of_put hinsts,
    Main.ward_of_put hwards, Main.counter_of_count hctr, Main.countersBut_of_count (by omega) hctr⟩

/-! ## Ramps -/

theorem Main.rampUp_of_rest {m : Main} {t : Nat} (hr : (m.tum t).ramp = .rest) :
    m.rampUp t = { m with
      tums := Tab.put tumDef t { m.tum t with ramp := .on } m.tums
      ctr := (m.count 0x09 (t / 4) 32).ctr } := by
  simp only [Main.rampUp, hr, if_true, Main.count, Main.counter, Main.setTum, tumCyl]

/-- RAMP_UP of a tumbler at rest (R60): its columns come on over 32 cycles. -/
theorem Machine.rampUp_turnsOn {s : State} {t : Fin 512} (hup : s.wardenUp = true) (hr : (s.mn.tum t.val).ramp = .rest) :
    OnWarden (.rampUp t) s fun n => n = { s.mn with tums := n.tums, ctr := n.ctr, absent := n.absent } ∧ s.mn.TumsBut n t.val
      ∧ n.tum t.val = { s.mn.tum t.val with ramp := .on }
      ∧ n.counter 0x09 (t.val / 4) = satAdd 48 (s.mn.counter 0x09 (t.val / 4)) 32 ∧ s.mn.CountersBut n [(0x09, t.val / 4)] := by
  refine onWarden_eq rfl hup (Main.rampUp_of_rest hr) fun n a hn => ?_
  have htums : n.tums = Tab.put tumDef t.val { s.mn.tum t.val with ramp := .on } s.mn.tums := by subst hn; rfl
  have hctr : n.ctr = (s.mn.count 0x09 (t.val / 4) 32).ctr := by subst hn; rfl
  exact ⟨by subst hn; rfl, Main.tumsBut_of_put htums, Main.tum_of_put htums, Main.counter_of_count hctr,
    Main.countersBut_of_count (by omega) hctr⟩

/-- RAMP_DOWN (R60): a tumbler's columns go off. -/
theorem Machine.rampDown_turnsOff {s : State} {t : Fin 512} (hup : s.wardenUp = true) :
    OnWarden (.rampDown t) s fun n => n = { s.mn with tums := n.tums, absent := n.absent } ∧ s.mn.TumsBut n t.val
      ∧ n.tum t.val = { s.mn.tum t.val with ramp := .rest } := by
  refine onWarden_eq rfl hup rfl fun n a hn => ?_
  have htums : n.tums = Tab.put tumDef t.val { s.mn.tum t.val with ramp := .rest } s.mn.tums := by subst hn; rfl
  exact ⟨by subst hn; rfl, Main.tumsBut_of_put htums, Main.tum_of_put htums⟩

/-- RAMP_RESUME of a tumbler that is on (R61): only the cycles count. -/
theorem Machine.rampResume_counts {s : State} {t : Fin 512} {k : Fin 33} (hup : s.wardenUp = true)
    (hr : (s.mn.tum t.val).ramp = .on) :
    OnWarden (.rampResume t k) s fun n => n = { s.mn with ctr := n.ctr, absent := n.absent }
      ∧ n.counter 0x09 (t.val / 4) = satAdd 48 (s.mn.counter 0x09 (t.val / 4)) k.val ∧ s.mn.CountersBut n [(0x09, t.val / 4)] := by
  refine onWarden_eq rfl hup (if_pos hr) fun n a hn => ?_
  have hctr : n.ctr = (s.mn.count 0x09 (t.val / 4) k.val).ctr := by subst hn; rfl
  exact ⟨by subst hn; rfl, Main.counter_of_count hctr, Main.countersBut_of_count (by omega) hctr⟩

/-- Settles O14: the end of a list load, a ramp up, a ramp down, and a ramp resumed, each by the lemma of its command. -/
theorem listsLoadAndRampsTurn : Obligations.ListsLoadAndRampsTurn :=
  ⟨fun _ _ _ _ _ hup hi hw => planLoadEnd_loads hup hi hw, fun _ _ hup hr => rampUp_turnsOn hup hr,
    fun _ _ hup => rampDown_turnsOff hup, fun _ _ _ hup hr => rampResume_counts hup hr⟩

end Sys2Proof
end

section
/-! SUPPORT AND PROOF. Boundaries and the commit log (spec/04_bittings.md R98, spec/12_host_interface.md R282, R283): where the lines
of a record stand, and an equation for each bundle and each step of the log. -/

namespace Sys2Proof
open Machine

/-! ## Done and ready bundles -/

/-- A cylinder that has come to its end is done, and its cycles are added to the cost (R98, order 1; R237). -/
theorem Main.doneBundle_of_settled {m : Main} {c lead : Nat} {i : Inst} (hi : m.instOn (c / 8) = some (lead, i))
    (hs : i.stopped = false) (hc : c ∉ i.doneCyls) (he : listsEnded i (inCyl c) = true) (hv : m.verdictsSettled c = true)
    (cycles : Nat) : m.doneBundle c cycles = m.setInst lead { i with doneCyls := c :: i.doneCyls, cost := i.cost + cycles } := by
  have hc' : i.doneCyls.contains c = false := by simpa using hc
  simp only [Main.doneBundle, hi, hs, hc', he, hv]
  rfl

/-- The last ward of an unchained plan's set stages the step (R98, orders 2 and 3). -/
theorem Main.readyBundle_of_last {m : Main} {w lead : Nat} {i : Inst} (hi : m.instOn w = some (lead, i)) (hk : i.kind = .plan)
    (hs : i.stopped = false) (hg : i.staged = false) (hwid : i.widenTensor = none) (hw : w ∉ i.readyWards)
    (hch : i.chained = false) (hd : ∀ k < 8, 8 * w + k ∈ i.doneCyls) (he : listsEnded i (inWard w) = true)
    (hall : ∀ v ∈ wardsOf i.mask, v = w ∨ v ∈ i.readyWards) :
    m.readyBundle w = m.setInst lead { i with readyWards := w :: i.readyWards, staged := true } := by
  have hw' : i.readyWards.contains w = false := by simpa using hw
  have hd' : ((List.range 8).all fun k => i.doneCyls.contains (8 * w + k)) = true := by simpa using hd
  have hall' : (wardsOf i.mask).all (w :: i.readyWards).contains = true := by simpa using hall
  simp only [Main.readyBundle, hi, hk, hs, hg, hwid, hw', hd', he, hall', hch]
  rfl

/-- An effect of the Warden's side that sets one running plan's record and nothing else. -/
theorem Machine.onWarden_setInst {c : Instr} {s : State} {f : Main → Main} {lead : Nat} {x : Inst}
    (e : exec c s = .next (s.warden f)) (hup : s.wardenUp = true) (hf : f s.mn = s.mn.setInst lead x) :
    OnWarden c s fun n => n = { s.mn with insts := n.insts, absent := n.absent } ∧ s.mn.InstsBut n lead ∧ n.inst lead = x := by
  refine onWarden_eq e hup hf fun n a hn => ?_
  have hinsts : n.insts = Tab.put instDef lead x s.mn.insts := by subst hn; rfl
  exact ⟨by subst hn; rfl, Main.instsBut_of_put hinsts, Main.inst_of_put hinsts⟩

/-! ## The bytes of a record -/

theorem memberBytes_length (x : CommitMember) : (memberBytes x).length = 16 := by
  simp [memberBytes]

theorem headerLine_length (crc sealNo step round mask members handle kind : Nat) :
    (headerLine crc sealNo step round mask members handle kind).length = 64 := by
  simp [headerLine]

theorem flatMap_memberBytes_length (l : List CommitMember) : (l.flatMap memberBytes).length = 16 * l.length := by
  rw [List.length_flatMap, List.map_congr_left fun x _ => memberBytes_length x]
  simp [Nat.mul_comm]

/-- A record is whole lines: one for each four members or part of four, and its header's (Tables 12-14, 12-15). -/
theorem recordBytes_length (k : Commit) : (recordBytes k).length = 64 * (1 + (k.members.length + 3) / 4) := by
  simp only [recordBytes, List.length_append, headerLine_length, flatMap_memberBytes_length, List.length_replicate]
  omega

/-! ## The lines of the log -/

theorem Mem.wrN_append (xs ys : List Byte) (a : Nat) (m : Mem) :
    Mem.wrN a (xs ++ ys) m = Mem.wrN (a + xs.length) ys (Mem.wrN a xs m) := by
  induction xs generalizing a m with
  | nil => rfl
  | cons x xs ih => rw [List.cons_append, Mem.wrN, Mem.wrN, ih, List.length_cons, Nat.add_right_comm, Nat.add_assoc]

/-- The first line of some bytes and then the rest is all of them. -/
theorem Mem.wrN_line_rest (bs : List Byte) (a : Nat) (m : Mem) (h : 64 ≤ bs.length) :
    Mem.wrN (a + 64) (bs.drop 64) (Mem.wrN a (bs.take 64) m) = Mem.wrN a bs m := by
  have hlen : (bs.take 64).length = 64 := List.length_take_of_le h
  have happ := Mem.wrN_append (bs.take 64) (bs.drop 64) a m
  rw [List.take_append_drop, hlen] at happ
  exact happ.symm

theorem hostKey_zero {a : Nat} (h : a < 2 ^ 64) : hostKey 0 a = a := by
  rw [hostKey, Nat.mod_eq_of_lt h, Nat.zero_mul, Nat.zero_add]

/-- Lines that do not pass the log's end are written one after another. -/
theorem Main.logWrite_eq {m : Main} {line n : Nat} {bs : List Byte} (hn : line + n ≤ m.logLines)
    (htop : m.logBase + 64 * m.logLines ≤ 2 ^ 64) (hbs : bs.length = 64 * n) :
    m.logWrite line bs n = { m with host := Mem.wrN (m.logBase + 64 * line) bs m.host } := by
  induction n generalizing m line bs with
  | zero => rw [List.eq_nil_of_length_eq_zero hbs]; rfl
  | succ n ih =>
    have h64 : 64 ≤ bs.length := by omega
    have hat : m.logBase + line % m.logLines * 64 = m.logBase + 64 * line := by
      rw [Nat.mod_eq_of_lt (by omega), Nat.mul_comm]
    have hline : m.hostWr (m.logBase + line % m.logLines * 64) (bs.take 64)
        = { m with host := Mem.wrN (m.logBase + 64 * line) (bs.take 64) m.host } := by
      rw [hat, Main.hostWr, hostKey_zero (by omega)]
    have hrest := ih (m := { m with host := Mem.wrN (m.logBase + 64 * line) (bs.take 64) m.host }) (line := line + 1)
      (bs := bs.drop 64) (show line + 1 + n ≤ m.logLines by omega) htop (by rw [List.length_drop]; omega)
    have hnext : m.logBase + 64 * (line + 1) = m.logBase + 64 * line + 64 := by omega
    rw [Main.logWrite, hline, hrest, ← Mem.wrN_line_rest bs (m.logBase + 64 * line) m.host h64, ← hnext]
    rfl

/-! ## A record written and retired -/

/-- The record of a staged step, with the next seal and at the next line (R283, order 2). -/
def Main.stepRecord (m : Main) (i : Inst) : Commit :=
  { sealNo := m.log.nextSeal, inst := i, step := i.step, round := i.round, kind := 0, members := i.members.map (m.memberOutcome i)
    line := m.log.nextLine, lines := 1 + (i.members.length + 3) / 4, live := false }

theorem Main.stepRecord_bytes_length (m : Main) (i : Inst) :
    (recordBytes (m.stepRecord i)).length = 64 * (m.stepRecord i).lines := by
  rw [recordBytes_length]; simp [Main.stepRecord]

/-- The log once a record has joined it. -/
def Main.logWith (m : Main) (k : Commit) : CommitLog :=
  { nextSeal := m.log.nextSeal + 1, nextLine := (k.line + k.lines) % m.logLines, pipe := m.log.pipe ++ [k] }

/-- The record of a ward's staged, unchained step joins a log that has room for it, its lines in one piece (R283, order 2). -/
theorem Main.commitRecordWrite_of_staged {m : Main} {w : Nat} {k : Commit} (hlane : m.laneOf w = none) (hlive : (m.inst w).live = true)
    (hst : (m.inst w).staged = true) (hch : (m.inst w).chained = false)
    (hno : (m.log.pipe.any fun q => !q.live && q.kind == 0 && q.inst.mask == (m.inst w).mask) = false)
    (hk : k = m.stepRecord (m.inst w)) (hroom : (m.log.pipe.map (·.lines)).sum + k.lines ≤ m.logLines)
    (hend : k.line + k.lines ≤ m.logLines) (htop : m.logBase + 64 * m.logLines ≤ 2 ^ 64) :
    m.commitRecordWrite w =
      { m with host := Mem.wrN (m.logBase + 64 * k.line) (recordBytes k) m.host, log := m.logWith k } := by
  have hmem : ((m.inst w).members.map (m.memberOutcome (m.inst w))).length = (m.inst w).members.length := List.length_map _
  have hwrite := Main.logWrite_eq hend htop (hk ▸ Main.stepRecord_bytes_length _ _)
  subst hk
  simp only [Main.stepRecord] at hroom hwrite ⊢
  simp only [Main.commitRecordWrite, hlane, hlive, hst, hch, hno, hmem, if_neg (Nat.not_lt.2 hroom), hwrite, Bool.not_false,
    Bool.true_or, Bool.and_self, if_true]
  rfl

/-- COMMIT_RECORD_WRITE of a staged, unchained step whose lines lie in one piece (R282, R283, order 2). -/
theorem Machine.commitRecordWrite_appends {s : State} {w : Fin 16} {k : Commit} (hup : s.wardenUp = true)
    (hlane : s.mn.laneOf w.val = none) (hlive : (s.mn.inst w.val).live = true) (hst : (s.mn.inst w.val).staged = true)
    (hch : (s.mn.inst w.val).chained = false)
    (hno : (s.mn.log.pipe.any fun q => !q.live && q.kind == 0 && q.inst.mask == (s.mn.inst w.val).mask) = false)
    (hk : k = s.mn.stepRecord (s.mn.inst w.val)) (hroom : (s.mn.log.pipe.map (·.lines)).sum + k.lines ≤ s.mn.logLines)
    (hend : k.line + k.lines ≤ s.mn.logLines) (htop : s.mn.logBase + 64 * s.mn.logLines ≤ 2 ^ 64) :
    OnWarden (.commitRecordWrite w) s fun n => n = { s.mn with host := n.host, log := n.log, absent := n.absent }
      ∧ n.log = s.mn.logWith k ∧ s.mn.host.But n.host (hostKey 0 (s.mn.logBase + 64 * k.line)) (64 * k.lines)
      ∧ n.host.rdN (hostKey 0 (s.mn.logBase + 64 * k.line)) (64 * k.lines) = recordBytes k := by
  have hlen : (recordBytes k).length = 64 * k.lines := hk ▸ Main.stepRecord_bytes_length _ _
  have hpos : 0 < k.lines := by subst hk; exact Nat.lt_add_right _ Nat.one_pos
  rw [hostKey_zero (by omega), ← hlen]
  refine onWarden_eq rfl hup (Main.commitRecordWrite_of_staged hlane hlive hst hch hno hk hroom hend htop) fun n a hn => ?_
  have hhost : n.host = Mem.wrN (s.mn.logBase + 64 * k.line) (recordBytes k) s.mn.host := by subst hn; rfl
  exact ⟨by subst hn; rfl, by subst hn; rfl, hhost ▸ Mem.but_wrN _ _ _, hhost ▸ Mem.rdN_wrN _ _ _⟩

/-- COMMIT_RETIRE of a live record (R283, order 5). -/
theorem Machine.commitRetire_drops {s : State} {k : Commit} {rest : List Commit} (hup : s.wardenUp = true)
    (hp : s.mn.log.pipe = k :: rest) (hk : k.live = true) :
    OnWarden .commitRetire s fun n =>
      n = { s.mn with log := n.log, absent := n.absent } ∧ n.log = { s.mn.log with pipe := rest } := by
  have hdrop : s.mn.commitRetire = { s.mn with log := { s.mn.log with pipe := rest } } := by
    simp only [Main.commitRetire, hp, hk, if_true]
  rw [← Main.lapseNew_none s.mn.commitRetire s.mn (congrArg (·.hq.length) hdrop).le] at hdrop
  refine onWarden_eq rfl hup hdrop fun n a hn => ?_
  exact ⟨by subst hn; rfl, by subst hn; rfl⟩

/-- Settles O16: a done bundle, the last ready bundle, a record written, and one retired. -/
theorem stepsReachTheLog : Obligations.StepsReachTheLog := by
  refine ⟨?done, ?ready, ?record, ?retire⟩
  case done =>
    intro s c cycles lead i hup hi hs hc he hv
    exact onWarden_setInst rfl hup (Main.doneBundle_of_settled hi hs hc he hv cycles)
  case ready =>
    intro s w lead i hup hi hk hs hg hwid hw hch hd he hall
    exact onWarden_setInst rfl hup (Main.readyBundle_of_last hi hk hs hg hwid hw hch hd he hall)
  case record =>
    rintro s w _ k hup hlane rfl hlive hst hch hno hk hroom hend htop
    exact commitRecordWrite_appends hup hlane hlive hst hch hno hk hroom hend htop
  case retire =>
    intro s k rest hup hp hk
    exact commitRetire_drops hup hp hk

end Sys2Proof
end

section
/-! SUPPORT AND PROOF. Answers of the service ring (spec/13_hinges.md, Table 13-5): the machine that an answer is acted on by, an equation
for what each requester does with it, and what each answer's command leaves. -/

namespace Sys2Proof
open Machine

/-! ## An answer acted on -/

/-- The machine that acts on answer `num`: the answer has left the ring, and an event of R230 has happened. -/
def Main.answered (m : Main) (num : Nat) : Main := { m with svc := m.svc.taken num, kr := { m.kr with event := true } }

/-- An answer that has been read is taken and acted on. -/
theorem Main.withAnswer_of_read {m : Main} {h num : Nat} {r : HingeReq} {bs : List Byte} (ha : m.AnswerRead h num r bs)
    (f : Main → HingeReq → List Byte → Main) : m.withAnswer h num f = f (m.answered num) r bs := by
  have htake : m.takeAnswer h num = some (m.answered num, r, bs) := congrArg (Option.map _) ha
  simp only [Main.withAnswer, htake]

/-- The command of an answer that has been read and that raises no request: the requester's result `n` is what it leaves, but for the
islands absent. -/
theorem Machine.onWarden_answer {c : Instr} {s : State} {h num : Nat} {f : Main → HingeReq → List Byte → Main} {r : HingeReq}
    {bs : List Byte} {n : Main} {P : Main → Prop}
    (e : exec c s = .next (s.warden fun m => (m.withAnswer h num f).lapseNew m)) (hup : s.wardenUp = true)
    (ha : s.mn.AnswerRead h num r bs) (hf : f (s.mn.answered num) r bs = n) (hq : n.hq = s.mn.hq)
    (p : ∀ k a, k = { n with absent := a } → P k) : OnWarden c s P := by
  refine onWarden_eq e hup ?_ p
  show (s.mn.withAnswer h num f).lapseNew s.mn = n
  rw [Main.withAnswer_of_read ha, hf]
  exact Main.lapseNew_none n s.mn (congrArg List.length hq).le

/-! ## H3: a scale byte -/

/-- A group's scale byte joins those of its running plan (R111). -/
theorem Main.h3Take_of_some {m : Main} {r : HingeReq} (hl : m.lapsed r = false) (x : Nat) :
    m.h3Take r (some x) = m.setInst (r.args.getD 0 0) { m.inst (r.args.getD 0 0) with
      h3Scales := (r.args.getD 1 0, r.args.getD 2 0, x) :: (m.inst (r.args.getD 0 0)).h3Scales } := by
  simp only [Main.h3Take, hl, Bool.false_eq_true, if_false, Option.getD_some]

/-- H3_ANSWER with scale bytes (R111): the request's group takes its own. -/
theorem Machine.h3Answer_scales {s : State} {num : Nat} {r : HingeReq} {bs : List Byte} (hup : s.wardenUp = true)
    (ha : s.mn.AnswerRead 3 num r bs) (hl : s.mn.lapsed r = false) (hv : verdict bs = 0) :
    OnWarden (.h3Answer num) s fun n =>
      n = { s.mn with svc := s.mn.svc.taken num, kr := { s.mn.kr with event := true }, insts := n.insts, absent := n.absent }
        ∧ s.mn.InstsBut n (r.args.getD 0 0)
        ∧ n.inst (r.args.getD 0 0) = { s.mn.inst (r.args.getD 0 0) with
            h3Scales := (r.args.getD 1 0, r.args.getD 2 0, ansNat bs (0x10 + r.args.getD 2 0 % 16) 1)
              :: (s.mn.inst (r.args.getD 0 0)).h3Scales } := by
  have htake := Main.h3Take_of_some (m := s.mn.answered num) hl (ansNat bs (0x10 + r.args.getD 2 0 % 16) 1)
  refine onWarden_answer rfl hup ha ((congrArg _ (if_pos hv)).trans htake) rfl fun n a hn => ?_
  subst hn
  exact ⟨rfl, fun j hj => Main.inst_setInst_other _ _ _ _ hj, Main.inst_setInst_same _ _ _⟩

/-! ## H4: a block's table -/

/-- Nothing is asked once every block of the running pass has its table (R167). -/
theorem Main.kwAsk_of_all {m : Main} {j : KwJob} {d : Desc} (hj : m.kw.running = some j) (hd : (m.ctx j.ctx).head = some d)
    (hk : (m.kwBlocksOf j (kwOps d)).length ≤ j.tables.length) : m.kwAsk = m := by
  simp only [Main.kwAsk, hj, hd, List.getElem?_eq_none hk]

/-- A valid table for the last block of the running pass joins the others (R167). -/
theorem Main.kwTake_of_last {m : Main} {blk mm e : Nat} {j : KwJob} {d : Desc} {f : Fmt} {t : List Nat}
    (hj : m.kw.running = some j) (hd : (m.ctx j.ctx).head = some d) (hlen : (m.kwBlocksOf j (kwOps d)).length = blk + 1)
    (hf : fmtOfCode (kwOps d).fmt = some f) (hs : kwShape f = some (mm, e)) (hb : j.tables.length = blk) (he : j.ended = false)
    (hok : kwValid f e t = true) :
    m.kwTake blk (some t) = { m with kw := { m.kw with running := some { j with tables := j.tables ++ [(blk, t)] } } } := by
  have hblock := List.getElem?_eq_getElem (hlen ▸ Nat.lt_succ_self blk : blk < (m.kwBlocksOf j (kwOps d)).length)
  simp only [Main.kwTake, hj, hd, hblock, hf, hs, hb, he, hok, Option.bind_some, Option.map_some, Option.getD_some, ne_eq,
    not_true_eq_false, Bool.false_eq_true, or_self, if_false, Bool.not_true]
  refine Main.kwAsk_of_all rfl hd (hlen.le.trans ?_)
  simp [hb]

/-- H4_ANSWER with a valid table for the running pass's last block (R167). -/
theorem Machine.h4Answer_lastTable {s : State} {num blk e mm : Nat} {r : HingeReq} {bs : List Byte} {j : KwJob} {d : Desc} {f : Fmt}
    {t : List Nat} (hup : s.wardenUp = true) (ha : s.mn.AnswerRead 4 num r bs) (hr : r.args.getD 1 0 = blk)
    (hj : s.mn.kw.running = some j) (hd : (s.mn.ctx j.ctx).head = some d) (hlen : (s.mn.kwBlocksOf j (kwOps d)).length = blk + 1)
    (hf : fmtOfCode (kwOps d).fmt = some f) (hs : kwShape f = some (mm, e)) (hb : j.tables.length = blk) (he : j.ended = false)
    (hv : verdict bs = 0) (ht : t = (List.range 8).map fun i => ansNat bs (0x10 + i) 1) (hok : kwValid f e t = true) :
    OnWarden (.h4Answer num) s fun n =>
      n = { s.mn with svc := s.mn.svc.taken num, kr := { s.mn.kr with event := true }, absent := n.absent
                      kw := { s.mn.kw with running := some { j with tables := j.tables ++ [(blk, t)] } } } := by
  have htake := Main.kwTake_of_last (m := s.mn.answered num) hj hd hlen hf hs hb he hok
  refine onWarden_answer rfl hup ha (n := { s.mn.answered num with kw := _ }) ?take rfl fun n a hn => by subst hn; rfl
  case take =>
    simp only [hr, hv, if_true, ← ht]
    exact htake

/-! ## H5: a granule's source -/

/-- The granule that a held region's refetch is at takes its source: the address given, or the recorded copy (R144, R147). -/
theorem Main.h5Take_of_held {m : Main} {r : HingeReq} {k g tries ch v : Nat} {rest : List (Nat × Nat × Nat)}
    (hk : r.args.getD 0 0 = k) (hg : r.args.getD 1 0 = g) (ht : r.args.getD 4 0 = tries + 1) (hst : (m.region k).st = .held)
    (hx : (m.region k).refetch = (g, tries, ch) :: rest) (hs : (m.region k).source = none) (hv : v ≤ 1) (addr pasid : Nat) :
    m.h5Take r v addr pasid = m.setRegion k { m.region k with
      source := some (if v = 1 then (addr, pasid) else ((m.region k).golden + 4096 * g, (m.region k).pasid)) } := by
  have hv' : v ≠ 2 := by omega
  simp only [Main.h5Take, hk, hg, ht, hst, hx, hs, hv', ne_eq, not_true_eq_false, Option.isSome_none, Bool.false_eq_true, or_self,
    if_false]

/-- H5_ANSWER that names a source for the granule asked about (R144, R147). -/
theorem Machine.h5Answer_source {s : State} {num k g tries ch : Nat} {rest : List (Nat × Nat × Nat)} {r : HingeReq} {bs : List Byte}
    (hup : s.wardenUp = true) (ha : s.mn.AnswerRead 5 num r bs) (hk : r.args.getD 0 0 = k) (hg : r.args.getD 1 0 = g)
    (ht : r.args.getD 4 0 = tries + 1) (hst : (s.mn.region k).st = .held) (hx : (s.mn.region k).refetch = (g, tries, ch) :: rest)
    (hs : (s.mn.region k).source = none) (hv : verdict bs ≤ 1) :
    OnWarden (.h5Answer num) s fun n =>
      n = { s.mn with svc := s.mn.svc.taken num, kr := { s.mn.kr with event := true }, regions := n.regions, absent := n.absent }
        ∧ s.mn.RegionsBut n k
        ∧ n.region k = { s.mn.region k with source := some (if verdict bs = 1 then (ansNat bs 0x10 8, ansNat bs 0x18 4)
                                                            else ((s.mn.region k).golden + 4096 * g, (s.mn.region k).pasid)) } := by
  have htake := Main.h5Take_of_held (m := s.mn.answered num) hk hg ht hst hx hs hv (ansNat bs 0x10 8) (ansNat bs 0x18 4)
  refine onWarden_answer rfl hup ha htake rfl fun n a hn => ?_
  subst hn
  exact ⟨rfl, fun j hj => Main.region_setRegion_other _ _ _ _ hj, Main.region_setRegion_same _ _ _⟩

/-! ## H7: a unit's address -/

/-- A frame for a trained port joins those sent. -/
theorem Main.lzSend_of_up {m : Main} {p : Nat} (h : m.portUp p = true) (f : LzFrame) :
    m.lzSend p f = { m with lz := { m.lz with sent := m.lz.sent ++ [(p, f)] } } :=
  if_neg (Nat.not_lt.2 (of_decide_eq_true h))

/-- A unit with a trained DOWN port passes WALK on with its own address added (Table 14-2, order 4). -/
theorem Main.walkPass_of_down {m : Main} (h : m.portUp 1 = true) (a : Nat) (host : Bool) :
    m.walkPass a host = { m with lz := { m.lz with
      phase := .walking, addrs := m.lz.addrs ++ [a], host := host
      sent := m.lz.sent ++ [(1, .walk (m.fld F.LANIZA_ADDR_position + 1) m.lz.floorMax m.lz.maxMin (m.lz.addrs ++ [a]))] } } := by
  have hsend := Main.lzSend_of_up (m := { m with lz := { m.lz with phase := .walking, addrs := m.lz.addrs ++ [a], host := host } }) h
  exact (if_pos h).trans (hsend _)

/-- H7_ANSWER with an address, at a unit whose DOWN port is trained (R314). -/
theorem Machine.h7Answer_walks {s : State} {num : Nat} {r : HingeReq} {bs : List Byte} (hup : s.wardenUp = true)
    (ha : s.mn.AnswerRead 7 num r bs) (hask : s.mn.lz.phase = .asking) (hv : verdict bs = 0) (hport : s.mn.portUp 1 = true) :
    OnWarden (.h7Answer num) s fun n =>
      n = { s.mn with svc := s.mn.svc.taken num, kr := { s.mn.kr with event := true }, absent := n.absent, lz := { s.mn.lz with
            phase := .walking, addrs := s.mn.lz.addrs ++ [ansNat bs 0x10 1 % 16], host := true
            sent := s.mn.lz.sent ++ [(1, .walk (s.mn.fld F.LANIZA_ADDR_position + 1) s.mn.lz.floorMax s.mn.lz.maxMin
              (s.mn.lz.addrs ++ [ansNat bs 0x10 1 % 16]))] } } := by
  have hpass := Main.walkPass_of_down (m := s.mn.answered num) hport (ansNat bs 0x10 1 % 16) true
  have hask' : ¬(s.mn.answered num).lz.phase ≠ .asking := not_not.2 hask
  refine onWarden_answer rfl hup ha (n := { s.mn.answered num with lz := _ }) ?take rfl fun n a hn => by subst hn; rfl
  case take =>
    simp only [hv, if_true, Main.h7Take, if_neg hask']
    exact hpass

/-! ## H8: a switch goes or is deferred -/

theorem Main.ctx_of_ctxs {m n : Main} (e : n.ctxs = m.ctxs) (c : Nat) : n.ctx c = m.ctx c := congrArg (Tab.get ctxDef · c) e

theorem Main.CtxsBut.of_ctxs {m k n : Main} {c : Nat} (h : m.CtxsBut k c) (e : n.ctxs = k.ctxs) : m.CtxsBut n c :=
  fun j hj => (Main.ctx_of_ctxs e j).trans (h j hj)

theorem Main.CtxsBut.trans {m k n : Main} {c : Nat} (h : m.CtxsBut k c) (h' : k.CtxsBut n c) : m.CtxsBut n c :=
  fun j hj => (h' j hj).trans (h j hj)

/-- A context that the answer to its switch has released (R245): it waits no more, and where the switch is dropped it does not cut in. -/
def Ctx.switchAnswered (x : Ctx) (go : Bool) : Ctx :=
  { x with state := .swappedRunnable, cause := .none, cutIn := if go then x.cutIn else false }

section
variable {m : Main} {r : HingeReq} {w : Switch} (hc : r.args.getD 0 0 = w.ctx) (hsw : m.kr.switches = [w]) (hgo : w.go = false)
  (hcause : (m.ctx w.ctx).cause = .serviceWait)
include hc hsw hgo hcause

/-- A switch that awaits H8 goes or is dropped, once its context waits no more (R245). -/
theorem Main.h8Take_of_waiting (go : Bool) :
    m.h8Take r go =
      if go then (m.setCtx w.ctx ((m.ctx w.ctx).switchAnswered true)).updSwitch w.ctx fun x => { x with go := true }
      else (m.setCtx w.ctx ((m.ctx w.ctx).switchAnswered true)).dropSwitch w.ctx := by
  have hfind : (m.kr.switches.find? fun x => x.ctx == w.ctx && !x.go) = some w := by simp [hsw, hgo]
  simp only [Main.h8Take, hc, hfind, Main.updCtx, hcause, if_true]
  rfl

/-- The only switch goes. -/
theorem Main.h8Take_go : m.h8Take r true =
    { m.setCtx w.ctx ((m.ctx w.ctx).switchAnswered true) with kr := { m.kr with switches := [{ w with go := true }] } } := by
  rw [Main.h8Take_of_waiting hc hsw hgo hcause, if_pos rfl]
  simp [Main.updSwitch, Main.setCtx, hsw]

/-- The only switch is dropped. -/
theorem Main.h8Take_defer : m.h8Take r false =
    { (m.setCtx w.ctx ((m.ctx w.ctx).switchAnswered true)).setCtx w.ctx ((m.ctx w.ctx).switchAnswered false) with
      kr := { m.kr with switches := [], event := true } } := by
  rw [Main.h8Take_of_waiting hc hsw hgo hcause, if_neg Bool.false_ne_true]
  simp [Main.dropSwitch, Main.updCtx, Main.setCtx, Main.ctx, Ctx.switchAnswered, hsw]

end

/-- H8_ANSWER to the only switch (R245): it goes, or is dropped. -/
theorem Machine.h8Answer_switch {s : State} {num : Nat} {w : Switch} {r : HingeReq} {bs : List Byte} (hup : s.wardenUp = true)
    (ha : s.mn.AnswerRead 8 num r bs) (hc : r.args.getD 0 0 = w.ctx) (hsw : s.mn.kr.switches = [w]) (hgo : w.go = false)
    (hcause : (s.mn.ctx w.ctx).cause = .serviceWait) :
    OnWarden (.h8Answer num) s fun n =>
      n = { s.mn with svc := s.mn.svc.taken num, ctxs := n.ctxs, kr := n.kr, absent := n.absent } ∧ s.mn.CtxsBut n w.ctx
        ∧ n.kr = { s.mn.kr with event := true, switches := if verdict bs = 0 then [{ w with go := true }] else [] }
        ∧ n.ctx w.ctx = (s.mn.ctx w.ctx).switchAnswered (verdict bs == 0) := by
  by_cases hv : verdict bs = 0
  case pos =>
    have htake := Main.h8Take_go (m := s.mn.answered num) hc hsw hgo hcause
    refine onWarden_answer rfl hup ha ((congrArg _ (beq_iff_eq.2 hv)).trans htake) rfl fun n a hn => ?_
    have hctxs : n.ctxs = (s.mn.setCtx w.ctx ((s.mn.ctx w.ctx).switchAnswered true)).ctxs := by subst hn; rfl
    rw [if_pos hv, beq_iff_eq.2 hv]
    exact ⟨by subst hn; rfl, (s.mn.ctxsBut_setCtx _ _).of_ctxs hctxs, by subst hn; rfl,
      (Main.ctx_of_ctxs hctxs _).trans (s.mn.ctx_setCtx_same _ _)⟩
  case neg =>
    have hv' : (verdict bs == 0) = false := beq_eq_false_iff_ne.2 hv
    have htake := Main.h8Take_defer (m := s.mn.answered num) hc hsw hgo hcause
    refine onWarden_answer rfl hup ha ((congrArg _ hv').trans htake) rfl fun n a hn => ?_
    have hctxs : n.ctxs = ((s.mn.setCtx w.ctx ((s.mn.ctx w.ctx).switchAnswered true)).setCtx w.ctx
      ((s.mn.ctx w.ctx).switchAnswered false)).ctxs := by subst hn; rfl
    rw [if_neg hv, hv']
    exact ⟨by subst hn; rfl, ((s.mn.ctxsBut_setCtx _ _).trans (Main.ctxsBut_setCtx _ _ _)).of_ctxs hctxs, by subst hn; rfl,
      (Main.ctx_of_ctxs hctxs _).trans (Main.ctx_setCtx_same _ _ _)⟩

/-! ## H9: a range is scrubbed or deferred -/

/-- H9's answer about a range of the pool or of a region: to scrub it now, or to ask again later (R302). -/
theorem Main.h9Take_of_range {m : Main} {r : HingeReq} (hr : r.args.getD 0 0 ≠ 2) (now : Bool) :
    m.h9Take r now = { m with
      h9Defer := if now then m.h9Defer else m.h9Defer ++ [r.args]
      scrubWant := if now then m.scrubWant.map fun p =>
          if r.args.getD 1 0 / 0x10000 ≤ p.1 ∧ p.1 < r.args.getD 1 0 / 0x10000 + r.args.getD 2 0 then (p.1, true) else p
        else m.scrubWant } := by
  cases now with
  | true => exact if_neg hr
  | false => rfl

/-- H9_ANSWER about a range of the pool or of a region (R302). -/
theorem Machine.h9Answer_range {s : State} {num : Nat} {r : HingeReq} {bs : List Byte} (hup : s.wardenUp = true)
    (ha : s.mn.AnswerRead 9 num r bs) (hr : r.args.getD 0 0 ≠ 2) :
    OnWarden (.h9Answer num) s fun n =>
      n = { s.mn with svc := s.mn.svc.taken num, kr := { s.mn.kr with event := true }, absent := n.absent
                      h9Defer := if verdict bs = 0 then s.mn.h9Defer else s.mn.h9Defer ++ [r.args]
                      scrubWant := if verdict bs = 0 then s.mn.scrubWant.map (fun p =>
                          if r.args.getD 1 0 / 0x10000 ≤ p.1 ∧ p.1 < r.args.getD 1 0 / 0x10000 + r.args.getD 2 0
                          then (p.1, true) else p)
                        else s.mn.scrubWant } := by
  have htake := Main.h9Take_of_range (m := s.mn.answered num) hr (verdict bs == 0)
  simp only [beq_iff_eq] at htake
  exact onWarden_answer rfl hup ha htake rfl fun n a hn => by subst hn; rfl

/-- Settles O32: the answers of H3, H4, H5, H7, H8 and H9, each by the lemma of its command. -/
theorem otherAnswersAreTaken : Obligations.OtherAnswersAreTaken := by
  refine ⟨?h3, ?h4, ?h5, ?h7, ?h8, ?h9⟩
  case h3 =>
    rintro s num _ _ _ r bs hup ha rfl rfl rfl hl hv
    exact h3Answer_scales hup ha hl hv
  case h4 =>
    intro s num blk e mm r bs j d f t hup ha hr hj hd hlen hf hs hb he hv ht hok
    exact h4Answer_lastTable hup ha hr hj hd hlen hf hs hb he hv ht hok
  case h5 =>
    intro s num k g tries ch rest r bs hup ha hk hg ht hst hx hs hv
    exact h5Answer_source hup ha hk hg ht hst hx hs hv
  case h7 =>
    rintro s num _ r bs hup ha hask hv rfl hport
    exact h7Answer_walks hup ha hask hv hport
  case h8 =>
    rintro s num _ w r bs hup ha hc hsw rfl hgo - hcause
    have hswitch := h8Answer_switch hup ha hc hsw hgo hcause
    simp only [Ctx.switchAnswered, beq_iff_eq] at hswitch
    exact hswitch
  case h9 =>
    rintro s num _ _ r bs hup ha hr rfl rfl
    exact h9Answer_range hup ha hr

end Sys2Proof
end

section
/-! SUPPORT AND PROOF. Events logged, and a tier-3 read that fails (spec/20_faults.md R434, R447, spec/06_memory_tiers.md R134):
what the error log and the strikes it fires leave alone, and what a slot that may fire does to its running plan. -/

namespace Sys2Proof
open Machine

/-! ## An event logged -/

/-- From `m` to `n` the strike unit and the counters may differ, and nothing else (R449, R454). -/
def Main.Struck (m n : Main) : Prop := ∃ k c, n = { m with strk := k, ctr := c }

theorem Main.struck_refl (m : Main) : m.Struck m := ⟨m.strk, m.ctr, rfl⟩

theorem Main.struck_setStrk (m : Main) (k : Strike) : m.Struck { m with strk := k } := ⟨k, m.ctr, rfl⟩

theorem Main.Struck.trans {m k n : Main} (h : m.Struck k) (h' : k.Struck n) : m.Struck n := by
  obtain ⟨_, _, rfl⟩ := h
  obtain ⟨a, b, rfl⟩ := h'
  exact ⟨a, b, rfl⟩

theorem Main.struck_latchSnap (m : Main) (code hop origin source : Nat) (body : List Byte) (ctrs : Tab Nat) :
    m.Struck (m.latchSnap code hop origin source body ctrs) := by
  unfold Main.latchSnap
  dsimp only
  split
  case isTrue => exact m.struck_refl
  case isFalse => split <;> exact ⟨_, _, rfl⟩

theorem Main.struck_latchOrigin (m : Main) (src origin : Nat) : m.Struck (m.latchOrigin src origin) := by
  unfold Main.latchOrigin
  split
  case isTrue => exact m.struck_refl
  case isFalse => exact m.struck_latchSnap _ _ _ _ _ _

/-- A strike that is off, joins a wave, is missed or fires: each time the strike unit and the counters alone change (R447 to R449). -/
theorem Main.struck_strike (m : Main) (src origin : Nat) : m.Struck (m.strike src origin) := by
  unfold Main.strike
  dsimp only
  split
  case isTrue => exact m.struck_refl
  split
  case isTrue =>
    split
    case isTrue => exact (m.struck_setStrk _).trans (Main.struck_latchOrigin _ _ _)
    case isFalse => exact m.struck_latchOrigin _ _
  split
  case isTrue => exact m.struck_setStrk _
  case isFalse => exact (m.struck_setStrk _).trans (Main.struck_latchOrigin _ _ _)

/-- An event logged takes the next index; but for the log, the strike unit and the counters nothing changes (R434, R447). -/
theorem Main.logErr_eq (m : Main) (e : ErrArgs) :
    ∃ g k c, m.logErr e = { m with err := g, strk := k, ctr := c } ∧ g.next = nextIndex m.err.next := by
  unfold Main.logErr
  extract_lets g n old logged fires struck
  obtain ⟨k, c, hstruck⟩ := logged.struck_strike 3 e.island
  change struck = _ at hstruck
  rw [hstruck]
  split <;> exact ⟨_, _, c, rfl, rfl⟩

/-- The record of a refused read of host memory is an event logged (Table 20-3, code 0x16). -/
theorem Main.logDma_eq (m : Main) (c status opcode addr : Nat) :
    ∃ g k t, m.logDma c status opcode addr = { m with err := g, strk := k, ctr := t } ∧ g.next = nextIndex m.err.next :=
  m.logErr_eq _

/-! ## A slot that fires -/

/-- The next slot of a resource's list, when it may fire and no memory error meets it: its work is done, its list advances and its tokens
are released and signalled (R23, R85, R87). -/
theorem Main.fireSlot_of_ready {m n : Main} {lead : Nat} {r : Resource} {w : SlotWork} {p : ListPos} {b : Bitting} {e : Entry}
    (hready : m.SlotReady lead r w p b e) (hwin : ∀ o f zp op kxi chan a ws sw, w ≠ .winSlice o f zp op kxi chan a ws sw)
    (hwork : m.doWork Main.camStep lead r w (decide (p.left ≤ 1)) = .done n) :
    m.fireSlot Main.camStep lead r w [] = .next (n.setInst lead ((n.inst lead).fired r p b e)) := by
  obtain ⟨hlist, hbit, hent, hlive, hend, hstop, hhold, hload, hfit, hop, hchan, -, hwards, hA, hB, hS, hguard⟩ := hready
  simp only [Main.fireSlot, hlist, hbit, hent, hlive, hend, hstop, hhold, hload, hfit, hop, hchan, hwards, hA, hB, hS, hguard, hwork,
    expanderWait, List.findSome?_nil, List.isEmpty_nil, List.foldl_nil, Bool.not_true, Bool.or_false, Bool.and_false,
    Bool.and_true, Bool.false_eq_true, if_false]
  rfl

/-- SLOT_FIRE or a tier-3 read's end while no block reset asks for idle: what the slot leaves is known but for the islands absent. -/
theorem Machine.onWarden_fire {c : Instr} {s : State} {lead : Nat} {r : Resource} {w : SlotWork} {n : Main} {P : Main → Prop}
    (e : exec c s = s.fire lead r w []) (hup : s.wardenUp = true) (hblk : s.rc.blk = none)
    (hf : s.mn.fireSlot Main.camStep lead r w [] = .next n) (hq : n.hq = s.mn.hq) (p : ∀ k a, k = { n with absent := a } → P k) :
    OnWarden c s P := by
  refine ⟨_, ?_, p _ (State.absentNow { s with mn := n }) rfl⟩
  simp only [e, State.fire, hblk, hup, hf, Main.lapseNew_none n s.mn (congrArg List.length hq).le]
  rfl

/-! ## Bytes of every memory -/

/-- A write at a place changes memories alone. -/
theorem Main.write_eq (m : Main) (r : Ref) (bs : List Byte) :
    ∃ h t u v, m.write r bs = { m with host := h, stack := t, sp := u, ws := v } := by
  obtain ⟨j, a⟩ := r
  cases j <;> exact ⟨_, _, _, _, rfl⟩

/-- Two machines with the same memories hold the same bytes. -/
theorem Main.byteAt_congr {m n : Main} (hhost : n.host = m.host) (hstack : n.stack = m.stack) (hsp : n.sp = m.sp) (hws : n.ws = m.ws)
    (k : MemSel) (a : Nat) : n.byteAt k a = m.byteAt k a := by
  cases k <;> simp only [Main.byteAt, hhost, hstack, hsp, hws]

/-- Every place that the work of a slot that may fire names exists. -/
theorem Main.workOk_of_slotReady {m : Main} {lead : Nat} {r : Resource} {w : SlotWork} {p : ListPos} {b : Bitting} {e : Entry}
    (h : m.SlotReady lead r w p b e) : m.workOk lead (resCyl r) (tumNo r) w = true := by
  obtain ⟨-, -, -, -, -, -, -, -, -, -, -, hok, -⟩ := h
  exact hok

/-- Each place that a slot is to write exists, where its work names only places that do. -/
theorem Main.refOk_of_workOk {m : Main} {lead cyl t : Nat} {w : SlotWork} {q : Ref × Nat} (h : m.workOk lead cyl t w = true)
    (hq : q ∈ m.workWrites lead cyl w) : refOk q.1 q.2 = true := by
  obtain ⟨hplaces, -⟩ := Bool.and_eq_true_iff.1 h
  exact List.all_eq_true.1 hplaces q hq

/-! ## A tier-3 read that fails -/

/-- Zeros stand where the bytes would have, after an error record, and the members served are faulted with its index (R134). -/
theorem Main.tier3BadWork_of_served {m : Main} {lead : Nat} {ms : List Nat}
    (h : ((m.inst lead).members.any fun x => ms.contains x.berth) = true) (k : Nat) (dst : Ref) :
    ∃ g j c, g.next = nextIndex m.err.next ∧ m.tier3BadWork lead ms k dst =
      (({ m with err := g, strk := j, ctr := c } : Main).write dst (List.replicate k 0#8)).setInst lead
        (faultMembers (some ms) stProtection m.err.next (m.inst lead)) := by
  obtain ⟨x, hx⟩ := Option.isSome_iff_exists.1 ((List.find?_isSome.trans List.any_eq_true.symm).2 h)
  obtain ⟨g, j, c, hlog, hnext⟩ := m.logDma_eq x.ctx stProtection 1 (m.bufferOf x false)
  refine ⟨g, j, c, hnext, ?_⟩
  have hinst : (({ m with err := g, strk := j, ctr := c } : Main).write dst (List.replicate k 0#8)).inst lead = m.inst lead := by
    obtain ⟨_, _, _, _, hwrite⟩ := ({ m with err := g, strk := j, ctr := c } : Main).write_eq dst (List.replicate k 0#8)
    rw [hwrite]; rfl
  simp only [Main.tier3BadWork, hx, hlog, hinst]

theorem Main.doWork_tier3Bad {m : Main} {lead k : Nat} {w : Fin 16} {ms : List Nat} {dst : Ref}
    (hok : m.workOk lead (resCyl (.ring w)) (tumNo (.ring w)) (.tier3Bad ms k dst) = true) (last : Bool) :
    m.doWork Main.camStep lead (.ring w) (.tier3Bad ms k dst) last = .done (m.tier3BadWork lead ms k dst) := by
  simp only [Main.doWork, hok, Bool.not_true, Bool.false_eq_true, if_false]

/-- TIER3_READ_TIMEOUT of a read that serves a member (R134). -/
theorem Machine.tier3ReadTimeout_zeros {s : State} {lead w : Fin 16} {ms : List Nat} {dst : Ref} {k : Nat} {p : ListPos} {b : Bitting}
    {e : Entry} (hup : s.wardenUp = true) (hblk : s.rc.blk = none)
    (hready : s.mn.SlotReady lead.val (.ring w) (.tier3Bad ms k dst) p b e)
    (hms : ((s.mn.inst lead.val).members.any fun x => ms.contains x.berth) = true) :
    OnWarden (.tier3ReadTimeout lead (.ring w) ms dst k) s fun n =>
      n = { s.mn with err := n.err, strk := n.strk, ctr := n.ctr, host := n.host, stack := n.stack, sp := n.sp, ws := n.ws
                      insts := n.insts, absent := n.absent }
        ∧ n.bytesAt dst k = List.replicate k 0#8 ∧ s.mn.BytesBut n dst k ∧ n.err.next = nextIndex s.mn.err.next
        ∧ s.mn.InstsBut n lead.val
        ∧ n.inst lead.val = (faultMembers (some ms) stProtection s.mn.err.next (s.mn.inst lead.val)).fired (.ring w) p b e := by
  have hok := Main.workOk_of_slotReady hready
  obtain ⟨g, j, c, hnext, hbad⟩ := Main.tier3BadWork_of_served hms k dst
  have hfire := Main.fireSlot_of_ready hready (by simp) (Main.doWork_tier3Bad hok _)
  rw [hbad, Main.inst_setInst_same] at hfire
  have hplace : refOk dst (List.replicate k 0#8).length = true := by
    rw [List.length_replicate]
    exact Main.refOk_of_workOk hok (q := (dst, k)) List.mem_cons_self
  have hin := Main.bytesAt_write { s.mn with err := g, strk := j, ctr := c } dst _ hplace
  have hout := Main.byteAt_write_out { s.mn with err := g, strk := j, ctr := c } dst (List.replicate k 0#8)
  rw [List.length_replicate] at hin hout hplace
  obtain ⟨h, t, u, v, hwrite⟩ := Main.write_eq { s.mn with err := g, strk := j, ctr := c } dst (List.replicate k 0#8)
  generalize Main.write { s.mn with err := g, strk := j, ctr := c } dst (List.replicate k 0#8) = x at hfire hin hout hwrite
  refine onWarden_fire rfl hup hblk hfire (by subst hwrite; rfl) fun n ab hn => ?_
  have hbyte (q : MemSel) (a : Nat) : n.byteAt q a = x.byteAt q a :=
    Main.byteAt_congr (by subst hn; rfl) (by subst hn; rfl) (by subst hn; rfl) (by subst hn; rfl) q a
  refine ⟨by subst hn hwrite; rfl, ?zeros, ?bytes, ?next, ?insts, ?fired⟩
  case zeros => exact (List.map_congr_left fun i _ => hbyte _ _).trans hin
  case bytes => exact fun q a ha h => (hbyte q a).trans ((hout q a hplace ha h).trans (Main.byteAt_congr rfl rfl rfl rfl q a))
  case next => subst hn hwrite; exact hnext
  case insts =>
    intro i hi
    have hn' : n.inst i = x.inst i := by
      subst hn
      exact (Main.inst_setInst_other _ _ _ _ hi).trans (Main.inst_setInst_other _ _ _ _ hi)
    rw [hn', hwrite]; rfl
  case fired => subst hn; exact Main.inst_setInst_same _ _ _

/-- Settles O13: the slot that waits for the read fires with zeros, an error record and the members' faults. -/
theorem failedTier3ReadGivesZeros : Obligations.FailedTier3ReadGivesZeros :=
  fun _ _ _ _ _ _ _ _ _ hup hblk hready hms => tier3ReadTimeout_zeros hup hblk hready hms

end Sys2Proof
end

section
/-! SUPPORT AND PROOF. Regions of stacked memory (spec/06_memory_tiers.md R132, R137, R144 to R147): the pieces of State that their commands
share, and an equation for each of a load's and of a refetch's steps. -/

namespace Sys2Proof
open Machine

/-! ## Pieces of State -/

section
variable {m n : Main} {r : Nat} {x : Region}

theorem Main.region_of_put (e : n.regions = Tab.put regionDef r x m.regions) : n.region r = x := by
  rw [Main.region, e, Tab.get_put_same]

theorem Main.regionsBut_of_put (e : n.regions = Tab.put regionDef r x m.regions) : m.RegionsBut n r := by
  intro j hj
  rw [Main.region, e, Tab.get_put_other _ _ _ _ _ hj, Main.region]

end

namespace Machine

/-- An effect of the Warden's side that raises no request, while it is up, whose result is known but for the islands absent. -/
theorem onWarden_lapse {c : Instr} {s : State} {f : Main → Main} {n : Main} {P : Main → Prop}
    (e : exec c s = .next (s.warden fun m => (f m).lapseNew m)) (hup : s.wardenUp = true) (hf : f s.mn = n) (hq : n.hq = s.mn.hq)
    (p : ∀ k a, k = { n with absent := a } → P k) : OnWarden c s P :=
  onWarden_eq e hup ((congrArg (·.lapseNew s.mn) hf).trans (Main.lapseNew_none n s.mn (congrArg List.length hq).le)) p

end Machine

/-- A change of every entry that keeps the default changes what every number reads. -/
theorem Tab.get_map {α : Type} (d : Nat → α) (f : α → α) (t : Tab α) (k : Nat) (h : f (d k) = d k) :
    Tab.get d (t.map fun p => (p.1, f p.2)) k = f (Tab.get d t k) := by
  induction t with
  | nil => exact h.symm
  | cons p t ih =>
    simp only [List.map_cons, Tab.get, ih]
    split <;> rfl

@[simp] theorem Mem.rdN_length (m : Mem) (a n : Nat) : (m.rdN a n).length = n := by simp [Mem.rdN]

/-- A read of a range that a write does not meet. -/
theorem Mem.rdN_wrN_out (m : Mem) (a c n : Nat) (bs : List Byte) (h : c + n ≤ a ∨ a + bs.length ≤ c) :
    (Mem.wrN a bs m).rdN c n = m.rdN c n := by
  refine List.map_congr_left fun i hi => Mem.rd_wrN_out _ _ _ _ ?_
  have := List.mem_range.1 hi
  omega

theorem Main.bytesAt_stack (m : Main) (a n : Nat) : m.bytesAt ⟨.stack, a⟩ n = m.stack.rdN a n := rfl

theorem Main.putRegion_eq (m : Main) (r : Nat) (x : Region) :
    ∃ u, m.putRegion r x = { m with host := u, regions := Tab.put regionDef r x m.regions } := ⟨_, rfl⟩

/-! ## Loads -/

/-- A granule of the golden copy that may be read stands in the region, with its check-tail CRC (R137). -/
theorem Main.loadRead_of_allowed {m : Main} {r c : Nat} {x : Region} {bs : List Byte} (hx : m.region r = x) (hst : x.st = .loading)
    (hc : x.ctx = some c) (hopen : x.openOnly = false) (hmore : x.loaded < x.size / 4096)
    (hbs : bs = m.tenantRd x.pasid (x.golden + 4096 * x.loaded) 4096)
    (hdma : m.dmaOk x.pasid (x.golden + 4096 * x.loaded) 4096 = true) :
    m.loadRead r = { m with
      stack := Mem.wrN (tailAddr x x.loaded) (leBytes 4 (crc32c bs)) (Mem.wrN (x.base + 4096 * x.loaded) bs m.stack)
      regions := Tab.put regionDef r { x with loaded := x.loaded + 1 } m.regions } := by
  simp only [Main.loadRead, hx, hst, hc, hopen, hdma, ← hbs, ne_eq, not_true_eq_false, Option.isNone_some,
    Bool.false_eq_true, Nat.not_le.2 hmore, or_self, Bool.not_true, Bool.false_and, if_false]
  rfl

/-- LOAD_ENGINE_READ of a LOAD from a golden copy (R132, R137). -/
theorem Machine.loadEngineRead_fills {s : State} {r : Fin 8192} {x : Region} {c : Nat} {bs : List Byte} (hup : s.wardenUp = true)
    (hx : s.mn.region r.val = x) (hst : x.st = .loading) (hc : x.ctx = some c) (hopen : x.openOnly = false)
    (hmore : x.loaded < x.size / 4096) (hbs : bs = s.mn.tenantRd x.pasid (x.golden + 4096 * x.loaded) 4096)
    (hdma : s.mn.dmaOk x.pasid (x.golden + 4096 * x.loaded) 4096 = true) :
    OnWarden (.loadEngineRead r) s fun n => n = { s.mn with stack := n.stack, regions := n.regions, absent := n.absent }
      ∧ s.mn.RegionsBut n r.val ∧ n.region r.val = { x with loaded := x.loaded + 1 }
      ∧ n.stack.rdN (x.base + 4096 * x.loaded) 4096 = bs ∧ n.stack.rdN (tailAddr x x.loaded) 4 = leBytes 4 (crc32c bs) := by
  refine onWarden_lapse rfl hup (Main.loadRead_of_allowed hx hst hc hopen hmore hbs hdma) rfl fun n a hn => ?_
  have hregions : n.regions = Tab.put regionDef r.val { x with loaded := x.loaded + 1 } s.mn.regions := by subst hn; rfl
  have hstack : n.stack = Mem.wrN (tailAddr x x.loaded) (leBytes 4 (crc32c bs)) (Mem.wrN (x.base + 4096 * x.loaded) bs s.mn.stack) := by
    subst hn; rfl
  have hlen : bs.length = 4096 := by rw [hbs]; exact Mem.rdN_length _ _ _
  refine ⟨by subst hn; rfl, Main.regionsBut_of_put hregions, Main.region_of_put hregions, ?granule, ?tail⟩
  case granule =>
    have hbefore : x.base + 4096 * x.loaded + 4096 ≤ tailAddr x x.loaded := by unfold tailAddr; omega
    rw [hstack, Mem.rdN_wrN_out _ _ _ _ _ (.inl hbefore), ← hlen]
    exact Mem.rdN_wrN _ _ _
  case tail =>
    have hread := Mem.rdN_wrN (Mem.wrN (x.base + 4096 * x.loaded) bs s.mn.stack) (tailAddr x x.loaded) (leBytes 4 (crc32c bs))
    rwa [leBytes_length, ← hstack] at hread

/-- A descriptor that completes once a region is set, with its journal record: host memory, contexts and that region change (R137, R274). -/
theorem Main.completeHead_putRegion {m : Main} {c r st res det : Nat} {d : Desc} {q : List Desc} (x : Region)
    (hq : (m.ctx c).queue = d :: q) (hp : ∀ e ∈ q.head?, e.protErr = none) (hi : (m.ctx c).irqArmed = false) :
    ∃ u k, (m.putRegion r x).completeHead c st 0 res det = { m with
        host := u, ctxs := k, regions := Tab.put regionDef r x m.regions }
      ∧ m.Completed { m with host := u, ctxs := k } c d q st 0 res det := by
  obtain ⟨v, hput⟩ := m.putRegion_eq r x
  obtain ⟨⟨u, k, hn⟩, -⟩ := (m.putRegion r x).completeHead_spec c d q st 0 res det (hput ▸ hq) hp (hput ▸ hi)
  have hdone := (m.putRegion r x).completeHead_completed c d q st 0 res det (hput ▸ hq) hp (hput ▸ hi)
  rw [hn] at hdone
  rw [hput] at hn hdone
  rw [hput]
  exact ⟨u, k, hn, hdone.congr rfl rfl fun _ => rfl⟩

/-- A loaded region is SEALED and its LOAD completes with its number (R137). -/
theorem Main.regionSeal_of_loaded {m : Main} {r c : Nat} {x : Region} (hx : m.region r = x) (hst : x.st = .loading)
    (hall : x.size / 4096 ≤ x.loaded) (hc : x.ctx = some c) :
    m.regionSeal r = { (m.putRegion r { x with st := .sealed, ctx := none, openOnly := false }).completeHead c stDone 0 r 0 with
      kr := { ((m.putRegion r { x with st := .sealed, ctx := none, openOnly := false }).completeHead c stDone 0 r 0).kr with
        event := true } } := by
  simp only [Main.regionSeal, Main.setupDone, hx, hst, hc, Nat.not_lt.2 hall, ne_eq, not_true_eq_false, or_self, if_false]

/-- REGION_SEAL of a loaded region (R137). -/
theorem Machine.regionSeal_completes {s : State} {r : Fin 8192} {x : Region} {c : Nat} {d : Desc} {q : List Desc}
    (hup : s.wardenUp = true) (hx : s.mn.region r.val = x) (hst : x.st = .loading) (hall : x.size / 4096 ≤ x.loaded)
    (hc : x.ctx = some c) (hq : (s.mn.ctx c).queue = d :: q) (hp : ∀ e ∈ q.head?, e.protErr = none)
    (hi : (s.mn.ctx c).irqArmed = false) :
    OnWarden (.regionSeal r) s fun n =>
      n = { s.mn with ctxs := n.ctxs, host := n.host, regions := n.regions, kr := { s.mn.kr with event := true }, absent := n.absent }
        ∧ s.mn.RegionsBut n r.val ∧ n.region r.val = { x with st := .sealed, ctx := none, openOnly := false }
        ∧ s.mn.Completed n c d q stDone 0 r.val 0 := by
  obtain ⟨u, k, hn, hdone⟩ := Main.completeHead_putRegion (r := r.val) (st := stDone) (res := r.val) (det := 0)
    { x with st := .sealed, ctx := none, openOnly := false } hq hp hi
  have hseal := Main.regionSeal_of_loaded hx hst hall hc
  rw [hn] at hseal
  refine onWarden_lapse rfl hup hseal rfl fun n a hn => ?_
  have hregions : n.regions = Tab.put regionDef r.val { x with st := .sealed, ctx := none, openOnly := false } s.mn.regions := by
    subst hn; rfl
  exact ⟨by subst hn; rfl, Main.regionsBut_of_put hregions, Main.region_of_put hregions,
    hdone.congr rfl (by subst hn; rfl) fun j => by subst hn; rfl⟩

/-- A load that the host does not serve in time leaves its region FREE, and its LOAD fails (R137). -/
theorem Main.loadTimeout_of_loading {m : Main} {r c : Nat} {x : Region} (hx : m.region r = x) (hst : x.st = .loading)
    (hc : x.ctx = some c) : m.loadTimeout r false = (m.putRegion r {}).completeHead c stMemory 0 0 0 := by
  simp only [Main.loadTimeout, Main.loadFail, Main.setupFail, hx, hst, hc, ne_eq, not_true_eq_false, Option.isNone_some,
    Bool.false_eq_true, or_self, if_false]

/-- LOAD_TIMEOUT of a load that the host did not refuse (R137). -/
theorem Machine.loadTimeout_frees {s : State} {r : Fin 8192} {x : Region} {c : Nat} {d : Desc} {q : List Desc}
    (hup : s.wardenUp = true) (hx : s.mn.region r.val = x) (hst : x.st = .loading) (hc : x.ctx = some c)
    (hq : (s.mn.ctx c).queue = d :: q) (hp : ∀ e ∈ q.head?, e.protErr = none) (hi : (s.mn.ctx c).irqArmed = false) :
    OnWarden (.loadTimeout r false) s fun n =>
      n = { s.mn with ctxs := n.ctxs, host := n.host, regions := n.regions, absent := n.absent } ∧ s.mn.RegionsBut n r.val
        ∧ n.region r.val = {} ∧ s.mn.Completed n c d q stMemory 0 0 0 := by
  obtain ⟨u, k, hn, hdone⟩ := Main.completeHead_putRegion (r := r.val) (st := stMemory) (res := 0) (det := 0) {} hq hp hi
  refine onWarden_eq rfl hup ((Main.loadTimeout_of_loading hx hst hc).trans hn) fun n a hn => ?_
  have hregions : n.regions = Tab.put regionDef r.val {} s.mn.regions := by subst hn; rfl
  exact ⟨by subst hn; rfl, Main.regionsBut_of_put hregions, Main.region_of_put hregions,
    hdone.congr rfl (by subst hn; rfl) fun j => by subst hn; rfl⟩

/-- Settles O25: a granule loaded, the region sealed, and a load timed out, each by the lemma of its command. -/
theorem loadsFillAndSeal : Obligations.LoadsFillAndSeal :=
  ⟨fun _ _ _ _ _ hup hx hst hc hopen hmore hbs hdma => loadEngineRead_fills hup hx hst hc hopen hmore hbs hdma,
    fun _ _ _ _ _ _ hup hx hst hall hc hq hp hi => regionSeal_completes hup hx hst hall hc hq hp hi,
    fun _ _ _ _ _ _ hup hx hst hc hq hp hi => loadTimeout_frees hup hx hst hc hq hp hi⟩

/-! ## Holds -/

/-- A hinge that is not host-assisted swings to the hardware's side (R295). -/
theorem Main.assisted_swing_off {m : Main} (h : Nat) (hoff : m.fld F.HINGE_CTL_assist = 0) : (m.swing h).assisted h = false := by
  have hin : F.HINGE_NOW_in_force.In := by constructor <;> decide
  have hlt : m.fld F.HINGE_NOW_in_force < 2 ^ F.HINGE_NOW_in_force.width := Nat.mod_lt _ (by decide)
  obtain ⟨a, b, hsplit, hb⟩ := word_parts (m.fld F.HINGE_NOW_in_force) (h - 1) 1
  generalize hnow : m.fld F.HINGE_NOW_in_force = now at hlt hsplit
  have hcut : now - now / 2 ^ (h - 1) % 2 * 2 ^ (h - 1) = 2 ^ (h - 1) * (2 * a) + b := by
    rw [pow_one, pow_succ] at hsplit
    have : a * (2 ^ (h - 1) * 2) = 2 ^ (h - 1) * (2 * a) := by ring
    omega
  have hfld : (m.swing h).fld F.HINGE_NOW_in_force = 2 ^ (h - 1) * (2 * a) + b := by
    rw [Main.swing, Main.fld_setFld_same _ _ _ hin, hoff, hnow]
    simp only [Nat.zero_div, Nat.zero_mod, Nat.zero_mul, Nat.add_zero, hcut]
    exact Nat.mod_eq_of_lt (by omega)
  have hbit : (2 ^ (h - 1) * (2 * a) + b) / 2 ^ (h - 1) % 2 = 0 := by
    rw [Nat.mul_add_div (by positivity), Nat.div_eq_of_lt hb]
    omega
  rw [Main.assisted, hfld, hbit]
  rfl

theorem Main.askSource_of_hardware {m : Main} {r : Nat} (h : (m.region r).assisted = false) : m.askSource r = m := by
  unfold Main.askSource
  dsimp only
  split
  case h_1 => simp only [h, Bool.false_eq_true, if_false]
  case h_2 => rfl

/-- A SEALED region with an uncorrectable line, met by no running plan's slot: the hardware is to refetch the granule from the golden copy
(R144, orders 1 and 2). -/
theorem Main.holdBegin_of_sealed {m : Main} {r g ch : Nat} {x : Region} (hx : m.region r = x) (hst : x.st = .sealed)
    (hre : x.refetch = []) (hoff : m.fld F.HINGE_CTL_assist = 0) :
    ∃ l k c u, l.next = nextIndex m.err.next ∧ m.holdBegin r g ch none = { m with
      regs := (m.swing 5).regs, err := l, strk := k, ctr := c, host := u
      regions := Tab.put regionDef r { x with st := .held, assisted := false, refetch := [(g, 0, ch)] } m.regions } := by
  obtain ⟨l, k, c, hlog, hnext⟩ := (m.swing 5).logErr_eq
    { code := 0x31, step := m.kr.step, extra := r, aux1 := g, aux2 := ch, pasid := x.pasid, island := 0xA0 + ch / 32 }
  have hassist : ({ m.swing 5 with err := l, strk := k, ctr := c } : Main).assisted 5 = false := Main.assisted_swing_off 5 hoff
  obtain ⟨u, hput⟩ := Main.putRegion_eq { m.swing 5 with err := l, strk := k, ctr := c } r
    { x with st := .held, assisted := false, refetch := [(g, 0, ch)] }
  have hask (n : Main) (hn : n.regions = Tab.put regionDef r { x with st := .held, assisted := false, refetch := [(g, 0, ch)] } m.regions) :
      n.askSource r = n := Main.askSource_of_hardware (by rw [Main.region_of_put hn])
  refine ⟨l, k, c, u, hnext, ?_⟩
  have hstep : (m.swing 5).kr.step = m.kr.step := rfl
  simp only [Main.holdBegin, hx, hst, hre, hstep, hlog, hassist, List.any_nil, Bool.not_false, List.nil_append, List.isEmpty_nil, if_true,
    ne_eq, not_true_eq_false, false_and, if_false, hput]
  exact hask _ rfl

/-- HOLD_BEGIN at a SEALED region while no hinge is host-assisted (R144, orders 1 and 2). -/
theorem Machine.holdBegin_holds {s : State} {r : Fin 8192} {g : Nat} {ch : Fin 64} {x : Region} (hup : s.wardenUp = true)
    (hx : s.mn.region r.val = x) (hst : x.st = .sealed) (hre : x.refetch = []) (hoff : s.mn.fld F.HINGE_CTL_assist = 0) :
    OnWarden (.holdBegin r g ch none) s fun n =>
      n = { s.mn with regs := n.regs, err := n.err, strk := n.strk, ctr := n.ctr, regions := n.regions, host := n.host, absent := n.absent }
        ∧ s.mn.RegsBut n [F.HINGE_NOW_in_force.off] ∧ n.err.next = nextIndex s.mn.err.next ∧ s.mn.RegionsBut n r.val
        ∧ n.region r.val = { x with st := .held, assisted := false, refetch := [(g, 0, ch.val)] } := by
  obtain ⟨l, k, c, u, hnext, hhold⟩ := Main.holdBegin_of_sealed (g := g) (ch := ch.val) hx hst hre hoff
  refine onWarden_lapse rfl hup hhold rfl fun n a hn => ?_
  have hregs : n.regs = (s.mn.swing 5).regs := by subst hn; rfl
  have hregions : n.regions
      = Tab.put regionDef r.val { x with st := .held, assisted := false, refetch := [(g, 0, ch.val)] } s.mn.regions := by subst hn; rfl
  refine ⟨by subst hn; rfl, fun o ho => ?_, by subst hn; exact hnext, Main.regionsBut_of_put hregions, Main.region_of_put hregions⟩
  exact (congrArg (Tab.get regReset · o) hregs).trans (Main.regsBut_setFld s.mn F.HINGE_NOW_in_force _ o ho)

/-! ## Refetches -/

/-- A granule that arrives from the golden copy and matches its check tail is written; its verify read is due (R144, orders 5 to 7). -/
theorem Main.refetchArrival_of_match {m : Main} {r g k ch : Nat} {x : Region} {rest : List (Nat × Nat × Nat)} {bs : List Byte}
    (hx : m.region r = x) (hst : x.st = .held) (hre : x.refetch = (g, k, ch) :: rest) (hw : x.written = false)
    (hhw : x.assisted = false) (hsrc : x.source = none) (hbs : bs = m.tenantRd x.pasid (x.golden + 4096 * g) 4096)
    (hdma : m.dmaOk x.pasid (x.golden + 4096 * g) 4096 = true) (hcrc : crc32c bs = leNat (m.stack.rdN (tailAddr x g) 4)) :
    m.refetchArrival r true false = { m with
      stack := Mem.wrN (x.base + 4096 * g) bs m.stack, regions := Tab.put regionDef r { x with written := true } m.regions } := by
  simp only [Main.refetchArrival, hx, hre, hst, hw, hhw, hsrc, Option.getD_none, hdma, ← hbs, hcrc, Main.bytesAt_stack, ne_eq,
    not_true_eq_false, Bool.false_eq_true, false_and, or_self, Bool.not_true, if_false]
  rfl

/-- REFETCH_GRANULE_ARRIVAL of a granule that matches (R144, orders 5 to 7). -/
theorem Machine.refetchGranuleArrival_writes {s : State} {r : Fin 8192} {g k ch : Nat} {x : Region} {rest : List (Nat × Nat × Nat)}
    {bs : List Byte} (hup : s.wardenUp = true) (hx : s.mn.region r.val = x) (hst : x.st = .held) (hre : x.refetch = (g, k, ch) :: rest)
    (hw : x.written = false) (hhw : x.assisted = false) (hsrc : x.source = none)
    (hbs : bs = s.mn.tenantRd x.pasid (x.golden + 4096 * g) 4096) (hdma : s.mn.dmaOk x.pasid (x.golden + 4096 * g) 4096 = true)
    (hcrc : crc32c bs = leNat (s.mn.stack.rdN (tailAddr x g) 4)) :
    OnWarden (.refetchGranuleArrival r true false) s fun n =>
      n = { s.mn with stack := n.stack, regions := n.regions, absent := n.absent } ∧ s.mn.RegionsBut n r.val
        ∧ n.region r.val = { x with written := true } ∧ n.stack.rdN (x.base + 4096 * g) 4096 = bs
        ∧ s.mn.stack.But n.stack (x.base + 4096 * g) 4096 := by
  refine onWarden_lapse rfl hup (Main.refetchArrival_of_match hx hst hre hw hhw hsrc hbs hdma hcrc) rfl fun n a hn => ?_
  have hregions : n.regions = Tab.put regionDef r.val { x with written := true } s.mn.regions := by subst hn; rfl
  have hstack : n.stack = Mem.wrN (x.base + 4096 * g) bs s.mn.stack := by subst hn; rfl
  have hlen : bs.length = 4096 := by rw [hbs]; exact Mem.rdN_length _ _ _
  have hread := Mem.rdN_wrN s.mn.stack (x.base + 4096 * g) bs
  have hbut := s.mn.stack.but_wrN (x.base + 4096 * g) bs
  rw [← hstack, hlen] at hread hbut
  exact ⟨by subst hn; rfl, Main.regionsBut_of_put hregions, Main.region_of_put hregions, hread, hbut⟩

/-- No FREE waits for a region while no context is at work on a descriptor (R138). -/
theorem Main.freeWaiters_of_idle {m : Main} (r : Nat) (h : ∀ p ∈ m.ctxs, p.2.busy = false) : m.freeWaiters r = m := by
  have hnone (f : Nat × Ctx → Bool) : (m.ctxs.filter fun p => p.2.busy && f p) = [] :=
    List.filter_eq_nil_iff.2 fun p hp => by simp [h p hp]
  unfold Main.freeWaiters
  extract_lets waiters
  have hwaiters : waiters = [] := hnone _
  rw [hwaiters]
  rfl

/-- A running plan that waits for region `r` no more (R146). -/
def Inst.lifted (r : Nat) (i : Inst) : Inst := { i with heldRegions := i.heldRegions.erase r }

/-- A clean verify read of the last granule seals the region again and lets the running plans that wait for it go on (R144, orders 8
and 9, R146). -/
theorem Main.refetchVerify_of_last {m : Main} {r g k ch : Nat} {x : Region} (hx : m.region r = x) (hst : x.st = .held)
    (hre : x.refetch = [(g, k, ch)]) (hw : x.written = true)
    (hcrc : crc32c (m.stack.rdN (x.base + 4096 * g) 4096) = leNat (m.stack.rdN (tailAddr x g) 4))
    (hidle : ∀ p ∈ m.ctxs, p.2.busy = false) :
    ∃ u, m.refetchVerify r true = { m with
      host := u, ctr := (m.count 0x22 0 1).ctr, kr := { m.kr with event := true }
      regions := Tab.put regionDef r { x with st := .sealed, refetch := [], written := false, source := none } m.regions
      insts := m.insts.map fun p => (p.1, p.2.lifted r) } := by
  obtain ⟨u, hput⟩ := (m.count 0x22 0 1).putRegion_eq r { x with st := .sealed, refetch := [], written := false, source := none }
  refine ⟨u, ?_⟩
  simp only [Main.refetchVerify, hx, hre, hst, hw, hcrc, Main.bytesAt_stack, hput, ne_eq, not_true_eq_false, Bool.not_true,
    Bool.false_eq_true, or_self, if_false, List.isEmpty_nil, if_true]
  exact Main.freeWaiters_of_idle r hidle

/-- REFETCH_VERIFY of the last granule, read back clean (R144, orders 8 and 9, R146). -/
theorem Machine.refetchVerify_seals {s : State} {r : Fin 8192} {g k ch : Nat} {x : Region} (hup : s.wardenUp = true)
    (hx : s.mn.region r.val = x) (hst : x.st = .held) (hre : x.refetch = [(g, k, ch)]) (hw : x.written = true)
    (hcrc : crc32c (s.mn.stack.rdN (x.base + 4096 * g) 4096) = leNat (s.mn.stack.rdN (tailAddr x g) 4))
    (hidle : ∀ p ∈ s.mn.ctxs, p.2.busy = false) :
    OnWarden (.refetchVerify r true) s fun n =>
      n = { s.mn with regions := n.regions, host := n.host, insts := n.insts, ctr := n.ctr, kr := { s.mn.kr with event := true }
                      absent := n.absent }
        ∧ s.mn.RegionsBut n r.val ∧ n.region r.val = { x with st := .sealed, refetch := [], written := false, source := none }
        ∧ n.counter 0x22 0 = satAdd 48 (s.mn.counter 0x22 0) 1 ∧ s.mn.CountersBut n [(0x22, 0)]
        ∧ (∀ j, n.inst j = { s.mn.inst j with heldRegions := (s.mn.inst j).heldRegions.erase r.val }) := by
  obtain ⟨u, hverify⟩ := Main.refetchVerify_of_last hx hst hre hw hcrc hidle
  refine onWarden_lapse rfl hup hverify rfl fun n a hn => ?_
  have hregions : n.regions
      = Tab.put regionDef r.val { x with st := .sealed, refetch := [], written := false, source := none } s.mn.regions := by subst hn; rfl
  have hctr : n.ctr = (s.mn.count 0x22 0 1).ctr := by subst hn; rfl
  have hinsts : n.insts = s.mn.insts.map fun p => (p.1, p.2.lifted r.val) := by subst hn; rfl
  refine ⟨by subst hn; rfl, Main.regionsBut_of_put hregions, Main.region_of_put hregions, Main.counter_of_count hctr,
    Main.countersBut_of_count (by decide) hctr, fun j => ?_⟩
  exact (congrArg (Tab.get instDef · j) hinsts).trans (Tab.get_map instDef (Inst.lifted r.val) s.mn.insts j rfl)

/-- An attempt that fails, with attempts left, is counted and logged, and the granule waits for the next (R147). -/
theorem Main.attemptFail_of_more {m : Main} {r g k ch : Nat} {x : Region} {rest : List (Nat × Nat × Nat)} (hx : m.region r = x)
    (hre : x.refetch = (g, k, ch) :: rest) (hhw : x.assisted = false) (hmore : k + 1 < m.attemptsMax) (cause : Nat) :
    ∃ l j c, l.next = nextIndex m.err.next ∧ m.attemptFail r cause = { m with
      err := l, strk := j, ctr := c
      regions := Tab.put regionDef r { x with refetch := (g, k + 1, ch) :: rest, written := false, source := none } m.regions } := by
  obtain ⟨l, j, c, hlog, hnext⟩ := (m.count 0x23 0 1).logErr_eq
    { code := 0x32, step := m.kr.step, extra := r, aux1 := g, aux2 := cause, pasid := x.pasid }
  refine ⟨l, j, c, hnext, ?_⟩
  have hmax : ¬ ({ m.count 0x23 0 1 with err := l, strk := j, ctr := c } : Main).attemptsMax ≤ k + 1 := Nat.not_le.2 hmore
  simp only [Main.attemptFail, hx, hre, hlog, if_neg hmax]
  exact Main.askSource_of_hardware (by rw [Main.region_setRegion_same]; exact hhw)

/-- REFETCH_TIMEOUT with attempts left (R147). -/
theorem Machine.refetchTimeout_counts {s : State} {r : Fin 8192} {g k ch : Nat} {x : Region} {rest : List (Nat × Nat × Nat)}
    (hup : s.wardenUp = true) (hx : s.mn.region r.val = x) (hst : x.st = .held) (hre : x.refetch = (g, k, ch) :: rest)
    (hw : x.written = false) (hhw : x.assisted = false) (hmore : k + 1 < s.mn.attemptsMax) :
    OnWarden (.refetchTimeout r) s fun n =>
      n = { s.mn with err := n.err, strk := n.strk, ctr := n.ctr, regions := n.regions, absent := n.absent } ∧ s.mn.RegionsBut n r.val
        ∧ n.err.next = nextIndex s.mn.err.next
        ∧ n.region r.val = { x with refetch := (g, k + 1, ch) :: rest, written := false, source := none } := by
  obtain ⟨l, j, c, hnext, hfail⟩ := Main.attemptFail_of_more hx hre hhw hmore 0
  have htimeout : s.mn.refetchTimeout r.val = s.mn.attemptFail r.val 0 := by
    simp [Main.refetchTimeout, hx, hst, hw, hhw]
  refine onWarden_lapse rfl hup (htimeout.trans hfail) rfl fun n a hn => ?_
  have hregions : n.regions = Tab.put regionDef r.val { x with refetch := (g, k + 1, ch) :: rest, written := false, source := none }
      s.mn.regions := by subst hn; rfl
  exact ⟨by subst hn; rfl, Main.regionsBut_of_put hregions, by subst hn; exact hnext, Main.region_of_put hregions⟩

/-- Settles O26: a hold begun, a granule written, the last one verified, and an attempt timed out, each by the lemma of its command. -/
theorem heldRegionsAreRefetched : Obligations.HeldRegionsAreRefetched :=
  ⟨fun _ _ _ _ _ hup hx hst hre hoff => holdBegin_holds hup hx hst hre hoff,
    fun _ _ _ _ _ _ _ _ hup hx hst hre hw hhw hsrc hbs hdma hcrc =>
      refetchGranuleArrival_writes hup hx hst hre hw hhw hsrc hbs hdma hcrc,
    fun _ _ _ _ _ _ hup hx hst hre hw hcrc hidle => refetchVerify_seals hup hx hst hre hw hcrc hidle,
    fun _ _ _ _ _ _ _ hup hx hst hre hw hhw hmore => refetchTimeout_counts hup hx hst hre hw hhw hmore⟩

end Sys2Proof
end

section
/-! SUPPORT AND PROOF. CXL.mem and the areas of stacked memory (spec/06_memory_tiers.md R136, R154, spec/19_security.md R424):
an equation for an access that is served and for an area's base that is set. -/

namespace Sys2Proof
open Machine

namespace Machine

/-- A host access to the Warden's side, while it is up, whose result is known but for the islands absent. -/
theorem onWarden_hostEq {c : Instr} {s : State} {f : Main → Main} {n : Main} {P : Main → Prop} (e : exec c s = .next (s.hostWarden f))
    (h : s.HostUp) (hf : f s.mn = n) (p : ∀ k a, k = { n with absent := a } → P k) : OnWarden c s P :=
  onWarden_host e h (p _ _ (by rw [hf]))

end Machine

/-! ## CXL.mem -/

theorem Main.cxlWrite_of_open {m : Main} {a k : Nat} {bs : List Byte} {x : Region} (hx : m.regionAt a bs.length = some (k, x))
    (hst : x.st = .loading) (hopen : x.openOnly = true) (pasid : Nat) :
    m.cxlWrite a bs pasid = { m with stack := Mem.wrN a bs m.stack } := by
  simp only [Main.cxlWrite, hx, hst, hopen, and_self, if_true]
  rfl

/-- CXL_MEM_WRITE into a region that host software opened (R136). -/
theorem Machine.cxlMemWrite_writes {s : State} {a k : Nat} {bs : List Byte} {pasid : Nat} {x : Region} (hup : s.HostUp)
    (hx : s.mn.regionAt a bs.length = some (k, x)) (hst : x.st = .loading) (hopen : x.openOnly = true) :
    OnWarden (.cxlMemWrite a bs pasid) s fun n => n = { s.mn with stack := n.stack, absent := n.absent }
      ∧ n.stack.rdN a bs.length = bs ∧ s.mn.stack.But n.stack a bs.length := by
  refine onWarden_hostEq rfl hup (Main.cxlWrite_of_open hx hst hopen pasid) fun n ab hn => ?_
  have hstack : n.stack = Mem.wrN a bs s.mn.stack := by subst hn; rfl
  exact ⟨by subst hn; rfl, hstack ▸ Mem.rdN_wrN _ _ _, hstack ▸ Mem.but_wrN _ _ _⟩

theorem Main.cxlRead_of_sealed {m : Main} {a k j : Nat} {x : Region} (hx : m.regionAt a k = some (j, x)) (hst : x.st = .sealed)
    (hread : m.bit F.PROT_CTL_cxlmem_read = true) (hconf : m.conf = false) (pasid : Nat) :
    m.cxlRead a k pasid = { m with resp := m.stack.rdN a k } := by
  simp only [Main.cxlRead, hx, hst, hread, hconf, beq_self_eq_true, Bool.true_or, Bool.not_false, Bool.and_self, if_true]
  rfl

/-- CXL_MEM_READ of a SEALED region, allowed and outside confidential mode (R424). -/
theorem Machine.cxlMemRead_answers {s : State} {a k j pasid : Nat} {x : Region} (hup : s.HostUp)
    (hx : s.mn.regionAt a k = some (j, x)) (hst : x.st = .sealed) (hread : s.mn.bit F.PROT_CTL_cxlmem_read = true)
    (hconf : s.mn.conf = false) :
    OnWarden (.cxlMemRead a k pasid) s fun n =>
      n = { s.mn with resp := n.resp, absent := n.absent } ∧ n.resp = s.mn.stack.rdN a k := by
  refine onWarden_hostEq rfl hup (Main.cxlRead_of_sealed hx hst hread hconf pasid) fun n ab hn => ?_
  exact ⟨by subst hn; rfl, by subst hn; rfl⟩

/-! ## The plan area's base -/

/-- A word cut to the 21 bits of an area's register reads as that value in the base field (R154). -/
theorem planAreaBase_of_mask (v : Word) : F.PLAN_AREA_BASE_base.of (v &&& 0x1FFFFF#32) = v.toNat % 2 ^ 21 := by
  have hmask : (v &&& 0x1FFFFF#32).toNat = v.toNat % 2 ^ 21 := by
    rw [BitVec.toNat_and]
    exact Nat.and_two_pow_sub_one_eq_mod v.toNat 21
  simp only [Fld.of, F.PLAN_AREA_BASE_base, hmask]
  omega

/-- The three areas after the plan area's base register is set (R154). -/
theorem Main.areas_setWord_planBase (m : Main) (w : Word) :
    (m.setWord 0x6008 w).areas = [(F.PLAN_AREA_BASE_base.of w, m.fld F.PLAN_AREA_SIZE_size),
      (m.fld F.PAGE_POOL_BASE_base, m.fld F.PAGE_POOL_SIZE_pages), (m.fld F.SAVE_AREA_BASE_base, m.fld F.SAVE_AREA_SIZE_size)] := by
  have hbase : (m.setWord 0x6008 w).fld F.PLAN_AREA_BASE_base = F.PLAN_AREA_BASE_base.of w :=
    congrArg F.PLAN_AREA_BASE_base.of (m.word_setWord_same 0x6008 w)
  have hother (f : Fld) (h : f.off ≠ 0x6008) : (m.setWord 0x6008 w).fld f = m.fld f := m.fld_setWord_other _ _ _ h
  simp only [Main.areas, hbase, hother F.PLAN_AREA_SIZE_size (by decide), hother F.PAGE_POOL_BASE_base (by decide),
    hother F.PAGE_POOL_SIZE_pages (by decide), hother F.SAVE_AREA_BASE_base (by decide), hother F.SAVE_AREA_SIZE_size (by decide)]

/-- The plan area's base moves where the area is empty, fits, and meets neither another area nor a region (R154). -/
theorem Main.areaWrite_planBase {m : Main} {v : Word} {b k : Nat} (hlock : m.bit F.PROT_CTL_lock = false) (hplans : m.plans = [])
    (hidle : ∀ p ∈ m.ctxs, p.2.busy = false) (hb : b = v.toNat % 2 ^ 21) (hk : k = m.fld F.PLAN_AREA_SIZE_size)
    (hfit : b + k ≤ stackUnits) (hpool : spanHits b k (m.fld F.PAGE_POOL_BASE_base) (m.fld F.PAGE_POOL_SIZE_pages) = false)
    (hsave : spanHits b k (m.fld F.SAVE_AREA_BASE_base) (m.fld F.SAVE_AREA_SIZE_size) = false) (hregion : m.hitsRegion b k = false) :
    m.areaWrite 0x6008 v = m.setWord 0x6008 (v &&& 0x1FFFFF#32) := by
  have hareas := m.areas_setWord_planBase (v &&& 0x1FFFFF#32)
  rw [planAreaBase_of_mask, ← hb, ← hk] at hareas
  have hnobind (f : Nat × Ctx → Bool) : (m.ctxs.all fun p => !(p.2.busy && f p)) = true :=
    List.all_eq_true.2 fun p hp => by simp [hidle p hp]
  have hoff : ¬ (0x6008 < 0x6008 ∨ 0x601C < 0x6008 ∨ 0x6008 % 4 ≠ 0 ∨ m.bit F.PROT_CTL_lock = true) := by simp [hlock]
  have hothers (y z : Nat × Nat) : ([(b, k), y, z].zipIdx.filter fun p => p.2 != 0) = [(y, 1), (z, 2)] := rfl
  simp only [Main.areaWrite, if_neg hoff, Nat.sub_self, Nat.zero_div, hareas, List.getD_cons_zero, hplans, List.all_nil, hnobind,
    decide_eq_true hfit, hothers, List.any_cons, List.any_nil, hpool, hsave, hregion]
  rfl

/-- AREA_REGISTER_WRITE of the plan area's base (R154). -/
theorem Machine.areaRegisterWrite_planBase {s : State} {v : Word} {b k : Nat} (hup : s.HostUp)
    (hlock : s.mn.bit F.PROT_CTL_lock = false) (hplans : s.mn.plans = []) (hidle : ∀ p ∈ s.mn.ctxs, p.2.busy = false)
    (hb : b = v.toNat % 2 ^ 21) (hk : k = s.mn.fld F.PLAN_AREA_SIZE_size) (hfit : b + k ≤ stackUnits)
    (hpool : spanHits b k (s.mn.fld F.PAGE_POOL_BASE_base) (s.mn.fld F.PAGE_POOL_SIZE_pages) = false)
    (hsave : spanHits b k (s.mn.fld F.SAVE_AREA_BASE_base) (s.mn.fld F.SAVE_AREA_SIZE_size) = false)
    (hregion : s.mn.hitsRegion b k = false) :
    OnWarden (.areaRegisterWrite 0x6008 v) s fun n =>
      n = { s.mn with regs := n.regs, absent := n.absent } ∧ s.mn.RegsBut n [0x6008] ∧ n.fld F.PLAN_AREA_BASE_base = b := by
  have hwrite := Main.areaWrite_planBase hlock hplans hidle hb hk hfit hpool hsave hregion
  refine onWarden_hostEq rfl hup hwrite fun n a hn => ?_
  have hword (o : Nat) : n.word o = (s.mn.setWord 0x6008 (v &&& 0x1FFFFF#32)).word o := by subst hn; rfl
  refine ⟨by subst hn; rfl, fun o ho => (hword o).trans (s.mn.regsBut_setWord _ _ o ho), ?_⟩
  have hbase : n.word F.PLAN_AREA_BASE_base.off = v &&& 0x1FFFFF#32 := (hword _).trans (s.mn.word_setWord_same _ _)
  rw [Main.fld, hbase, planAreaBase_of_mask, hb]

/-- Settles O27: an access to write, one to read, and an area's base moved, each by the lemma of its command. -/
theorem cxlAndAreasAreServed : Obligations.CxlAndAreasAreServed :=
  ⟨fun _ _ _ _ _ _ hup hx hst hopen _ => cxlMemWrite_writes hup hx hst hopen,
    fun _ _ _ _ _ _ hup hx hst hread hconf => cxlMemRead_answers hup hx hst hread hconf,
    fun _ _ _ _ hup hlock hplans hidle hb hk hfit hpool hsave hregion =>
      areaRegisterWrite_planBase hup hlock hplans hidle hb hk hfit hpool hsave hregion⟩

end Sys2Proof
end

section
/-! SUPPORT AND PROOF. Compress passes (spec/07_keyway.md R166, R168): how a tenant's memory reads after writes of several places, and an
equation for a pass that starts and for one that ends with its output and report written. -/

namespace Sys2Proof
open Machine

/-! ## A tenant's memory after writes -/

/-- A read in a tenant's space sees nothing of a write beside it. -/
theorem Main.tenantRd_tenantWr_apart {m : Main} {p a b n : Nat} {bs : List Byte} (ha : a + bs.length ≤ 2 ^ 64) (hb : b + n ≤ 2 ^ 64)
    (hapart : b + n ≤ a ∨ a + bs.length ≤ b) : (m.tenantWr p a bs).tenantRd p b n = m.tenantRd p b n := by
  refine Mem.rdN_wrN_out _ _ _ _ _ ?_
  unfold hostKey
  omega

/-- A descriptor that completes while its context's vector is not armed, with a next one that may be performed (R274). -/
theorem Main.completeHead_eq {m : Main} {c : Nat} {d : Desc} {q : List Desc} {st cf res det : Nat} (hq : (m.ctx c).queue = d :: q)
    (hp : ∀ e ∈ q.head?, e.protErr = none) (hi : (m.ctx c).irqArmed = false) :
    m.completeHead c st cf res det = (m.writeRecord c d st cf res det).updCtx c fun x =>
      Ctx.settle { x with queue := x.queue.drop 1, run := none, busy := false, reExec := false } := by
  have hhead : (m.ctx c).head = some d := by rw [Ctx.head, hq, List.head?_cons]
  simp only [Main.completeHead, hhead]
  refine Main.checkHead_ok _ _ fun e he => hp e ?_
  simpa [Ctx.head, Main.ctx_writeRecord m c d st cf res det hi, hq] using he

/-- A completion leaves the tenant's memory beside its record as it was (R268, R274). -/
theorem Main.tenantRd_completeHead {m : Main} {c p at_ b n : Nat} {d : Desc} {q : List Desc} {st cf res det : Nat}
    (hq : (m.ctx c).queue = d :: q) (hp : ∀ e ∈ q.head?, e.protErr = none) (hi : (m.ctx c).irqArmed = false)
    (htenant : p = (m.ctx c).tenant) (hat : at_ = (m.ctx c).entry.cqBase + d.seq % 2 ^ (m.ctx c).entry.cqOrder * 32)
    (htop : at_ + 32 ≤ 2 ^ 64) (hb : b + n ≤ 2 ^ 64) (hapart : b + n ≤ at_ ∨ at_ + 32 ≤ b) :
    (m.completeHead c st cf res det).tenantRd p b n = m.tenantRd p b n := by
  have hlen : (completionBytes d.seq st cf d.tag res det).length = 32 := completionBytes_length ..
  rw [Main.completeHead_eq hq hp hi, Main.tenantRd_updCtx, Main.writeRecord_eq _ _ _ _ _ _ _ hi, Main.lineCompleted,
    Main.tenantRd_hostWr _ _ _ _ _ _ (by simp), Main.tenantRd_setCtx, ← htenant, ← hat]
  exact Main.tenantRd_tenantWr_apart (hlen ▸ htop) hb (hlen ▸ hapart)

/-! ## A pass starts -/

/-- The one pass that waits starts in an idle, enabled engine, which codes it alone while no hinge is host-assisted (R166, R167). -/
theorem Main.passStart_of_idle {m : Main} {j : KwJob} (hidle : m.kw.running = none)
    (henable : m.bit F.KEYWAY_CTL_compress_enable = true) (hqueue : m.kw.queue.filter m.kwLive = [j])
    (hoff : m.fld F.HINGE_CTL_assist = 0) :
    m.passStart = { m with
      regs := (m.swing 4).regs, kw := { m.kw with running := some j, queue := [], assisted := false } } := by
  have hassist (k : KwEngine) : (Main.swing { m with kw := k } 4).assisted 4 = false := Main.assisted_swing_off 4 hoff
  simp only [Main.passStart, hidle, henable, hqueue, hassist, Option.isSome_none, Bool.not_true, Bool.or_self, Bool.false_eq_true,
    if_false, List.foldl_nil, List.erase_cons_head]
  rfl

/-- COMPRESS_PASS_START while the engine is idle and enabled (R166). -/
theorem Machine.compressPassStart_starts {s : State} {j : KwJob} (hup : s.wardenUp = true) (hidle : s.mn.kw.running = none)
    (henable : s.mn.bit F.KEYWAY_CTL_compress_enable = true) (hqueue : s.mn.kw.queue.filter s.mn.kwLive = [j])
    (hoff : s.mn.fld F.HINGE_CTL_assist = 0) :
    OnWarden .compressPassStart s fun n => n = { s.mn with kw := n.kw, regs := n.regs, absent := n.absent }
      ∧ n.kw = { s.mn.kw with running := some j, queue := [], assisted := false } ∧ s.mn.RegsBut n [F.HINGE_NOW_in_force.off] := by
  refine onWarden_lapse rfl hup (Main.passStart_of_idle hidle henable hqueue hoff) rfl fun n a hn => ?_
  have hregs : n.regs = (s.mn.swing 4).regs := by subst hn; rfl
  refine ⟨by subst hn; rfl, by subst hn; rfl, fun o ho => ?_⟩
  exact (congrArg (Tab.get regReset · o) hregs).trans (Main.regsBut_setFld s.mn F.HINGE_NOW_in_force _ o ho)

/-! ## A pass ends -/

/-- Host memory with a pass's output and then its report in the space of tenant `p` (R168). -/
def Main.passHost (m : Main) (p : Nat) (o : KwOps) (r : KwResult) : Mem :=
  ((m.tenantWr p o.dest r.output).tenantWr p o.report (kwReport o.target o.fmt m.kw.assisted r)).host

@[simp] theorem kwReport_length (target fmtCode : Nat) (assisted : Bool) (r : KwResult) :
    (kwReport target fmtCode assisted r).length = 32 := by
  simp [kwReport]

section
variable {m : Main} {p : Nat} {o : KwOps} {r : KwResult}

theorem Main.passHost_report :
    (m.passHost p o r).rdN (hostKey (p + 1) o.report) 32 = kwReport o.target o.fmt m.kw.assisted r := by
  have hread := Main.tenantRd_tenantWr (m.tenantWr p o.dest r.output) p o.report (kwReport o.target o.fmt m.kw.assisted r)
  rwa [kwReport_length] at hread

theorem Main.passHost_output (hdest : o.dest + r.output.length ≤ 2 ^ 64) (hreport : o.report + 32 ≤ 2 ^ 64)
    (hapart : o.dest + r.output.length ≤ o.report ∨ o.report + 32 ≤ o.dest) :
    (m.passHost p o r).rdN (hostKey (p + 1) o.dest) r.output.length = r.output := by
  have hlen := kwReport_length o.target o.fmt m.kw.assisted r
  rw [Main.passHost, ← Main.tenantRd, Main.tenantRd_tenantWr_apart (hlen.symm ▸ hreport) hdest (hlen.symm ▸ hapart),
    Main.tenantRd_tenantWr]

end

/-- The engine at rest after a pass, with the pass counted (KEYWAY_PASSES, Table 7-10). -/
def KwEngine.rested (e : KwEngine) : KwEngine := { e with running := none, passes := (e.passes + 1) % 2 ^ 32 }

/-- The pass of a live job that the hardware codes alone, its places all in its tenant's windows, writes its output and report, and its
descriptor completes with the granules written (R166, R168, R417). -/
theorem Main.passDone_of_allowed {m : Main} {j : KwJob} {d : Desc} {q : List Desc} {f : Fmt} {o : KwOps} {p : Nat} {r : KwResult}
    (hrun : m.kw.running = some j) (hlive : m.kwLive j = true) (hhw : m.kw.assisted = false) (hq : (m.ctx j.ctx).queue = d :: q)
    (ho : o = kwOps d) (htenant : p = (m.ctx j.ctx).tenant) (hf : fmtOfCode o.fmt = some f)
    (hsource : m.dmaOk p o.source o.rawBytes = true)
    (hr : r = kwPass f o.mode o.target (m.fld F.KEYWAY_CTL_auto_raw_thresh) (fun b => (j.tables.find? fun t => t.1 == b).map (·.2))
      (m.tenantRd p o.source o.rawBytes) (m.kwSource j o))
    (hdest : m.dmaOk p o.dest r.output.length = true) (hreport : m.dmaOk p o.report 32 = true) :
    m.passDone false
      = Main.setupDone { m with host := m.passHost p o r, kw := m.kw.rested } j.ctx ((r.output.length + 4095) / 4096) := by
  have hhead : (m.ctx j.ctx).head = some d := by rw [Ctx.head, hq, List.head?_cons]
  simp only [Main.passDone, hrun, hhead, hlive, ← ho, ← htenant, hsource, hhw, hf, ← hr, hdest, hreport, Bool.not_true, Bool.or_self,
    Bool.false_and, Bool.false_eq_true, if_false, Main.tenantWr, Main.passHost, KwEngine.rested]

/-- What a pass's end leaves: its descriptor completed, and what it wrote to host memory beside the completion record (R168, R274). -/
theorem Main.setupDone_rested {m : Main} {c p at_ g : Nat} {d : Desc} {q : List Desc} (v : Mem) (hq : (m.ctx c).queue = d :: q)
    (hp : ∀ e ∈ q.head?, e.protErr = none) (hi : (m.ctx c).irqArmed = false) (htenant : p = (m.ctx c).tenant)
    (hat : at_ = (m.ctx c).entry.cqBase + d.seq % 2 ^ (m.ctx c).entry.cqOrder * 32) (hatTop : at_ + 32 ≤ 2 ^ 64) :
    ∃ u k, Main.setupDone { m with host := v, kw := m.kw.rested } c g = { m with host := u, ctxs := k, kw := m.kw.rested }
      ∧ m.Completed { m with host := u, ctxs := k } c d q stDone 0 g 0
      ∧ ∀ b n, b + n ≤ 2 ^ 64 → b + n ≤ at_ ∨ at_ + 32 ≤ b →
        u.rdN (hostKey (p + 1) b) n = v.rdN (hostKey (p + 1) b) n := by
  obtain ⟨⟨u, k, hn⟩, -⟩ := Main.completeHead_spec { m with host := v, kw := m.kw.rested } c d q stDone 0 g 0 hq hp hi
  have hdone := Main.completeHead_completed { m with host := v, kw := m.kw.rested } c d q stDone 0 g 0 hq hp hi
  refine ⟨u, k, hn, (hn ▸ hdone).congr rfl rfl fun _ => rfl, fun b n hb hapart => ?_⟩
  have hkept := Main.tenantRd_completeHead (m := { m with host := v, kw := m.kw.rested }) (st := stDone) (cf := 0) (res := g) (det := 0)
    hq hp hi htenant hat hatTop hb hapart
  rwa [hn] at hkept

/-- COMPRESS_PASS_DONE of a pass that the hardware codes alone and whose places do not meet (R166, R168). -/
theorem Machine.compressPassDone_writes {s : State} {j : KwJob} {d : Desc} {q : List Desc} {f : Fmt} {o : KwOps} {p at_ : Nat}
    {r : KwResult} (hup : s.wardenUp = true) (hrun : s.mn.kw.running = some j) (hlive : s.mn.kwLive j = true)
    (hhw : s.mn.kw.assisted = false) (hq : (s.mn.ctx j.ctx).queue = d :: q) (hp : ∀ e ∈ q.head?, e.protErr = none)
    (hi : (s.mn.ctx j.ctx).irqArmed = false) (ho : o = kwOps d) (htenant : p = (s.mn.ctx j.ctx).tenant) (hf : fmtOfCode o.fmt = some f)
    (hsource : s.mn.dmaOk p o.source o.rawBytes = true)
    (hr : r = kwPass f o.mode o.target (s.mn.fld F.KEYWAY_CTL_auto_raw_thresh)
      (fun b => (j.tables.find? fun t => t.1 == b).map (·.2)) (s.mn.tenantRd p o.source o.rawBytes) (s.mn.kwSource j o))
    (hdest : s.mn.dmaOk p o.dest r.output.length = true) (hreport : s.mn.dmaOk p o.report 32 = true)
    (hat : at_ = (s.mn.ctx j.ctx).entry.cqBase + d.seq % 2 ^ (s.mn.ctx j.ctx).entry.cqOrder * 32) (hatTop : at_ + 32 ≤ 2 ^ 64)
    (hdestTop : o.dest + r.output.length ≤ 2 ^ 64) (hreportTop : o.report + 32 ≤ 2 ^ 64)
    (hdestReport : o.dest + r.output.length ≤ o.report ∨ o.report + 32 ≤ o.dest)
    (hdestAt : o.dest + r.output.length ≤ at_ ∨ at_ + 32 ≤ o.dest) (hreportAt : o.report + 32 ≤ at_ ∨ at_ + 32 ≤ o.report) :
    OnWarden (.compressPassDone false) s fun n =>
      n = { s.mn with ctxs := n.ctxs, host := n.host, kw := n.kw, absent := n.absent }
        ∧ n.kw = { s.mn.kw with running := none, passes := (s.mn.kw.passes + 1) % 2 ^ 32 }
        ∧ s.mn.Completed n j.ctx d q stDone 0 ((r.output.length + 4095) / 4096) 0 ∧ n.tenantRd p o.dest r.output.length = r.output
        ∧ n.tenantRd p o.report 32 = kwReport o.target o.fmt false r := by
  have hpass := Main.passDone_of_allowed hrun hlive hhw hq ho htenant hf hsource hr hdest hreport
  obtain ⟨u, k, hn, hdone, hkept⟩ := Main.setupDone_rested (g := (r.output.length + 4095) / 4096) (s.mn.passHost p o r)
    hq hp hi htenant hat hatTop
  have houtput := (hkept _ _ hdestTop hdestAt).trans (Main.passHost_output hdestTop hreportTop hdestReport)
  have hrep := (hkept _ _ hreportTop hreportAt).trans Main.passHost_report
  rw [hhw] at hrep
  refine onWarden_lapse rfl hup (hpass.trans hn) rfl fun n a hn' => ?_
  have hhost : n.host = u := by subst hn'; rfl
  exact ⟨by subst hn'; rfl, by subst hn'; rfl, hdone.congr rfl hhost fun j => by subst hn'; rfl,
    by rw [Main.tenantRd, hhost, houtput], by rw [Main.tenantRd, hhost, hrep]⟩

/-- Settles O29: a pass started and a pass ended, each by the lemma of its command. -/
theorem compressPassesRun : Obligations.CompressPassesRun :=
  ⟨fun _ _ hup hidle henable hqueue hoff => compressPassStart_starts hup hidle henable hqueue hoff,
    fun _ _ _ _ _ _ _ _ _ hup hrun hlive hhw hq hp hi ho htenant hf hsource hr hdest hreport hat hatTop hdestTop hreportTop hdestReport
      hdestAt hreportAt =>
      compressPassDone_writes hup hrun hlive hhw hq hp hi ho htenant hf hsource hr hdest hreport hat hatTop hdestTop hreportTop
        hdestReport hdestAt hreportAt⟩

end Sys2Proof
end

section
/-! SUPPORT AND PROOF. Chain notices and the ports (spec/09_attention.md R221, spec/14_laniza_chain.md R308, R319, R322): a boundary at
which one context alone has something due, what a drop notice and RESYNC do there, and an equation for each way a failed frame ends. -/

namespace Sys2Proof
open Machine

/-! ## One context's turn -/

/-- A number reads as what its table lists, or as the default. -/
theorem Tab.get_mem_or_default {α : Type} (d : Nat → α) (t : Tab α) (k : Nat) : (k, Tab.get d t k) ∈ t ∨ Tab.get d t k = d k := by
  induction t with
  | nil => exact .inr rfl
  | cons p t ih =>
    by_cases h : p.1 = k
    case pos =>
      have hget : Tab.get d (p :: t) k = p.2 := by simp [Tab.get, h]
      rw [hget, ← h]
      exact .inl List.mem_cons_self
    case neg =>
      have hget : Tab.get d (p :: t) k = Tab.get d t k := by simp [Tab.get, h]
      rw [hget]
      exact ih.imp_left (List.mem_cons_of_mem _)

/-- A fold in which one element alone acts, and acts once. -/
theorem foldl_of_one {α β : Type} {f : β → α → β} {c : α} {x y : β} {l : List α} (hc : c ∈ l)
    (hx : ∀ j ∈ l, j ≠ c → f x j = x) (hxc : f x c = y) (hy : ∀ j ∈ l, f y j = y) : l.foldl f x = y := by
  induction l with
  | nil => cases hc
  | cons a l ih =>
    have hl : l.foldl f y = y :=
      List.foldlRecOn (motive := (· = y)) _ _ rfl fun z hz j hj => by rw [hz]; exact hy j (List.mem_cons_of_mem _ hj)
    rw [List.foldl_cons]
    by_cases ha : a = c
    case pos => rw [ha, hxc, hl]
    case neg =>
      rw [hx a List.mem_cons_self ha]
      exact ih ((List.mem_cons.1 hc).resolve_left (Ne.symm ha)) (fun j hj => hx j (List.mem_cons_of_mem _ hj))
        fun j hj => hy j (List.mem_cons_of_mem _ hj)

/-- A context for which nothing is due at its boundary (R103). -/
def Ctx.AtRest (x : Ctx) : Prop :=
  x.nextShare = none ∧ x.unbindPending = false ∧ x.pendingDrop = none ∧ x.pendingResync = false

/-- What falls due at a context's boundary, done (R103). -/
def Main.settleCtx (m : Main) (c : Nat) : Main := ((m.settleShare c).settleChain c).settleUnbind c

theorem Main.settleCtx_of_atRest {m : Main} {c : Nat} (h : (m.ctx c).AtRest) : m.settleCtx c = m := by
  obtain ⟨hshare, hunbind, hdrop, hresync⟩ := h
  rw [Main.settleCtx, m.settleShare_of_none _ hshare, m.settleChain_of_none _ hdrop hresync, m.settleUnbind_of_none _ hunbind]

theorem Main.atRest_of_quiet {m : Main} (h : m.Quiet) (c : Nat) : (m.ctx c).AtRest := by
  obtain ⟨-, hctxs, -⟩ := h
  rcases Tab.get_mem_or_default ctxDef m.ctxs c with hc | hc
  · exact hctxs _ hc
  · exact (congrArg Ctx.AtRest hc).mpr ⟨rfl, rfl, rfl, rfl⟩

/-- Where no ward waits, a boundary fences none and switches none off (R438, R439). -/
theorem Main.settleWards_of_none {m : Main}
    (h : ∀ w < 16, (m.ward w).fencePending = false ∧ (m.fencedWard w = true → (m.ward w).powered = false)) :
    (List.range 16).foldl Main.settlePower ((List.range 16).foldl Main.settleFence m) = m := by
  have hfence : (List.range 16).foldl Main.settleFence m = m :=
    List.foldlRecOn (motive := (· = m)) _ _ rfl fun y hy w hw => by
      rw [hy]; exact m.settleFence_of_none w (h w (List.mem_range.1 hw)).1
  rw [hfence]
  exact List.foldlRecOn (motive := (· = m)) _ _ rfl fun y hy w hw => by
    rw [hy]; exact m.settlePower_of_off w (h w (List.mem_range.1 hw)).2

/-- Where a chain notice for one context alone is due, a boundary acts on it and brings hinge H3 up to date (R103, R221, R319). -/
theorem Main.settle_setCtx {m k : Main} {c : Nat} {x : Ctx} (h : m.Quiet) (hlist : x ≠ {}) (hshare : x.nextShare = none)
    (hchain : (m.setCtx c x).settleChain c = k) (hprot : k.prot = m.prot) (hbut : m.CtxsBut k c) (hrest : (k.ctx c).AtRest) :
    ∃ r, (m.setCtx c x).settle = { k with regs := r } ∧ k.RegsBut { k with regs := r } [F.HINGE_NOW_in_force.off] := by
  have hwards := Main.settleWards_of_none (m := m.setCtx c x) h.1
  have hmem : c ∈ (m.setCtx c x).ctxs.map (·.1) := by
    rcases Tab.get_mem_or_default ctxDef (m.setCtx c x).ctxs c with hc | hc
    · exact List.mem_map.2 ⟨_, hc, rfl⟩
    · exact absurd ((m.ctx_setCtx_same c x).symm.trans hc) hlist
  have hturn : (m.setCtx c x).settleCtx c = k := by
    rw [Main.settleCtx, Main.settleShare_of_none _ _ ((congrArg Ctx.nextShare (m.ctx_setCtx_same c x)).trans hshare), hchain,
      Main.settleUnbind_of_none _ _ hrest.2.1]
  have hctxs : ((m.setCtx c x).ctxs.map (·.1)).foldl Main.settleCtx (m.setCtx c x) = k := by
    refine foldl_of_one hmem (fun j _ hj => Main.settleCtx_of_atRest ?before) hturn (fun j _ => Main.settleCtx_of_atRest ?after)
    case before => rw [Main.ctx_setCtx_other _ _ _ _ hj]; exact Main.atRest_of_quiet h j
    case after =>
      by_cases hj : j = c
      · exact hj ▸ hrest
      · rw [hbut j hj]; exact Main.atRest_of_quiet h j
  have hsame : k.prot.force = k.prot.written := hprot ▸ h.2.2
  have hfold : (fun m c => ((Main.settleShare m c).settleChain c).settleUnbind c) = Main.settleCtx := rfl
  obtain ⟨r, hr, hregs⟩ := k.settleH3_regs
  refine ⟨r, ?_, hregs⟩
  simp only [Main.settle, hwards, hfold, hctxs, Main.settleProt_of_same k hsame, hr]

/-! ## Pages freed -/

theorem Main.page_freePage_same (m : Main) (p : Nat) (tag : Option Nat) : ((m.freePage p tag).page p).st = .free tag := by
  rw [Main.page, Main.freePage, Tab.get_put_same]

theorem Main.page_freePage_other (m : Main) {p a : Nat} (tag : Option Nat) (h : p ≠ a) : (m.freePage a tag).page p = m.page p := by
  rw [Main.page, Main.freePage, Tab.get_put_other _ _ _ _ _ h, Main.page]

/-- Freeing pages changes the pool alone, and leaves each FREE with the tag (R210). -/
theorem Main.freePages_spec (tag : Option Nat) (ps : List Nat) (m : Main) :
    ∃ u o, m.freePages tag ps = { m with pages := u, freeOrder := o }
      ∧ ∀ p, p ∈ ps ∨ (m.page p).st = .free tag → (Tab.get pageDef u p).st = .free tag := by
  induction ps generalizing m with
  | nil => exact ⟨m.pages, m.freeOrder, rfl, fun p hp => hp.resolve_left List.not_mem_nil⟩
  | cons a ps ih =>
    obtain ⟨u, o, hframe, hfree⟩ := ih (m.freePage a tag)
    refine ⟨u, o, hframe, fun p hp => hfree p ?_⟩
    by_cases ha : p = a
    case pos => exact .inr (ha ▸ m.page_freePage_same p tag)
    case neg =>
      rw [m.page_freePage_other tag ha]
      exact hp.imp_left fun h => (List.mem_cons.1 h).resolve_left ha

/-! ## A context written twice -/

theorem Tab.del_of_ne {α : Type} {k : Nat} {t : Tab α} (h : ∀ p ∈ t, p.1 ≠ k) : Tab.del k t = t := by
  induction t with
  | nil => rfl
  | cons p t ih => rw [Tab.del, if_neg (h p List.mem_cons_self), ih fun q hq => h q (List.mem_cons_of_mem _ hq)]

theorem Tab.del_ins {α : Type} {k : Nat} {t : Tab α} (h : ∀ p ∈ t, p.1 ≠ k) (v : α) : Tab.del k (Tab.ins k v t) = t := by
  induction t with
  | nil => simp [Tab.ins, Tab.del]
  | cons p t ih =>
    have ht : ∀ q ∈ t, q.1 ≠ k := fun q hq => h q (List.mem_cons_of_mem _ hq)
    by_cases hlt : k < p.1
    case pos => rw [Tab.ins, if_pos hlt, Tab.del, if_pos rfl, Tab.del_of_ne h]
    case neg => rw [Tab.ins, if_neg hlt, Tab.del, if_neg (h p List.mem_cons_self), ih ht]

/-- Of two writes of one number the second alone shows. -/
theorem Tab.put_put {α : Type} [DecidableEq α] (d : Nat → α) (k : Nat) (v w : α) (t : Tab α) :
    Tab.put d k w (Tab.put d k v t) = Tab.put d k w t := by
  have hdel : Tab.del k (Tab.put d k v t) = Tab.del k t := by
    unfold Tab.put
    split
    case isTrue => exact Tab.del_of_ne (Tab.del_ne k t)
    case isFalse => exact Tab.del_ins (Tab.del_ne k t) v
  rw [Tab.put, hdel]
  rfl

theorem Main.setCtx_setCtx (m : Main) (c : Nat) (x y : Ctx) : (m.setCtx c x).setCtx c y = m.setCtx c y :=
  congrArg (fun t => { m with ctxs := t }) (Tab.put_put ctxDef c x y m.ctxs)

theorem Main.setCtx_pages_setCtx (m : Main) (c : Nat) (x y : Ctx) (u : Tab Page) (o : Nat) :
    Main.setCtx { m.setCtx c x with pages := u, freeOrder := o } c y = { m.setCtx c y with pages := u, freeOrder := o } :=
  congrArg (fun t => { m with ctxs := t, pages := u, freeOrder := o }) (Tab.put_put ctxDef c x y m.ctxs)

theorem Main.updCtx_setCtx (m : Main) (c : Nat) (x : Ctx) (f : Ctx → Ctx) : (m.setCtx c x).updCtx c f = m.setCtx c (f x) := by
  rw [Main.updCtx, m.ctx_setCtx_same, m.setCtx_setCtx]

theorem Main.updCtx_count (m : Main) (c id k n : Nat) (f : Ctx → Ctx) : (m.count id k n).updCtx c f = (m.updCtx c f).count id k n := rfl

/-! ## A drop notice and RESYNC at the boundary -/

/-- A context whose columns from a kv_limit up are dropped in a step (R213, R221). -/
def Ctx.dropped (x : Ctx) (kv step : Nat) : Ctx :=
  { x with
    kvLimit := kv / 32 * 32, lastDrop := some step
    streams := x.streams.map fun y => { y with pages := y.pages.take (kv / 32), fill := 0 } }

/-- A context whose whole sequence is to be recomputed (R319). -/
def Ctx.resynced (x : Ctx) : Ctx :=
  { x with
    kvLimit := 0, chainRecompute := true
    streams := x.streams.map fun y => { y with pages := [], fill := 0 } }

/-- A context with a recompute due stays runnable without work (R228, R319). -/
theorem Ctx.settle_of_chainRecompute {x : Ctx} (hs : x.state = .residentRunning) (hre : x.chainRecompute = true) : x.settle = x := by
  simp [Ctx.settle, hs, hre]

/-- Dropping the columns of a context from a kv_limit up frees their pages and counts the columns (R213, Table 9-7). -/
theorem Main.dropFrom_of_lt {m : Main} {c kv : Nat} (hkv : kv < (m.ctx c).kvLimit) (tag : Option Nat) :
    m.dropFrom c (kv / 32) tag false =
      ((m.freePages tag ((m.ctx c).streams.flatMap fun x => x.pages.drop (kv / 32))).setCtx c ((m.ctx c).dropped kv m.kr.step)).count
        0x28 0 ((m.ctx c).columns - kv / 32) := by
  obtain ⟨u, o, hframe, -⟩ := m.freePages_spec tag ((m.ctx c).streams.flatMap fun x => x.pages.drop (kv / 32))
  have hupd (f : Ctx → Ctx) : Main.updCtx { m with pages := u, freeOrder := o } c f
      = Main.setCtx { m with pages := u, freeOrder := o } c (f (m.ctx c)) := rfl
  have hlimit : min (m.ctx c).kvLimit (32 * (kv / 32)) = kv / 32 * 32 := by omega
  simp only [Main.dropFrom, hframe, hupd, hlimit, Ctx.dropped, Ctx.columns, Bool.false_eq_true, if_false]

section
variable {m : Main} {c kv : Nat} {x : Ctx} (hrun : m.running c = false) (hx : m.ctx c = x)
include hrun hx

/-- A drop notice that is due at a boundary (R221). -/
theorem Main.settleChain_of_drop (hdrop : x.pendingDrop = some kv) (hresync : x.pendingResync = false) (hkv : kv < x.kvLimit) :
    m.settleChain c =
      ((m.freePages (some x.tenant) (x.streams.flatMap fun y => y.pages.drop (kv / 32))).setCtx c
          { x.dropped kv m.kr.step with pendingDrop := none }).count
        0x28 0 (x.columns - kv / 32) := by
  subst hx
  simp only [Main.settleChain, hrun, hdrop, hresync, hkv, Main.dropFrom_of_lt hkv, Main.updCtx_count, Main.updCtx_setCtx,
    Bool.false_eq_true, Option.isNone_some, false_and, or_self, if_true, if_false, Bool.not_false]

/-- RESYNC that is due at the boundary of a context with no work: every page is freed, and the whole sequence is to be recomputed (R319). -/
theorem Main.settleChain_of_resync (hdrop : x.pendingDrop = none) (hresync : x.pendingResync = true) (hstate : x.state = .residentRunning)
    (hlen : 0 < x.seqLen) (hnorun : x.run = none) (hqueue : x.queue = []) :
    m.settleChain c = { (m.freePages (some x.tenant) (x.streams.flatMap (·.pages))).setCtx c
        { x.resynced with pendingResync := false } with kr := { m.kr with event := true } } := by
  subst hx
  obtain ⟨u, o, hframe, -⟩ := m.freePages_spec (some (m.ctx c).tenant) ((m.ctx c).streams.flatMap (·.pages))
  have hupd (f : Ctx → Ctx) : Main.updCtx { m with pages := u, freeOrder := o } c f
      = Main.setCtx { m with pages := u, freeOrder := o } c (f (m.ctx c)) := rfl
  simp only [Main.settleChain, hrun, hdrop, hresync, hframe, hupd, Main.updCtx_setCtx, Ctx.head, hnorun, hqueue, hlen,
    Ctx.settle_of_chainRecompute, hstate, Ctx.resynced, Bool.false_eq_true, Option.isNone_none, Bool.not_true, and_false, or_self,
    if_false, Option.map_none, Option.getD_none, List.head?_nil, decide_true]
  rfl

end

/-! ## The notices' commands -/

section
variable {m : Main} {c : Nat} {x : Ctx} (hq : m.Quiet) (hrun : m.running c = false) (hx : m.ctx c = x)
include hq hrun hx

/-- A drop notice for a context at its boundary, where nothing else waits (R213, R221). -/
theorem Main.chainDrop_of_quiet {kv : Nat} (hst : x.state ≠ .free) (hkv : kv < x.kvLimit) :
    ∃ u o r, m.chainDrop c kv = { m.setCtx c (x.dropped kv m.kr.step) with
          pages := u, freeOrder := o, ctr := (m.count 0x28 0 (x.columns - kv / 32)).ctr, regs := r }
      ∧ m.RegsBut { m with regs := r } [F.HINGE_NOW_in_force.off]
      ∧ ∀ y ∈ x.streams, ∀ p ∈ y.pages.drop (kv / 32), (Tab.get pageDef u p).st = .free (some x.tenant) := by
  obtain ⟨hshare, hunbind, hdrop, hresync⟩ : x.AtRest := hx ▸ Main.atRest_of_quiet hq c
  obtain ⟨u, o, hframe, hfree⟩ := (m.setCtx c { x with pendingDrop := some kv }).freePages_spec (some x.tenant)
    (x.streams.flatMap fun y => y.pages.drop (kv / 32))
  have hdone : { Ctx.dropped { x with pendingDrop := some kv } kv m.kr.step with pendingDrop := none } = x.dropped kv m.kr.step := by
    simp only [Ctx.dropped, hdrop]
  have hchain := Main.settleChain_of_drop (m := m.setCtx c { x with pendingDrop := some kv }) hrun (m.ctx_setCtx_same _ _) rfl
    hresync hkv
  rw [hframe, Main.setCtx_pages_setCtx, Main.setCtx_kr, hdone] at hchain
  have hlist : { x with pendingDrop := some kv } ≠ ({} : Ctx) := fun h => Option.some_ne_none kv (congrArg Ctx.pendingDrop h)
  obtain ⟨r, hsettle, hregs⟩ := Main.settle_setCtx hq hlist hshare hchain rfl (fun j hj => m.ctx_setCtx_other c _ j hj)
    ((congrArg Ctx.AtRest (m.ctx_setCtx_same c _)).mpr ⟨hshare, hunbind, hdrop, hresync⟩)
  refine ⟨u, o, r, ?_, hregs, fun y hy p hp => hfree p (.inl (List.mem_flatMap.2 ⟨y, hy, hp⟩))⟩
  rw [Main.chainDrop, hx, if_neg hst, Main.updCtx, hx, hsettle]
  rfl

/-- RESYNC for one context with no work, at its boundary, where nothing else waits (R319). -/
theorem Main.chainResync_of_quiet (hchained : m.chainedCtx c = true) (hstate : x.state = .residentRunning) (hlen : 0 < x.seqLen)
    (hnorun : x.run = none) (hqueue : x.queue = []) :
    ∃ u o r, m.chainResync [c] = { m.setCtx c x.resynced with
          pages := u, freeOrder := o, kr := { m.kr with event := true }, regs := r }
      ∧ m.RegsBut { m with regs := r } [F.HINGE_NOW_in_force.off] := by
  obtain ⟨hshare, hunbind, hdrop, hresync⟩ : x.AtRest := hx ▸ Main.atRest_of_quiet hq c
  obtain ⟨u, o, hframe, -⟩ := (m.setCtx c { x with pendingResync := true }).freePages_spec (some x.tenant)
    (x.streams.flatMap (·.pages))
  have hdone : { Ctx.resynced { x with pendingResync := true } with pendingResync := false } = x.resynced := by
    simp only [Ctx.resynced, hresync]
  have hchain := Main.settleChain_of_resync (m := m.setCtx c { x with pendingResync := true }) hrun (m.ctx_setCtx_same _ _) hdrop rfl
    hstate hlen hnorun hqueue
  rw [hframe, Main.setCtx_pages_setCtx, Main.setCtx_kr, hdone] at hchain
  have hlist : { x with pendingResync := true } ≠ ({} : Ctx) := fun h => Bool.false_ne_true (congrArg Ctx.pendingResync h).symm
  obtain ⟨r, hsettle, hregs⟩ := Main.settle_setCtx hq hlist hshare hchain rfl (fun j hj => m.ctx_setCtx_other c _ j hj)
    ((congrArg Ctx.AtRest (m.ctx_setCtx_same c _)).mpr ⟨hshare, hunbind, hdrop, hresync⟩)
  have hmine : ([c].filter fun j => (m.ctx j).state != CtxState.free && m.chainedCtx j) = [c] := by
    simp [hx, hstate, hchained]
  refine ⟨u, o, r, ?_, hregs⟩
  rw [Main.chainResync, hmine, List.foldl_cons, List.foldl_nil, Main.updCtx, hx, hsettle]

end

/-- CHAIN_DROP_NOTICE (R221). -/
theorem Machine.chainDropNotice_drops {s : State} {c : Fin 3072} {kv : Nat} (hup : s.wardenUp = true)
    (hst : (s.mn.ctx c.val).state ≠ .free) (hq : s.mn.Quiet) (hrun : s.mn.running c.val = false) (hkv : kv < (s.mn.ctx c.val).kvLimit) :
    OnWarden (.chainDropNotice c kv) s fun n =>
      n = { s.mn with ctxs := n.ctxs, pages := n.pages, freeOrder := n.freeOrder, ctr := n.ctr, regs := n.regs, absent := n.absent }
        ∧ s.mn.CtxsBut n c.val ∧ s.mn.RegsBut n [F.HINGE_NOW_in_force.off] ∧ s.mn.CountersBut n [(0x28, 0)]
        ∧ n.ctx c.val = (s.mn.ctx c.val).dropped kv s.mn.kr.step
        ∧ ∀ x ∈ (s.mn.ctx c.val).streams, ∀ p ∈ x.pages.drop (kv / 32), (n.page p).st = .free (some (s.mn.ctx c.val).tenant) := by
  obtain ⟨u, o, r, hdrop, hregs, hfree⟩ := Main.chainDrop_of_quiet hq hrun rfl hst hkv
  refine onWarden_eq rfl hup hdrop fun n a hn => ?_
  subst hn
  exact ⟨rfl, fun j hj => s.mn.ctx_setCtx_other _ _ j hj, hregs, Main.countersBut_of_count (by decide) rfl,
    s.mn.ctx_setCtx_same _ _, hfree⟩

/-- CHAIN_RESYNC of one context (R319). -/
theorem Machine.chainResync_startsOver {s : State} {c : Nat} (hup : s.wardenUp = true) (hstate : (s.mn.ctx c).state = .residentRunning)
    (hq : s.mn.Quiet) (hrun : s.mn.running c = false) (hchained : s.mn.chainedCtx c = true) (hlen : 0 < (s.mn.ctx c).seqLen)
    (hnorun : (s.mn.ctx c).run = none) (hqueue : (s.mn.ctx c).queue = []) :
    OnWarden (.chainResync [c]) s fun n =>
      n = { s.mn with ctxs := n.ctxs, pages := n.pages, freeOrder := n.freeOrder, kr := { s.mn.kr with event := true }, regs := n.regs
                      absent := n.absent }
        ∧ s.mn.CtxsBut n c ∧ s.mn.RegsBut n [F.HINGE_NOW_in_force.off] ∧ n.ctx c = (s.mn.ctx c).resynced := by
  obtain ⟨u, o, r, hresync, hregs⟩ := Main.chainResync_of_quiet hq hrun rfl hchained hstate hlen hnorun hqueue
  refine onWarden_eq rfl hup hresync fun n a hn => ?_
  subst hn
  exact ⟨rfl, fun j hj => s.mn.ctx_setCtx_other _ _ j hj, hregs, s.mn.ctx_setCtx_same _ _⟩

/-! ## Frames -/

theorem Main.sendWake_eq (m : Main) (u d : Bool) :
    m.sendWake u d = { m with lz := { m.lz with
      sent := m.lz.sent ++ (if u then [(0, .wake)] else []) ++ (if d then [(1, .wake)] else []) } } := by
  cases u <;> cases d <;> simp [Main.sendWake]

/-- The chain's state after a frame fails its CRC at a port whose failures in a row were `k` (R308). -/
def Laniza.failed (z : Laniza) (p k : Nat) : Laniza :=
  { z with failUp := if p = 0 then k + 1 else z.failUp, failDown := if p = 1 then k + 1 else z.failDown }

/-- Short of the 64th in a row, a failed frame is sent again and counted (R308). -/
theorem Main.frameFail_of_lt {m : Main} {p k : Nat} (hport : m.portUp p = true)
    (hk : k = if p = 0 then m.lz.failUp else m.lz.failDown) (hlt : k + 1 < 64) :
    m.frameFail p = { m.count 0x40 p 1 with lz := m.lz.failed p k } := by
  simp only [Main.frameFail, ← hk, hport, Bool.not_true, Bool.false_eq_true, if_false, if_neg (Nat.not_le.2 hlt)]
  rfl

/-- Where no chained step runs there is none to cut short (R318). -/
theorem Main.chainCutAll_of_none {m : Main} (h : ∀ p ∈ m.insts, p.2.chained = false) : m.chainCutAll = m := by
  have hnone : m.insts.filter (fun p => p.2.chained) = [] := List.filter_eq_nil_iff.2 fun p hp => by simp [h p hp]
  rw [Main.chainCutAll, hnone, List.map_nil, List.foldl_nil]

/-- A unit that is not the head asks for a walk upstream (R312, order 1). -/
theorem Main.walkStart_of_notHead {m : Main} (hhead : m.isHead = false) (hport : m.portUp 0 = true) :
    m.walkStart = { m with lz := m.lz.plus 0 .rewalk } := by
  rw [Main.walkStart, hhead]
  exact Main.lzSend_of_up hport _

/-- The DOWN port's state does not tell whether the UP port is trained, or whether the unit is the head. -/
theorem Main.setFld_downState (m : Main) (v : Nat) :
    (m.setFld F.LANIZA_STATUS_down_state v).portUp 0 = m.portUp 0 ∧ (m.setFld F.LANIZA_STATUS_down_state v).isHead = m.isHead := by
  have hdown : F.LANIZA_STATUS_down_state.In := ⟨by decide, by decide⟩
  have hup := m.fld_setFld_apart F.LANIZA_STATUS_down_state F.LANIZA_STATUS_up_state v hdown ⟨by decide, by decide⟩ rfl
    (.inr (by decide))
  have hpin := m.fld_setFld_apart F.LANIZA_STATUS_down_state F.LANIZA_STATUS_head_pin v hdown ⟨by decide, by decide⟩ rfl
    (.inl (by decide))
  have hport : (m.setFld F.LANIZA_STATUS_down_state v).portUp 0 = m.portUp 0 := by
    simp only [Main.portUp, hup, if_true]
  refine ⟨hport, ?_⟩
  rw [Main.isHead, hport, Main.bit, hpin]
  rfl

/-- The DOWN port of a unit that is not the head goes down while nothing of the chain runs: the unit asks for a walk (R309, R312). -/
theorem Main.portChange_downLost {m : Main} (hdown : m.portUp 1 = true) (hhead : m.isHead = false) (hup : m.portUp 0 = true)
    (hwork : m.NoChainWork) :
    m.portChange 1 0 = { m.setFld F.LANIZA_STATUS_down_state 0 with lz := Laniza.plus { m.lz with failDown := 0 } 0 .rewalk } := by
  obtain ⟨hport, hhead'⟩ := m.setFld_downState 0
  have hold : 2 ≤ m.fld F.LANIZA_STATUS_down_state := of_decide_eq_true hdown
  have hne : ¬ m.fld F.LANIZA_STATUS_down_state = 0 := by omega
  have hcut := Main.chainCutAll_of_none
    (m := { m.setFld F.LANIZA_STATUS_down_state 0 with lz := { m.lz with failDown := 0 } }) fun p hp => (hwork.1 p hp).1
  have hwalk := Main.walkStart_of_notHead
    (m := { m.setFld F.LANIZA_STATUS_down_state 0 with lz := { m.lz with failDown := 0 } }) (hhead'.trans hhead) (hport.trans hup)
  simp only [Main.portChange, ite_self, hne, hold, Nat.one_ne_zero, Nat.zero_ne_one, Nat.zero_lt_two, true_and, if_true, if_false]
  exact (congrArg Main.walkStart hcut).trans hwalk

/-- LANIZA_SEND_WAKE (R322). -/
theorem Machine.lanizaSendWake_sends {s : State} (hup : s.HostUp) (u d : Bool) :
    OnWarden (.lanizaSendWake u d) s fun n => n = { s.mn with absent := n.absent, lz := { s.mn.lz with
      sent := s.mn.lz.sent ++ (if u then [(0, .wake)] else []) ++ (if d then [(1, .wake)] else []) } } :=
  onWarden_hostEq rfl hup (s.mn.sendWake_eq u d) fun n a hn => by subst hn; rfl

/-- LANIZA_FRAME_CRC_FAIL short of the 64th failure in a row (R308). -/
theorem Machine.lanizaFrameCrcFail_counts {s : State} {p : Fin 2} {k : Nat} (hup : s.wardenUp = true) (hport : s.mn.portUp p.val = true)
    (hk : k = if p.val = 0 then s.mn.lz.failUp else s.mn.lz.failDown) (hlt : k + 1 < 64) :
    OnWarden (.lanizaFrameCrcFail p) s fun n => n = { s.mn with lz := n.lz, ctr := n.ctr, absent := n.absent }
      ∧ n.lz = s.mn.lz.failed p.val k ∧ s.mn.CountersBut n [(0x40, p.val)]
      ∧ n.counter 0x40 p.val = satAdd 48 (s.mn.counter 0x40 p.val) 1 := by
  refine onWarden_eq rfl hup (Main.frameFail_of_lt hport hk hlt) fun n a hn => ?_
  have hctr : n.ctr = (s.mn.count 0x40 p.val 1).ctr := by subst hn; rfl
  exact ⟨by subst hn; rfl, by subst hn; rfl, Main.countersBut_of_count (by omega) hctr, Main.counter_of_count hctr⟩

/-- LANIZA_FRAME_CRC_FAIL that is the 64th in a row at the DOWN port of a unit that is not the head (R308, R312). -/
theorem Machine.lanizaFrameCrcFail_takesDown {s : State} (hup : s.wardenUp = true) (hdown : s.mn.portUp 1 = true)
    (hk : s.mn.lz.failDown = 63) (hhead : s.mn.isHead = false) (hport : s.mn.portUp 0 = true) (hwork : s.mn.NoChainWork) :
    OnWarden (.lanizaFrameCrcFail 1) s fun n => n = { s.mn with lz := n.lz, regs := n.regs, absent := n.absent }
      ∧ n.lz = Laniza.plus { s.mn.lz with failDown := 0 } 0 .rewalk ∧ s.mn.RegsBut n [F.LANIZA_STATUS_down_state.off]
      ∧ n.fld F.LANIZA_STATUS_down_state = 0 := by
  have hfail : s.mn.frameFail 1 = s.mn.portChange 1 0 := by
    simp only [Main.frameFail, hk, hdown, Nat.one_ne_zero, if_false, Bool.not_true, Bool.false_eq_true]
    rfl
  refine onWarden_eq rfl hup (hfail.trans (Main.portChange_downLost hdown hhead hport hwork)) fun n a hn => ?_
  have hword (o : Nat) : n.word o = (s.mn.setFld F.LANIZA_STATUS_down_state 0).word o := by subst hn; rfl
  refine ⟨by subst hn; rfl, by subst hn; rfl, fun o ho => (hword o).trans (s.mn.regsBut_setFld _ _ o ho), ?_⟩
  rw [Main.fld, hword]
  exact s.mn.fld_setFld_same F.LANIZA_STATUS_down_state 0 ⟨by decide, by decide⟩

/-- Settles O37: the notices, the wake pattern and a failed frame, each by the lemma of its command. -/
theorem noticesAndPortsAct : Obligations.NoticesAndPortsAct := by
  refine ⟨?drop, ?resync, ?wake, ?fail, ?lost⟩
  case drop =>
    intro s c kv hup hst hq hrun _ hkv
    exact chainDropNotice_drops hup hst hq hrun hkv
  case resync =>
    intro s c hup hstate hq hrun _ hchained hlen hnorun hqueue
    exact chainResync_startsOver hup hstate hq hrun hchained hlen hnorun hqueue
  case wake => exact fun s u d hup => lanizaSendWake_sends hup u d
  case fail =>
    intro s p k hup hport hk hlt
    simp only [Fin.ext_iff] at hk ⊢
    exact lanizaFrameCrcFail_counts hup hport hk hlt
  case lost =>
    intro s hup hdown hk hhead hport hwork
    exact lanizaFrameCrcFail_takesDown hup hdown hk hhead hport hwork

end Sys2Proof
end

section
/-! SUPPORT AND PROOF. The answer to H2 (spec/09_attention.md R217, spec/13_hinges.md R301): host software's answer reaches its requester
only while the requester still has cause SERVICE_WAIT; from any other, the list goes on and the requester does not park. -/

namespace Sys2Proof
open Machine

/-! ## A build with nothing reserved -/

/-- A release that picks no context leaves every page (R210). -/
theorem Main.releaseReserved_of_none (m : Main) {pick : Nat → Bool} (h : ∀ c, pick c = false) : m.releaseReserved pick = m := by
  have hpages : (m.releaseReserved pick).pages = m.pages := by
    refine (List.map_congr_left fun p _ => ?_).trans (List.map_id _)
    split
    case h_1 c tag _ => exact if_neg (Bool.eq_false_iff.1 (h c))
    case h_2 => rfl
  exact congrArg (fun ps => { m with pages := ps }) hpages

/-- A build that got no member emits nothing as it closes, and leaves all else (R233). -/
theorem Main.closeBuild_of_none (m : Main) {b : Build} (hgot : b.got = []) :
    m.closeBuild b = { m with kr := { m.kr with build := none } } := by
  have hfree := Main.releaseReserved_of_none { m with kr := { m.kr with build := none } }
    (pick := fun c => b.got.any fun p => p.1 == c) (fun c => by rw [hgot]; rfl)
  unfold Main.closeBuild
  dsimp only
  split
  case h_1 => exact hfree
  case h_2 q _ =>
    rw [hgot] at hfree ⊢
    split
    case h_1 heq => cases heq
    case h_2 => exact hfree

/-- The list ends with a build that got no member and has none to come (R233). -/
theorem Main.goBuild_of_none {m : Main} {b : Build} (hwait : m.kr.h2Wait = none) (hb : m.kr.build = some b) (htodo : b.todo = [])
    (hgot : b.got = []) (hjobs : m.kr.jobs = []) : m.goBuild = { m with kr := { m.kr with build := none } } := by
  have hclose (f : Nat) : Main.runBuild (f + 1) m = Main.runBuild f { m with kr := { m.kr with build := none } } := by
    simp only [Main.runBuild, hwait, hb, htodo, Main.closeBuild_of_none m hgot, Option.isSome_none, Bool.false_eq_true, if_false]
  have hend (f : Nat) : Main.runBuild (f + 1) { m with kr := { m.kr with build := none } }
      = { m with kr := { m.kr with build := none } } := by
    simp only [Main.runBuild, hwait, hjobs, Option.isSome_none, Bool.false_eq_true, if_false]
  have hfuel : m.buildFuel = (3 * m.kr.jobs.length + 2 * m.ctxs.length + 14) + 1 + 1 := rfl
  rw [Main.goBuild, hfuel, hclose, hend]

/-! ## An answer that comes too late -/

/-- An answer about a requester that no longer waits for host software names or parks no one: the list goes on (R301). -/
theorem Main.h2Take_of_notWaiting {m : Main} {c k : Nat} (hwait : m.kr.h2Wait = some (c, k)) (hcause : (m.ctx c).cause ≠ .serviceWait)
    (victims : List Nat) : m.h2Take victims = Main.goBuild { m with kr := { m.kr with h2Wait := none, event := true } } := by
  simp only [Main.h2Take, hwait]
  exact if_pos hcause

/-- H2_ANSWER about a requester that no longer waits, whose build got no member: the build is over and no context parks. -/
theorem Machine.h2Answer_of_notWaiting {s : State} {num c k : Nat} {rq : HingeReq} {bs : List Byte} {bd : Build}
    (hup : s.wardenUp = true) (ha : s.mn.AnswerRead 2 num rq bs) (hwait : s.mn.kr.h2Wait = some (c, k))
    (hcause : (s.mn.ctx c).cause ≠ .serviceWait) (hb : s.mn.kr.build = some bd) (htodo : bd.todo = []) (hgot : bd.got = [])
    (hjobs : s.mn.kr.jobs = []) :
    OnWarden (.h2Answer num) s fun n =>
      n = { s.mn with
        svc := s.mn.svc.taken num, kr := { s.mn.kr with h2Wait := none, event := true, build := none }, absent := n.absent } := by
  have htake := Main.h2Take_of_notWaiting (m := s.mn.answered num) hwait hcause
  have hgo := Main.goBuild_of_none (m := { s.mn.answered num with kr := { s.mn.kr with h2Wait := none, event := true } })
    rfl hb htodo hgot hjobs
  exact onWarden_answer rfl hup ha ((htake _).trans hgo) rfl fun n a hn => by subst hn; rfl

/-- What a command leaves is one machine. -/
theorem Machine.OnWarden.unique {c : Instr} {s : State} {P Q : Main → Prop} (hP : OnWarden c s P) (hQ : OnWarden c s Q) :
    ∃ n, P n ∧ Q n := by
  obtain ⟨n, en, hn⟩ := hP
  obtain ⟨k, ek, hk⟩ := hQ
  have hsame : n = k := congrArg State.mn (Host.Outcome.next.inj (en.symm.trans ek))
  exact ⟨n, hn, hsame ▸ hk⟩

/-! ## A requester that no longer waits -/

/-- A plan whose one carried range is a page buffer slot of berth 0: 32 rows of it complete a page (R207, R211). -/
def onePageBitting : Bitting :=
  { size := 0x100, crc := 0, version := 1, modelKey := 5, layerGroup := 0, batchClass := 0, minPlevel := 5, mask := 1, steppingMin := 0
    minChainGen := 0, chainUnits := 1, flags := 0, rowsMin := 1, rowsMax := 32, stepBound := 0, loadChannels := 0, compiler := 0
    tensors := [], tokens := [], lists := [], collectives := []
    aux := {
      dir := [], rowMembers := [0], weights := [], pairs := [], converted := [], transposed := [], windowed := [], portNames := []
      portUses := [], writesCommitted := false, writesPages := true, wholeUnits := true, shapeRules := true, maskIds := [], rowWidths := [1]
      carried := [{ tensorId := 0, a := ⟨.stack, 0⟩, b := ⟨.stack, 0⟩, size := 0, member := 0, kvSlot := some (0, 0, 1, 1) }] } }

/-- The build of a step of 32 rows of context 1, which waits for the answer about it. -/
def askedBuild : Build := { job := { model := 5, mask := 1, round := 0 }, handle := 0, cut := [(1, 32)], todo := [] }

/-- The record of an answer with verdict 1: park (Table 13-5). -/
def parkAnswer : List Byte := List.replicate 9 0#8 ++ [1#8]

/-- A part with no pool pages that has read the answer "park" for context 1, while that context waits for pages: cause PAGE_WAIT. -/
def requesterParked : State :=
  { State.reset with mn := {
    svc := { answers := [(3, { hinge := 2, args := [1] }, parkAnswer)] }
    ctxs := [(1, { state := .residentBlocked, cause := .pageWait, tenant := 7, berth := some (5, 1, 0) })]
    plans := [(0, { valid := true, contexts := [1], bitting := some onePageBitting })]
    kr := { step := 1, h2Wait := some (1, 32), build := some askedBuild } } }

/-- Refutes O31: its second clause does not ask that the requester still have cause SERVICE_WAIT (R301). Under any other cause the answer
"park" parks no one, and `parkNext`, which the clause has at 2, stays at 1. -/
theorem not_listAnswersAreTaken : ¬ Obligations.ListAnswersAreTaken := by
  rintro ⟨-, hparks, -⟩
  have hup : requesterParked.wardenUp = true := by decide
  have hread : requesterParked.mn.AnswerRead 2 3 { hinge := 2, args := [1] } parkAnswer := by decide
  have hshort : (requesterParked.mn.usablePages 7).length
      < (requesterParked.mn.ctx 1).need onePageBitting (requesterParked.mn.ctx 1).berthNo 32 := by decide
  have hclaim := hparks requesterParked 3 1 32 _ parkAnswer askedBuild onePageBitting hup hread
    (by decide) rfl rfl rfl rfl rfl rfl rfl hshort rfl
  have hmodel := h2Answer_of_notWaiting (s := requesterParked) (c := 1) (bd := askedBuild) hup hread rfl
    (by decide) rfl rfl rfl rfl
  obtain ⟨n, ⟨-, -, -, hkr⟩, hn⟩ := hclaim.unique hmodel
  have hone : n.kr.parkNext = 1 := by rw [hn]; rfl
  have htwo : n.kr.parkNext = 2 := by rw [hkr]; rfl
  omega

end Sys2Proof
end

section
/-! SUPPORT AND PROOF. Teardown, release and eviction (spec/10_keyring.md R247, R250): the bindings that a teardown releases, and an
equation for each command. -/

namespace Sys2Proof
open Machine

/-! ## Tables with each number listed once -/

theorem Tab.ins_perm {α : Type} (k : Nat) (v : α) (t : Tab α) : (Tab.ins k v t).Perm ((k, v) :: t) := by
  induction t with
  | nil => exact .refl _
  | cons p t ih =>
    rw [Tab.ins]
    split
    case isTrue => exact .refl _
    case isFalse => exact (ih.cons p).trans (.swap _ _ _)

theorem Tab.del_sublist {α : Type} (k : Nat) (t : Tab α) : (Tab.del k t).Sublist t := by
  induction t with
  | nil => exact .refl _
  | cons p t ih =>
    rw [Tab.del]
    split
    case isTrue => exact ih.cons p
    case isFalse => exact ih.cons_cons p

/-- A write lists no number twice. -/
theorem Tab.nodup_put {α : Type} [DecidableEq α] (d : Nat → α) (k : Nat) (v : α) {t : Tab α} (h : (t.map (·.1)).Nodup) :
    ((Tab.put d k v t).map (·.1)).Nodup := by
  have hdel : ((Tab.del k t).map (·.1)).Nodup := h.sublist ((Tab.del_sublist k t).map _)
  unfold Tab.put
  split
  case isTrue => exact hdel
  case isFalse =>
    have hnew : k ∉ (Tab.del k t).map (·.1) := fun hk => by
      obtain ⟨p, hp, hpk⟩ := List.mem_map.1 hk
      exact Tab.del_ne k t p hp hpk
    exact (((Tab.ins_perm k v _).map _).nodup_iff).2 (List.nodup_cons.2 ⟨hnew, hdel⟩)

/-- Where each number is listed once, an entry is what its number reads as. -/
theorem Tab.get_of_mem {α : Type} (d : Nat → α) {t : Tab α} (h : (t.map (·.1)).Nodup) {p : Nat × α} (hp : p ∈ t) :
    Tab.get d t p.1 = p.2 := by
  induction t with
  | nil => cases hp
  | cons q t ih =>
    obtain ⟨hq, ht⟩ := List.nodup_cons.1 h
    rcases List.mem_cons.1 hp with rfl | hp
    · exact if_pos rfl
    · have hne : q.1 ≠ p.1 := fun e => hq (List.mem_map.2 ⟨p, hp, e.symm⟩)
      exact (if_neg hne).trans (ih ht hp)

/-! ## Bindings released -/

/-- From `m` to `n` plan records, wards and host memory may differ, and nothing else. -/
def Main.PlansMoved (m n : Main) : Prop := ∃ p w u, n = { m with plans := p, wards := w, host := u }

theorem Main.plansMoved_refl (m : Main) : m.PlansMoved m := ⟨m.plans, m.wards, m.host, rfl⟩

theorem Main.PlansMoved.trans {m k n : Main} (h : m.PlansMoved k) (h' : k.PlansMoved n) : m.PlansMoved n := by
  obtain ⟨p, w, u, rfl⟩ := h
  obtain ⟨q, v, z, rfl⟩ := h'
  exact ⟨q, v, z, rfl⟩

theorem Main.unbindOne_of_unbound {m : Main} {h c : Nat} (hc : c ∉ (m.plan h).contexts) : m.unbindOne h c = m :=
  if_pos (by simpa using hc)

/-- Releasing one binding sets one plan record, whose contexts are the others (R90, R247). -/
theorem Main.unbindOne_of_bound {m : Main} {h c : Nat} (hc : c ∈ (m.plan h).contexts) :
    ∃ p w u, p.contexts = (m.plan h).contexts.erase c
      ∧ m.unbindOne h c = { m with plans := Tab.put planDef h p m.plans, wards := w, host := u } := by
  have hin : (!(m.plan h).contexts.contains c) = false := by simpa using hc
  simp only [Main.unbindOne, hin, Bool.false_eq_true, if_false]
  split
  case isTrue hlast => exact ⟨{}, _, _, (List.isEmpty_iff.1 hlast).symm, rfl⟩
  case isFalse => exact ⟨_, _, _, rfl, rfl⟩

theorem Main.plansMoved_unbindOne (m : Main) (h c : Nat) : m.PlansMoved (m.unbindOne h c) := by
  by_cases hc : c ∈ (m.plan h).contexts
  case pos =>
    obtain ⟨p, w, u, -, hone⟩ := Main.unbindOne_of_bound hc
    exact ⟨_, w, u, hone⟩
  case neg => rw [Main.unbindOne_of_unbound hc]; exact m.plansMoved_refl

theorem Main.contexts_unbindOne_same (m : Main) (h c : Nat) :
    ((m.unbindOne h c).plan h).contexts = (m.plan h).contexts.erase c := by
  by_cases hc : c ∈ (m.plan h).contexts
  case pos =>
    obtain ⟨p, w, u, hp, hone⟩ := Main.unbindOne_of_bound hc
    rw [hone, ← hp, Main.plan, Tab.get_put_same]
  case neg => rw [Main.unbindOne_of_unbound hc, List.erase_of_not_mem hc]

theorem Main.plan_unbindOne_other (m : Main) {h k : Nat} (c : Nat) (hk : k ≠ h) : (m.unbindOne h c).plan k = m.plan k := by
  by_cases hc : c ∈ (m.plan h).contexts
  case pos =>
    obtain ⟨p, w, u, -, hone⟩ := Main.unbindOne_of_bound hc
    rw [hone, Main.plan, Tab.get_put_other _ _ _ _ _ hk, Main.plan]
  case neg => rw [Main.unbindOne_of_unbound hc]

theorem Main.nodup_unbindOne {m : Main} (hm : (m.plans.map (·.1)).Nodup) (h c : Nat) :
    ((m.unbindOne h c).plans.map (·.1)).Nodup := by
  by_cases hc : c ∈ (m.plan h).contexts
  case pos =>
    obtain ⟨p, w, u, -, hone⟩ := Main.unbindOne_of_bound hc
    rw [hone]
    exact Tab.nodup_put planDef h p hm
  case neg => rwa [Main.unbindOne_of_unbound hc]

/-- A record that is released, or that did not bind the context, does not bind it after the releases. -/
theorem Main.unbound_of_unbindEach {c : Nat} {hs : List Nat} {m : Main} (hm : ∀ k, (m.plan k).contexts.Nodup) {k : Nat}
    (hk : k ∈ hs ∨ c ∉ (m.plan k).contexts) : c ∉ ((hs.foldl (fun m h => m.unbindOne h c) m).plan k).contexts := by
  induction hs generalizing m with
  | nil => exact hk.resolve_left List.not_mem_nil
  | cons a hs ih =>
    refine ih (fun j => ?_) ?_
    · by_cases hj : j = a
      · rw [hj, m.contexts_unbindOne_same]; exact (hm a).erase c
      · rw [m.plan_unbindOne_other c hj]; exact hm j
    · by_cases ha : k = a
      · rw [ha, m.contexts_unbindOne_same]; exact .inr (hm a).not_mem_erase
      · rw [m.plan_unbindOne_other c ha]; exact hk.imp_left fun h => (List.mem_cons.1 h).resolve_left ha

theorem Main.plansMoved_unbindAll (m : Main) (c : Nat) : m.PlansMoved (m.unbindAll c) :=
  List.foldlRecOn (motive := m.PlansMoved) _ _ m.plansMoved_refl fun x hx h _ => hx.trans (x.plansMoved_unbindOne h c)

/-- Once every binding of a context is released, no plan record binds it (R247, order 5). -/
theorem Main.unbound_of_unbindAll {m : Main} (c : Nat) (hm : (m.plans.map (·.1)).Nodup) (hctxs : ∀ p ∈ m.plans, p.2.contexts.Nodup) :
    ∀ p ∈ (m.unbindAll c).plans, c ∉ p.2.contexts := by
  have hnodup : ((m.unbindAll c).plans.map (·.1)).Nodup :=
    List.foldlRecOn (motive := fun n : Main => (n.plans.map (·.1)).Nodup) _ _ hm fun x hx h _ => Main.nodup_unbindOne hx h c
  have hplans (k : Nat) : (m.plan k).contexts.Nodup := by
    rcases Tab.get_mem_or_default planDef m.plans k with hk | hk
    · exact hctxs _ hk
    · exact (congrArg (·.contexts.Nodup) hk).mpr List.nodup_nil
  intro p hp
  rw [← Tab.get_of_mem planDef hnodup hp]
  refine Main.unbound_of_unbindEach hplans (k := p.1) ?_
  by_cases hc : c ∈ (m.plan p.1).contexts
  case neg => exact .inr hc
  case pos =>
    rcases Tab.get_mem_or_default planDef m.plans p.1 with hk | hk
    · exact .inl (List.mem_map.2 ⟨_, List.mem_filter.2 ⟨hk, List.contains_iff_mem.2 hc⟩, rfl⟩)
    · exact absurd ((congrArg (c ∈ ·.contexts) hk).mp hc) List.not_mem_nil

/-! ## Orders 3 to 6 of a teardown -/

/-- A context whose pages, image and sequence are given up (R247, orders 3 and 4). -/
def Ctx.stripped (x : Ctx) : Ctx := { x with streams := [], imageValid := false, seqLen := 0, kvLimit := 0 }

/-- A switch once context `c` is torn down: its own is dropped, and another's displaces and saves it no more (R247). -/
def Switch.without (c : Nat) (w : Switch) : Option Switch :=
  if w.ctx = c then none else some { w with displaced := w.displaced.erase c, saving := w.saving.erase c }

/-- Freeing a context's streams changes the pool and the context (Table 9-7). -/
theorem Main.freeStreams_spec (m : Main) (c : Nat) :
    ∃ u o, m.freeStreams c = Main.setCtx { m with pages := u, freeOrder := o } c { m.ctx c with streams := [], kvLimit := 0 } := by
  obtain ⟨u, o, hfree, -⟩ := m.freePages_spec (some (m.ctx c).tenant) ((m.ctx c).streams.flatMap (·.pages))
  exact ⟨u, o, congrArg (·.updCtx c fun x => { x with streams := [], kvLimit := 0 }) hfree⟩

/-- Before its bindings are released, a teardown of a context outside every berth changes pages, switches and the context (R247). -/
theorem Main.tearDown_of_unseated {m : Main} {c : Nat} (hberth : (m.ctx c).berth = none) :
    ∃ u o, m.tearDown c = (Main.setCtx { m with
      pages := u, freeOrder := o, kr := { m.kr with switches := m.kr.switches.filterMap (Switch.without c) } } c
      (m.ctx c).stripped).unbindAll c := by
  obtain ⟨u, o, hfree⟩ := (m.releaseReserved (· == c)).freeStreams_spec c
  have hstrip : ((m.releaseReserved (· == c)).freeStreams c).updCtx c (fun x => { x with imageValid := false, seqLen := 0, kvLimit := 0 })
      = Main.setCtx { m with pages := u, freeOrder := o } c (m.ctx c).stripped := by
    rw [hfree]
    exact Main.updCtx_setCtx _ _ _ _
  simp only [Main.tearDown, hberth, hstrip]
  exact ⟨u, o, rfl⟩

/-- TEARDOWN_DONE of a context outside every berth (R247, orders 3 to 6). -/
theorem Main.teardownDone_of_unseated {m : Main} {c : Nat} (hstate : (m.ctx c).state = .faulted) (hcause : (m.ctx c).cause = .tearing)
    (hread : (m.ctx c).reading = []) (hrun : m.running c = false) (hberth : (m.ctx c).berth = none) :
    ∃ u o p w z, m.teardownDone c = Main.setCtx { m with
          pages := u, freeOrder := o, plans := p, wards := w, host := z
          kr := { m.kr with switches := m.kr.switches.filterMap (Switch.without c), event := true } } c
        { (m.ctx c).stripped with cause := .torn }
      ∧ ((m.plans.map (·.1)).Nodup → (∀ q ∈ m.plans, q.2.contexts.Nodup) → ∀ q ∈ p, c ∉ q.2.contexts) := by
  obtain ⟨u, o, htear⟩ := Main.tearDown_of_unseated hberth
  generalize hk : { m.kr with switches := m.kr.switches.filterMap (Switch.without c) } = k at htear
  obtain ⟨p, w, z, hmoved⟩ := (Main.setCtx { m with pages := u, freeOrder := o, kr := k } c (m.ctx c).stripped).plansMoved_unbindAll c
  have hunbound := Main.unbound_of_unbindAll (m := Main.setCtx { m with pages := u, freeOrder := o, kr := k } c (m.ctx c).stripped) c
  rw [hmoved] at hunbound
  have htorn := Main.updCtx_setCtx { m with pages := u, freeOrder := o, kr := k, plans := p, wards := w, host := z } c
    (m.ctx c).stripped fun x => { x with cause := .torn }
  have hdue : (m.ctx c).state = .faulted ∧ (m.ctx c).cause = .tearing ∧ (m.ctx c).reading.isEmpty = true ∧ (!m.running c) = true := by
    simp [hstate, hcause, hread, hrun]
  refine ⟨u, o, p, w, z, ?_, hunbound⟩
  simp only [Main.teardownDone, hdue, and_self, if_true, htear, hmoved]
  subst hk
  exact congrArg (fun n : Main => { n with kr := { n.kr with event := true } }) htorn

/-- TEARDOWN_DONE of a context outside every berth, where each plan record is listed once with each of its contexts once (R247). -/
theorem Machine.teardownDone_tears {s : State} {c : Fin 3072} (hup : s.wardenUp = true) (hstate : (s.mn.ctx c.val).state = .faulted)
    (hcause : (s.mn.ctx c.val).cause = .tearing) (hread : (s.mn.ctx c.val).reading = []) (hrun : s.mn.running c.val = false)
    (hctxs : ∀ p ∈ s.mn.plans, p.2.contexts.Nodup) (hplans : (s.mn.plans.map (·.1)).Nodup) (hberth : (s.mn.ctx c.val).berth = none) :
    OnWarden (.teardownDone c) s fun n =>
      n = { s.mn with ctxs := n.ctxs, pages := n.pages, freeOrder := n.freeOrder, kr := n.kr, plans := n.plans, wards := n.wards
                      host := n.host, absent := n.absent }
        ∧ s.mn.CtxsBut n c.val ∧ n.ctx c.val = { (s.mn.ctx c.val).stripped with cause := .torn } ∧ n.kr.event = true
        ∧ ∀ p ∈ n.plans, c.val ∉ p.2.contexts := by
  obtain ⟨u, o, p, w, z, htear, hunbound⟩ := Main.teardownDone_of_unseated hstate hcause hread hrun hberth
  refine onWarden_eq rfl hup htear fun n a hn => ?_
  have hn' : n.ctxs = (s.mn.setCtx c.val { (s.mn.ctx c.val).stripped with cause := .torn }).ctxs := by subst hn; rfl
  have hp : n.plans = p := by subst hn; rfl
  exact ⟨by subst hn; rfl, (s.mn.ctxsBut_setCtx _ _).of_ctxs hn', (Main.ctx_of_ctxs hn' _).trans (s.mn.ctx_setCtx_same _ _),
    by subst hn; rfl, hp ▸ hunbound hplans hctxs⟩

/-! ## CTX_CMD -/

/-- A host access to the Warden's side, while it is up, that sets one context and nothing else. -/
theorem Machine.onWarden_setCtx {i : Instr} {s : State} {f : Main → Main} {c : Nat} {x : Ctx}
    (e : exec i s = .next (s.hostWarden f)) (hup : s.HostUp) (hf : f s.mn = s.mn.setCtx c x) :
    OnWarden i s fun n => n = { s.mn with ctxs := n.ctxs, absent := n.absent } ∧ s.mn.CtxsBut n c ∧ n.ctx c = x := by
  refine onWarden_hostEq e hup hf fun n a hn => ?_
  have hctxs : n.ctxs = (s.mn.setCtx c x).ctxs := by subst hn; rfl
  exact ⟨by subst hn; rfl, (s.mn.ctxsBut_setCtx c x).of_ctxs hctxs, (Main.ctx_of_ctxs hctxs c).trans (s.mn.ctx_setCtx_same c x)⟩

/-- Release acts on a TORN context (R247). -/
theorem Main.ctxRelease_of_torn {m : Main} (hstate : (m.ctx m.selected).state = .faulted) (hcause : (m.ctx m.selected).cause = .torn) :
    m.ctxRelease = m.setCtx m.selected {} :=
  if_pos ⟨hstate, hcause⟩

/-- Evict acts on a resident (R250). -/
theorem Main.ctxEvict_of_resident {m : Main} (h : (m.ctx m.selected).resident = true) :
    m.ctxEvict = m.setCtx m.selected { m.ctx m.selected with evict := true } :=
  if_pos h

/-- Settles O21: a teardown's end, and the release and eviction of the selected context, each by the equation of its command. -/
theorem teardownAndRelease : Obligations.TeardownAndRelease := by
  refine ⟨?torn, ?release, ?evict⟩
  case torn =>
    intro s c hup hstate hcause hread hrun hctxs hplans hberth
    obtain ⟨n, hexec, hframe, hbut, hctx, hevent, hunbound⟩ :=
      teardownDone_tears hup hstate hcause hread hrun hctxs hplans hberth
    refine ⟨n, hexec, hframe, hbut, ?_⟩
    rw [hctx]
    exact ⟨hstate, rfl, rfl, rfl, rfl, hevent, hunbound⟩
  case release => exact fun s hup hstate hcause => onWarden_setCtx rfl hup (Main.ctxRelease_of_torn hstate hcause)
  case evict => exact fun s hup hres => onWarden_setCtx rfl hup (Main.ctxEvict_of_resident hres)

end Sys2Proof
end

section
/-! SUPPORT AND PROOF. Chained instances (spec/10_keyring.md R235, spec/14_laniza_chain.md R317, R318, R324): what a run over wards and an
instance of one member leave, and an equation for each command of the chain's instances. -/

namespace Sys2Proof
open Machine

/-! ## Wards one after another -/

theorem Main.updWard_updWard (m : Main) (w : Nat) (f g : Ward → Ward) : (m.updWard w f).updWard w g = m.updWard w fun x => g (f x) := by
  rw [Main.updWard, Main.updWard, Main.ward_setWard_same]
  exact congrArg (fun t => { m with wards := t }) (Tab.put_put wardDef w _ _ m.wards)

/-- A fold that changes each of some wards by itself changes those, once each, and nothing else. -/
theorem Main.foldl_wards {f : Main → Nat → Main} {G : Nat → Ward → Ward} {ws : List Nat} (hws : ws.Nodup) {m : Main}
    (hf : ∀ u w, f { m with wards := u } w = Main.updWard { m with wards := u } w (G w)) :
    ∃ u, ws.foldl f m = { m with wards := u } ∧ ∀ w, Tab.get wardDef u w = if w ∈ ws then G w (m.ward w) else m.ward w := by
  induction ws generalizing m with
  | nil => exact ⟨m.wards, rfl, fun w => (if_neg List.not_mem_nil).symm⟩
  | cons a ws ih =>
    obtain ⟨ha, hws⟩ := List.nodup_cons.1 hws
    obtain ⟨u, hu, hget⟩ := ih hws (m := { m with wards := Tab.put wardDef a (G a (m.ward a)) m.wards }) hf
    refine ⟨u, (congrArg (ws.foldl f) (hf m.wards a)).trans hu, fun w => ?_⟩
    rw [hget w, Main.ward]
    by_cases hw : w = a
    case pos =>
      subst hw
      rw [if_neg ha, if_pos List.mem_cons_self, Tab.get_put_same]
    case neg =>
      rw [Tab.get_put_other _ _ _ _ _ hw]
      simp only [List.mem_cons, hw, false_or]
      rfl

theorem wardsOf_nodup (mask : Nat) : (wardsOf mask).Nodup := List.nodup_range.filter _

theorem mem_wardsOf {mask w : Nat} : w ∈ wardsOf mask ↔ w < 16 ∧ mask / 2 ^ w % 2 = 1 := by
  simp [wardsOf]

/-! ## An instance of one member -/

theorem Ctx.need_of_none_carried {b : Bitting} (h : b.aux.carried = []) (x : Ctx) (berth rows : Nat) : x.need b berth rows = 0 := by
  rw [Ctx.need, h]
  rfl

/-- A member that needs no page reserves none (R211). -/
theorem Main.reserveFor_of_zero (m : Main) (c rows : Nat) (inst : List Nat) (f : Nat) :
    Main.reserveFor c 0 rows inst (f + 1) m = (m, some []) := by
  simp only [Main.reserveFor, Nat.zero_le, if_true, List.take_zero]
  rfl

/-- A ward that takes the settings of the part as an instance is emitted on it (R103). -/
def Main.takenWard (m : Main) (x : Ward) : Ward :=
  { x with
    h3 := m.fld F.HINGE_CTL_assist / 4 % 2 == 1, prot := m.prot.written, protGen := m.prot.gen, thresh := m.word 0x8018
    roundDone := false }

theorem Main.takeSettings_roundBegins (m : Main) (w : Nat) :
    (m.takeSettings w).updWard w (fun x => { x with roundDone := false }) = m.updWard w m.takenWard := by
  rw [Main.takeSettings, Main.updWard_updWard]
  rfl

/-- Each ward of an instance takes the settings and begins a round, and nothing else changes. -/
theorem Main.foldl_roundBegins (m : Main) {ws : List Nat} (hws : ws.Nodup) :
    ∃ u, ws.foldl (fun m w => (m.takeSettings w).updWard w fun x => { x with roundDone := false }) m = { m with wards := u }
      ∧ ∀ w, Tab.get wardDef u w = if w ∈ ws then m.takenWard (m.ward w) else m.ward w :=
  Main.foldl_wards (G := fun _ => m.takenWard) hws fun u w => Main.takeSettings_roundBegins { m with wards := u } w

/-- The instance of a bitting emitted for `n` rows of one context with no pages reserved (R233). -/
def Main.soloInst (m : Main) (h : Nat) (b : Bitting) (c n round : Nat) : Inst :=
  { live := true, mask := b.mask, handle := h
    members := [{ ctx := c, berth := (m.ctx c).berthNo, rows := n, recompute := false
                  pos0 := ((m.ctx c).run.map fun r => r.startLen + r.done).getD (m.ctx c).seqLen }]
    step := m.kr.step, round := round, loadedWards := (wardsOf b.mask).filter fun w => (m.ward w).loaded == some h
    lists := freshLists b, tokens := freshTokens b, reExec := (m.ctx c).reExec
    chained := decide (1 < b.chainUnits), hold := decide (1 < b.chainUnits) }

/-- The Keyring once an instance of a lead ward is emitted (R231, R233). -/
def Keyring.emitted (kr : Keyring) (lead round : Nat) : Keyring :=
  { kr with listed := true, rounds := (lead, round) :: kr.rounds.filter fun q => q.1 != lead }

/-- A bitting that carries nothing opens no stream, and a context that recomputes nothing reconciles none (R205, R213). -/
theorem Main.openStreams_reconcile_of_plain {m : Main} {b : Bitting} {c : Nat} (hcar : b.aux.carried = [])
    (hre : (m.ctx c).recompute = false) : (m.openStreams c b).reconcile c = m.setCtx c (m.ctx c) := by
  have hopen : m.openStreams c b = m.setCtx c (m.ctx c) := by
    simp only [Main.openStreams, hcar, List.foldl_nil]
    rfl
  rw [hopen]
  simp only [Main.reconcile, Main.ctx_setCtx_same, hre]
  rfl

/-- An instance of one member emitted (R233): contexts read as before, and the set's wards begin a round. -/
theorem Main.emit_of_one {m : Main} {b : Bitting} {c : Nat} (hcar : b.aux.carried = []) (hre : (m.ctx c).recompute = false)
    (h n round : Nat) :
    ∃ t u, m.emit h b [(c, n, [])] round = { m with
          ctxs := t, insts := Tab.put instDef (leadOf b.mask) (m.soloInst h b c n round) m.insts, wards := u
          kr := m.kr.emitted (leadOf b.mask) round }
      ∧ (∀ j, Tab.get ctxDef t j = m.ctx j) ∧ ∀ w ∈ wardsOf b.mask, (Tab.get wardDef u w).roundDone = false := by
  have hsame : ∀ j, (m.setCtx c (m.ctx c)).ctx j = m.ctx j := fun j => by
    by_cases hj : j = c
    · rw [hj, Main.ctx_setCtx_same]
    · exact m.ctx_setCtx_other _ _ _ hj
  obtain ⟨u, hu, hget⟩ := ((m.setCtx c (m.ctx c)).setInst (leadOf b.mask) (m.soloInst h b c n round)).foldl_roundBegins
    (wardsOf_nodup b.mask)
  refine ⟨(m.setCtx c (m.ctx c)).ctxs, u, ?_, hsame, fun w hw => ?_⟩
  · have hinst : (m.setCtx c (m.ctx c)).ctx c = m.ctx c := hsame c
    simp only [Main.emit, List.foldl_cons, List.foldl_nil, Main.openStreams_reconcile_of_plain hcar hre, List.map_cons, List.map_nil,
      List.any_cons, List.any_nil, List.flatMap_cons, List.flatMap_nil, hinst, hre, Bool.or_false, List.append_nil, Bool.false_eq_true,
      if_false]
    exact congrArg (fun k : Main => { k with kr := k.kr.emitted (leadOf b.mask) round }) hu
  · rw [hget w, if_pos hw]
    rfl

/-! ## A membership -/

/-- CHAIN_MEMBERSHIP of one member of this unit, whose set stands idle (R235). -/
theorem Main.chainMembers_of_one {m : Main} {h c k : Nat} {p : Plan} {b : Bitting} {t : BerthSet} (hstored : m.stored = [(h, p, b)])
    (hunits : 1 < b.chainUnits) (hcar : b.aux.carried = []) (hhosted : m.hosted b.modelKey b.mask = some t)
    (hres : t.berths.filterMap (·.1) = [c]) (hstate : (m.ctx c).state = .residentRunning) (hctxs : p.contexts = [c])
    (hvalid : m.bit F.LANIZA_ADDR_valid = true) (hwalk : m.lz.needWalk = false) (hphase : m.lz.phase = .idle)
    (hidle : m.setIdle t = true) (hbuild : m.building = false) (henable : m.bit F.KEYRING_CFG_enable = true) :
    m.chainMembers h [(m.fld F.LANIZA_ADDR_addr, c, k)] = m.emit h b [(c, k, [])] (m.nextRound (leadOf b.mask)) := by
  have hfind : m.stored.find? (fun q => q.1 == h) = some (h, p, b) := by simp [hstored]
  have hmine : (([(m.fld F.LANIZA_ADDR_addr, c, k)].filter fun x => x.1 == m.fld F.LANIZA_ADDR_addr).map fun x => (x.2.1, x.2.2))
      = [(c, k)] := by simp
  have hok : ([(c, k)].all fun q => (t.berths.filterMap (·.1)).contains q.1 && (m.ctx q.1).state == CtxState.residentRunning
      && p.contexts.contains q.1) = true := by simp [hres, hstate, hctxs]
  simp only [Main.chainMembers, hfind, hhosted, hmine, hok, hvalid, hwalk, hphase, hidle, hbuild, henable, Nat.not_le.2 hunits,
    List.foldl_cons, List.foldl_nil, Ctx.need_of_none_carried hcar, Main.reserveFor_of_zero, List.nil_append, List.isEmpty_cons,
    List.length_singleton, not_true_eq_false, Bool.not_true, Bool.false_eq_true, ne_eq, or_self, if_true, if_false]

/-- CHAIN_MEMBERSHIP of one member of this unit (R235): its instance stands and waits for START. -/
theorem Machine.chainMembership_holds {s : State} {h : Fin 4096} {c k : Nat} {p : Plan} {b : Bitting} {t : BerthSet}
    (hup : s.wardenUp = true) (hstored : s.mn.stored = [(h.val, p, b)]) (hunits : 1 < b.chainUnits) (hcar : b.aux.carried = [])
    (hhosted : s.mn.hosted b.modelKey b.mask = some t) (hres : t.berths.filterMap (·.1) = [c])
    (hstate : (s.mn.ctx c).state = .residentRunning) (hctxs : p.contexts = [c]) (hvalid : s.mn.bit F.LANIZA_ADDR_valid = true)
    (hwalk : s.mn.lz.needWalk = false) (hphase : s.mn.lz.phase = .idle) (hidle : s.mn.setIdle t = true) (hbuild : s.mn.building = false)
    (henable : s.mn.bit F.KEYRING_CFG_enable = true) (hre : (s.mn.ctx c).recompute = false) :
    OnWarden (.chainMembership h [(s.mn.fld F.LANIZA_ADDR_addr, c, k)]) s fun n =>
      n = { s.mn with ctxs := n.ctxs, insts := n.insts, wards := n.wards, kr := n.kr, absent := n.absent }
        ∧ (∀ j, n.ctx j = s.mn.ctx j) ∧ s.mn.InstsBut n (leadOf b.mask)
        ∧ n.inst (leadOf b.mask) = s.mn.soloInst h.val b c k (s.mn.nextRound (leadOf b.mask)) := by
  obtain ⟨t, u, hemit, hsame, -⟩ := Main.emit_of_one hcar hre h.val k (s.mn.nextRound (leadOf b.mask))
  have hmembers := Main.chainMembers_of_one (k := k) hstored hunits hcar hhosted hres hstate hctxs hvalid hwalk hphase hidle hbuild henable
  refine onWarden_eq rfl hup (hmembers.trans hemit) fun n a hn => ?_
  have hinsts : n.insts = Tab.put instDef (leadOf b.mask)
    (s.mn.soloInst h.val b c k (s.mn.nextRound (leadOf b.mask))) s.mn.insts := by subst hn; rfl
  exact ⟨by subst hn; rfl, by subst hn; exact hsame, Main.instsBut_of_put hinsts, Main.inst_of_put hinsts⟩

/-! ## START, READY and GO -/

theorem Main.setInst_setInst (m : Main) (k : Nat) (x y : Inst) : (m.setInst k x).setInst k y = m.setInst k y :=
  congrArg (fun t => { m with insts := t }) (Tab.put_put instDef k x y m.insts)

/-- CHAIN_START that names no member of the instance, at a unit other than the first (R317). -/
theorem Main.chainStart_of_none {m : Main} {lead : Nat} {i : Inst} (hi : m.inst lead = i) (hlive : i.live = true) (hhold : i.hold = true)
    (hmembers : i.members ≠ []) (haddr : m.fld F.LANIZA_ADDR_addr ≠ 0) :
    m.chainStart lead [] [] = m.setInst lead { i with hold := false } := by
  have hfree : m.releaseReserved [].contains = m := Main.releaseReserved_of_none m fun _ => rfl
  have hleft : i.members.isEmpty = false := by simpa using hmembers
  simp only [Main.chainStart, hi, hlive, hhold, hfree, hleft, haddr, List.contains_nil, Bool.or_self, Bool.not_true, Bool.not_false,
    List.filter_false, List.filter_true, List.foldl_nil, Bool.false_eq_true, if_false]

/-- CHAIN_START at the first unit, of an instance whose second member faulted elsewhere (R317, R324). -/
theorem Main.chainStart_of_faulted {m : Main} {lead : Nat} {i : Inst} {x y : Member} (hi : m.inst lead = i) (hlive : i.live = true)
    (hhold : i.hold = true) (hmembers : i.members = [x, y]) (hne : x.ctx ≠ y.ctx)
    (hfree : m.releaseReserved (fun j => j == y.ctx) = m) (hres : i.reserved.all (fun q => q.1 == x.ctx) = true)
    (haddr : m.fld F.LANIZA_ADDR_addr = 0) (hport : m.portUp 1 = true) :
    m.chainStart lead [y.ctx] [] =
      ({ m.setCtx y.ctx { m.ctx y.ctx with pendingFault := some (stPlan, 0) } with lz := m.lz.plus 1 (.start i.mask) }).setInst lead
        { i with hold := false, members := [x] } := by
  have hdue : (!i.live || !i.hold) = false := by simp [hlive, hhold]
  have hgone (c : Nat) : ([y.ctx].contains c || [].contains c) = (c == y.ctx) := by
    rw [List.contains_cons, List.contains_nil, Bool.or_false, Bool.or_false]
  have hx : (x.ctx == y.ctx) = false := beq_eq_false_iff_ne.2 hne
  have hkept : (i.reserved.filter fun q => !(q.1 == y.ctx)) = i.reserved := by
    refine List.filter_eq_self.2 fun q hq => ?_
    have hq' : q.1 = x.ctx := by simpa using List.all_eq_true.1 hres q hq
    rw [hq', hx]
    rfl
  have hhere : ((i.members.map (·.ctx)).filter fun c => c == y.ctx) = [y.ctx] := by simp [hmembers, hx]
  have hleft : (i.members.filter fun z => !(z.ctx == y.ctx)) = [x] := by simp [hmembers, hx]
  have hfree' : m.releaseReserved [y.ctx].contains = m := by
    refine Eq.trans (congrArg m.releaseReserved (funext fun c => ?_)) hfree
    rw [List.contains_cons, List.contains_nil, Bool.or_false]
  have hnamed : [y.ctx].contains y.ctx = true := by simp
  have hsend := Main.lzSend_of_up (m := m.setCtx y.ctx { m.ctx y.ctx with pendingFault := some (stPlan, 0) }) hport (.start i.mask)
  have haddr' : (m.setCtx y.ctx { m.ctx y.ctx with pendingFault := some (stPlan, 0) }).fld F.LANIZA_ADDR_addr = 0 := haddr
  simp only [Main.chainStart, hi, hdue, hgone, hhere, hleft, hkept, hfree', hnamed, Main.updCtx, haddr', hsend, List.foldl_cons,
    List.foldl_nil, List.isEmpty_cons, Bool.false_eq_true, if_true, if_false]
  rfl

/-- The first unit sends GO once its own wards and every other unit are ready (R317). -/
theorem Main.lzGo_of_all {m : Main} {lead : Nat} {i : Inst} {b : Bitting} (hi : m.inst lead = i) (hch : i.chained = true)
    (hst : i.staged = true) (hgo : i.chainGo = false) (hb : m.bittingOf i = some b) (hall : b.chainUnits ≤ i.readyFrom.length + 1)
    (hport : m.portUp 1 = true) :
    m.lzGo lead = { m.setInst lead { i with chainGo := true } with lz := m.lz.plus 1 (.go i.mask) } := by
  have hdue : (i.staged && i.chained && !i.chainGo && decide (b.chainUnits ≤ i.readyFrom.length + 1)) = true := by
    simp [hch, hst, hgo, hall]
  simp only [Main.lzGo, hi, hb, Option.map_some, Option.getD_some, hdue, if_true]
  exact Main.lzSend_of_up (m := m.setInst lead { i with chainGo := true }) hport (.go i.mask)

/-- READY of the last unit at the first one, whose own wards are ready: GO goes out (R317). -/
theorem Main.chainReady_of_last {m : Main} {lead unit : Nat} {i : Inst} {b : Bitting} (hi : m.inst lead = i) (hlive : i.live = true)
    (hch : i.chained = true) (hst : i.staged = true) (hgo : i.chainGo = false) (hb : m.bittingOf i = some b) (hunit : unit ≠ 0)
    (hnew : unit ∉ i.readyFrom) (haddr : m.fld F.LANIZA_ADDR_addr = 0) (hall : b.chainUnits ≤ i.readyFrom.length + 2)
    (hport : m.portUp 1 = true) :
    m.chainReady lead unit = { m with
      insts := Tab.put instDef lead { i with readyFrom := unit :: i.readyFrom, chainGo := true } m.insts
      lz := Laniza.plus { m.lz with failDown := 0 } 1 (.go i.mask) } := by
  have hdue : (!i.live || !i.chained || decide (m.fld F.LANIZA_ADDR_addr ≠ 0) || decide (unit = 0)
      || i.readyFrom.contains unit) = false := by
    simp [hlive, hch, haddr, hunit, hnew]
  have hjoined : m.chainReady lead unit
      = (Main.setInst { m with lz := { m.lz with failDown := 0 } } lead { i with readyFrom := unit :: i.readyFrom }).lzGo lead := by
    have haddr' : Main.fld { m with lz := { m.lz with failDown := 0 } } F.LANIZA_ADDR_addr = m.fld F.LANIZA_ADDR_addr := rfl
    simp only [Main.chainReady, hi, haddr', hdue, Bool.false_eq_true, if_false]
  generalize { m.lz with failDown := 0 } = z at hjoined ⊢
  have hsent := Main.lzGo_of_all (m := Main.setInst { m with lz := z } lead { i with readyFrom := unit :: i.readyFrom })
    (Main.inst_setInst_same _ _ _) hch hst hgo hb hall hport
  rw [Main.setInst_setInst] at hsent
  exact hjoined.trans hsent

/-- GO at a unit whose step is staged goes on downstream (R317). -/
theorem Main.chainGo_of_staged {m : Main} {lead : Nat} {i : Inst} (hi : m.inst lead = i) (hlive : i.live = true) (hch : i.chained = true)
    (hst : i.staged = true) (hport : m.portUp 1 = true) :
    m.chainGo lead = { m.setInst lead { i with chainGo := true } with lz := m.lz.plus 1 (.go i.mask) } := by
  have hsend := Main.lzSend_of_up (m := m.setInst lead { i with chainGo := true }) hport (.go i.mask)
  have hdue : (i.live && i.chained && i.staged) = true := by simp [hlive, hch, hst]
  simp only [Main.chainGo, hi, hdue, if_true]
  exact hsend

/-! ## An instance cut short -/

/-- An instance ended leaves its wards at a boundary (R102). -/
theorem Main.endInst_spec (m : Main) (lead : Nat) :
    ∃ u, m.endInst lead = { m with insts := Tab.put instDef lead {} m.insts, wards := u }
      ∧ ∀ w, Tab.get wardDef u w
        = if w ∈ wardsOf (m.inst lead).mask then { m.ward w with roundDone := true, openUnits := [] } else m.ward w :=
  Main.foldl_wards (m := m.setInst lead {}) (G := fun _ x => { x with roundDone := true, openUnits := [] }) (wardsOf_nodup _)
    fun _ _ => rfl

theorem Main.walkQuiet_of_idle {m : Main} (h : m.lz.phase = .idle) : m.walkQuiet = m := by
  simp [Main.walkQuiet, h]

/-- Where nothing waits, a boundary that an instance's wards have reached brings hinge H3 up to date alone (R103, R295). -/
theorem Main.settle_wards {m : Main} (hq : m.Quiet) (g : Tab Word) (t : Tab Inst) {u : Tab Ward} (x : Tab Nat) (z : Laniza)
    (hu : ∀ w, (Tab.get wardDef u w).fencePending = (m.ward w).fencePending ∧ (Tab.get wardDef u w).powered = (m.ward w).powered) :
    ∃ r, Main.settle { m with regs := g, insts := t, wards := u, ctr := x, lz := z }
        = { m with regs := r, insts := t, wards := u, ctr := x, lz := z }
      ∧ ∀ o, o ∉ [F.HINGE_NOW_in_force.off] → Tab.get regReset r o = Tab.get regReset g o := by
  have hquiet : Main.Quiet { m with regs := g, insts := t, wards := u, ctr := x, lz := z } := Main.quiet_congr hq rfl rfl rfl hu
  obtain ⟨r, hr, hregs⟩ := Main.settleH3_regs { m with regs := g, insts := t, wards := u, ctr := x, lz := z }
  exact ⟨r, (Main.settle_of_quiet _ hquiet).trans hr, hregs⟩

/-- What a counter is raised to depends on the counters alone. -/
theorem Main.count_of_ctr {m k : Main} (h : k.ctr = m.ctr) (id j n : Nat) : k.count id j n = { k with ctr := (m.count id j n).ctr } := by
  simp only [Main.count, Main.counter, h]

/-- What a field is set to depends on the register words alone. -/
theorem Main.setFld_of_regs {m k : Main} (h : k.regs = m.regs) (f : Fld) (v : Nat) :
    k.setFld f v = { k with regs := (m.setFld f v).regs } := by
  simp only [Main.setFld, Main.setWord, Main.word, h]

theorem Main.word_setFld_of_regs {m k : Main} (h : k.regs = m.regs) (f : Fld) (v o : Nat) :
    (k.setFld f v).word o = (m.setFld f v).word o := by
  simp only [Main.setFld, Main.setWord, Main.word, h]

/-- The end of a chained instance that is cut short, once its pages are given back and its record has left the log (R318). -/
def Main.chainEnd (m : Main) (lead : Nat) : Main :=
  let k := ((m.endInst lead).count 0x41 0 1).setFld F.LANIZA_STATUS_chain_abort 1
  Main.settle { k with lz := { k.lz with needWalk := true } }

/-- Where nothing waits for a boundary, the end of a chained instance is flagged and counted, and no other begins until a walk completes
(R318). -/
theorem Main.chainEnd_of_quiet {m : Main} (hq : m.Quiet) (lead : Nat) :
    ∃ u r, m.chainEnd lead = { m with
          regs := r, insts := Tab.put instDef lead {} m.insts, wards := u, ctr := (m.count 0x41 0 1).ctr
          lz := { m.lz with needWalk := true } }
      ∧ (∀ o, o ∉ [F.HINGE_NOW_in_force.off] → Tab.get regReset r o = (m.setFld F.LANIZA_STATUS_chain_abort 1).word o)
      ∧ ∀ w, Tab.get wardDef u w
          = if w ∈ wardsOf (m.inst lead).mask then { m.ward w with roundDone := true, openUnits := [] } else m.ward w := by
  obtain ⟨u, hend, hget⟩ := m.endInst_spec lead
  have hu (w : Nat) : (Tab.get wardDef u w).fencePending = (m.ward w).fencePending
      ∧ (Tab.get wardDef u w).powered = (m.ward w).powered := by
    rw [hget w]
    split
    case isTrue => exact ⟨rfl, rfl⟩
    case isFalse => exact ⟨rfl, rfl⟩
  obtain ⟨r, hr, hregs⟩ := Main.settle_wards hq (m.setFld F.LANIZA_STATUS_chain_abort 1).regs (Tab.put instDef lead {} m.insts)
    (m.count 0x41 0 1).ctr { m.lz with needWalk := true } hu
  refine ⟨u, r, ?_, hregs, hget⟩
  generalize Tab.put instDef lead {} m.insts = t at hend hr ⊢
  have hcount := Main.count_of_ctr (m := m) (k := { m with insts := t, wards := u }) rfl 0x41 0 1
  generalize (m.count 0x41 0 1).ctr = x at hr hcount ⊢
  have hflag := Main.setFld_of_regs (m := m) (k := { m with insts := t, wards := u, ctr := x }) rfl F.LANIZA_STATUS_chain_abort 1
  generalize (m.setFld F.LANIZA_STATUS_chain_abort 1).regs = g at hr hflag
  simp only [Main.chainEnd, hend, hcount, hflag]
  exact hr

/-- A chained instance that is cut short where nothing waits for a boundary: its pages go back and its record leaves the log (R318). -/
theorem Main.chainCut_of_quiet {m : Main} {lead : Nat} {i : Inst} (hi : m.inst lead = i) (hlive : i.live = true) (hch : i.chained = true)
    (hq : m.Quiet) :
    ∃ u r, m.chainCut lead = { m with
          regs := r, insts := Tab.put instDef lead {} m.insts, wards := u, ctr := (m.count 0x41 0 1).ctr
          lz := { m.lz with needWalk := true }
          log := { m.log with pipe := m.log.pipe.filter fun k => k.live || k.inst.mask != i.mask }
          pages := (m.releaseReserved fun c => i.members.any fun x => x.ctx == c).pages }
      ∧ (∀ o, o ∉ [F.HINGE_NOW_in_force.off] → Tab.get regReset r o = (m.setFld F.LANIZA_STATUS_chain_abort 1).word o)
      ∧ ∀ w, Tab.get wardDef u w = if w ∈ wardsOf i.mask then { m.ward w with roundDone := true, openUnits := [] } else m.ward w := by
  have hdue : (!i.live || !i.chained) = false := by simp [hlive, hch]
  have hcut : m.chainCut lead = Main.chainEnd { m with
      log := { m.log with pipe := m.log.pipe.filter fun k => k.live || k.inst.mask != i.mask }
      pages := (m.releaseReserved fun c => i.members.any fun x => x.ctx == c).pages } lead := by
    simp only [Main.chainCut, hi, hdue, Bool.false_eq_true, if_false]
    rfl
  generalize (m.releaseReserved fun c => i.members.any fun x => x.ctx == c).pages = p at hcut ⊢
  generalize { m.log with pipe := m.log.pipe.filter fun k => k.live || k.inst.mask != i.mask } = l at hcut ⊢
  have hquiet : Main.Quiet { m with log := l, pages := p } := Main.quiet_congr hq rfl rfl rfl fun w => ⟨rfl, rfl⟩
  obtain ⟨u, r, hend, hregs, hget⟩ := Main.chainEnd_of_quiet hquiet lead
  have hctr := congrArg Main.ctr (Main.count_of_ctr (m := m) (k := { m with log := l, pages := p }) rfl 0x41 0 1)
  rw [hctr] at hend
  exact ⟨u, r, hcut.trans hend, fun o ho => (hregs o ho).trans (Main.word_setFld_of_regs rfl _ _ o), hi ▸ hget⟩

/-- CHAIN_GO_TIMEOUT of a staged instance for which GO has not come, where nothing waits for a boundary (R318). -/
theorem Machine.chainGoTimeout_cuts {s : State} {lead : Fin 16} {i : Inst} (hup : s.wardenUp = true) (hi : s.mn.inst lead.val = i)
    (hlive : i.live = true) (hch : i.chained = true) (hst : i.staged = true) (hgo : i.chainGo = false) (hq : s.mn.Quiet)
    (hphase : s.mn.lz.phase = .idle) :
    OnWarden (.chainGoTimeout lead) s fun n =>
      n = { s.mn with regs := n.regs, insts := n.insts, wards := n.wards, ctr := n.ctr, lz := { s.mn.lz with needWalk := true }
                      log := { s.mn.log with pipe := s.mn.log.pipe.filter fun k => k.live || k.inst.mask != i.mask }
                      pages := (s.mn.releaseReserved fun c => i.members.any fun x => x.ctx == c).pages, absent := n.absent }
        ∧ s.mn.InstsBut n lead.val ∧ n.inst lead.val = {} ∧ n.fld F.LANIZA_STATUS_chain_abort = 1
        ∧ s.mn.RegsBut n [F.LANIZA_STATUS_chain_abort.off, F.HINGE_NOW_in_force.off] ∧ s.mn.CountersBut n [(0x41, 0)]
        ∧ n.counter 0x41 0 = satAdd 48 (s.mn.counter 0x41 0) 1
        ∧ ∀ w, n.ward w = if w ∈ wardsOf i.mask then { s.mn.ward w with roundDone := true, openUnits := [] } else s.mn.ward w := by
  obtain ⟨u, r, hcut, hregs, hget⟩ := Main.chainCut_of_quiet hi hlive hch hq
  have hdue : (i.live && i.chained && i.staged && !i.chainGo) = true := by simp [hlive, hch, hst, hgo]
  have htimeout : s.mn.chainTimeout lead.val = s.mn.chainCut lead.val := by
    simp only [Main.chainTimeout, hi, hdue, if_true]
    exact Main.walkQuiet_of_idle (by rw [hcut]; exact hphase)
  rw [hcut] at htimeout
  refine onWarden_eq rfl hup htimeout fun n a hn => ?_
  have hinsts : n.insts = Tab.put instDef lead.val {} s.mn.insts := by subst hn; rfl
  have hctr : n.ctr = (s.mn.count 0x41 0 1).ctr := by subst hn; rfl
  have hword (o : Nat) : n.word o = Tab.get regReset r o := by subst hn; rfl
  refine ⟨by subst hn; rfl, Main.instsBut_of_put hinsts, Main.inst_of_put hinsts, ?flag, ?regs,
    Main.countersBut_of_count (by decide) hctr, Main.counter_of_count hctr, by subst hn; exact hget⟩
  case flag =>
    rw [Main.fld, hword, hregs _ (by decide)]
    exact s.mn.fld_setFld_same F.LANIZA_STATUS_chain_abort 1 ⟨by decide, by decide⟩
  case regs =>
    intro o ho
    rw [List.mem_cons, not_or] at ho
    rw [hword, hregs o ho.2]
    exact s.mn.regsBut_setFld F.LANIZA_STATUS_chain_abort 1 o (by simpa using ho.1)

/-- Settles O36: a membership, START with and without a fault elsewhere, READY, GO, and a GO that does not come, each by the lemma of its
command. -/
theorem chainedInstancesRun : Obligations.ChainedInstancesRun := by
  refine ⟨?membership, ?start, ?faulted, ?ready, ?go, ?timeout⟩
  case membership =>
    intro s h c k p b t hup hstored hunits hcar hhosted hres hstate hctxs hvalid hwalk hphase hidle hbuild henable hre
    obtain ⟨n, hexec, hframe, hsame, hbut, hinst⟩ := chainMembership_holds (k := k) hup hstored hunits hcar hhosted hres hstate hctxs
      hvalid hwalk hphase hidle hbuild henable hre
    refine ⟨n, hexec, hframe, hsame, hbut, ?_⟩
    rw [hinst]
    exact ⟨rfl, decide_eq_true hunits, decide_eq_true hunits, rfl, rfl, rfl⟩
  case start =>
    intro s lead i hup hi hlive hhold hmembers haddr
    have hstart := Main.chainStart_of_none hi hlive hhold hmembers haddr
    refine onWarden_lapse rfl hup hstart rfl fun n a hn => ?_
    have hinsts : n.insts = Tab.put instDef lead.val { i with hold := false } s.mn.insts := by subst hn; rfl
    exact ⟨by subst hn; rfl, Main.instsBut_of_put hinsts, Main.inst_of_put hinsts⟩
  case faulted =>
    intro s lead i x y hup hi hlive hhold hmembers hne hfree hres haddr hport
    have hstart := Main.chainStart_of_faulted hi hlive hhold hmembers hne hfree hres haddr hport
    refine onWarden_lapse rfl hup hstart rfl fun n a hn => ?_
    have hinsts : n.insts = Tab.put instDef lead.val { i with hold := false, members := [x] } s.mn.insts := by subst hn; rfl
    have hctxs : n.ctxs = (s.mn.setCtx y.ctx { s.mn.ctx y.ctx with pendingFault := some (stPlan, 0) }).ctxs := by subst hn; rfl
    exact ⟨by subst hn; rfl, Main.instsBut_of_put hinsts, Main.inst_of_put hinsts, (s.mn.ctxsBut_setCtx _ _).of_ctxs hctxs,
      (Main.ctx_of_ctxs hctxs _).trans (s.mn.ctx_setCtx_same _ _)⟩
  case ready =>
    intro s lead unit i b hup hi hlive hch hst hgo hb hunit hnew haddr hall hport
    have hunit' : unit.val ≠ 0 := fun h => hunit (Fin.ext h)
    have hready := Main.chainReady_of_last hi hlive hch hst hgo hb hunit' hnew haddr hall hport
    refine onWarden_eq rfl hup hready fun n a hn => ?_
    have hinsts : n.insts = Tab.put instDef lead.val { i with readyFrom := unit.val :: i.readyFrom, chainGo := true } s.mn.insts := by
      subst hn; rfl
    exact ⟨by subst hn; rfl, by subst hn; rfl, Main.instsBut_of_put hinsts, Main.inst_of_put hinsts⟩
  case go =>
    intro s lead i hup hi hlive hch hst hport
    refine onWarden_eq rfl hup (Main.chainGo_of_staged hi hlive hch hst hport) fun n a hn => ?_
    have hinsts : n.insts = Tab.put instDef lead.val { i with chainGo := true } s.mn.insts := by subst hn; rfl
    exact ⟨by subst hn; rfl, Main.instsBut_of_put hinsts, Main.inst_of_put hinsts⟩
  case timeout =>
    intro s lead i hup hi hlive hch hst hgo hq hphase
    obtain ⟨n, hexec, hframe, hbut, hinst, hflag, hregs, hctrs, hctr, hward⟩ :=
      chainGoTimeout_cuts hup hi hlive hch hst hgo hq hphase
    refine ⟨n, hexec, hframe, hbut, hinst, hflag, hregs, hctrs, hctr, fun w hw => (hward w).trans ?_⟩
    simp only [mem_wardsOf, hw, true_and]

end Sys2Proof
end

section
/-! SUPPORT AND PROOF. List points and rounds (spec/10_keyring.md R230 to R234): the steps by which a list is built, what is built for one
idle set of one resident, and what a list point does before it builds. -/

namespace Sys2Proof
open Machine

/-! ## The steps of a list -/

section
variable {m : Main} (hwait : m.kr.h2Wait = none) (f : Nat)
include hwait

theorem Main.runBuild_of_job {j : Job} {js : List Job} (hb : m.kr.build = none) (hj : m.kr.jobs = j :: js) :
    Main.runBuild (f + 1) m = Main.runBuild f (Main.openJob { m with kr := { m.kr with jobs := js } } j) := by
  simp only [Main.runBuild, hwait, hb, hj, Option.isSome_none, Bool.false_eq_true, if_false]

theorem Main.runBuild_of_member {b : Build} {c n : Nat} {rest : List (Nat × Nat)} (hb : m.kr.build = some b)
    (ht : b.todo = (c, n) :: rest) : Main.runBuild (f + 1) m = Main.runBuild f (m.buildMember b c n rest) := by
  simp only [Main.runBuild, hwait, hb, ht, Option.isSome_none, Bool.false_eq_true, if_false]

theorem Main.runBuild_of_close {b : Build} (hb : m.kr.build = some b) (ht : b.todo = []) :
    Main.runBuild (f + 1) m = Main.runBuild f (m.closeBuild b) := by
  simp only [Main.runBuild, hwait, hb, ht, Option.isSome_none, Bool.false_eq_true, if_false]

theorem Main.runBuild_of_none (hb : m.kr.build = none) (hj : m.kr.jobs = []) : Main.runBuild f m = m := by
  cases f with
  | zero => rfl
  | succ f => simp only [Main.runBuild, hwait, hb, hj, Option.isSome_none, Bool.false_eq_true, if_false]

end

/-! ## One idle set of one resident -/

/-- The set of a bitting hosted for one resident in its only berth (R226). -/
def soloSet (b : Bitting) (c : Nat) (last : Option Nat) : BerthSet := { model := b.modelKey, mask := b.mask, berths := [(some c, last)] }

/-- The job of an instance for that set (R232). -/
def soloJob (b : Bitting) (round : Nat) : Job := { model := b.modelKey, mask := b.mask, round := round }

/-- The build which that job opens for resident `c` of the set, with plan record `h` and `n` rows (R233). -/
def soloBuild (h : Nat) (b : Bitting) (c n round : Nat) : Build :=
  { job := soloJob b round, handle := h, cut := [(c, n)], todo := [(c, n)] }

/-- That build once its only member has joined. -/
def fullBuild (h : Nat) (b : Bitting) (c n round : Nat) : Build := { soloBuild h b c n round with todo := [], got := [(c, n, [])] }

/-- One hosted set of one berth stands idle on scheduled wards, its resident `c` wants `n` rows of the layer group of bitting `b`, which
alone is stored, serves it and needs no page, region or other unit (R232 to R234). -/
structure Main.Serves (m : Main) (c h n : Nat) (p : Plan) (b : Bitting) (last : Option Nat) : Prop where
  state : (m.ctx c).state = .residentRunning
  sound : (m.ctx c).pendingFault = none
  kept : (m.ctx c).evict = false
  current : (m.ctx c).recompute = false
  cursor : (m.ctx c).cursor = b.layerGroup
  rows : (m.ctx c).rowsWanted = n
  wants : 0 < n
  rowsMin : b.rowsMin ≤ n
  rowsMax : n ≤ b.rowsMax
  stored : m.stored = [(h, p, b)]
  plan : (m.plan h).bitting = some b
  role : p.role = 0
  contexts : p.contexts = [c]
  ordinary : b.flags / 2 % 2 = 0
  weights : b.aux.weights = []
  carried : b.aux.carried = []
  tensors : b.tensors = []
  units : b.chainUnits = 1
  cap : m.capNow ≤ b.minPlevel
  sets : m.kr.sets = [soloSet b c last]
  insts : m.insts = []
  regions : m.regions = []
  unfenced : m.fence.fenced = 0
  switches : m.kr.switches = []
  build : m.kr.build = none
  jobs : m.kr.jobs = []
  h2Wait : m.kr.h2Wait = none
  lanes : ∀ w < 16, (m.ward w).lane = none

/-- Where no ward is fenced or set aside, every ward is scheduled (R230). -/
theorem Main.mem_scheduled {m : Main} (hf : m.fence.fenced = 0) {w : Nat} : w ∈ m.scheduled ↔ w < 16 ∧ (m.ward w).lane = none := by
  simp [Main.scheduled, Main.fencedWard, hf]

/-- A bitting without tensor records reaches no buffer (R276). -/
theorem Main.buffersOk_of_no_tensors (m : Main) (c : Nat) {b : Bitting} (ht : b.tensors = []) (rows : Nat) :
    m.buffersOk c b rows = true := by
  unfold Main.buffersOk
  dsimp only
  split
  case h_1 => rfl
  case h_2 => simp [ht]

section
variable {m : Main} {c h n : Nat} {p : Plan} {b : Bitting} {last : Option Nat} (hs : m.Serves c h n p b last)
include hs

/-- The set stands at a boundary (R231). -/
theorem Main.Serves.setIdle : m.setIdle (soloSet b c last) = true := by
  have hwards : ∀ w ∈ wardsOf b.mask, w ∈ m.scheduled ∧ m.instOn w = none := fun w hw => by
    have hlt := (mem_wardsOf.1 hw).1
    refine ⟨(Main.mem_scheduled hs.unfenced).2 ⟨hlt, hs.lanes w hlt⟩, ?_⟩
    rw [Main.instOn, hs.insts]
    rfl
  simpa [Main.setIdle, soloSet, hs.kept, hs.switches, hs.regions] using hwards

/-- The bitting is a candidate for its resident's ordinary work (R234). -/
theorem Main.Serves.candidate : m.candidate b.modelKey b.mask b.layerGroup 0 [c] (h, p, b) = true := by
  simp [Main.candidate, Main.regionsUp, Main.mayBuild, hs.role, hs.ordinary, hs.contexts, hs.cap, hs.weights, hs.units]

/-- It is the one chosen for the rows the resident wants (R234). -/
theorem Main.Serves.choosePlan : m.choosePlan b.modelKey b.mask b.layerGroup 0 [c] n = some (h, p, b) := by
  have hcands : m.stored.filter (m.candidate b.modelKey b.mask b.layerGroup 0 [c]) = [(h, p, b)] := by
    simp [hs.stored, hs.candidate]
  have hfits : [(h, p, b)].filter (fun q => decide (q.2.2.rowsMin ≤ n) && decide (n ≤ q.2.2.rowsMax)) = [(h, p, b)] := by
    simp [hs.rowsMin, hs.rowsMax]
  simp only [Main.choosePlan, hcands, hfits, bestPlan, List.foldl_nil]

/-- The build that the set's job opens, of the resident alone (R233). -/
theorem Main.Serves.openSet (round : Nat) : m.openSet (soloJob b round) (soloSet b c last)
    = { m with kr := { m.kr with build := some (soloBuild h b c n round) } } := by
  have hres : (soloSet b c last).berths.filterMap (·.1) = [c] := rfl
  have hdue : m.dueFaults ([c].filter fun c => (m.ctx c).runnable) = m := by
    simp [Main.dueFaults, Ctx.runnable, hs.state, hs.sound]
  have hrun : m.byBalance ([c].filter fun c => (m.ctx c).state == CtxState.residentRunning) = [c] := by
    simp [hs.state, Main.byBalance, Main.insBal]
  have hready : ([c].filter fun j => (m.ctx j).recompute == false && (false || (m.ctx j).cursor == b.layerGroup)
      && decide (0 < (m.ctx j).rowsWanted)) = [c] := by
    simp [hs.current, hs.cursor, hs.rows, hs.wants]
  have hsolo : m.soloFilter c [c] = [c] := by
    unfold Main.soloFilter
    dsimp only
    split
    case isTrue => simp
    case isFalse hshared => simp [hshared]
  have hchoose : m.choosePlan (soloSet b c last).model (soloSet b c last).mask b.layerGroup 0 [c] n = some (h, p, b) := hs.choosePlan
  have hcut : rowsPrefix b.rowsMax [(c, min n b.rowsMax)] = [(c, n)] := by
    simp [rowsPrefix, hs.rowsMax]
  simp only [Main.openSet, hres, hdue, hrun, hs.current, hs.cursor, hready, hsolo, List.map_cons, List.map_nil, hs.rows, List.sum_cons,
    List.sum_nil, Nat.add_zero, Bool.false_eq_true, if_false, hchoose, List.isEmpty_cons, Main.beginBuild, hcut, soloBuild]

/-- Its only member joins the build with no page reserved (R211). -/
theorem Main.Serves.buildMember {x : Main} (round : Nat) (hx : x = { m with kr := { m.kr with build := some (soloBuild h b c n round) } }) :
    x.buildMember (soloBuild h b c n round) c n [] = { m with kr := { m.kr with build := some (fullBuild h b c n round) } } := by
  have hplan : (x.plan (soloBuild h b c n round).handle).bitting = some b := hx ▸ hs.plan
  have hgot : (soloBuild h b c n round).got = [] := rfl
  simp only [Main.buildMember, hplan, Main.buffersOk_of_no_tensors x c hs.tensors, Ctx.need_of_none_carried hs.carried,
    Main.reserveFor_of_zero, hgot, Bool.not_true, Bool.false_eq_true, if_false, List.nil_append, fullBuild]
  rw [hx]

/-- The build closes with an instance of that one member (R233). -/
theorem Main.Serves.closeBuild {x : Main} (round : Nat) (hx : x = { m with kr := { m.kr with build := some (fullBuild h b c n round) } }) :
    x.closeBuild (fullBuild h b c n round) = m.emit h b [(c, n, [])] round := by
  have hback : ({ x with kr := { x.kr with build := none } } : Main) = m :=
    hx ▸ congrArg (fun o => ({ m with kr := { m.kr with build := o } } : Main)) hs.build.symm
  have hfind : (m.stored.find? fun q => q.1 == (fullBuild h b c n round).handle) = some (h, p, b) := by
    simp [hs.stored, fullBuild, soloBuild]
  have hfence : (wardsOf b.mask).any m.fencedWard = false := by simp [Main.fencedWard, hs.unfenced]
  unfold Main.closeBuild
  dsimp only
  rw [hback, hfind]
  simp [fullBuild, soloBuild, soloJob, Nat.not_lt.2 hs.rowsMin, hfence, hs.units]

/-- The set's job gives an instance of its resident alone (R232, R233). -/
theorem Main.Serves.goBuild {x : Main} (round : Nat) (hx : x = { m with kr := { m.kr with jobs := [soloJob b round] } }) :
    x.goBuild = m.emit h b [(c, n, [])] round := by
  have hstart (f : Nat) : Main.runBuild (f + 1) x
      = Main.runBuild f { m with kr := { m.kr with build := some (soloBuild h b c n round) } } := by
    have hback : ({ x with kr := { x.kr with jobs := [] } } : Main) = m :=
      hx ▸ congrArg (fun js => ({ m with kr := { m.kr with jobs := js } } : Main)) hs.jobs.symm
    have hfind : (m.kr.sets.find? fun t => t.model == (soloJob b round).model && t.mask == (soloJob b round).mask)
        = some (soloSet b c last) := by
      simp [hs.sets, soloSet, soloJob]
    have hgiven : (soloJob b round).given = none := rfl
    rw [Main.runBuild_of_job (hx ▸ hs.h2Wait) f (hx ▸ hs.build) (congrArg (·.kr.jobs) hx), hback, Main.openJob]
    simp only [hfind, hs.setIdle, hgiven, hs.openSet, Bool.not_true, Bool.false_eq_true, if_false]
  have hmember (f : Nat) : Main.runBuild (f + 1) { m with kr := { m.kr with build := some (soloBuild h b c n round) } }
      = Main.runBuild f { m with kr := { m.kr with build := some (fullBuild h b c n round) } } :=
    (Main.runBuild_of_member (m := { m with kr := { m.kr with build := some (soloBuild h b c n round) } }) hs.h2Wait f rfl rfl).trans
      (congrArg _ (hs.buildMember round rfl))
  have hclose (f : Nat) : Main.runBuild (f + 1) { m with kr := { m.kr with build := some (fullBuild h b c n round) } }
      = Main.runBuild f (m.emit h b [(c, n, [])] round) :=
    (Main.runBuild_of_close (m := { m with kr := { m.kr with build := some (fullBuild h b c n round) } }) hs.h2Wait f rfl rfl).trans
      (congrArg _ (hs.closeBuild round rfl))
  have hend (f : Nat) : Main.runBuild f (m.emit h b [(c, n, [])] round) = m.emit h b [(c, n, [])] round := by
    obtain ⟨t, u, hemit, -, -⟩ := Main.emit_of_one hs.carried hs.current h n round
    refine Main.runBuild_of_none ?_ f ?_ ?_ <;> rw [hemit]
    exacts [hs.h2Wait, hs.build, hs.jobs]
  have hfuel : x.buildFuel = (2 * m.ctxs.length + 16) + 1 + 1 + 1 := by
    simp only [hx, Main.buildFuel, List.length_singleton]
    omega
  rw [Main.goBuild, hfuel, hstart, hmember, hclose, hend]

end

/-! ## What a list point does before it builds -/

/-- Hinge H1 keeps the hardware's side while another hinge swings to it (R295). -/
theorem Main.assisted_list_swing_off {m : Main} {h : Nat} (hh : 2 ≤ h) (hoff : m.fld F.HINGE_CTL_assist = 0)
    (hlist : m.assisted 1 = false) : (m.swing h).assisted 1 = false := by
  have hin : F.HINGE_NOW_in_force.In := by constructor <;> decide
  obtain ⟨g, rfl⟩ : ∃ g, h = g + 2 := ⟨h - 2, by omega⟩
  have hpow : 2 ^ (g + 2 - 1) = 2 * 2 ^ g := by rw [Nat.add_sub_assoc (by decide), pow_succ, mul_comm]
  have heven : m.fld F.HINGE_NOW_in_force % 2 = 0 := by
    simp only [Main.assisted, Nat.sub_self, pow_zero, Nat.div_one, beq_eq_false_iff_ne] at hlist
    omega
  have hnow : (m.swing (g + 2)).fld F.HINGE_NOW_in_force % 2 = 0 := by
    have hw : (2 : Nat) ∣ 2 ^ F.HINGE_NOW_in_force.width := by decide
    rw [Main.swing, Main.fld_setFld_same _ _ _ hin, hoff, Nat.mod_mod_of_dvd _ hw, Nat.zero_div, Nat.zero_mod, Nat.zero_mul,
      Nat.add_zero, hpow, mul_left_comm]
    omega
  simp only [Main.assisted, Nat.sub_self, pow_zero, Nat.div_one, hnow]
  rfl

/-- A hinge's swing stores HINGE_NOW and leaves HINGE_CTL (R295). -/
theorem Main.exists_swing_eq (m : Main) (h : Nat) :
    ∃ r, m.swing h = { m with regs := r } ∧ m.RegsBut { m with regs := r } [F.HINGE_NOW_in_force.off]
      ∧ Main.fld { m with regs := r } F.HINGE_CTL_assist = m.fld F.HINGE_CTL_assist :=
  ⟨(m.swing h).regs, rfl, Main.regsBut_setFld m _ _, Main.fld_setFld_other m _ _ _ (by decide)⟩

/-- A list point swings its hinges: with none host-assisted, H1 is in force on the hardware's side, and HINGE_NOW alone changes. -/
theorem Main.swings_off {m : Main} (hoff : m.fld F.HINGE_CTL_assist = 0) :
    ∃ r, ((m.swing 1).swing 2).swing 8 = { m with regs := r } ∧ m.RegsBut { m with regs := r } [F.HINGE_NOW_in_force.off]
      ∧ Main.assisted { m with regs := r } 1 = false := by
  have hlist := Main.assisted_swing_off 1 hoff
  obtain ⟨r, hr, hregs, hctl⟩ := m.exists_swing_eq 1
  rw [hr] at hlist ⊢
  have hoff := hctl.trans hoff
  replace hlist := Main.assisted_list_swing_off (h := 2) (by decide) hoff hlist
  obtain ⟨r', hr', hregs', hctl'⟩ := Main.exists_swing_eq { m with regs := r } 2
  rw [hr'] at hlist ⊢
  replace hlist := Main.assisted_list_swing_off (h := 8) (by decide) (hctl'.trans hoff) hlist
  obtain ⟨r'', hr'', hregs'', -⟩ := Main.exists_swing_eq { m with regs := r' } 8
  rw [hr''] at hlist ⊢
  exact ⟨r'', rfl, fun o ho => (hregs'' o ho).trans ((hregs' o ho).trans (hregs o ho)), hlist⟩

/-- Nothing waits for a list point: no share to take up, no context parked, and none swapped that could run (R103, R214, R232). -/
structure Main.Settled (m : Main) : Prop where
  deferred : m.h9Defer = []
  unfenced : m.fence.fenced = 0
  shares : ∀ p ∈ m.ctxs, p.2.nextShare = none
  listed : ∀ p ∈ m.ctxs, p.2 ≠ ctxDef p.1
  parked : ∀ p ∈ m.ctxs, p.2.cause ≠ .pageWait
  swapped : ∀ p ∈ m.ctxs, p.2.state ≠ .swappedRunnable

/-- The Keyring as a list point leaves it before it builds (R230, R238). -/
def Main.listKr (m : Main) : Keyring :=
  { m.kr with
    step := if m.kr.listed then nextStep m.kr.step else m.kr.step, rounds := if m.kr.listed then [] else m.kr.rounds
    listed := false, event := false, vmin := m.newV }

/-- Changes of registers, wards and the Keyring leave it so. -/
theorem Main.Settled.frame {m : Main} (hm : m.Settled) (r : Tab Word) (u : Tab Ward) (kr : Keyring) :
    Main.Settled { m with regs := r, wards := u, kr := kr } :=
  { deferred := hm.deferred, unfenced := hm.unfenced, shares := hm.shares, listed := hm.listed, parked := hm.parked, swapped := hm.swapped }

section
variable {m : Main} (hm : m.Settled)
include hm

theorem Main.Settled.takeShares : m.takeShares = m := by
  have hsame : m.takeShares.ctxs = m.ctxs := by
    refine (List.filterMap_congr fun p hp => ?_).trans List.filterMap_some
    simp only [hm.shares p hp]
    exact if_neg (hm.listed p hp)
  exact congrArg (fun t => { m with ctxs := t }) hsame

theorem Main.Settled.checkParked (tally : Bool) : m.checkParked tally = m := by
  have hnone : (m.ctxs.filter fun p => p.2.cause == CtxCause.pageWait) = [] :=
    List.filter_eq_nil_iff.2 fun p hp => by simp [hm.parked p hp]
  simp only [Main.checkParked, hnone, List.foldr_nil, List.foldl_nil]

theorem Main.Settled.fenceFaults : m.fenceFaults = m := if_pos hm.unfenced

theorem Main.Settled.settleSwitches : m.settleSwitches = m := by
  have hnone : (m.ctxs.filter fun p => p.2.state == CtxState.swappedRunnable) = [] :=
    List.filter_eq_nil_iff.2 fun p hp => by simp [hm.swapped p hp]
  simp only [Main.settleSwitches, hnone, List.map_nil, Main.byBalance, List.foldr_nil, List.foldl_nil]

/-- No resident is marked where no set is hosted, or no ward is set aside for a lane (R232, R251). -/
theorem Main.Settled.markSaves (hsets : m.kr.sets = [] ∨ ∀ w < 16, (m.ward w).lane = none) : m.markSaves = m := by
  have hnone : (m.kr.sets.filter fun s => (wardsOf s.mask).any fun w => !m.scheduled.contains w) = [] := by
    rcases hsets with hsets | hfree
    · rw [hsets]
      rfl
    · have hin : ∀ s : BerthSet, ∀ w ∈ wardsOf s.mask, w ∈ m.scheduled := fun s w hw =>
        (Main.mem_scheduled hm.unfenced).2 ⟨(mem_wardsOf.1 hw).1, hfree w (mem_wardsOf.1 hw).1⟩
      exact List.filter_eq_nil_iff.2 fun s _ => by simpa using hin s
  simp only [Main.markSaves, hnone, List.foldl_nil]

end

/-- The wards of lanes leave the scheduled wards and the others return (R251, R252). -/
theorem Main.takeLanes_eq (m : Main) :
    ∃ u, m.takeLanes = { m with wards := u } ∧ ∀ w < 16, (Tab.get wardDef u w).lane = m.laneTaking w := by
  obtain ⟨u, hu, hget⟩ := Main.foldl_wards (f := fun m w => m.updWard w fun x => { x with lane := m.laneTaking w })
    (G := fun w x => { x with lane := m.laneTaking w }) (List.nodup_range (n := 16)) (m := m) (fun _ _ => rfl)
  refine ⟨u, hu, fun w hw => ?_⟩
  rw [hget w, if_pos (List.mem_range.2 hw)]

/-- Every scheduled ward's round of the step is done (R230). -/
theorem Main.roundsDone_eq (m : Main) :
    ∃ u, m.scheduled.foldl (fun m w => m.updWard w fun x => { x with roundDone := true }) m = { m with wards := u }
      ∧ ∀ w, (Tab.get wardDef u w).lane = (m.ward w).lane := by
  obtain ⟨u, hu, hget⟩ := Main.foldl_wards (f := fun m w => m.updWard w fun x => { x with roundDone := true })
    (G := fun _ x => { x with roundDone := true }) (List.nodup_range.filter _ : m.scheduled.Nodup) (fun _ _ => rfl)
  refine ⟨u, hu, fun w => ?_⟩
  rw [hget w]
  split <;> rfl

/-- A settled list point, on the hardware's side of hinge H1, builds the list of its step (R230 to R232). -/
theorem Main.doListPoint_of_settled {m : Main} (hm : m.Settled) (hsets : m.kr.sets = [] ∨ ∀ w < 16, m.laneTaking w = none)
    (hlist : m.assisted 1 = false) :
    ∃ u, m.doListPoint = Main.listAll { m with wards := u, kr := m.listKr }
      ∧ ∀ w < 16, (Tab.get wardDef u w).lane = m.laneTaking w := by
  obtain ⟨kr, hkr⟩ : ∃ kr : Keyring, kr = { m.kr with step := if m.kr.listed then nextStep m.kr.step else m.kr.step
                                                      rounds := if m.kr.listed then [] else m.kr.rounds
                                                      listed := false, event := false } := ⟨_, rfl⟩
  obtain ⟨u, hu, hlane⟩ : ∃ u, Main.takeLanes { m with kr := kr } = { m with wards := u, kr := kr }
    ∧ ∀ w < 16, (Tab.get wardDef u w).lane = m.laneTaking w := Main.takeLanes_eq { m with kr := kr }
  obtain ⟨u', hu', hlane'⟩ := Main.roundsDone_eq { m with wards := u, kr := m.listKr }
  refine ⟨u', ?_, fun w hw => (hlane' w).trans (hlane w hw)⟩
  unfold Main.doListPoint
  extract_lets _ stepped steppedKr cleared asked taken takenKr valued settled ended
  have hstepped : stepped = { m with kr := { m.kr with step := if m.kr.listed then nextStep m.kr.step else m.kr.step
                                                       rounds := if m.kr.listed then [] else m.kr.rounds } } := by
    simp only [stepped]
    split <;> rfl
  have hcleared : cleared = { m with kr := kr } := by simp only [cleared, steppedKr, hstepped, hkr]
  have hasked : asked = { m with kr := kr } := by
    have hdefer : cleared.h9Defer = [] := by rw [hcleared]; exact hm.deferred
    simp only [asked, hdefer, List.foldl_nil]
    exact (congrArg (fun l => { cleared with h9Defer := l }) hdefer.symm).trans hcleared
  have htaken : taken = { m with wards := u, kr := kr } := by
    have hsame := hm.frame m.regs u kr
    simp only [taken, hasked, hu]
    rw [hsame.takeShares, hsame.checkParked, hsame.fenceFaults]
  have hvalued : valued = { m with wards := u, kr := m.listKr } := by
    simp only [valued, takenKr, htaken, hkr]
    rfl
  have hsettled : settled = { m with wards := u, kr := m.listKr } := by
    have hsame := hm.frame m.regs u m.listKr
    have hfree : m.kr.sets = [] ∨ ∀ w < 16, (Tab.get wardDef u w).lane = none :=
      hsets.imp_right fun hlanes w hw => (hlane w hw).trans (hlanes w hw)
    simp only [settled, hvalued]
    rw [hsame.markSaves hfree, hsame.settleSwitches]
  have hended : ended = { m with wards := u', kr := m.listKr } := by
    simp only [ended, hsettled]
    exact hu'
  have hassist : ¬ended.assisted 1 = true := by
    rw [hended, Bool.not_eq_true]
    exact hlist
  exact (if_neg hassist).trans (congrArg Main.listAll hended)

/-- HINGE_NOW says nothing of which contexts lanes hold: V stays (R238). -/
theorem Main.newV_of_regsBut {m : Main} {r : Tab Word} (hr : m.RegsBut { m with regs := r } [F.HINGE_NOW_in_force.off]) :
    Main.newV { m with regs := r } = m.newV := by
  have hlane : ∀ l, 0x40000 + 0x100 * l ∉ [F.HINGE_NOW_in_force.off] := fun l => by
    simp only [F.HINGE_NOW_in_force, List.mem_singleton]
    omega
  have hctx (c : Nat) : Main.laneCtx { m with regs := r } c = m.laneCtx c := by
    have hword (l : Nat) := hr _ (hlane l)
    simp only [Main.laneCtx, Main.laneCtxNo, Main.bit, Main.fld, F.LANE_CTL_reserve, F.LANE_CTL_context, hword]
    rfl
  simp only [Main.newV, hctx]

/-- Nor of the cap in force (R290). -/
theorem Main.capNow_of_regsBut {m : Main} {r : Tab Word} (hr : m.RegsBut { m with regs := r } [F.HINGE_NOW_in_force.off]) :
    Main.capNow { m with regs := r } = m.capNow := by
  have hword := hr 0x3000 (by decide)
  simp only [Main.capNow, Main.bit, Main.fld, F.PLEVEL_CTL_cap, F.PLEVEL_CTL_throttle_pin, F.PLEVEL_CTL_throttle_level, hword]
  rfl

/-- LIST_POINT in a settled part with no hinge host-assisted (R230 to R232). -/
theorem Main.atListPoint_of_settled {m : Main} (hm : m.Settled) (hpoint : m.listPoint = true) (hoff : m.fld F.HINGE_CTL_assist = 0)
    (hsets : m.kr.sets = [] ∨ ∀ w < 16, m.laneTaking w = none) :
    ∃ r u, m.atListPoint = Main.listAll { m with regs := r, wards := u, kr := m.listKr }
      ∧ m.RegsBut { m with regs := r } [F.HINGE_NOW_in_force.off] ∧ ∀ w < 16, (Tab.get wardDef u w).lane = m.laneTaking w := by
  obtain ⟨r, hr, hregs, hlist⟩ := Main.swings_off hoff
  obtain ⟨u, hu, hlane⟩ := Main.doListPoint_of_settled (hm.frame r m.wards m.kr) hsets hlist
  have hkr : Main.listKr { m with regs := r } = m.listKr := by rw [Main.listKr, Main.newV_of_regsBut hregs, Main.listKr]
  rw [hkr] at hu
  refine ⟨r, u, ?_, hregs, hlane⟩
  rw [Main.atListPoint, if_pos hpoint, hr]
  exact hu

/-! ## The state that is ready to build -/

section
variable {m : Main} {c h n : Nat} {p : Plan} {b : Bitting} {d : Desc} {r : RunProg} {last : Option Nat}
  (hready : m.ReadyToBuild c h n p b d r last)
include hready

theorem Main.ReadyToBuild.serves : m.Serves c h n p b last := by
  obtain ⟨-, hstate, -, hfault, hkept, -, hkv, hstreams, hhead, hrun, hcursor, -, hrows, hpos, hmin, hmax, hplans, hvalid, hrole,
    hcontexts, hbitting, hflags, hweights, hcarried, htensors, hunits, hcap, hsets, hinsts, hregions, hfence, hswitches, hbuild, hjobs, hwait, -,
    hlanes, -, -⟩ := hready
  have hcurrent : (m.ctx c).recompute = false := by simp [Ctx.recompute, hkv]
  exact
    { state := hstate, sound := hfault, kept := hkept, current := hcurrent, cursor := hcursor, wants := hpos, rowsMin := hmin
      rowsMax := hmax, role := hrole, contexts := hcontexts, ordinary := hflags, weights := hweights, carried := hcarried
      tensors := htensors, units := hunits, cap := hcap, sets := hsets, insts := hinsts, regions := hregions, unfenced := hfence
      switches := hswitches, build := hbuild, jobs := hjobs, h2Wait := hwait, lanes := hlanes
      rows := by simp [Ctx.rowsWanted, Ctx.head, hcurrent, hhead, hrun, hstreams, hrows]
      stored := by simp [Main.stored, hplans, hbitting, hvalid]
      plan := by simp [Main.plan, hplans, Tab.get, hbitting] }

theorem Main.ReadyToBuild.settled : m.Settled := by
  obtain ⟨hctxs, hstate, hcause, -, -, hshare, -, -, -, -, -, -, -, -, -, -, -, -, -, -, -, -, -, -, -, -, -, -, -, -, hfence,
    -, -, -, -, hdefer, -, -, -⟩ := hready
  have hone : ∀ q ∈ m.ctxs, q = (c, m.ctx c) := by
    obtain ⟨x, hx⟩ : ∃ x, m.ctxs = [(c, x)] := by
      obtain ⟨q, hq, hc⟩ := List.map_eq_singleton_iff.1 hctxs
      exact ⟨q.2, by rw [hq, ← hc]⟩
    simp [Main.ctx, hx, Tab.get]
  have hnew : m.ctx c ≠ ctxDef c := fun he => by
    rw [he] at hstate
    cases hstate
  exact
    { deferred := hdefer, unfenced := hfence
      shares := fun q hq => hone q hq ▸ hshare
      listed := fun q hq => hone q hq ▸ hnew
      parked := fun q hq => hone q hq ▸ by simp [hcause]
      swapped := fun q hq => hone q hq ▸ by simp [hstate] }

/-- No ward is held or taken for a lane (R251). -/
theorem Main.ReadyToBuild.laneTaking (w : Nat) : m.laneTaking w = none := by
  obtain ⟨-, -, -, -, -, -, -, -, -, -, -, -, -, -, -, -, -, -, -, -, -, -, -, -, -, -, -, -, -, -, -, -, -, -, -, -, -, hidle, -⟩ := hready
  refine List.find?_eq_none.2 fun l hl => ?_
  obtain ⟨hst, hsaving⟩ := hidle l (List.mem_range.1 hl)
  simp [hst, hsaving]

theorem Main.ReadyToBuild.assist_off : m.fld F.HINGE_CTL_assist = 0 := by
  obtain ⟨-, -, -, -, -, -, -, -, -, -, -, -, -, -, -, -, -, -, -, -, -, -, -, -, -, -, -, -, -, -, -, -, -, -, -, -, -, -, hassist⟩ := hready
  exact hassist

/-- The resident's member of its instance: the only berth, from where its RUN stands (R233). -/
theorem Main.ReadyToBuild.members (k : Nat) : (m.soloInst h b c n k).members
    = [{ ctx := c, berth := 0, rows := n, pos0 := r.startLen + r.done, recompute := false }] := by
  obtain ⟨-, -, -, -, -, -, -, -, -, hrun, -, hberth, -⟩ := hready
  simp [Main.soloInst, Ctx.berthNo, hrun, hberth]

end

/-- What a list point leaves is ready still: HINGE_NOW, wards without lanes, and the Keyring with the same sets and no list. -/
theorem Main.Serves.frame {m : Main} {c h n : Nat} {p : Plan} {b : Bitting} {last : Option Nat} (hs : m.Serves c h n p b last)
    {r : Tab Word} {u : Tab Ward} (hr : m.RegsBut { m with regs := r } [F.HINGE_NOW_in_force.off])
    (hu : ∀ w < 16, (Tab.get wardDef u w).lane = none) : Main.Serves { m with regs := r, wards := u, kr := m.listKr } c h n p b last :=
  { state := hs.state, sound := hs.sound, kept := hs.kept, current := hs.current, cursor := hs.cursor, rows := hs.rows, wants := hs.wants
    rowsMin := hs.rowsMin, rowsMax := hs.rowsMax, stored := hs.stored, plan := hs.plan, role := hs.role, contexts := hs.contexts
    ordinary := hs.ordinary, weights := hs.weights, carried := hs.carried, tensors := hs.tensors, units := hs.units
    cap := (Main.capNow_of_regsBut hr).trans_le hs.cap
    sets := hs.sets, insts := hs.insts, regions := hs.regions, unfenced := hs.unfenced, switches := hs.switches, build := hs.build
    jobs := hs.jobs, h2Wait := hs.h2Wait, lanes := hu }

/-- One hosted set gives one job of round 0 (R232). -/
theorem Main.Serves.listAll {m : Main} {c h n : Nat} {p : Plan} {b : Bitting} {last : Option Nat} (hs : m.Serves c h n p b last) :
    m.listAll = m.emit h b [(c, n, [])] 0 := by
  have hone : m.setsByBalance = [soloSet b c last] := by
    rw [Main.setsByBalance, hs.sets]
    rfl
  rw [Main.listAll, hone]
  exact hs.goBuild 0 rfl

/-! ## The commands -/

/-- LIST_POINT where nothing is hosted: the step moves on and no list is built (R230). -/
theorem Machine.listPoint_of_none {s : State} (hup : s.wardenUp = true) (hpoint : s.mn.listPoint = true) (hlisted : s.mn.kr.listed = true)
    (hsets : s.mn.kr.sets = []) (hctxs : s.mn.ctxs = []) (hwait : s.mn.kr.h2Wait = none) (hdefer : s.mn.h9Defer = [])
    (hfence : s.mn.fence.fenced = 0) (hoff : s.mn.fld F.HINGE_CTL_assist = 0) :
    OnWarden .listPoint s fun n => n = { s.mn with regs := n.regs, kr := n.kr, wards := n.wards, absent := n.absent }
      ∧ n.kr = { s.mn.kr with step := nextStep s.mn.kr.step, rounds := [], listed := false, event := false, jobs := [] }
      ∧ s.mn.RegsBut n [F.HINGE_NOW_in_force.off] := by
  have hm : s.mn.Settled :=
    { deferred := hdefer, unfenced := hfence, shares := by simp [hctxs], listed := by simp [hctxs], parked := by simp [hctxs]
      swapped := by simp [hctxs] }
  have hbuild : s.mn.kr.build = none := by
    simp only [Main.listPoint, Main.building, Bool.and_eq_true, Bool.not_eq_true', Bool.or_eq_false_iff] at hpoint
    exact Option.not_isSome_iff_eq_none.1 (by simp [hpoint])
  have hkr : s.mn.listKr = { s.mn.kr with step := nextStep s.mn.kr.step, rounds := [], listed := false, event := false } := by
    simp [Main.listKr, Main.newV, hlisted, hctxs]
  obtain ⟨r, u, hlist, hregs, -⟩ := Main.atListPoint_of_settled hm hpoint hoff (.inl hsets)
  have hall : Main.listAll { s.mn with regs := r, wards := u, kr := s.mn.listKr }
      = { s.mn with regs := r, wards := u, kr := { s.mn.listKr with jobs := [] } } := by
    have hnone : Main.setsByBalance { s.mn with regs := r, wards := u, kr := s.mn.listKr } = [] := by
      simp [Main.setsByBalance, Main.listKr, hsets]
    rw [Main.listAll, hnone]
    exact Main.runBuild_of_none (m := { s.mn with regs := r, wards := u, kr := { s.mn.listKr with jobs := [] } }) hwait _ hbuild rfl
  refine onWarden_lapse rfl hup (hlist.trans hall) rfl fun n a hn => ?_
  rw [hkr] at hn
  subst hn
  exact ⟨rfl, rfl, hregs⟩

/-- A build of the set's job by a command that changes HINGE_NOW, wards and the Keyring first: the instance of its resident stands
(R232 to R234). -/
theorem Machine.onWarden_of_emit {cmd : Instr} {s : State} {f : Main → Main} {c h k round : Nat} {p : Plan} {b : Bitting} {d : Desc}
    {r : RunProg} {last : Option Nat} {g : Tab Word} {u : Tab Ward} {kr : Keyring} (hready : s.mn.ReadyToBuild c h k p b d r last)
    (hexec : exec cmd s = .next (s.warden fun m => (f m).lapseNew m)) (hup : s.wardenUp = true)
    (hf : f s.mn = Main.emit { s.mn with regs := g, wards := u, kr := kr } h b [(c, k, [])] round) :
    OnWarden cmd s fun n =>
      n = { s.mn with regs := g, kr := kr.emitted (leadOf b.mask) round
                      wards := n.wards, ctxs := n.ctxs, insts := n.insts, absent := n.absent }
      ∧ (∀ j, n.ctx j = s.mn.ctx j) ∧ s.mn.InstsBut n (leadOf b.mask) ∧ (n.inst (leadOf b.mask)).live = true
      ∧ (n.inst (leadOf b.mask)).handle = h ∧ (n.inst (leadOf b.mask)).step = kr.step ∧ (n.inst (leadOf b.mask)).round = round
      ∧ (n.inst (leadOf b.mask)).mask = b.mask ∧ (n.inst (leadOf b.mask)).lists = freshLists b
      ∧ (n.inst (leadOf b.mask)).members = [{ ctx := c, berth := 0, rows := k, pos0 := r.startLen + r.done, recompute := false }]
      ∧ ∀ w ∈ wardsOf b.mask, (n.ward w).roundDone = false := by
  have hs := hready.serves
  obtain ⟨t, v, hemit, hsame, hrounds⟩ :=
    Main.emit_of_one (m := { s.mn with regs := g, wards := u, kr := kr }) hs.carried hs.current h k round
  refine onWarden_lapse hexec hup (hf.trans hemit) rfl fun n a hn => ?_
  have hinsts : n.insts = Tab.put instDef (leadOf b.mask)
      (Main.soloInst { s.mn with regs := g, wards := u, kr := kr } h b c k round) s.mn.insts := by subst hn; rfl
  have hinst := Main.inst_of_put hinsts
  refine ⟨by subst hn; rfl, by subst hn; exact hsame, Main.instsBut_of_put hinsts, ?_⟩
  rw [hinst]
  exact ⟨rfl, rfl, rfl, rfl, rfl, rfl, hready.members round, by subst hn; exact hrounds⟩

/-- LIST_POINT with one set ready: an instance of round 0 that serves its resident (R232 to R234). -/
theorem Main.ReadyToBuild.atListPoint {m : Main} {c h k : Nat} {p : Plan} {b : Bitting} {d : Desc} {r : RunProg} {last : Option Nat}
    (hready : m.ReadyToBuild c h k p b d r last) (hpoint : m.listPoint = true) :
    ∃ g u, m.atListPoint = Main.emit { m with regs := g, wards := u, kr := m.listKr } h b [(c, k, [])] 0 := by
  obtain ⟨g, u, hlist, hregs, hlane⟩ :=
    Main.atListPoint_of_settled hready.settled hpoint hready.assist_off (.inr fun w _ => hready.laneTaking w)
  have hs := hready.serves.frame hregs fun w hw => (hlane w hw).trans (hready.laneTaking w)
  exact ⟨g, u, hlist.trans hs.listAll⟩

/-- ROUND_BUILD with one set ready that had reached its boundary early: an instance of the set's next round (R231). -/
theorem Main.ReadyToBuild.doRound {m : Main} {w c h k : Nat} {p : Plan} {b : Bitting} {d : Desc} {r : RunProg} {last : Option Nat}
    (hready : m.ReadyToBuild c h k p b d r last) (hmask : b.mask / 2 ^ w % 2 = 1) (henable : m.bit F.KEYRING_CFG_enable = true)
    (hlisted : m.kr.listed = true) (hh1 : m.kr.h1Wait = false) (hrounds : (m.scheduled.all fun v => (m.ward v).roundDone) = false) :
    m.doRound w = m.emit h b [(c, k, [])] (m.nextRound (leadOf b.mask)) := by
  have hs := hready.serves
  have hfind : (m.kr.sets.find? fun s => decide (s.mask / 2 ^ w % 2 = 1)) = some (soloSet b c last) := by
    simp [hs.sets, soloSet, hmask]
  have hbuilding : m.building = false := by simp [Main.building, hh1, hs.build, hs.jobs]
  have hdue : (!m.bit F.KEYRING_CFG_enable || !m.kr.listed || !m.setIdle (soloSet b c last) || m.building
      || m.scheduled.all fun v => (m.ward v).roundDone) = false := by
    rw [henable, hlisted, hs.setIdle, hbuilding, hrounds]
    rfl
  simp only [Main.doRound, hfind, hdue, Bool.false_eq_true, if_false]
  exact hs.goBuild _ rfl

/-- Settles O19: a settled list point only moves the step on or builds the list of its one idle set, and a further round builds the same
job under the set's next round number. -/
theorem listPointsAndRoundsBuild : Obligations.ListPointsAndRoundsBuild := by
  unfold Obligations.ListPointsAndRoundsBuild
  refine ⟨fun s hup hpoint hlisted hsets hctxs _ hwait hdefer hfence hoff =>
    listPoint_of_none hup hpoint hlisted hsets hctxs hwait hdefer hfence hoff, ?listPoint, ?roundBuild⟩
  case listPoint =>
    intro s c h k p b d r last hup hpoint hlisted hready
    obtain ⟨g, u, hbuilt⟩ := hready.atListPoint hpoint
    have hkr : s.mn.listKr = { s.mn.kr with listed := false, event := false, vmin := s.mn.newV } := by simp [Main.listKr, hlisted]
    rw [hkr] at hbuilt
    obtain ⟨n, hn, hframe, hctx, hrest⟩ := onWarden_of_emit (cmd := .listPoint) hready rfl hup hbuilt
    exact ⟨n, hn, by rw [hframe], by rw [hframe]; rfl, hctx, hrest⟩
  case roundBuild =>
    intro s w c h k p b d r last hup henable hlisted hh1 hmask hrounds hready
    have hbuilt := hready.doRound hmask henable hlisted hh1 hrounds
    obtain ⟨n, hn, hframe, hctx, hinsts, hlive, hhandle, hstep, hround, -⟩ :=
      onWarden_of_emit (cmd := .roundBuild w) (g := s.mn.regs) (u := s.mn.wards) (kr := s.mn.kr) hready rfl hup hbuilt
    exact ⟨n, hn, by rw [hframe], by rw [hframe, Keyring.emitted, ← hlisted], hctx, hinsts, hlive, hhandle, hstep, hround⟩

end Sys2Proof
end

section
/-! SUPPORT AND PROOF. Doorbells, the armed vector and acceptance (spec/12_host_interface.md R268 to R271, R289): an equation for each
command, and what a command that replaces one context leaves of the others. -/

namespace Sys2Proof
open Machine

/-! ## The front of the queue -/

theorem Machine.step_of_front {s : State} {c : Instr} {rest : List Instr} (h : s.pending = c :: rest) :
    step s = exec c { s with pending := rest } := by
  rw [step, h]

/-- Settles O1: a step looks at the front of the queue and nothing else. -/
theorem stepRunsFrontCommand : Obligations.StepRunsFrontCommand := fun _ _ _ h => step_of_front h

/-! ## One context replaced -/

section
variable {m n : Main} {c : Nat} {x : Ctx}

theorem Main.ctx_of_put (e : n.ctxs = Tab.put ctxDef c x m.ctxs) : n.ctx c = x := by
  rw [Main.ctx, e, Tab.get_put_same]

theorem Main.ctxsBut_of_put (e : n.ctxs = Tab.put ctxDef c x m.ctxs) : m.CtxsBut n c :=
  (m.ctxsBut_setCtx c x).of_ctxs e

end

/-! ## Doorbells -/

/-- A number ahead of the accepted one by no more than the ring's length is taken (R270). -/
theorem Main.takeSq_of_ahead {m : Main} {c sq : Nat} (hok : (m.ctx c).entry.ok = true) (hfree : (m.ctx c).state ≠ .free)
    (hfaulted : (m.ctx c).state ≠ .faulted) (hlow : (m.ctx c).accepted < sq)
    (hhigh : sq ≤ (m.ctx c).accepted + 2 ^ (m.ctx c).entry.sqOrder) : m.takeSq c sq = m.setCtx c { m.ctx c with sqSeq := sq } := by
  have hheard : ¬(sq ≤ (m.ctx c).accepted ∨ (!(m.ctx c).entry.ok) = true ∨ (m.ctx c).state = .free ∨ (m.ctx c).state = .faulted) := by
    simp [hok, hfree, hfaulted, hlow]
  rw [Main.takeSq, if_neg hheard, if_neg (Nat.not_lt.2 hhigh)]

/-- A number between the last one and the highest record written is taken (R270). -/
theorem Main.takeCq_of_between {m : Main} {c cq : Nat} (hlow : (m.ctx c).cqSeq ≤ cq) (hhigh : cq ≤ (m.ctx c).written) :
    m.takeCq c cq = m.setCtx c { m.ctx c with cqSeq := cq, needCq := false } :=
  congrArg (m.setCtx c) (if_neg (not_or.2 ⟨Nat.not_lt.2 hlow, Nat.not_lt.2 hhigh⟩))

/-- A doorbell of eight bytes is acted on at once unless recovery is needed (R269, R292). -/
theorem Main.sqDb_of_recovered {m : Main} (h : m.recoveryNeeded = false) (c : Nat) (v : DWord) :
    m.sqDb c v 8 = m.takeSq c (v.toNat % 2 ^ 48) := by
  simp [Main.sqDb, h]

theorem Main.cqDb_of_recovered {m : Main} (h : m.recoveryNeeded = false) (c : Nat) (v : DWord) :
    m.cqDb c v 8 = m.takeCq c (v.toNat % 2 ^ 48) := by
  simp [Main.cqDb, h]

/-! ## The armed vector -/

/-- An arm starts its count afresh while the hardware holds H10 (R289). -/
theorem Main.irqArm_of_hardware {m : Main} {v : DWord} (hh10 : m.h10Hardware = true) (hv : v.getLsbD 0 = true) (c : Nat) :
    m.irqArm c v 8 = m.setCtx c { m.ctx c with irqArmed := true, irqCount := 0 } := by
  simp [Main.irqArm, Main.updCtx, hh10, hv]

/-- A vector that is not masked sends its message (R265). -/
theorem Main.raise_of_unmasked {m : Main} {v : Nat} (h : m.masked v = false) : m.raise v = { m with msgs := m.msgs ++ [v] } := by
  rw [Main.raise, h]
  rfl

/-- The delay after a counted record of an armed vector ends: one message, and the vector is disarmed (R289). -/
theorem Main.irqHoldoff_of_counted {m : Main} {c : Nat} (hh10 : m.h10Hardware = true) (harmed : (m.ctx c).irqArmed = true)
    (hcount : 0 < (m.ctx c).irqCount) (hmask : m.masked (m.ctx c).entry.vector = false) :
    m.irqHoldoff c = { m.setCtx c { m.ctx c with irqArmed := false, irqCount := 0 } with
      msgs := m.msgs ++ [(m.ctx c).entry.vector] } := by
  have hdue : ((m.ctx c).irqArmed && decide (0 < (m.ctx c).irqCount) && m.h10Hardware) = true := by simp [harmed, hcount, hh10]
  rw [Main.irqHoldoff, if_pos hdue]
  exact Main.raise_of_unmasked hmask

/-- Settles O7: each doorbell and arm replaces one context, and the delay's end one context and the messages. -/
theorem doorbellsAndArmsTaken : Obligations.DoorbellsAndArmsTaken := by
  refine ⟨?sq, ?cq, ?arm, ?holdoff⟩
  case sq =>
    intro s c v hup hrec hok hfree hfaulted hlow hhigh
    exact onWarden_setCtx rfl hup ((Main.sqDb_of_recovered hrec _ _).trans (Main.takeSq_of_ahead hok hfree hfaulted hlow hhigh))
  case cq =>
    intro s c v hup hrec hlow hhigh
    exact onWarden_setCtx rfl hup ((Main.cqDb_of_recovered hrec _ _).trans (Main.takeCq_of_between hlow hhigh))
  case arm => exact fun s c v hup hh10 hv => onWarden_setCtx rfl hup (Main.irqArm_of_hardware hh10 hv _)
  case holdoff =>
    intro s c hup hh10 harmed hcount hmask
    refine onWarden_eq rfl hup (Main.irqHoldoff_of_counted hh10 harmed hcount hmask) fun n a hn => ?_
    have hctxs : n.ctxs = Tab.put ctxDef c.val { s.mn.ctx c.val with irqArmed := false, irqCount := 0 } s.mn.ctxs := by subst hn; rfl
    exact ⟨by subst hn; rfl, Main.ctxsBut_of_put hctxs, Main.ctx_of_put hctxs⟩

/-! ## Acceptance -/

/-- The descriptor that stands in a context's ring at number `k` (R268). -/
def Main.ringDesc (m : Main) (c k : Nat) : Desc :=
  { seq := k, bytes := m.tenantRd (m.ctx c).tenant ((m.ctx c).sqAddr k) 64 }

/-- A descriptor that the tenant's windows allow and that carries its own number passes the reading (R268). -/
theorem Main.readDescs_of_numbered {m : Main} {c k : Nat} (hdma : m.dmaOk (m.ctx c).tenant ((m.ctx c).sqAddr k) 64 = true)
    (hnum : leNat ((m.ringDesc c k).bytes.take 6) = k) : m.readDescs c [k] = (m, [m.ringDesc c k]) := by
  simp only [Ctx.sqAddr] at hdma
  simp only [Main.ringDesc, Ctx.sqAddr] at hnum
  simp [Main.readDescs, Main.ringDesc, Ctx.sqAddr, hdma, hnum]

/-- One eligible descriptor is read, and the accept line is written for it (R268, R271). -/
theorem Main.descriptorRead_of_one {m : Main} {c k : Nat} (hrec : m.recoveryNeeded = false) (hstop : m.acceptStop = false)
    (hok : (m.ctx c).entry.ok = true) (hcq : (m.ctx c).needCq = false) (hreading : (m.ctx c).reading = [])
    (hfree : (m.ctx c).state ≠ .free) (hfaulted : (m.ctx c).state ≠ .faulted) (hdb : (m.ctx c).dbErr = none)
    (helig : (m.ctx c).eligible = [k]) (hread : m.readDescs c [k] = (m, [m.ringDesc c k])) :
    m.descriptorRead c false
      = (m.updCtx c fun x => { x with issued := k, reading := [m.ringDesc c k] }).hostWr (m.lineAddr c)
          (leBytes 6 k ++ leBytes 2 (m.ctx c).incarnation) := by
  have hmay : (m.recoveryNeeded || m.acceptStop || !(m.ctx c).entry.ok || (m.ctx c).needCq || !(m.ctx c).reading.isEmpty
      || (m.ctx c).state == .free || (m.ctx c).state == .faulted) = false := by
    simp [hrec, hstop, hok, hcq, hreading, hfree, hfaulted]
  simp only [Main.descriptorRead, hmay, hdb, helig, hread, List.getLast?_singleton, Main.lineAccepted, Main.ctx_updCtx_same,
    Bool.false_eq_true, if_false]
  rfl

/-- A descriptor other than LANE_STOP has no effect at its acceptance (R273). -/
theorem Main.stopAccepted_of_other {d : Desc} (hop : d.opcode ≠ 8) (m : Main) (c : Nat) : m.stopAccepted c d = m := if_pos (.inl hop)

/-- A context whose one descriptor read is accepted: it joins the queue, stamped with its turn (R166, R271). -/
def Ctx.joined (x : Ctx) (d : Desc) (stamp : Nat) : Ctx :=
  { x with reading := [], accepted := d.seq, queue := x.queue ++ [{ d with stamp := stamp }] }

/-- Work that joins a running context's queue is an event for the Keyring and no more (R228, R230). -/
theorem Main.wake_setCtx_of_running {y : Ctx} (hstate : y.state = .residentRunning) (hqueue : y.queue ≠ []) (m : Main) (c : Nat) :
    (m.setCtx c y).wake c = { m.setCtx c y with kr := { m.kr with event := true } } := by
  rw [Main.wake_of_running (by rw [m.ctx_setCtx_same, hstate]) (by rwa [m.ctx_setCtx_same]), m.ctx_setCtx_same]
  exact congrArg (fun t => { m with ctxs := t, kr := { m.kr with event := true } }) (Tab.put_put ctxDef c y y m.ctxs)

/-- The read-back of one descriptor of a running context with work accepts it (R271). -/
theorem Main.acceptReadback_of_one {m : Main} {c : Nat} {d e : Desc} {q : List Desc} (hstate : (m.ctx c).state = .residentRunning)
    (hreading : (m.ctx c).reading = [d]) (hop : d.opcode ≠ 8) (hqueue : (m.ctx c).queue = e :: q) (he : e.protErr = none) :
    m.acceptReadback c = { Main.setCtx { m with stamps := m.stamps + 1 } c ((m.ctx c).joined d m.stamps) with
      kr := { m.kr with event := true } } := by
  have hlive : (m.ctx c).state ≠ .faulted := by simp [hstate]
  have hjoin : Main.updCtx { m.setCtx c { m.ctx c with reading := [], accepted := d.seq } with stamps := m.stamps + 1 } c
      (fun y => { y with queue := y.queue ++ [{ d with stamp := m.stamps }] })
      = Main.setCtx { m with stamps := m.stamps + 1 } c ((m.ctx c).joined d m.stamps) :=
    Main.updCtx_setCtx { m with stamps := m.stamps + 1 } _ _ _
  have hwake := Main.wake_setCtx_of_running (y := (m.ctx c).joined d m.stamps) hstate (by simp [Ctx.joined])
    { m with stamps := m.stamps + 1 } c
  have hfront : ((m.ctx c).joined d m.stamps).head = some e := by simp [Ctx.head, Ctx.joined, hqueue]
  simp only [Main.acceptReadback, hreading, List.getLast?_singleton, if_neg hlive, List.zipIdx_singleton, List.map_cons, List.map_nil,
    List.length_singleton, Nat.add_zero, Main.setCtx_stamps]
  rw [hjoin, hwake, List.foldl_cons, List.foldl_nil, Main.stopAccepted_of_other hop]
  refine Main.checkHead_ok _ _ fun f hf => ?_
  have hsame : Ctx.head _ = some f := (congrArg Ctx.head (Main.ctx_setCtx_same { m with stamps := m.stamps + 1 } c _)).symm.trans hf
  rw [← Option.some_inj.1 (hfront.symm.trans hsame), he]

/-- Settles O8: one descriptor read, and its read-back. -/
theorem descriptorsAccepted : Obligations.DescriptorsAccepted := by
  refine ⟨?read, ?accept⟩
  case read =>
    intro s c k hup hrec hstop hok hcq hreading hfree hfaulted hdb helig hdma hnum
    have hread := Main.readDescs_of_numbered hdma hnum
    refine onWarden_eq rfl hup (Main.descriptorRead_of_one hrec hstop hok hcq hreading hfree hfaulted hdb helig hread) fun n a hn => ?_
    have hctxs : n.ctxs = Tab.put ctxDef c.val { s.mn.ctx c.val with issued := k, reading := [s.mn.ringDesc c.val k] } s.mn.ctxs := by
      subst hn; rfl
    have hhost : n.host = Mem.wrN (hostKey 0 (s.mn.lineAddr c.val)) (leBytes 6 k ++ leBytes 2 (s.mn.ctx c.val).incarnation)
        s.mn.host := by subst hn; rfl
    have hlen : (leBytes 6 k ++ leBytes 2 (s.mn.ctx c.val).incarnation).length = 8 := by simp
    refine ⟨by subst hn; rfl, Main.ctxsBut_of_put hctxs, Main.ctx_of_put hctxs, ?_, ?_⟩
    · rw [hhost, ← hlen]; exact Mem.but_wrN _ _ _
    · rw [hhost, ← hlen]; exact Mem.rdN_wrN _ _ _
  case accept =>
    intro s c d e q hup hstate hreading _ hop hqueue he
    refine onWarden_lapse rfl hup (Main.acceptReadback_of_one hstate hreading hop hqueue he) rfl fun n a hn => ?_
    have hctxs : n.ctxs = Tab.put ctxDef c.val ((s.mn.ctx c.val).joined d s.mn.stamps) s.mn.ctxs := by subst hn; rfl
    exact ⟨by subst hn; rfl, Main.ctxsBut_of_put hctxs, by rw [Main.ctx_of_put hctxs, Ctx.joined, hqueue]⟩

end Sys2Proof
end

section
/-! SUPPORT AND PROOF. Descriptors that start an engine or a run (spec/12_host_interface.md R275, spec/04_bittings.md R90,
spec/07_keyway.md R165, spec/11_frame_lane.md R252): an equation for each that is not refused. -/

namespace Sys2Proof
open Machine

/-! ## RUN, BIND and COMPRESS -/

/-- A RUN whose layer groups are all served takes its place at the first (R275). -/
theorem Main.startRun_of_served {m : Main} {c : Nat} {d : Desc} (hdue : m.due c 1 = some d) (hrun : (m.ctx c).run = none)
    (hend : d.field 0x38 1 % 2 = 0) (hrows : 0 < d.field 0x1C 4) (hgroups : d.field 0x18 2 ≤ d.field 0x1A 2)
    (hlen : (m.ctx c).seqLen + d.field 0x1C 4 ≤ 2 ^ (m.ctx c).entry.histOrder)
    (hserves : ∀ g ≤ d.field 0x1A 2, d.field 0x18 2 ≤ g → m.serves c (d.field 0x10 8) g = true) :
    m.startRun c = { m.setCtx c { m.ctx c with
        cursor := d.field 0x18 2
        run := some { seq := d.seq, group := d.field 0x18 2, startLen := (m.ctx c).seqLen } } with
      kr := { m.kr with event := true } } := by
  have hall : ((List.range (d.field 0x1A 2 - d.field 0x18 2 + 1)).all fun i =>
      m.serves c (d.field 0x10 8) (d.field 0x18 2 + i)) = true := by
    refine List.all_eq_true.2 fun i hi => hserves _ ?_ (Nat.le_add_right _ _)
    have := List.mem_range.1 hi
    omega
  simp [Main.startRun, hdue, hrun, hend, hrows, hgroups, hlen, hall]

/-- A BIND of a container of a stored size begins its copy (R90). -/
theorem Main.startBind_of_allowed {m : Main} {c : Nat} {d : Desc} (hdue : m.due c 2 = some d)
    (hdma : m.dmaOk (m.ctx c).tenant (d.field 0x10 8) (d.field 0x18 4) = true) (harea : 0 < m.fld F.PLAN_AREA_SIZE_size)
    (hmin : 0x100 ≤ d.field 0x18 4) (hmax : d.field 0x18 4 ≤ 0x4000000) :
    m.startBind c false = m.setCtx c { m.ctx c with busy := true } := by
  have hsize : ¬(m.fld F.PLAN_AREA_SIZE_size = 0 ∨ d.field 0x18 4 < 0x100 ∨ 0x4000000 < d.field 0x18 4) := by omega
  simp only [Main.startBind, hdue, hdma, Bool.not_true, Bool.or_self, Bool.false_eq_true, if_false, if_neg hsize, Main.updCtx]

/-- A COMPRESS of a format that Table 4-3 lists joins the engine's queue (R165). -/
theorem Main.startCompress_of_listed {m : Main} {c : Nat} {d : Desc} (hdue : m.due c 6 = some d)
    (hfmt : (fmtOfCode (kwOps d).fmt).isSome = true) :
    m.startCompress c = { m.setCtx c { m.ctx c with busy := true } with
      kw := { m.kw with queue := m.kw.queue ++ [{ ctx := c, seq := d.seq, stamp := d.stamp }] } } := by
  have hnone : ¬(fmtOfCode (kwOps d).fmt).isNone = true := by simpa using Option.isSome_iff_ne_none.1 hfmt
  simp only [Main.startCompress, hdue, if_neg hnone]
  rfl

/-! ## LANE_START -/

/-- A lane that descriptor `d` of context `c` starts with bitting `b`: it stands before its first slot (R252). -/
def Lane.started (x : Lane) (c : Nat) (d : Desc) (b : Bitting) : Lane :=
  { x with
    st := .running, handle := d.field 0x10 2, startSeq := d.seq, ctxNo := c, bufOrder := min 4 (d.field 0x13 1)
    input := d.field 0x18 8, result := d.field 0x20 8, inStride := d.field 0x28 4, outStride := d.field 0x2C 4
    level := levelOf b.minPlevel, tick := 0, nextSlot := 0, cur := none, staged := [], inputReady := [], badInput := []
    miss := none, lastCommitted := none, recs := [], dropped := 0, head := 0, phase := true, resync := false, listsLoaded := false }

/-- The result ring that a LANE_START gives is stored in its lane's two registers, and none given leaves them (R252, Table 11-8). -/
def Main.withLaneRing (m : Main) (l ring : Nat) : Main :=
  if ring = 0 then m
  else (m.setWord (0x40010 + l * 0x100) (BitVec.ofNat 32 ring &&& 0xFFFFFFDF#32)).setWord (0x40014 + l * 0x100)
    (BitVec.ofNat 32 (ring / 2 ^ 32))

theorem Main.withLaneRing_regs (m : Main) (l ring : Nat) :
    ∃ r, m.withLaneRing l ring = { m with regs := r }
      ∧ m.RegsBut { m with regs := r } [0x40010 + l * 0x100, 0x40014 + l * 0x100] := by
  unfold Main.withLaneRing
  split
  case isTrue => exact ⟨m.regs, rfl, fun _ _ => rfl⟩
  case isFalse =>
    refine ⟨_, rfl, fun o ho => ?_⟩
    simp only [List.mem_cons, List.not_mem_nil, or_false, not_or] at ho
    exact (Main.word_setWord_other _ _ _ _ ho.2).trans (m.word_setWord_other _ _ _ ho.1)

/-- A LANE_START of a RESERVED lane by its own context, with a plan for its ward and no stop recorded, runs the lane (R252, R254). -/
theorem Main.laneStart_of_reserved {m : Main} {c l : Nat} {d : Desc} {b : Bitting} (hdue : m.due c 7 = some d) (hl : l = d.field 0x12 1)
    (hl3 : l ≤ 3) (hst : (m.lane l).st = .reserved) (hctx : m.laneCtxNo l = c) (hvalid : (m.plan (d.field 0x10 2)).valid = true)
    (hbound : c ∈ (m.plan (d.field 0x10 2)).contexts) (hb : (m.plan (d.field 0x10 2)).bitting = some b)
    (hplan : lanePlanOk b (m.lane l).ward = true) (hstops : (m.ctx c).laneStops = []) (hre : (m.ctx c).reExec = false) :
    m.laneStart c = ((m.withLaneRing l (d.field 0x30 8)).setLane l ((m.lane l).started c d b)).updCtx c
      fun x => { x with busy := true } := by
  subst hl
  have hok : (decide (d.field 0x12 1 ≤ 3) && (m.lane (d.field 0x12 1)).st == LaneSt.reserved && m.laneCtxNo (d.field 0x12 1) == c
      && (m.plan (d.field 0x10 2)).valid && (m.plan (d.field 0x10 2)).contexts.contains c
      && lanePlanOk b (m.lane (d.field 0x12 1)).ward) = true := by
    simp [hl3, hst, hctx, hvalid, hbound, hplan]
  have hresume : m.laneResume c = none := by simp [Main.laneResume, hre]
  have hnostop : ((m.ctx c).queue.find? fun q => q.opcode == 8 && decide (d.seq < q.seq) && q.field 0x10 1 == d.field 0x12 1
      && (m.ctx c).laneStops.contains q.seq) = none := by
    simp [hstops]
  simp only [Main.laneStart, hdue, hok, hresume, hnostop, hb, Option.map_some, Option.getD_some, Option.map_none, Option.getD_none,
    Bool.not_true, Bool.false_eq_true, if_false, Option.isSome_none]
  rfl

/-- LANE_START that runs its lane (R252, R253). -/
theorem Machine.laneStart_runs {s : State} {c : Fin 3072} {d : Desc} {q : List Desc} {l : Nat} {b : Bitting} (hup : s.wardenUp = true)
    (hturn : s.mn.TurnOf c.val d q 7) (hl : l = d.field 0x12 1) (hl3 : l ≤ 3) (hst : (s.mn.lane l).st = .reserved)
    (hctx : s.mn.laneCtxNo l = c.val) (hvalid : (s.mn.plan (d.field 0x10 2)).valid = true)
    (hbound : c.val ∈ (s.mn.plan (d.field 0x10 2)).contexts) (hb : (s.mn.plan (d.field 0x10 2)).bitting = some b)
    (hplan : lanePlanOk b (s.mn.lane l).ward = true) (hstops : (s.mn.ctx c.val).laneStops = [])
    (hre : (s.mn.ctx c.val).reExec = false) :
    OnWarden (.laneStart c) s fun n =>
      n = { s.mn with ctxs := n.ctxs, lanes := n.lanes, regs := n.regs, absent := n.absent } ∧ s.mn.CtxsBut n c.val
        ∧ n.ctx c.val = { s.mn.ctx c.val with busy := true } ∧ s.mn.RegsBut n [0x40010 + l * 0x100, 0x40014 + l * 0x100]
        ∧ n.lane l = (s.mn.lane l).started c.val d b ∧ s.mn.LanesBut n l := by
  have hstart := Main.laneStart_of_reserved (Main.due_of_turn hturn) hl hl3 hst hctx hvalid hbound hb hplan hstops hre
  obtain ⟨r, hr, hregs⟩ := s.mn.withLaneRing_regs l (d.field 0x30 8)
  rw [hr] at hstart
  refine onWarden_eq rfl hup hstart fun n a hn => ?_
  have hctxs : n.ctxs = Tab.put ctxDef c.val { s.mn.ctx c.val with busy := true } s.mn.ctxs := by subst hn; rfl
  have hlanes : n.lanes = (s.mn.setLane l ((s.mn.lane l).started c.val d b)).lanes := by subst hn; rfl
  have hlane (k : Nat) : n.lane k = (s.mn.setLane l ((s.mn.lane l).started c.val d b)).lane k := congrArg (Tab.get laneDef · k) hlanes
  refine ⟨by subst hn; rfl, Main.ctxsBut_of_put hctxs, Main.ctx_of_put hctxs, ?regs, ?lane, ?lanes⟩
  case regs => subst hn; exact hregs
  case lane => rw [hlane, Main.lane_setLane_same]
  case lanes => exact fun k hk => (hlane k).trans (s.mn.lane_setLane_other _ _ _ hk)

/-- Settles O9: RUN, BIND, COMPRESS and LANE_START, each by the equation of its command. -/
theorem engineDescriptorsStart : Obligations.EngineDescriptorsStart := by
  refine ⟨?run, ?bind, ?compress, ?laneStart⟩
  case run =>
    intro s c d q hup hturn hrun hend hrows hgroups hlen hserves
    refine onWarden_eq rfl hup (Main.startRun_of_served (Main.due_of_turn hturn) hrun hend hrows hgroups hlen hserves) fun n a hn => ?_
    have hctxs : n.ctxs = Tab.put ctxDef c.val { s.mn.ctx c.val with
        cursor := d.field 0x18 2
        run := some { seq := d.seq, group := d.field 0x18 2, startLen := (s.mn.ctx c.val).seqLen } } s.mn.ctxs := by subst hn; rfl
    exact ⟨by subst hn; rfl, Main.ctxsBut_of_put hctxs, Main.ctx_of_put hctxs⟩
  case bind =>
    intro s c d q hup hturn hdma harea hmin hmax
    refine onWarden_lapse rfl hup (Main.startBind_of_allowed (Main.due_of_turn hturn) hdma harea hmin hmax) rfl fun n a hn => ?_
    have hctxs : n.ctxs = Tab.put ctxDef c.val { s.mn.ctx c.val with busy := true } s.mn.ctxs := by subst hn; rfl
    exact ⟨by subst hn; rfl, Main.ctxsBut_of_put hctxs, Main.ctx_of_put hctxs⟩
  case compress =>
    intro s c d q hup hturn hfmt
    refine onWarden_lapse rfl hup (Main.startCompress_of_listed (Main.due_of_turn hturn) hfmt) rfl fun n a hn => ?_
    have hctxs : n.ctxs = Tab.put ctxDef c.val { s.mn.ctx c.val with busy := true } s.mn.ctxs := by subst hn; rfl
    exact ⟨by subst hn; rfl, Main.ctxsBut_of_put hctxs, Main.ctx_of_put hctxs⟩
  case laneStart =>
    intro s c d q l b hup hturn hl hl3 hst hctx hvalid hbound hb hplan hstops hre
    obtain ⟨n, hn, hframe, hbut, hbusy, hregs, hlane, hlanes⟩ :=
      laneStart_runs hup hturn hl hl3 hst hctx hvalid hbound hb hplan hstops hre
    refine ⟨n, hn, hframe, hbut, hbusy, hregs, ?_⟩
    rw [hlane]
    exact ⟨rfl, rfl, rfl, rfl, rfl, rfl, rfl, hlanes⟩

end Sys2Proof
end

section
/-! SUPPORT AND PROOF. Contexts bound to tenants and unbound (spec/12_host_interface.md R267, spec/10_keyring.md R248,
spec/19_security.md R414): a boundary at which no context's turn changes anything, and an equation for each of the two writes. -/

namespace Sys2Proof
open Machine

namespace Machine

/-- A host access to the Warden's side that raises no request, while it is up, whose result is known but for the islands absent. -/
theorem onWarden_hostLapse {c : Instr} {s : State} {f : Main → Main} {n : Main} {P : Main → Prop}
    (e : exec c s = .next (s.hostWarden fun m => (f m).lapseNew m)) (hup : s.HostUp) (hf : f s.mn = n) (hq : n.hq = s.mn.hq)
    (p : ∀ k a, k = { n with absent := a } → P k) : OnWarden c s P :=
  onWarden_hostEq e hup ((congrArg (·.lapseNew s.mn) hf).trans (Main.lapseNew_none n s.mn (congrArg List.length hq).le)) p

end Machine

/-! ## The boundary after a write -/

/-- Where no ward waits, no set-up does, and no context's turn changes anything, a boundary only brings hinge H3 up to date (R103). -/
theorem Main.settle_of_turns {m : Main}
    (hwards : ∀ w < 16, (m.ward w).fencePending = false ∧ (m.fencedWard w = true → (m.ward w).powered = false))
    (hctxs : ∀ c, m.settleCtx c = m) (hprot : m.prot.force = m.prot.written) :
    ∃ r, m.settle = { m with regs := r } ∧ m.RegsBut { m with regs := r } [F.HINGE_NOW_in_force.off] := by
  have hturns : (m.ctxs.map (·.1)).foldl Main.settleCtx m = m :=
    List.foldlRecOn (motive := (· = m)) _ _ rfl fun x hx c _ => by rw [hx]; exact hctxs c
  have hfold : (fun m c => ((Main.settleShare m c).settleChain c).settleUnbind c) = Main.settleCtx := rfl
  obtain ⟨r, hr, hregs⟩ := m.settleH3_regs
  refine ⟨r, ?_, hregs⟩
  simp only [Main.settle, Main.settleWards_of_none hwards, hfold, hturns, m.settleProt_of_same hprot, hr]

/-- An unbinding waits while its context runs (R248). -/
theorem Main.settleUnbind_of_running {m : Main} {c : Nat} (h : m.running c = true) : m.settleUnbind c = m := by
  simp [Main.settleUnbind, h]

/-- A running context for which an unbinding alone is due keeps its turn as it is (R103, R248). -/
theorem Main.settleCtx_of_running {m : Main} {c : Nat} (hrun : m.running c = true) (hshare : (m.ctx c).nextShare = none)
    (hdrop : (m.ctx c).pendingDrop = none) (hresync : (m.ctx c).pendingResync = false) : m.settleCtx c = m := by
  rw [Main.settleCtx, m.settleShare_of_none c hshare, m.settleChain_of_none c hdrop hresync, Main.settleUnbind_of_running hrun]

/-- The Warden's side once the protection set-up has changed: PROT_GEN counts (R414). -/
def Main.protCounted (m : Main) : Main := { m with prot := { m.prot with gen := (m.prot.gen + 1) % 2 ^ 32 } }

/-- One context replaced in a part where nothing waits, and whose turn changes nothing, leaves a boundary nothing but HINGE_NOW (R103). -/
theorem Main.settle_protCounted_setCtx {m : Main} {c : Nat} {x : Ctx} (hq : m.Quiet) (u : Mem)
    (hturn : Main.settleCtx { m.protCounted.setCtx c x with host := u } c = { m.protCounted.setCtx c x with host := u }) :
    ∃ r, Main.settle { m.protCounted.setCtx c x with host := u } = { m.protCounted.setCtx c x with host := u, regs := r }
      ∧ m.RegsBut { m with regs := r } [F.HINGE_NOW_in_force.off] := by
  refine Main.settle_of_turns hq.1 (fun j => ?_) hq.2.2
  by_cases hj : j = c
  case pos => rw [hj]; exact hturn
  case neg =>
    refine Main.settleCtx_of_atRest ?_
    have hsame : Main.ctx { m.protCounted.setCtx c x with host := u } j = m.ctx j := m.protCounted.ctx_setCtx_other c x j hj
    rw [hsame]
    exact Main.atRest_of_quiet hq j

/-! ## Bind -/

/-- A context as it is bound: to the tenant of slot `k`, with its table entry, its line's incarnation counted on (R267, R414). -/
def Main.boundCtx (m : Main) (c k : Nat) (t : Tenant) : Ctx :=
  { state := .bound, tenant := t.pasid, slot := some k, entry := m.readEntry c, incarnation := (m.lineField c 6 2 + 1) % 2 ^ 16 }

/-- A context line as it is written afresh at a bind (Table 12-12). -/
def Ctx.freshLine (x : Ctx) : List Byte :=
  leBytes 6 0 ++ leBytes 2 x.incarnation ++ leBytes 6 0 ++ leBytes 2 x.incarnation ++ leBytes 8 0 ++ leBytes 4 x.tenant
    ++ List.replicate 36 0#8

theorem Ctx.freshLine_length (x : Ctx) : x.freshLine.length = 64 := by simp [Ctx.freshLine]

/-- A fresh line shows nothing accepted. -/
theorem Mem.rdN_freshLine (x : Ctx) (a : Nat) (u : Mem) : (Mem.wrN a x.freshLine u).rdN a 6 = List.replicate 6 0#8 := by
  have htake : (Mem.wrN a x.freshLine u).rdN a 6 = ((Mem.wrN a x.freshLine u).rdN a x.freshLine.length).take 6 := by
    rw [x.freshLine_length]
    rfl
  rw [htake, Mem.rdN_wrN]
  rfl

theorem Main.lineFresh_setCtx (m : Main) (c : Nat) (x : Ctx) :
    (m.setCtx c x).lineFresh c = { m.setCtx c x with host := Mem.wrN (hostKey 0 (m.lineAddr c)) x.freshLine m.host } := by
  simp only [Main.lineFresh, Main.ctx_setCtx_same]
  rfl

/-- A FREE context is bound to a valid slot outside recovery (R267, R414). -/
theorem Main.ctxBind_of_free {m : Main} {v : Word} {c k : Nat} {t : Tenant} (hq : m.Quiet) (hc : c = F.CTX_BIND_context.of v)
    (hk : k = F.CTX_BIND_slot.of v) (ht : t = Tab.get tenantDef m.prot.written k) (hlt : c < 3072) (hfree : (m.ctx c).state = .free)
    (hvalid : t.valid = true) (hentry : (m.readEntry c).ok = true) (hrec : m.recoveryNeeded = false) :
    ∃ r, m.ctxBind v = { m.protCounted.setCtx c (m.boundCtx c k t) with
          host := Mem.wrN (hostKey 0 (m.lineAddr c)) (m.boundCtx c k t).freshLine m.host, regs := r }
      ∧ m.RegsBut { m with regs := r } [F.HINGE_NOW_in_force.off] := by
  have hallowed : ¬(3072 ≤ c ∨ (m.ctx c).state ≠ .free ∨ (!t.valid) = true) := by simp [hlt, hfree, hvalid]
  have hrec' : m.protCounted.recoveryNeeded = false := hrec
  have hbind : m.ctxBind v = ((m.protCounted.setCtx c (m.boundCtx c k t)).lineFresh c).settle := by
    subst hc hk ht
    simp only [Main.ctxBind, if_neg hallowed, hentry, if_true]
    rw [← Main.protCounted, hrec']
    rfl
  rw [hbind, Main.lineFresh_setCtx]
  have hline : m.protCounted.lineAddr c = m.lineAddr c := rfl
  have hhost : m.protCounted.host = m.host := rfl
  rw [hline, hhost]
  generalize Mem.wrN _ _ _ = u
  refine Main.settle_protCounted_setCtx hq u (Main.settleCtx_of_atRest ?_)
  have hsame : Main.ctx { m.protCounted.setCtx c (m.boundCtx c k t) with host := u } c = m.boundCtx c k t :=
    Main.ctx_of_put (m := m) rfl
  rw [hsame]
  exact ⟨rfl, rfl, rfl, rfl⟩

/-! ## Unbind -/

/-- An unbinding of a running context waits for its boundary (R248). -/
theorem Main.ctxUnbind_of_running {m : Main} {v : Word} {c : Nat} (hq : m.Quiet) (hc : c = F.CTX_BIND_context.of v) (hlt : c < 3072)
    (hstate : (m.ctx c).state = .residentRunning) (hrun : m.running c = true) :
    ∃ r, m.ctxUnbind v = { m.protCounted.setCtx c { m.ctx c with unbindPending := true } with regs := r }
      ∧ m.RegsBut { m with regs := r } [F.HINGE_NOW_in_force.off] := by
  have hallowed : ¬(3072 ≤ c ∨ (m.ctx c).state = .free ∨ (m.ctx c).state = .faulted) := by simp [hlt, hstate]
  have hunbind : m.ctxUnbind v = (m.protCounted.setCtx c { m.ctx c with unbindPending := true }).settle := by
    subst hc
    simp only [Main.ctxUnbind, if_neg hallowed]
    rfl
  have hsame := m.protCounted.ctx_setCtx_same c { m.ctx c with unbindPending := true }
  obtain ⟨hshare, -, hdrop, hresync⟩ := Main.atRest_of_quiet hq c
  rw [hunbind]
  exact Main.settle_protCounted_setCtx hq m.host (Main.settleCtx_of_running hrun ((congrArg Ctx.nextShare hsame).trans hshare)
    ((congrArg Ctx.pendingDrop hsame).trans hdrop) ((congrArg Ctx.pendingResync hsame).trans hresync))

/-- Settles O22: a bind of a FREE context, and an unbinding that waits. -/
theorem contextsBindAndUnbind : Obligations.ContextsBindAndUnbind := by
  refine ⟨?bind, ?unbind⟩
  case bind =>
    intro s v c k t hup hq hop hc hk ht hlt hfree hvalid hentry hrec _
    obtain ⟨r, hbind, hregs⟩ := Main.ctxBind_of_free hq hc hk ht hlt hfree hvalid hentry hrec
    generalize hu : Mem.wrN _ _ _ = u at hbind
    refine onWarden_hostLapse rfl hup ((if_pos hop).trans hbind) rfl fun n a hn => ?_
    have hctxs : n.ctxs = Tab.put ctxDef c (s.mn.boundCtx c k t) s.mn.ctxs := by subst hn; rfl
    have hhost : n.host = u := by subst hn; rfl
    refine ⟨by subst hn; rfl, Main.ctxsBut_of_put hctxs, by subst hn; exact hregs, Main.ctx_of_put hctxs, ?_, ?_⟩
    · rw [hhost, ← hu, ← (s.mn.boundCtx c k t).freshLine_length]
      exact Mem.but_wrN _ _ _
    · rw [hhost, ← hu]
      exact Mem.rdN_freshLine _ _ _
  case unbind =>
    intro s v c hup hq hop hc hlt hstate hrun
    obtain ⟨r, hunbind, hregs⟩ := Main.ctxUnbind_of_running hq hc hlt hstate hrun
    refine onWarden_hostLapse rfl hup ((if_pos hop).trans hunbind) rfl fun n a hn => ?_
    have hctxs : n.ctxs = Tab.put ctxDef c { s.mn.ctx c with unbindPending := true } s.mn.ctxs := by subst hn; rfl
    exact ⟨by subst hn; rfl, Main.ctxsBut_of_put hctxs, by subst hn; exact hregs, Main.ctx_of_put hctxs⟩

end Sys2Proof
end

section
/-! SUPPORT AND PROOF. Recovery with nothing to recover (spec/12_host_interface.md R287, Table 12-18): host memory that reads as zero
holds no record, plan, region or context line, so the orders that rebuild from it leave the part as it is. -/

namespace Sys2Proof
open Machine

/-! ## An empty journal and log -/

theorem Mem.rd_nil (a : Nat) : Mem.rd [] a = 0#8 := rfl

theorem Mem.rdN_nil (a n : Nat) : Mem.rdN [] a n = List.replicate n 0#8 := by
  simp [Mem.rdN, Mem.rd_nil]

theorem Mem.rdNat_nil (a n : Nat) : Mem.rdNat [] a n = 0 := by
  induction n generalizing a with
  | zero => rfl
  | succ n ih => rw [Mem.rdNat, ih, Mem.rd_nil]; rfl

section
variable {m : Main} (hhost : m.host = [])
include hhost

theorem Main.lineField_of_blank (c off n : Nat) : m.lineField c off n = 0 := by
  rw [Main.lineField, hhost, Mem.rdNat_nil]

theorem Main.lineZero_of_blank (c : Nat) : m.lineZero c = true := by
  rw [Main.lineZero, hhost, Mem.rdN_nil, List.all_replicate]
  rfl

/-- A line of zeros has no record's magic (R282). -/
theorem Main.logRecAt_of_blank (i : Nat) : m.logRecAt i = none := by
  have hline : m.logLine i = List.replicate 64 0#8 := by rw [Main.logLine, hhost, Mem.rdN_nil]
  have hmagic : numAt (m.logLine i) 0 4 ≠ 0x54494D43 := by rw [hline]; decide
  exact if_pos hmagic

theorem Main.soundRecords_of_blank : m.soundRecords = [] := by
  have hnone : (List.range m.logLines).filterMap m.logRecAt = [] :=
    List.filterMap_eq_nil_iff.2 fun i _ => Main.logRecAt_of_blank hhost i
  rw [Main.soundRecords, hnone]
  rfl

/-- No step is recorded (Table 12-18, order 7). -/
theorem Main.lastStep_of_blank : m.lastStep = 0 := by
  have hnone : ((List.range 3072).filter fun c => m.lineField c 0x1E 1 == 0).foldl (fun n c => max n (m.lineField c 0x10 6)) 0 = 0 :=
    List.foldlRecOn (motive := (· = 0)) _ _ rfl fun n hn c _ => by rw [hn, Main.lineField_of_blank hhost]; rfl
  simp only [Main.lastStep, Main.soundRecords_of_blank hhost]
  exact hnone

/-- A plan record of zeros is not valid (order 5). -/
theorem Main.recopyPlan_of_blank (aux : List (Nat × ContainerAux)) (h : Nat) : Main.recopyPlan aux m h = m := by
  simp [Main.recopyPlan, hhost, Mem.rdNat_nil]

/-- A region record of zeros is FREE (order 4). -/
theorem Main.reloadRegion_of_blank (bad : List (Nat × Nat)) (r : Nat) : Main.reloadRegion bad m r = m := by
  simp only [Main.reloadRegion, hhost, Mem.rdNat_nil]

/-- A context that was not rebound and whose line is zero has nothing to drop or rebuild (order 6). -/
theorem Main.rebuildCtx_of_blank {c : Nat} (hc : (m.ctx c).rebound = false) : (m.dropUnbound c).rebuildCtx c = m := by
  have hdrop : m.dropUnbound c = m := if_pos (by rw [Main.lineZero_of_blank hhost, Bool.or_true])
  rw [hdrop]
  exact if_pos (by rw [hc]; rfl)

end

/-! ## The orders of a recovery -/

/-- A log with no sound record is begun afresh (order 3). -/
theorem Main.recover_of_noRecords {m : Main} (hmay : m.mayRecover = true) (hneeded : m.recoveryNeeded = true)
    (hlog : m.soundRecords = []) : m.recover = Main.setFld { m with log := {} } F.HOST_STATUS_recovering 1 := by
  simp [Main.recover, hmay, Main.doRecover, hneeded, hlog]

/-- The part before it is rebuilt from its journal: no plan, region or page (R287). -/
def Main.emptied (m : Main) : Main := { m with lastWriter := [], scrubbed := [], pages := [], plans := [], regions := [] }

/-- Orders 4 to 6: regions, plans and contexts rebuilt from the journal. -/
def Main.rebuilt (m : Main) (aux : List (Nat × ContainerAux)) (bad : List (Nat × Nat)) : Main :=
  (List.range 3072).foldl (fun k c => (k.dropUnbound c).rebuildCtx c)
    ((List.range 8192).foldl (Main.reloadRegion bad) ((List.range 4096).foldl (Main.recopyPlan aux) m))

/-- Order 7: steps go on after the highest that is recorded. -/
def Main.numbered (m : Main) : Main :=
  { m with kr := { m.kr with step := nextStep m.lastStep, listed := false, rounds := [], event := true } }

/-- Order 8 and Table 17-7: recovery is over, and with it a wake that waited for it. -/
def Main.recoveryOver (m : Main) : Main :=
  let k := (m.setFld F.HOST_STATUS_recovering 0).setFld F.HOST_STATUS_recovery_needed 0
  if k.wakeHeld then k.wakeEnd else k

/-- The marks of rebound contexts cleared, and RESYNC due where one of the contexts is chained (R319). -/
def Main.marksCleared (m : Main) : Main :=
  { m with
    ctxs := m.ctxs.map fun p => (p.1, { p.2 with rebound := false })
    lz := { m.lz with resyncDue := m.lz.resyncDue || m.ctxs.any fun p => m.chainedCtx p.1 } }

/-- The orders after the rebuilding (R287, orders 7 and 8). -/
theorem Main.recoveryTail_eq (built : Main) :
    (let m := { built with kr := { built.kr with step := nextStep built.lastStep, listed := false, rounds := [], event := true } }
     let m := (m.setFld F.HOST_STATUS_recovering 0).setFld F.HOST_STATUS_recovery_needed 0
     let m := if m.wakeHeld then m.wakeEnd else m
     { m with
       ctxs := m.ctxs.map fun p => (p.1, { p.2 with rebound := false })
       lz := { m.lz with resyncDue := m.lz.resyncDue || m.ctxs.any fun p => m.chainedCtx p.1 } })
      = built.numbered.recoveryOver.marksCleared := rfl

/-- RECOVERY_COMPLETE, order by order. -/
theorem Main.recoveryDone_eq {m : Main} (hrec : m.bit F.HOST_STATUS_recovering = true) (aux : List (Nat × ContainerAux))
    (bad : List (Nat × Nat)) : m.recoveryDone aux bad = (m.emptied.rebuilt aux bad).numbered.recoveryOver.marksCleared := by
  have hopen : ¬(!m.bit F.HOST_STATUS_recovering) = true := by simp [hrec]
  rw [Main.recoveryDone, if_neg hopen, Main.rebuilt]
  generalize List.range 4096 = hs, List.range 8192 = rs, List.range 3072 = cs
  generalize hstored : ({ m with lastWriter := [], scrubbed := [], pages := [], plans := [], regions := [] } : Main) = stored
  rw [show m.emptied = stored from hstored]
  dsimp only
  generalize cs.foldl (fun (k : Main) c => (k.dropUnbound c).rebuildCtx c)
    (rs.foldl (Main.reloadRegion bad) (hs.foldl (Main.recopyPlan aux) stored)) = built
  exact Main.recoveryTail_eq built

/-! ## Each order with nothing to recover -/

theorem Main.rebuilt_of_blank {m : Main} (hhost : m.host = []) (hctxs : ∀ c, (m.ctx c).rebound = false)
    (aux : List (Nat × ContainerAux)) (bad : List (Nat × Nat)) : m.rebuilt aux bad = m := by
  have hplans : (List.range 4096).foldl (Main.recopyPlan aux) m = m :=
    List.foldlRecOn (motive := (· = m)) _ _ rfl fun k hk h _ => by rw [hk]; exact Main.recopyPlan_of_blank hhost aux h
  have hregions : (List.range 8192).foldl (Main.reloadRegion bad) m = m :=
    List.foldlRecOn (motive := (· = m)) _ _ rfl fun k hk r _ => by rw [hk]; exact Main.reloadRegion_of_blank hhost bad r
  rw [Main.rebuilt, hplans, hregions]
  exact List.foldlRecOn (motive := (· = m)) _ _ rfl fun k hk c _ => by rw [hk]; exact Main.rebuildCtx_of_blank hhost (hctxs c)

/-- After no recorded step the next is step 1. -/
theorem Main.numbered_of_blank {m : Main} (hhost : m.host = []) :
    m.numbered = { m with kr := { m.kr with step := 1, listed := false, rounds := [], event := true } } := by
  rw [Main.numbered, Main.lastStep_of_blank hhost]
  rfl

theorem Main.recoveryOver_frame (m : Main) : m.recoveryOver = { m with regs := m.recoveryOver.regs, wakeHeld := false } := by
  unfold Main.recoveryOver
  dsimp only
  split
  case isTrue => rfl
  case isFalse h =>
    have hheld : m.wakeHeld = false := Bool.not_eq_true _ ▸ h
    rw [← hheld]
    rfl

/-- Clearing the mark of a rebind where none is set changes no context. -/
theorem Tab.map_rebound {t : Tab Ctx} (h : ∀ p ∈ t, p.2.rebound = false) :
    (t.map fun p => (p.1, { p.2 with rebound := false })) = t := by
  refine (List.map_congr_left fun p hp => ?_).trans (List.map_id' t)
  rw [← h p hp]

/-- Without plans no context is chained. -/
theorem Main.chainedCtx_of_noPlans {m : Main} (h : m.plans = []) (c : Nat) : m.chainedCtx c = false := by
  rw [Main.chainedCtx, Main.stored, h]
  rfl

theorem Main.marksCleared_of_none {m : Main} (hplans : m.plans = []) (hctxs : ∀ p ∈ m.ctxs, p.2.rebound = false) :
    m.marksCleared = m := by
  have hchained : (m.ctxs.any fun p => m.chainedCtx p.1) = false :=
    List.any_eq_false.2 fun p _ => by rw [Main.chainedCtx_of_noPlans hplans]; exact Bool.false_ne_true
  rw [Main.marksCleared, Tab.map_rebound hctxs, hchained, Bool.or_false]

/-- The Warden's side after a recovery of an empty journal, but for its registers (R287, orders 4 to 8). -/
def Main.blankRecovered (m : Main) : Main :=
  { m.emptied with kr := { m.kr with step := 1, listed := false, rounds := [], event := true } }

theorem Main.recoveryDone_of_blank {m : Main} (hrec : m.bit F.HOST_STATUS_recovering = true) (hhost : m.host = [])
    (hctxs : ∀ p ∈ m.ctxs, p.2.rebound = false) (aux : List (Nat × ContainerAux)) (bad : List (Nat × Nat)) :
    m.recoveryDone aux bad = m.blankRecovered.recoveryOver := by
  have hrebound (c : Nat) : (m.emptied.ctx c).rebound = false :=
    (Tab.get_mem_or_default ctxDef m.ctxs c).elim (hctxs _) fun h => congrArg Ctx.rebound h
  have hframe := m.blankRecovered.recoveryOver_frame
  rw [Main.recoveryDone_eq hrec, Main.rebuilt_of_blank (m := m.emptied) hhost hrebound, Main.numbered_of_blank (m := m.emptied) hhost]
  refine Main.marksCleared_of_none (m := m.blankRecovered.recoveryOver) (congrArg Main.plans hframe) ?_
  exact (congrArg Main.ctxs hframe).symm ▸ hctxs

/-! ## The registers -/

/-- Recovery neither runs nor is needed (Table 12-18, order 8). -/
def Main.settledHost (m : Main) : Main := (m.setFld F.HOST_STATUS_recovering 0).setFld F.HOST_STATUS_recovery_needed 0

theorem Main.recoveryOver_of_held {m : Main} (h : m.wakeHeld = true) : m.recoveryOver = m.settledHost.wakeEnd := if_pos h

theorem Main.recoveryOver_of_awake {m : Main} (h : m.wakeHeld = false) : m.recoveryOver = m.settledHost := if_neg (h ▸ Bool.false_ne_true)

theorem Main.word_settledHost_other (m : Main) {o : Nat} (h : o ≠ F.HOST_STATUS_recovering.off) : m.settledHost.word o = m.word o :=
  (Main.word_setWord_other _ _ _ _ h).trans (Main.word_setWord_other _ _ _ _ h)

theorem Main.word_wakeEnd_other (m : Main) {o : Nat} (h : o ≠ F.SLEEP_STATUS_state.off) : m.wakeEnd.word o = m.word o :=
  (Main.word_setWord_other _ _ _ _ h).trans (Main.word_setWord_other _ _ _ _ h)

theorem Main.fld_settledHost_recovering (m : Main) : m.settledHost.fld F.HOST_STATUS_recovering = 0 := by
  have hin : F.HOST_STATUS_recovering.In := ⟨by decide, by decide⟩
  rw [Main.settledHost, Main.fld_setFld_apart _ F.HOST_STATUS_recovery_needed F.HOST_STATUS_recovering 0 ⟨by decide, by decide⟩ hin rfl
    (by decide), Main.fld_setFld_same _ _ _ hin, Nat.zero_mod]

theorem Main.fld_settledHost_needed (m : Main) : m.settledHost.fld F.HOST_STATUS_recovery_needed = 0 := by
  rw [Main.settledHost, Main.fld_setFld_same _ _ _ ⟨by decide, by decide⟩, Nat.zero_mod]

theorem Main.fld_wakeEnd (m : Main) (f : Fld) :
    m.wakeEnd.fld f = ((m.setFld F.SLEEP_STATUS_state 0).setFld F.SLEEP_STATUS_busy 0).fld f := rfl

theorem Main.fld_wakeEnd_state (m : Main) : m.wakeEnd.fld F.SLEEP_STATUS_state = 0 := by
  have hin : F.SLEEP_STATUS_state.In := ⟨by decide, by decide⟩
  rw [Main.fld_wakeEnd, Main.fld_setFld_apart _ F.SLEEP_STATUS_busy F.SLEEP_STATUS_state 0 ⟨by decide, by decide⟩ hin rfl (by decide),
    Main.fld_setFld_same _ _ _ hin, Nat.zero_mod]

theorem Main.fld_wakeEnd_busy (m : Main) : m.wakeEnd.fld F.SLEEP_STATUS_busy = 0 := by
  rw [Main.fld_wakeEnd, Main.fld_setFld_same _ _ _ ⟨by decide, by decide⟩, Nat.zero_mod]

/-- Outside SLEEP_STATUS a held wake makes no difference. -/
theorem Main.word_recoveryOver (m : Main) {o : Nat} (h : o ≠ F.SLEEP_STATUS_state.off) : m.recoveryOver.word o = m.settledHost.word o := by
  cases hheld : m.wakeHeld with
  | true => rw [Main.recoveryOver_of_held hheld, Main.word_wakeEnd_other _ h]
  | false => rw [Main.recoveryOver_of_awake hheld]

theorem Main.fld_recoveryOver (m : Main) {f : Fld} (h : f.off ≠ F.SLEEP_STATUS_state.off) : m.recoveryOver.fld f = m.settledHost.fld f := by
  rw [Main.fld, Main.word_recoveryOver m h, Main.fld]

/-- Without a held wake SLEEP_STATUS keeps its word. -/
theorem Main.word_recoveryOver_sleep {m : Main} (h : m.wakeHeld = false) :
    m.recoveryOver.word F.SLEEP_STATUS_state.off = m.word F.SLEEP_STATUS_state.off := by
  rw [Main.recoveryOver_of_awake h, Main.word_settledHost_other _ (by decide)]

/-- A field of SLEEP_STATUS that a wake's end clears reads 0 where the wake was held, and stays where it was not (Table 17-7). -/
theorem Main.fld_recoveryOver_sleep (m : Main) {f : Fld} (hoff : f.off = F.SLEEP_STATUS_state.off) (hend : ∀ k : Main, k.wakeEnd.fld f = 0) :
    m.recoveryOver.fld f = if m.wakeHeld then 0 else m.fld f := by
  cases hheld : m.wakeHeld with
  | true => rw [Main.recoveryOver_of_held hheld, hend, if_pos rfl]
  | false => rw [Main.fld, hoff, Main.word_recoveryOver_sleep hheld, ← hoff, if_neg Bool.false_ne_true, Main.fld]

/-- Recovery's end and the cleared run of resets touch three registers (R287, R440). -/
theorem Main.regsBut_recoveryOver (m : Main) :
    m.RegsBut (m.recoveryOver.setFld F.ERR_STATUS_latch_run 0)
      [F.HOST_STATUS_recovering.off, F.ERR_STATUS_latch_run.off, F.SLEEP_STATUS_state.off] := by
  intro o ho
  simp only [List.mem_cons, List.not_mem_nil, or_false, not_or] at ho
  obtain ⟨hhost, herr, hsleep⟩ := ho
  calc (m.recoveryOver.setFld F.ERR_STATUS_latch_run 0).word o
    _ = m.recoveryOver.word o := Main.word_setWord_other _ _ _ _ herr
    _ = m.settledHost.word o := Main.word_recoveryOver m hsleep
    _ = m.word o := Main.word_settledHost_other m hhost

/-! ## The obligation -/

/-- RECOVERY_COMPLETE over an empty journal, with the run of resets cleared (R287, R440). -/
theorem Main.recovered_of_blank {m : Main} (hrec : m.bit F.HOST_STATUS_recovering = true) (hhost : m.host = [])
    (hctxs : ∀ p ∈ m.ctxs, p.2.rebound = false) (aux : List (Nat × ContainerAux)) (bad : List (Nat × Nat)) :
    m.recovered aux bad
      = { m.blankRecovered with regs := (m.blankRecovered.recoveryOver.setFld F.ERR_STATUS_latch_run 0).regs, wakeHeld := false } := by
  rw [Main.recovered, if_pos hrec, Main.recoveryDone_of_blank hrec hhost hctxs]
  generalize hk : m.blankRecovered.recoveryOver = k
  have hframe : k = { m.blankRecovered with regs := k.regs, wakeHeld := false } := hk ▸ m.blankRecovered.recoveryOver_frame
  rw [hframe]
  rfl

/-- Settles O23: a recover write without a sound record, and the end of a recovery of an empty journal. -/
theorem recoveryRuns : Obligations.RecoveryRuns := by
  refine ⟨?start, ?complete⟩
  case start =>
    intro s hup hmay hneeded hlog
    refine onWarden_hostEq rfl hup (Main.recover_of_noRecords hmay hneeded hlog) fun n a hn => ?_
    have hrec : (Main.setFld { s.mn with log := {} } F.HOST_STATUS_recovering 1).fld F.HOST_STATUS_recovering = 1 :=
      Main.fld_setFld_same _ _ _ ⟨by decide, by decide⟩
    refine ⟨by subst hn; rfl, by subst hn; rfl, by subst hn; exact Main.regsBut_setFld { s.mn with log := {} } _ _, ?_⟩
    subst hn
    exact congrArg (· != 0) hrec
  case complete =>
    intro s aux bad hup hrec hhost hctxs
    refine onWarden_lapse rfl hup (Main.recovered_of_blank hrec hhost hctxs aux bad) rfl fun n a hn => ?_
    have hword (o : Nat) : n.word o = (s.mn.blankRecovered.recoveryOver.setFld F.ERR_STATUS_latch_run 0).word o := by subst hn; rfl
    have hfld (f : Fld) : n.fld f = (s.mn.blankRecovered.recoveryOver.setFld F.ERR_STATUS_latch_run 0).fld f := congrArg f.of (hword f.off)
    have hother (f : Fld) (h : f.off ≠ F.ERR_STATUS_latch_run.off) : n.fld f = s.mn.blankRecovered.recoveryOver.fld f :=
      (hfld f).trans (Main.fld_setFld_other _ _ f 0 h)
    have hrecovering : n.fld F.HOST_STATUS_recovering = 0 :=
      (hother _ (by decide)).trans ((Main.fld_recoveryOver _ (by decide)).trans (Main.fld_settledHost_recovering _))
    have hneeded : n.fld F.HOST_STATUS_recovery_needed = 0 :=
      (hother _ (by decide)).trans ((Main.fld_recoveryOver _ (by decide)).trans (Main.fld_settledHost_needed _))
    refine ⟨by subst hn; rfl, by subst hn; rfl, fun c => by subst hn; rfl, congrArg (· != 0) hrecovering, congrArg (· != 0) hneeded, ?_,
      fun o ho => (hword o).trans (Main.regsBut_recoveryOver s.mn.blankRecovered o ho), ?_, ?_, fun hheld => ?_⟩
    · rw [hfld, Main.fld_setFld_same _ _ _ ⟨by decide, by decide⟩, Nat.zero_mod]
    · exact (hother _ (by decide)).trans (Main.fld_recoveryOver_sleep _ rfl Main.fld_wakeEnd_state)
    · exact (hother _ (by decide)).trans (Main.fld_recoveryOver_sleep _ rfl Main.fld_wakeEnd_busy)
    · exact (hword _).trans ((Main.word_setWord_other _ _ _ _ (by decide)).trans
        (Main.word_recoveryOver_sleep (m := s.mn.blankRecovered) hheld))

end Sys2Proof
end

section
/-! PROOF. A thermal alert while a wake waits for recovery (spec/17_power.md R373, R384). -/

namespace Sys2Proof
open Machine

/-- A part woken from S4 that waits for the host to recover it: the Warden runs, SLEEP_STATUS still shows state 4 and busy (Table 17-7). -/
def wakeAwaitingRecovery : State :=
  { State.reset with mn := { regs := [(F.SLEEP_STATUS_state.off, 0xC#32)], wakeHeld := true } }

/-- The alert is flagged in LAST_WAKE as a further wake source, 8 (R384). -/
theorem thermalAlert_of_wakeHeld :
    ∃ t, exec (.thermalAlert .warden 200) wakeAwaitingRecovery = .next t ∧ t.mn.fld F.LAST_WAKE_also = 0x80 :=
  ⟨_, rfl, by decide⟩

/-- Refutes O45: its last clause has an alert change no register but THERM_STATUS. While a wake is held for recovery no sleep sequence is
busy and the Warden runs, and the alert is flagged in LAST_WAKE.also besides. -/
theorem not_levelsFollowCapAndHeat : ¬ Obligations.LevelsFollowCapAndHeat := by
  rintro ⟨-, -, -, -, -, halert⟩
  obtain ⟨t, hclaim, -, hregs, -⟩ :=
    halert wakeAwaitingRecovery .warden 200 (by decide) (by decide) (by decide) (by decide) (by decide) (by decide)
  obtain ⟨u, hmodel, hflag⟩ := thermalAlert_of_wakeHeld
  have hsame : t = u := Host.Outcome.next.inj (hclaim.symm.trans hmodel)
  have hkept : t.mn.word F.LAST_WAKE_also.off = wakeAwaitingRecovery.mn.word F.LAST_WAKE_also.off := hregs _ (by decide)
  have hclear : t.mn.fld F.LAST_WAKE_also = 0 := (congrArg F.LAST_WAKE_also.of hkept).trans (by decide)
  rw [hsame, hflag] at hclear
  exact absurd hclear (by decide)

end Sys2Proof
end

section
/-! SUPPORT AND PROOF. The service ring (spec/13_hinges.md R295 to R298): where a request and its data stand in host memory, what a post
leaves, the one answer that a doorbell reads when it names the next, and a write of the modes wanted. -/

namespace Sys2Proof
open Machine

/-- A field set changes the register file alone, and there its own register. -/
theorem Main.exists_setFld_eq (m : Main) (f : Fld) (v : Nat) (hf : f.In) :
    ∃ g, m.setFld f v = { m with regs := g } ∧ m.RegsBut { m with regs := g } [f.off]
      ∧ Main.fld { m with regs := g } f = v % 2 ^ f.width :=
  ⟨_, rfl, m.regsBut_setFld f v, m.fld_setFld_same f v hf⟩

/-! ## A request's record -/

/-- Every hinge's operands fit the record's 48 bytes of payload, and zeros fill the rest (Table 13-5). -/
theorem payload_length (r : HingeReq) : (payload r).length = 48 := by
  simp only [payload, List.length_append, List.length_replicate]
  refine Nat.add_sub_of_le ?_
  split <;> simp

theorem requestBytes_length (k : Nat) (r : HingeReq) : (requestBytes k r).length = 64 := by
  simp [requestBytes, payload_length]

/-! ## A request posted -/

/-- Where request `k` stands in the request ring (R296). -/
def Main.requestKey (m : Main) (k : Nat) : Nat := hostKey 0 (m.pair 0x2010 0x2014 12 + k % 2 ^ m.svcOrder * 64)

/-- Where its data slot begins (R296). -/
def Main.dataKey (m : Main) (k : Nat) : Nat := hostKey 0 (m.pair 0x2020 0x2024 16 + k % 2 ^ m.svcOrder * 0x10000)

/-- Host memory once request `k` is posted: its data first, then its record (R297). -/
def Main.postedMem (m : Main) (k : Nat) (r : HingeReq) : Mem :=
  Mem.wrN (m.requestKey k) (requestBytes k r) (Mem.wrN (m.dataKey k) r.data m.host)

/-- The service ring once it has posted a request; a notice, H10, is outstanding no more (R297). -/
def Svc.posted (x : Svc) (r : HingeReq) : Svc :=
  { x with nextReq := x.nextReq + 1, out := if r.hinge = 10 then x.out else x.out ++ [(x.nextReq, r)] }

/-- The Warden's side once its oldest request is posted and `q` remain to be, with host memory `u`, the message not yet raised. -/
def Main.posted (m : Main) (u : Mem) (r : HingeReq) (q : List HingeReq) : Main := { m with host := u, hq := q, svc := m.svc.posted r }

section
variable (m : Main) (k : Nat) (r : HingeReq)

theorem Main.postedMem_record : (m.postedMem k r).rdN (m.requestKey k) 64 = requestBytes k r := by
  have hread := Mem.rdN_wrN (Mem.wrN (m.dataKey k) r.data m.host) (m.requestKey k) (requestBytes k r)
  rwa [requestBytes_length] at hread

/-- A record that does not meet its data slot leaves the data. -/
theorem Main.postedMem_data (h : m.dataKey k + r.data.length ≤ m.requestKey k ∨ m.requestKey k + 64 ≤ m.dataKey k) :
    (m.postedMem k r).rdN (m.dataKey k) r.data.length = r.data := by
  rw [← requestBytes_length k r] at h
  rw [Main.postedMem, Mem.rdN_wrN_out _ _ _ _ _ h, Mem.rdN_wrN]

theorem Main.postedMem_out {x : Nat} (hreq : x < m.requestKey k ∨ m.requestKey k + 64 ≤ x)
    (hdata : x < m.dataKey k ∨ m.dataKey k + r.data.length ≤ x) : (m.postedMem k r).rd x = m.host.rd x := by
  rw [← requestBytes_length k r] at hreq
  rw [Main.postedMem, Mem.rd_wrN_out _ _ _ _ hreq, Mem.rd_wrN_out _ _ _ _ hdata]

end

section
variable {m : Main} {r : HingeReq} {q : List HingeReq} (hq : m.hq = r :: q) (hon : m.bit F.SVC_CTL_enable = true)
  (hnum : m.svc.nextReq ≤ 0xFFFFFFFF)
include hq hon hnum

/-- The oldest request is posted when its slot is free; SVC_CTL.irq asks for a message (R297). -/
theorem Main.svcPost_of_free (hfree : ∀ p ∈ m.svc.out, p.1 + 2 ^ m.svcOrder ≠ m.svc.nextReq) :
    m.svcPost = if m.bit F.SVC_CTL_irq then (m.posted (m.postedMem m.svc.nextReq r) r q).raise (m.fld F.SVC_CTL_vector)
      else m.posted (m.postedMem m.svc.nextReq r) r q := by
  have hlast : decide (0xFFFFFFFF < m.svc.nextReq) = false := decide_eq_false (Nat.not_lt.2 hnum)
  have hslot : (m.svc.out.any fun p => p.1 + 2 ^ m.svcOrder == m.svc.nextReq) = false := by simpa using hfree
  have hpair (a : Nat) (bs : List Byte) (lo hi n : Nat) : (m.hostWr a bs).pair lo hi n = m.pair lo hi n := rfl
  have hwrite : (m.hostWr (m.pair 0x2020 0x2024 16 + m.svc.nextReq % 2 ^ m.svcOrder * 0x10000) r.data).hostWr
      (m.pair 0x2010 0x2014 12 + m.svc.nextReq % 2 ^ m.svcOrder * 64) (requestBytes m.svc.nextReq r)
      = { m with host := m.postedMem m.svc.nextReq r } := by
    rw [Main.postedMem, Main.requestKey, Main.dataKey]
    rfl
  generalize m.postedMem m.svc.nextReq r = u at hwrite
  simp only [Main.svcPost, hq, hon, hlast, hslot, hpair, hwrite, Bool.not_true, Bool.not_false, Bool.false_eq_true, if_false]
  rfl

/-- A request whose slot is still owned waits, and SVC_STATUS.full is set (R297). -/
theorem Main.svcPost_of_full {p : Nat × HingeReq} (hp : p ∈ m.svc.out) (hown : p.1 + 2 ^ m.svcOrder = m.svc.nextReq) :
    m.svcPost = m.setFld F.SVC_STATUS_full 1 := by
  have hlast : decide (0xFFFFFFFF < m.svc.nextReq) = false := decide_eq_false (Nat.not_lt.2 hnum)
  have hslot : (m.svc.out.any fun p => p.1 + 2 ^ m.svcOrder == m.svc.nextReq) = true :=
    List.any_eq_true.2 ⟨p, hp, beq_iff_eq.2 hown⟩
  simp only [Main.svcPost, hq, hon, hlast, hslot, Bool.not_true, Bool.not_false, Bool.false_eq_true, if_false, if_true]

end

/-- A message on an unmasked vector is sent (R265, R297). -/
theorem Main.posted_message {m : Main} (u : Mem) (r : HingeReq) (q : List HingeReq)
    (hmask : m.bit F.SVC_CTL_irq = true → m.masked (m.fld F.SVC_CTL_vector) = false) :
    (if m.bit F.SVC_CTL_irq then (m.posted u r q).raise (m.fld F.SVC_CTL_vector) else m.posted u r q)
      = { m.posted u r q with msgs := if m.bit F.SVC_CTL_irq then m.msgs ++ [m.fld F.SVC_CTL_vector] else m.msgs } := by
  cases hirq : m.bit F.SVC_CTL_irq with
  | false => rfl
  | true => exact Main.raise_of_unmasked (m := m.posted u r q) (hmask hirq)

/-! ## An answer read -/

section
variable {last a : Nat} (ha : a = nextAnswer last)
include ha

/-- The answer after the last one read is a new one, and has a number (R298). -/
theorem nextAnswer_fresh : last ≠ a ∧ a ≠ 0 := by
  unfold nextAnswer at ha
  split at ha <;> omega

theorem answerAhead_next : answerAhead last a = 1 := by
  unfold nextAnswer at ha
  unfold answerAhead
  split at ha <;> split <;> omega

end

/-- A doorbell that names the next answer reads that answer (R298). -/
theorem Main.svcDb_next {m : Main} {a : Nat} (hon : m.bit F.SVC_CTL_enable = true) (ha : a = nextAnswer m.svc.lastAns)
    (hlt : a < 2 ^ 32) : m.svcDb (BitVec.ofNat 32 a) = m.readAnswer a := by
  obtain ⟨hnew, hne⟩ := nextAnswer_fresh ha
  have hring : ¬2 ^ m.svcOrder < 1 := Nat.not_lt.2 Nat.one_le_two_pow
  have hone : m.readAnswers a 1 = m.readAnswer a := by rw [Main.readAnswers, if_neg hnew, ← ha, Main.readAnswers]
  have hv : (BitVec.ofNat 32 a).toNat = a := (BitVec.toNat_ofNat _ _).trans (Nat.mod_eq_of_lt hlt)
  simp [Main.svcDb, hv, answerAhead_next ha, hon, hne, hring, hone]

/-- The service ring once answer `a`, whose bytes are `bs`, is taken for request `k` (R298). -/
def Svc.answerRead (x : Svc) (a k : Nat) (r : HingeReq) (bs : List Byte) : Svc :=
  { x with lastAns := a, out := x.out.filter (fun p => p.1 != k), answers := x.answers ++ [(k, r, bs)] }

/-- An answer with its request's hinge and one of that hinge's verdicts is taken; H1's brings its half of the data slot (R296, R298). -/
theorem Main.readAnswer_of_fits {m : Main} {a k : Nat} {r : HingeReq} {bs slot : List Byte}
    (hbs : bs = m.host.rdN (hostKey 0 (m.pair 0x2018 0x201c 12 + a % 2 ^ m.svcOrder * 64)) 64) (hk : k = ansNat bs 4 4)
    (hout : (m.svc.out.find? fun p => p.1 == k) = some (k, r)) (hhinge : ansNat bs 8 1 = r.hinge)
    (hverdict : verdictOk r.hinge (verdict bs) = true) (hlapse : m.lapsed r = false)
    (hslot : slot = if r.hinge = 1 then
      m.host.rdN (hostKey 0 (m.pair 0x2020 0x2024 16 + k % 2 ^ m.svcOrder * 0x10000 + 0xC000)) 0x4000 else []) :
    m.readAnswer a = { m with svc := m.svc.answerRead a k r (bs ++ slot) } := by
  have hlapse' (x : Svc) : Main.lapsed { m with svc := x } r = false := hlapse
  simp only [ansNat] at hk hhinge
  simp only [verdict] at hverdict
  simp only [Main.readAnswer, ← hbs, ← hk, hout, hhinge, hverdict, hlapse', ne_eq, not_true_eq_false, Bool.not_true, Bool.false_eq_true,
    or_self, if_false]
  rw [hslot]
  rfl

/-- Only a request of H3 lapses (Table 13-6). -/
theorem Main.lapsed_of_other {r : HingeReq} (h : r.hinge ≠ 3) (m : Main) : m.lapsed r = false := by
  simp [Main.lapsed, h]

/-! ## The modes wanted -/

/-- A write of HINGE_CTL where nothing waits for a boundary stores the modes and brings HINGE_NOW up to date (R295). -/
theorem Main.hingeCtl_of_quiet {m : Main} (hq : m.Quiet) (v : Word) :
    ∃ g, m.hingeCtl v = { m with regs := g } ∧ m.RegsBut { m with regs := g } [F.HINGE_CTL_assist.off, F.HINGE_NOW_in_force.off]
      ∧ Main.fld { m with regs := g } F.HINGE_CTL_assist = v.toNat % 2 ^ 10 := by
  have hquiet : (m.setFld F.HINGE_CTL_assist (F.HINGE_CTL_assist.of v)).Quiet :=
    Main.quiet_congr hq rfl rfl rfl fun _ => ⟨rfl, rfl⟩
  obtain ⟨g, hg, hregs⟩ := Main.settleH3_regs (m.setFld F.HINGE_CTL_assist (F.HINGE_CTL_assist.of v))
  refine ⟨g, (Main.settle_of_quiet _ hquiet).trans hg, fun o ho => ?_, ?_⟩
  · simp only [List.mem_cons, List.not_mem_nil, or_false, not_or] at ho
    obtain ⟨hctl, hnow⟩ := ho
    exact (hregs o (by simpa using hnow)).trans (Main.word_setWord_other _ _ _ _ hctl)
  · have hstored : Main.fld { m with regs := g } F.HINGE_CTL_assist = F.HINGE_CTL_assist.of v % 2 ^ 10 :=
      (congrArg F.HINGE_CTL_assist.of (hregs _ (by decide))).trans (Main.fld_setFld_same _ _ _ ⟨by decide, by decide⟩)
    simpa [Fld.of, F.HINGE_CTL_assist] using hstored

/-! ## The obligation -/

/-- Settles O30: a request posted, one that finds no slot, an answer that fits, and the modes written, each by the equation of its
command. -/
theorem requestsPostAndAnswersAreRead : Obligations.RequestsPostAndAnswersAreRead := by
  refine ⟨?post, ?full, ?answer, ?modes⟩
  case post =>
    rintro s r q _ _ at_ slot hup hq rfl hon hnum hfree rfl hat hslot hapart hmask
    obtain rfl : at_ = s.mn.requestKey s.mn.svc.nextReq := by rw [hat, Main.requestKey]
    obtain rfl : slot = s.mn.dataKey s.mn.svc.nextReq := by rw [hslot, Main.dataKey]
    have hpost := Main.svcPost_of_free hq hon hnum hfree
    have hrecord := s.mn.postedMem_record s.mn.svc.nextReq r
    have hdata := s.mn.postedMem_data s.mn.svc.nextReq r hapart
    have hout (x : Nat) := s.mn.postedMem_out s.mn.svc.nextReq r (x := x)
    generalize s.mn.postedMem s.mn.svc.nextReq r = u at hpost hrecord hdata hout
    exact onWarden_eq rfl hup (hpost.trans (Main.posted_message u r q hmask)) fun n a hn => by
      subst hn
      exact ⟨rfl, hrecord, hdata, hout⟩
  case full =>
    intro s r q p hup hq hon hnum hp hown
    obtain ⟨g, hset, hregs, hfull⟩ := s.mn.exists_setFld_eq F.SVC_STATUS_full 1 ⟨by decide, by decide⟩
    exact onWarden_eq rfl hup ((Main.svcPost_of_full hq hon hnum hp hown).trans hset) fun n a hn => by
      subst hn
      exact ⟨rfl, hregs, hfull⟩
  case answer =>
    intro s a k r bs slot hup hon ha hlt hbs hk hout hhinge hverdict hh3 hslot
    have hread := Main.readAnswer_of_fits hbs hk hout hhinge hverdict (Main.lapsed_of_other hh3 _) hslot
    exact onWarden_hostEq rfl hup ((Main.svcDb_next hon ha hlt).trans hread) fun n _ hn => by subst hn; rfl
  case modes =>
    intro s v hup hq
    obtain ⟨g, hctl, hregs, hassist⟩ := Main.hingeCtl_of_quiet hq v
    exact onWarden_hostLapse rfl hup hctl rfl fun n a hn => by
      subst hn
      exact ⟨rfl, hregs, hassist⟩

end Sys2Proof
end

section
/-! SUPPORT AND PROOF. Verdicts, timeouts and the closing of the service ring (spec/13_hinges.md R300, R305, spec/15_listening.md R339):
how a candidate's record waits where the card holds records back, what a request that times out leaves of the ring, and an equation for
each requester's timeout outcome. -/

namespace Sys2Proof
open Machine

/-! ## A candidate rejected or let through -/

theorem Machine.State.awake_of_wardenUp {s : State} (h : s.wardenUp = true) : s.mn.sleepState = 0 :=
  beq_iff_eq.1 (Bool.and_eq_true_iff.1 h).2

/-- A record that finds room joins the FIFO, and the card is told of the first one (R342, R476). -/
theorem Latch.putRecord_of_room {a : Latch} (hroom : a.fifo.length < 16) (x : WakeRec) :
    a.putRecord x = { a with
      fifo := a.fifo ++ [x], sdio := { a.sdio with int2 := if a.fifo.isEmpty then a.sdio.int2 ||| 1 else a.sdio.int2 } } := by
  cases hempty : a.fifo.isEmpty with
  | true => simp only [Latch.putRecord, hempty, if_true, if_pos hroom]
  | false => simp only [Latch.putRecord, hempty, Bool.false_eq_true, if_false, if_pos hroom]

/-- A candidate past stage 1 ends: its record joins the FIFO (R338, R342). -/
theorem Latch.closeCand_of_verdict {a : Latch} {c : Cand} (hc : a.cand = some c) (hst : c.st = .verdict) (hroom : a.fifo.length < 16)
    (outcome score2 wflags : Nat) : a.closeCand outcome score2 wflags = a.ended c outcome score2 wflags := by
  have hpast : ¬c.st = .stage1 := by rw [hst]; decide
  have hspool (x : Latch) : (if outcome = 0 then x else { x with spool := none })
      = { x with spool := if outcome = 0 then x.spool else none } := by split <;> rfl
  simp only [Latch.closeCand, hc, if_neg hpast, hspool]
  refine (Latch.putRecord_of_room ?room _).trans rfl
  case room => exact hroom

/-- Records wait in the FIFO while SDIO function 2 takes them (R476). -/
theorem Machine.State.drainRecords_of_io2 {s : State} (h : s.la.sdio.io2 = true) : s.drainRecords = s := by
  rw [State.drainRecords]
  cases s.la.fifo.length with
  | zero => rfl
  | succ k =>
    cases hfifo : s.la.fifo with
    | nil => simp only [State.copyRecords, hfifo]
    | cons x rest => simp [State.copyRecords, hfifo, h]

/-- A candidate that awaits its verdict ends while the part is awake: ward 0 goes off and nothing wakes (R338). -/
theorem Machine.State.endCand_awake {s : State} {c : Cand} (hawake : s.mn.sleepState = 0) (hc : s.la.cand = some c)
    (hst : c.st = .verdict) (hroom : s.la.fifo.length < 16) (hio2 : s.la.sdio.io2 = true) (outcome score2 wflags : Nat) :
    s.endCand outcome score2 wflags = { s with la := s.la.ended c outcome score2 wflags } := by
  have hclose := Latch.closeCand_of_verdict hc hst hroom outcome score2 wflags
  have hoff : (s.onLa fun a => a.closeCand outcome score2 wflags).ward0Off = { s with la := s.la.ended c outcome score2 wflags } := by
    simp only [State.ward0Off, State.onLa, hawake, hclose]
    rfl
  have hstays : ¬(outcome = 0 ∧ 2 ≤ s.mn.sleepState ∧ (!s.rc.latchMode) = true) := by omega
  simp only [State.endCand, hoff, if_neg hstays]
  exact State.drainRecords_of_io2 hio2

/-- H6_ANSWER about the candidate that awaits it, awake (R339). -/
theorem Machine.State.h6Answer_ends {s : State} {num : Nat} {r : HingeReq} {bs : List Byte} {c : Cand} (hawake : s.mn.sleepState = 0)
    (ha : s.mn.AnswerRead 6 num r bs) (hc : s.la.cand = some c) (hst : c.st = .verdict) (hnum : c.number = r.args.getD 1 0)
    (hroom : s.la.fifo.length < 16) (hio2 : s.la.sdio.io2 = true) :
    s.h6Answer num = { s with mn := s.mn.answered num, la := s.la.ended c (if verdict bs = 0 then 0 else 2) 0x8000 2 } := by
  have htake : s.mn.takeAnswer 6 num = some (s.mn.answered num, r, bs) := congrArg (Option.map _) ha
  have hend := State.endCand_awake (s := { s with mn := s.mn.answered num }) hawake hc hst hroom hio2
  simp only [State.h6Answer, htake, State.h6Take, hc, hst, hnum, and_self, if_true, Bool.false_eq_true, if_false, beq_iff_eq]
  exact hend _ _ _

/-! ## Requests that time out -/

/-- Timeouts of requests other than H6's leave the Latch island alone (R305). -/
theorem Machine.State.lapseSvc_of_other {s : State} {f : Main → Main × List HingeReq} {n : Main} {rs : List HingeReq}
    (hf : f s.mn = (n, rs)) (h : ∀ r ∈ rs, r.hinge ≠ 6) : s.lapseSvc f = { s with mn := n } := by
  simp only [State.lapseSvc, hf]
  refine List.foldlRecOn (motive := (· = { s with mn := n })) _ _ rfl fun t ht r hr => ?_
  rw [ht]
  exact if_neg (h r hr)

/-- The service ring once request `num` has timed out: with number 0 the request was not posted yet, so the ring does not hold it
(R300; NOTES.md, log entry 29). -/
def Svc.expired (x : Svc) (num : Nat) : Svc :=
  if num = 0 then x else { x with out := x.out.filter (fun p => p.1 != num), timedOut := x.timedOut ++ [num] }

/-- The request that times out has left those that wait or those outstanding, and takes its timeout outcome (R300). -/
theorem Main.hingeTimeout_of_request {m : Main} {num : Nat} {r : HingeReq} {q : List HingeReq}
    (h : num = 0 ∧ m.hq = r :: q ∨ num ≠ 0 ∧ m.hq = q ∧ (m.svc.out.find? fun p => p.1 == num) = some (num, r)) :
    m.hingeTimeout num = (Main.hingeExpire { m with hq := q, svc := m.svc.expired num } r, some r) := by
  rcases h with ⟨rfl, hq⟩ | ⟨hnum, rfl, hout⟩
  · simp only [Main.hingeTimeout, hq, if_true]
    rfl
  · simp only [Main.hingeTimeout, if_neg hnum, hout, Svc.expired]

/-- A switch whose H8 request times out goes: counted, and as though answered so (Table 13-5). -/
theorem Main.hingeExpire_switch {m : Main} {r : HingeReq} {w : Switch} (hr : r.hinge = 8) (hc : r.args.getD 0 0 = w.ctx)
    (hsw : m.kr.switches = [w]) (hgo : w.go = false) (hcause : (m.ctx w.ctx).cause = .serviceWait) :
    m.hingeExpire r = { (m.count 0x34 8 1).setCtx w.ctx ((m.ctx w.ctx).switchAnswered true) with
      kr := { m.kr with switches := [{ w with go := true }] } } := by
  have hexpire : m.hingeExpire r = (m.count 0x34 8 1).h8Take r true := by simp [Main.hingeExpire, Main.hingeDefault, hr]
  exact hexpire.trans (Main.h8Take_go (m := m.count 0x34 8 1) hc hsw hgo hcause)

/-- The units a scrub is wanted for, once those of a range that H9 asked about are to be scrubbed now (R302). -/
def Main.scrubNow (m : Main) (r : HingeReq) : List (Nat × Bool) :=
  m.scrubWant.map fun p =>
    if r.args.getD 1 0 / 0x10000 ≤ p.1 ∧ p.1 < r.args.getD 1 0 / 0x10000 + r.args.getD 2 0 then (p.1, true) else p

/-- A range whose H9 request times out is scrubbed now: counted, and as though answered so (Table 13-5). -/
theorem Main.hingeExpire_range {m : Main} {r : HingeReq} (hr : r.hinge = 9) (hrange : r.args.getD 0 0 ≠ 2) :
    m.hingeExpire r = { m.count 0x34 9 1 with scrubWant := m.scrubNow r } := by
  have hexpire : m.hingeExpire r = (m.count 0x34 9 1).h9Take r true := by simp [Main.hingeExpire, Main.hingeDefault, hr]
  exact hexpire.trans (Main.h9Take_of_range hrange true)

/-- The ring closes with one request, which was not posted yet (R305). -/
theorem Main.svcClear_of_waiting {m : Main} {r : HingeReq} (hout : m.svc.out = []) (hq : m.hq = [r]) :
    m.svcClear = (Main.hingeExpire { m.setFld F.SVC_CTL_enable 0 with hq := [] } r, [r]) := by
  have hsvc : ({ m.svc with out := [], timedOut := m.svc.timedOut ++ m.svc.out.map (·.1) } : Svc) = m.svc := by
    rw [hout, List.map_nil, List.append_nil, ← hout]
  have hall : m.svc.out.map (·.2) ++ m.hq = [r] := by rw [hout, hq]; rfl
  simp only [Main.svcClear, Main.svcDrain, Main.setFld_svc, Main.setFld_hq, hsvc, hall, List.foldl_cons, List.foldl_nil]

/-! ## The two commands -/

/-- HINGE_TIMEOUT of the request of the only switch (R300). -/
theorem Machine.hingeTimeout_switch {s : State} {num : Nat} {r : HingeReq} {q : List HingeReq} {w : Switch} (hup : s.wardenUp = true)
    (h : num = 0 ∧ s.mn.hq = r :: q ∨ num ≠ 0 ∧ s.mn.hq = q ∧ (s.mn.svc.out.find? fun p => p.1 == num) = some (num, r))
    (hr : r.hinge = 8) (hc : r.args.getD 0 0 = w.ctx) (hsw : s.mn.kr.switches = [w]) (hgo : w.go = false)
    (hcause : (s.mn.ctx w.ctx).cause = .serviceWait) :
    exec (.hingeTimeout num) s = .next { s with mn :=
      { (s.mn.count 0x34 8 1).setCtx w.ctx ((s.mn.ctx w.ctx).switchAnswered true) with
        hq := q, svc := s.mn.svc.expired num, kr := { s.mn.kr with switches := [{ w with go := true }] } } } := by
  have hexpire := Main.hingeExpire_switch (m := { s.mn with hq := q, svc := s.mn.svc.expired num }) hr hc hsw hgo hcause
  have hone : ((s.mn.hingeTimeout num).1, (s.mn.hingeTimeout num).2.toList)
      = (Main.hingeExpire { s.mn with hq := q, svc := s.mn.svc.expired num } r, [r]) := by
    rw [Main.hingeTimeout_of_request h]
    rfl
  have hlapse := State.lapseSvc_of_other (f := fun m => ((m.hingeTimeout num).1, (m.hingeTimeout num).2.toList)) hone
    (by simp [hr])
  rw [hexpire] at hlapse
  exact congrArg Host.Outcome.next ((if_pos hup).trans hlapse)

/-- SVC_ENABLE_CLEAR with one request, H9's about a range, that was not posted yet (R305). -/
theorem Machine.svcEnableClear_range {s : State} {r : HingeReq} (hup : s.HostUp) (hout : s.mn.svc.out = []) (hq : s.mn.hq = [r])
    (hr : r.hinge = 9) (hrange : r.args.getD 0 0 ≠ 2) :
    exec .svcEnableClear s = .next { s with mn :=
      { (s.mn.setFld F.SVC_CTL_enable 0).count 0x34 9 1 with hq := [], scrubWant := s.mn.scrubNow r } } := by
  have hclear := Main.svcClear_of_waiting hout hq
  rw [Main.hingeExpire_range hr hrange] at hclear
  exact (next_hostDo rfl hup).trans (congrArg Host.Outcome.next (State.lapseSvc_of_other hclear (by simp [hr])))

/-! ## The obligation -/

/-- Settles O33: a verdict, a timeout and the closing of the ring, each by the lemma of its command. -/
theorem verdictsTimeoutsAndClosing : Obligations.VerdictsTimeoutsAndClosing := by
  refine ⟨?verdict, ?timeout, ?closing⟩
  case verdict =>
    intro s num r bs c hup ha hc hst hnum hroom hio2
    have hends := State.h6Answer_ends (State.awake_of_wardenUp hup) ha hc hst hnum hroom hio2
    exact congrArg Host.Outcome.next ((if_pos hup).trans hends)
  case timeout =>
    rintro s num _ r q w hup h hr hc hsw rfl hgo hcause
    refine ⟨_, hingeTimeout_switch hup h hr hc hsw hgo hcause, ?_⟩
    generalize hx : (s.mn.ctx w.ctx).switchAnswered true = x
    exact ⟨rfl, rfl, Main.ctxsBut_of_put rfl, (Main.ctx_of_put rfl).trans hx.symm, Main.countersBut_of_count (by decide) rfl,
      Main.counter_of_count rfl⟩
  case closing =>
    rintro s _ _ r hup hout hq hr hrange rfl rfl
    refine ⟨_, svcEnableClear_range hup hout hq hr hrange, ?_⟩
    obtain ⟨g, hset, hregs, hoff⟩ := s.mn.exists_setFld_eq F.SVC_CTL_enable 0 ⟨by decide, by decide⟩
    rw [hset]
    exact ⟨rfl, hregs, hoff, Main.countersBut_of_count (by decide) rfl, Main.counter_of_count rfl⟩

end Sys2Proof
end

section
/-! SUPPORT AND PROOF. Chain walks (spec/14_laniza_chain.md R311 to R314, R320; Table 14-2): what each order of a walk leaves on a unit on
which nothing of the chain waits or runs, and the two obligations about walks. -/

namespace Sys2Proof
open Machine

/-! ## Registers -/

/-- Two fields that lie in a word and do not meet. -/
abbrev Fld.Apart (f g : Fld) : Prop :=
  (f.lo ≤ f.hi ∧ f.hi < 32) ∧ (g.lo ≤ g.hi ∧ g.hi < 32) ∧ (g.off ≠ f.off ∨ f.hi < g.lo ∨ g.hi < f.lo)

theorem Main.fld_setFld_of_apart (m : Main) {f g : Fld} (h : f.Apart g) (v : Nat) : (m.setFld f v).fld g = m.fld g := by
  obtain ⟨hf, hg, hmeet⟩ := h
  by_cases hoff : g.off = f.off
  · exact m.fld_setFld_apart f g v hf hg hoff (hmeet.resolve_left (not_not.2 hoff))
  · exact m.fld_setFld_other f g v hoff

/-- A field set to a value that it can hold. -/
theorem Main.fld_setFld_of_lt (m : Main) {f : Fld} {v : Nat} (hf : f.lo ≤ f.hi ∧ f.hi < 32) (hv : v < 2 ^ f.width) :
    (m.setFld f v).fld f = v :=
  (m.fld_setFld_same f v hf).trans (Nat.mod_eq_of_lt hv)

/-- From `m` to `n` the registers alone change. -/
def Main.OnlyRegs (m n : Main) : Prop := ∃ g, n = { m with regs := g }

theorem Main.OnlyRegs.refl {m : Main} : m.OnlyRegs m := ⟨m.regs, rfl⟩

theorem Main.OnlyRegs.setFld {m n : Main} (h : m.OnlyRegs n) (f : Fld) (v : Nat) : m.OnlyRegs (n.setFld f v) := by
  obtain ⟨g, rfl⟩ := h
  exact ⟨_, rfl⟩

theorem Main.RegsBut.refl {m : Main} {os : List Nat} : m.RegsBut m os := fun _ _ => Eq.refl _

/-- One more field set, in a register that may change. -/
theorem Main.RegsBut.setFld {m n : Main} {os : List Nat} (h : m.RegsBut n os) {f : Fld} (hf : f.off ∈ os) (v : Nat) :
    m.RegsBut (n.setFld f v) os := fun o ho =>
  (n.regsBut_setFld f v o fun hmem => ho (List.mem_singleton.1 hmem ▸ hf)).trans (h o ho)

/-- From `m` to `n` the ports' states and the pin CHAIN_HEAD stay. -/
structure Main.PortsAs (m n : Main) : Prop where
  up : n.fld F.LANIZA_STATUS_up_state = m.fld F.LANIZA_STATUS_up_state
  down : n.fld F.LANIZA_STATUS_down_state = m.fld F.LANIZA_STATUS_down_state
  pin : n.fld F.LANIZA_STATUS_head_pin = m.fld F.LANIZA_STATUS_head_pin

/-- A field that is neither a port's state nor the pin's. -/
abbrev Fld.OffPorts (f : Fld) : Prop :=
  f.Apart F.LANIZA_STATUS_up_state ∧ f.Apart F.LANIZA_STATUS_down_state ∧ f.Apart F.LANIZA_STATUS_head_pin

namespace Main.PortsAs
variable {m n : Main}

theorem portUp (h : m.PortsAs n) (p : Nat) : n.portUp p = m.portUp p := by
  simp only [Main.portUp, h.up, h.down]

/-- The ports, the pin and the timeout of R311 tell whether a unit is the head. -/
theorem isHead (h : m.PortsAs n) (hout : n.lz.headOut = m.lz.headOut) : n.isHead = m.isHead := by
  simp only [Main.isHead, Main.bit, h.pin, h.portUp, hout]

theorem refl : m.PortsAs m := ⟨Eq.refl _, Eq.refl _, Eq.refl _⟩

theorem setFld (h : m.PortsAs n) {f : Fld} (hf : f.OffPorts) (v : Nat) : m.PortsAs (n.setFld f v) :=
  ⟨(n.fld_setFld_of_apart hf.1 v).trans h.up, (n.fld_setFld_of_apart hf.2.1 v).trans h.down,
    (n.fld_setFld_of_apart hf.2.2 v).trans h.pin⟩

end Main.PortsAs

/-! ## Frames -/

/-- A frame for a port that is not trained goes nowhere. -/
theorem Main.lzSend_of_notUp {m : Main} {p : Nat} (h : m.portUp p = false) (f : LzFrame) : m.lzSend p f = m :=
  if_pos (Nat.not_le.1 (of_decide_eq_false h))

/-- A frame that goes on through the DOWN port, or from the last unit back through the UP port (Table 14-2, orders 2 to 5). -/
theorem Main.lzSend_onOrBack {m : Main} (hport : m.portUp 0 = true) (f g : LzFrame) :
    (if m.portUp 1 then m.lzSend 1 f else m.lzSend 0 g)
      = { m with lz := m.lz.plus (if m.portUp 1 then 1 else 0) (if m.portUp 1 then f else g) } := by
  by_cases hdown : m.portUp 1 = true
  case pos => simp only [hdown, if_true]; exact Main.lzSend_of_up hdown f
  case neg => simp only [hdown, Bool.false_eq_true, if_false]; exact Main.lzSend_of_up hport g

/-! ## Orders 1 and 2: QUIESCE -/

/-- Where no chained step waits for START there is none to give up. -/
theorem Main.dropHeld_of_none {m : Main} (h : m.NoChainWork) : m.dropHeld = m := by
  have hnone : m.insts.filter (fun p => p.2.live && p.2.hold) = [] :=
    List.filter_eq_nil_iff.2 fun p hp => by simp [(h.1 p hp).2]
  rw [Main.dropHeld, hnone, List.map_nil, List.foldl_nil]

theorem Main.chainedRuns_of_none {m : Main} (h : m.NoChainWork) : m.chainedRuns = false :=
  List.any_eq_false.2 fun p hp => by simp [(h.1 p hp).1]

section
variable {m : Main} (hphase : m.lz.phase = .quiescing) (hwork : m.NoChainWork)
include hphase hwork

/-- With no chained step to wait for, order 2 goes on at once. -/
theorem Main.walkQuiet_of_none :
    m.walkQuiet = if m.isHead then (if m.lz.restQuiet then m.walkHead else m)
      else if m.portUp 1 then Main.lzSend { m with lz := { m.lz with phase := .quiet } } 1 .quiesce
      else Main.lzSend { m with lz := { m.lz with phase := .quiet } } 0 .quiesced := by
  simp only [Main.walkQuiet, hphase, if_true, Main.dropHeld_of_none hwork, Main.chainedRuns_of_none hwork, ne_eq, not_true_eq_false,
    Bool.false_eq_true, or_self, if_false]
  rfl

/-- The head waits for QUIESCED. -/
theorem Main.walkQuiet_of_waiting (hhead : m.isHead = true) (hrest : m.lz.restQuiet = false) : m.walkQuiet = m := by
  rw [Main.walkQuiet_of_none hphase hwork, if_pos hhead, hrest]
  rfl

/-- With QUIESCED back the head goes on to order 3. -/
theorem Main.walkQuiet_of_restQuiet (hhead : m.isHead = true) (hrest : m.lz.restQuiet = true) : m.walkQuiet = m.walkHead := by
  rw [Main.walkQuiet_of_none hphase hwork, if_pos hhead, if_pos hrest]

/-- A unit that is not the head passes QUIESCE on, or as the last unit returns QUIESCED. -/
theorem Main.walkQuiet_of_notHead (hhead : m.isHead = false) (hport : m.portUp 0 = true) :
    m.walkQuiet = { m with
      lz := Laniza.plus { m.lz with phase := .quiet } (if m.portUp 1 then 1 else 0) (if m.portUp 1 then .quiesce else .quiesced) } := by
  rw [Main.walkQuiet_of_none hphase hwork, hhead]
  exact Main.lzSend_onOrBack (m := { m with lz := { m.lz with phase := .quiet } }) hport _ _

end

/-- The registers of a unit that a walk has reached: hinge H7 has swung (R295), and the walk is in progress. -/
def Main.walkMarked (m : Main) : Main := (m.swing 7).setFld F.LANIZA_STATUS_walk_busy 1

theorem Main.portsAs_walkMarked (m : Main) : m.PortsAs m.walkMarked :=
  (Main.PortsAs.refl.setFld (by decide) _).setFld (by decide) _

/-- They stand in LANIZA_STATUS and HINGE_NOW. -/
theorem Main.RegsBut.walkMarked {m n : Main} (h : m.RegsBut n [F.LANIZA_STATUS_walk_busy.off, F.HINGE_NOW_in_force.off]) :
    m.RegsBut n.walkMarked [F.LANIZA_STATUS_walk_busy.off, F.HINGE_NOW_in_force.off] :=
  (h.setFld (by decide) _).setFld (by decide) _

theorem Main.fld_walkMarked_busy (m : Main) : m.walkMarked.fld F.LANIZA_STATUS_walk_busy = 1 :=
  Main.fld_setFld_of_lt _ (by decide) (by decide)

theorem Main.fld_walkMarked_of_apart (m : Main) {f : Fld} (hnow : F.HINGE_NOW_in_force.Apart f)
    (hbusy : F.LANIZA_STATUS_walk_busy.Apart f) : m.walkMarked.fld f = m.fld f :=
  (Main.fld_setFld_of_apart _ hbusy _).trans (m.fld_setFld_of_apart hnow _)

/-- What a command leaves whose result is known but for the islands absent, on a unit that it marks as reached by a walk. -/
theorem Main.walkMarked_leaves {m n : Main} {z : Laniza} {a : List Nat} (hn : n = { m.walkMarked with lz := z, absent := a }) :
    n = { m with regs := n.regs, lz := n.lz, absent := n.absent } ∧ n.lz = z
      ∧ m.RegsBut n [F.LANIZA_STATUS_walk_busy.off, F.HINGE_NOW_in_force.off] ∧ n.fld F.LANIZA_STATUS_walk_busy = 1 := by
  subst hn
  exact ⟨rfl, rfl, Main.RegsBut.refl.walkMarked, m.fld_walkMarked_busy⟩

/-- An idle head with a trained DOWN port begins a walk (R312, order 1). -/
theorem Main.walkStart_of_head {m : Main} (hhead : m.isHead = true) (hport : m.portUp 1 = true) (hidle : m.lz.phase = .idle)
    (hwork : m.NoChainWork) :
    m.walkStart = { m.walkMarked with lz := Laniza.plus { m.lz with phase := .quiescing, restQuiet := false } 1 .quiesce } := by
  have hkeep := m.portsAs_walkMarked
  have hsend := Main.lzSend_of_up (m := { m.walkMarked with lz := { m.lz with phase := .quiescing, restQuiet := false } })
    ((hkeep.portUp 1).trans hport) .quiesce
  have hquiet := Main.walkQuiet_of_waiting
    (m := { m.walkMarked with lz := Laniza.plus { m.lz with phase := .quiescing, restQuiet := false } 1 .quiesce })
    rfl hwork ((hkeep.isHead rfl).trans hhead) rfl
  have hstart : m.walkStart = (Main.lzSend { m.walkMarked with
      lz := { m.lz with phase := .quiescing, restQuiet := !m.walkMarked.portUp 1 } } 1 .quiesce).walkQuiet := by
    rw [Main.walkStart, hhead]
    simp only [hidle, Bool.not_true, Bool.false_eq_true, reduceCtorEq, or_self, ne_eq, not_true_eq_false, if_false]
    rfl
  rw [hstart, hkeep.portUp, hport]
  exact (congrArg Main.walkQuiet hsend).trans hquiet

/-! ## Orders 3 to 5: WALK -/

theorem Main.assisted_setFld_of_apart (m : Main) {f : Fld} (h : f.Apart F.HINGE_NOW_in_force) (v g : Nat) :
    (m.setFld f v).assisted g = m.assisted g := by
  simp only [Main.assisted, m.fld_setFld_of_apart h]

/-- The firmware's generations stand in the word at 0x4. -/
theorem Main.ownGens_setFld (m : Main) {f : Fld} (hf : 0x4 ∉ [f.off]) (v : Nat) :
    (m.setFld f v).ownFloor = m.ownFloor ∧ (m.setFld f v).ownMax = m.ownMax := by
  have hword : (m.setFld f v).word 0x4 = m.word 0x4 := m.regsBut_setFld f v _ hf
  simp only [Main.ownFloor, Main.ownMax, hword, and_self]

section
variable {m : Main} {pos : Nat} (hassist : m.assisted 7 = false) (hpos : m.fld F.LANIZA_ADDR_position = pos)
include hassist hpos

/-- In hardware mode a unit's address is its position (R312, R314). -/
theorem Main.walkAddress_of_hardware (port : Nat) : m.walkAddress port = m.walkPass pos false := by
  rw [Main.walkAddress, hassist, hpos]
  rfl

/-- A unit with a trained DOWN port passes WALK on (Table 14-2, orders 3 and 4). -/
theorem Main.walkAddress_of_down (hport : m.portUp 1 = true) (port : Nat) :
    m.walkAddress port = { m with
      lz := Laniza.plus { m.lz with phase := .walking, addrs := m.lz.addrs ++ [pos], host := false } 1
        (.walk (pos + 1) m.lz.floorMax m.lz.maxMin (m.lz.addrs ++ [pos])) } := by
  rw [Main.walkAddress_of_hardware hassist hpos, Main.walkPass_of_down hport, hpos]
  rfl

/-- A unit that is not the head passes WALK on, or as the last unit returns END (Table 14-2, orders 4 and 5). -/
theorem Main.walkAddress_of_notHead (hhead : m.isHead = false) (hport : m.portUp 0 = true) (port : Nat) :
    m.walkAddress port = { m with
      lz := Laniza.plus { m.lz with phase := .walking, addrs := m.lz.addrs ++ [pos], host := false } (if m.portUp 1 then 1 else 0)
        (if m.portUp 1 then .walk (pos + 1) m.lz.floorMax m.lz.maxMin (m.lz.addrs ++ [pos])
          else .walkEnd (pos + 1) m.lz.floorMax m.lz.maxMin (m.lz.addrs ++ [pos])) } := by
  have hback (x y : Main) : (if m.isHead = true then x else y) = y := by rw [hhead]; rfl
  have hsend := Main.lzSend_onOrBack
    (m := { m with lz := { m.lz with phase := .walking, addrs := m.lz.addrs ++ [pos], host := false } }) hport
    (.walk (pos + 1) m.lz.floorMax m.lz.maxMin (m.lz.addrs ++ [pos])) (.walkEnd (pos + 1) m.lz.floorMax m.lz.maxMin (m.lz.addrs ++ [pos]))
  have hpass : m.walkPass pos false = _ := congrArg (ite _ _) (hback _ _)
  rw [hpos] at hpass
  exact ((Main.walkAddress_of_hardware hassist hpos port).trans hpass).trans hsend

end

/-- Order 3 in hardware mode at a head with a trained DOWN port: WALK leaves with position 1. -/
theorem Main.walkHead_of_down {m : Main} (hport : m.portUp 1 = true) (hassist : m.assisted 7 = false) :
    m.walkHead = { m.setFld F.LANIZA_ADDR_position 0 with
      lz := Laniza.plus { m.lz with
          phase := .walking, addrs := [0], reached := true, host := false, floorMax := m.ownFloor, maxMin := m.ownMax }
        1 (.walk 1 m.ownFloor m.ownMax [0]) } := by
  have hkeep : m.PortsAs (m.setFld F.LANIZA_ADDR_position 0) := Main.PortsAs.refl.setFld (by decide) _
  have hassist' := (m.assisted_setFld_of_apart (f := F.LANIZA_ADDR_position) (by decide) 0 7).trans hassist
  obtain ⟨hfloor, hmax⟩ := m.ownGens_setFld (f := F.LANIZA_ADDR_position) (by decide) 0
  rw [Main.walkHead]
  simp only [hfloor, hmax]
  exact Main.walkAddress_of_down (m := { m.setFld F.LANIZA_ADDR_position 0 with
      lz := { m.lz with floorMax := m.ownFloor, maxMin := m.ownMax, addrs := [], reached := true } }) hassist'
    (m.fld_setFld_of_lt (by decide) (by decide)) ((hkeep.portUp 1).trans hport) 1

/-- The registers of a unit that WALK reaches with a position (R312, order 4). -/
def Main.walkPlaced (m : Main) (pos : Nat) : Main := (m.setFld F.LANIZA_STATUS_walk_busy 1).setFld F.LANIZA_ADDR_position pos

theorem Main.portsAs_walkPlaced (m : Main) (pos : Nat) : m.PortsAs (m.walkPlaced pos) :=
  (Main.PortsAs.refl.setFld (by decide) _).setFld (by decide) _

theorem Main.regsBut_walkPlaced (m : Main) (pos : Nat) :
    m.RegsBut (m.walkPlaced pos) [F.LANIZA_STATUS_walk_busy.off, F.LANIZA_ADDR_position.off] :=
  (Main.RegsBut.refl.setFld (by decide) _).setFld (by decide) _

theorem Main.fld_walkPlaced_position (m : Main) {pos : Nat} (h : pos < 16) : (m.walkPlaced pos).fld F.LANIZA_ADDR_position = pos :=
  Main.fld_setFld_of_lt _ (by decide) h

theorem Main.fld_walkPlaced_busy (m : Main) (pos : Nat) : (m.walkPlaced pos).fld F.LANIZA_STATUS_walk_busy = 1 :=
  (Main.fld_setFld_of_apart _ (by decide) _).trans (Main.fld_setFld_of_lt _ (by decide) (by decide))

theorem Main.assisted_walkPlaced (m : Main) (pos g : Nat) : (m.walkPlaced pos).assisted g = m.assisted g :=
  (Main.assisted_setFld_of_apart _ (by decide) _ _).trans (m.assisted_setFld_of_apart (by decide) _ _)

theorem Main.ownGens_walkPlaced (m : Main) (pos : Nat) :
    (m.walkPlaced pos).ownFloor = m.ownFloor ∧ (m.walkPlaced pos).ownMax = m.ownMax := by
  obtain ⟨hfloor, hmax⟩ := m.ownGens_setFld (f := F.LANIZA_STATUS_walk_busy) (by decide) 1
  obtain ⟨hfloor', hmax'⟩ := (m.setFld F.LANIZA_STATUS_walk_busy 1).ownGens_setFld (f := F.LANIZA_ADDR_position) (by decide) pos
  exact ⟨hfloor'.trans hfloor, hmax'.trans hmax⟩

/-- WALK in hardware mode at a unit that is not the head: it takes its position, and the generations meet its own (R312, R320). -/
theorem Main.walk_of_notHead {m : Main} {pos : Nat} (hhead : m.isHead = false) (hport : m.portUp 0 = true)
    (hassist : m.assisted 7 = false) (hpos : pos < 16) (fl mx : Nat) (addrs : List Nat) :
    m.walk pos fl mx addrs = { m.walkPlaced pos with
      lz := Laniza.plus { m.lz with
          reached := true, failUp := 0, floorMax := max fl m.ownFloor, maxMin := min mx m.ownMax, phase := .walking
          addrs := addrs ++ [pos], host := false }
        (if m.portUp 1 then 1 else 0)
        (if m.portUp 1 then .walk (pos + 1) (max fl m.ownFloor) (min mx m.ownMax) (addrs ++ [pos])
          else .walkEnd (pos + 1) (max fl m.ownFloor) (min mx m.ownMax) (addrs ++ [pos])) } := by
  have hkeep := m.portsAs_walkPlaced pos
  obtain ⟨hfloor, hmax⟩ := m.ownGens_walkPlaced pos
  have hhead' : Main.isHead { m with lz := { m.lz with reached := true, failUp := 0 } } = false := hhead
  have hpin : Main.bit { m with lz := { m.lz with reached := true, failUp := 0 } } F.LANIZA_STATUS_head_pin = false :=
    (Bool.or_eq_false_iff.1 hhead).1
  have hwalk : m.walk pos fl mx addrs = Main.walkAddress { m.walkPlaced pos with lz := { m.lz with
      reached := true, failUp := 0, floorMax := max fl (m.walkPlaced pos).ownFloor, maxMin := min mx (m.walkPlaced pos).ownMax
      addrs := addrs } } 0 := by
    simp only [Main.walk, hhead', hpin, Bool.false_and, Bool.false_eq_true, if_false, Nat.not_le.2 hpos]
    rfl
  have haddr := Main.walkAddress_of_notHead (m := { m.walkPlaced pos with lz := { m.lz with
      reached := true, failUp := 0, floorMax := max fl m.ownFloor, maxMin := min mx m.ownMax, addrs := addrs } })
    ((m.assisted_walkPlaced pos 7).trans hassist) (m.fld_walkPlaced_position hpos) ((hkeep.isHead rfl).trans hhead)
    ((hkeep.portUp 0).trans hport) 0
  have hdown (z : Laniza) : Main.portUp { m.walkPlaced pos with lz := z } 1 = m.portUp 1 := hkeep.portUp 1
  rw [hdown] at haddr
  rw [hwalk, hfloor, hmax]
  exact haddr

/-! ## Orders 6 and 7: the result -/

/-- With no bitting for several units bound there is none to unbind (R93, R313). -/
theorem Main.chainRecheck_of_none {m : Main} (h : m.NoChainWork) (keep : Bitting → Bool) : m.chainRecheck keep = m := by
  have hnone : m.stored.filter (fun q => decide (1 < q.2.2.chainUnits) && !keep q.2.2) = [] :=
    List.filter_eq_nil_iff.2 fun q hq => by simp [h.2 q hq]
  rw [Main.chainRecheck, hnone, List.map_nil, List.foldl_nil]

/-- The registers of a unit on which a walk has failed (R313). -/
def Main.unaddressed (m : Main) : Main :=
  ((m.setFld F.LANIZA_ADDR_valid 0).setFld F.LANIZA_GEN_op_gen 0).setFld F.LANIZA_STATUS_walk_busy 0

theorem Main.onlyRegs_unaddressed (m : Main) : m.OnlyRegs m.unaddressed :=
  ((Main.OnlyRegs.refl.setFld _ _).setFld _ _).setFld _ _

/-- R313 where no bitting for several units is bound. -/
theorem Main.walkLost_of_none {m : Main} (h : m.NoChainWork) :
    ∃ g, m.walkLost = { m with regs := g, lz := m.lz.ended } ∧ m.unaddressed = { m with regs := g } := by
  obtain ⟨g, hg⟩ := m.onlyRegs_unaddressed
  have hover : m.walkLost = Main.chainRecheck { m.unaddressed with lz := m.unaddressed.lz.ended } fun _ => false := rfl
  rw [hg] at hover
  exact ⟨g, hover.trans (Main.chainRecheck_of_none (m := { m with regs := g, lz := m.lz.ended }) h _), hg⟩

theorem Main.unaddressed_walkLost (m : Main) : m.unaddressed.WalkLost := by
  refine ⟨?valid, ?gen, Main.fld_setFld_of_lt _ (by decide) (by decide)⟩
  case valid =>
    rw [Main.unaddressed, Main.fld_setFld_of_apart _ (by decide), Main.fld_setFld_of_apart _ (by decide)]
    exact Main.fld_setFld_of_lt _ (by decide) (by decide)
  case gen =>
    rw [Main.unaddressed, Main.fld_setFld_of_apart _ (by decide)]
    exact Main.fld_setFld_of_lt _ (by decide) (by decide)

/-- Besides the fields of R313 a failed walk leaves every field. -/
theorem Main.fld_unaddressed (m : Main) {f : Fld} (hvalid : F.LANIZA_ADDR_valid.Apart f) (hgen : F.LANIZA_GEN_op_gen.Apart f)
    (hbusy : F.LANIZA_STATUS_walk_busy.Apart f) : m.unaddressed.fld f = m.fld f := by
  rw [Main.unaddressed, Main.fld_setFld_of_apart _ hbusy, Main.fld_setFld_of_apart _ hgen, Main.fld_setFld_of_apart _ hvalid]

/-- A flag of LANIZA_STATUS and a failed walk change LANIZA_STATUS, LANIZA_ADDR and LANIZA_GEN. -/
theorem Main.RegsBut.unaddressed {m n : Main} (h : m.RegsBut n [F.LANIZA_STATUS_walk_busy.off]) :
    m.RegsBut n.unaddressed [F.LANIZA_STATUS_walk_busy.off, F.LANIZA_ADDR_valid.off, F.LANIZA_GEN_op_gen.off] := by
  have hmore : m.RegsBut n [F.LANIZA_STATUS_walk_busy.off, F.LANIZA_ADDR_valid.off, F.LANIZA_GEN_op_gen.off] := fun o ho =>
    h o fun hmem => ho (List.mem_cons.2 (.inl (List.mem_singleton.1 hmem)))
  exact ((hmore.setFld (by decide) _).setFld (by decide) _).setFld (by decide) _

/-- R313's registers once the walk is lost, where no bitting for several units is bound. -/
theorem Main.walkLost_leaves {m : Main} (hwork : m.NoChainWork) :
    ∃ g, m.walkLost = { m with regs := g, lz := m.lz.ended } ∧ Main.WalkLost { m with regs := g }
      ∧ m.RegsBut { m with regs := g } [F.LANIZA_STATUS_walk_busy.off, F.LANIZA_ADDR_valid.off, F.LANIZA_GEN_op_gen.off] := by
  obtain ⟨g, hlost, hg⟩ := Main.walkLost_of_none hwork
  have hfields := m.unaddressed_walkLost
  have hregs : m.RegsBut m.unaddressed _ := Main.RegsBut.refl.unaddressed
  rw [hg] at hfields hregs
  exact ⟨g, hlost, hfields, hregs⟩

/-- A flag of LANIZA_STATUS other than walk_busy (Table 14-3). -/
abbrev Fld.WalkFlag (f : Fld) : Prop :=
  f.off = F.LANIZA_STATUS_walk_busy.off ∧ f.OffPorts ∧ F.LANIZA_ADDR_valid.Apart f ∧ F.LANIZA_GEN_op_gen.Apart f
    ∧ F.LANIZA_STATUS_walk_busy.Apart f

/-- R313 on a unit that has set the failure's flag. -/
theorem Main.walkLost_of_flag {m : Main} (hwork : m.NoChainWork) {flag : Fld} (hflag : flag.WalkFlag) :
    ∃ g, (m.setFld flag 1).walkLost = { m with regs := g, lz := m.lz.ended } ∧ Main.WalkLost { m with regs := g }
      ∧ m.RegsBut { m with regs := g } [F.LANIZA_STATUS_walk_busy.off, F.LANIZA_ADDR_valid.off, F.LANIZA_GEN_op_gen.off]
      ∧ Main.fld { m with regs := g } flag = 1 := by
  obtain ⟨hoff, ⟨⟨hin, -⟩, -⟩, hvalid, hgen, hbusy⟩ := hflag
  obtain ⟨g, hlost, hg⟩ := Main.walkLost_of_none (m := m.setFld flag 1) hwork
  have hfields := (m.setFld flag 1).unaddressed_walkLost
  have hregs : m.RegsBut (m.setFld flag 1).unaddressed _ :=
    (Main.RegsBut.refl.setFld (List.mem_singleton.2 hoff) 1).unaddressed
  have hset := (m.setFld flag 1).fld_unaddressed hvalid hgen hbusy
  rw [hg] at hfields hregs hset
  have hone : 1 < 2 ^ flag.width := Nat.one_lt_two_pow (by unfold Fld.width; omega)
  exact ⟨g, hlost, hfields, hregs, hset.trans (m.fld_setFld_of_lt hin hone)⟩

/-- A unit's address registers as a walk's result sets them (R312, order 7). -/
def Main.addressed (m : Main) (units : Nat) (ring : Bool) (gen : Nat) (addrs : List Nat) : Main :=
  let n := (m.setFld F.LANIZA_ADDR_units units).setFld F.LANIZA_ADDR_ring (b2n ring)
  (((n.setFld F.LANIZA_ADDR_addr (addrs.getD (n.fld F.LANIZA_ADDR_position) 0 % 16)).setFld F.LANIZA_ADDR_host_assigned
    (b2n m.lz.host)).setFld F.LANIZA_ADDR_valid 1).setFld F.LANIZA_GEN_op_gen (gen % 256)

theorem Main.onlyRegs_addressed (m : Main) (units : Nat) (ring : Bool) (gen : Nat) (addrs : List Nat) :
    m.OnlyRegs (m.addressed units ring gen addrs) :=
  (((((Main.OnlyRegs.refl.setFld _ _).setFld _ _).setFld _ _).setFld _ _).setFld _ _).setFld _ _

theorem b2n_lt (b : Bool) : b2n b < 2 ^ 1 := by cases b <;> decide

/-- With the walk no longer in progress, its result is taken. -/
theorem Main.addressed_walkTaken (m : Main) {units : Nat} (hunits : units < 32) (ring : Bool) (gen : Nat) (addrs : List Nat) :
    m.WalkTaken ((m.addressed units ring gen addrs).setFld F.LANIZA_STATUS_walk_busy 0) units ring gen addrs := by
  refine ⟨?regs, ?units, ?ring, ?addr, ?position, ?host, ?valid, ?gen, Main.fld_setFld_of_lt _ (by decide) (by decide)⟩
  case regs =>
    exact ((((((Main.RegsBut.refl.setFld (by decide) _).setFld (by decide) _).setFld (by decide) _).setFld (by decide) _).setFld
      (by decide) _).setFld (by decide) _).setFld (by decide) _
  all_goals simp (disch := decide) only [Main.addressed, Main.fld_setFld_of_apart]
  case units => exact Main.fld_setFld_of_lt _ (by decide) hunits
  case ring => exact Main.fld_setFld_of_lt _ (by decide) (b2n_lt ring)
  case addr => exact Main.fld_setFld_of_lt _ (by decide) (Nat.mod_lt _ (by decide))
  case host => exact Main.fld_setFld_of_lt _ (by decide) (b2n_lt _)
  case valid => exact Main.fld_setFld_of_lt _ (by decide) (by decide)
  case gen => exact Main.fld_setFld_of_lt _ (by decide) (Nat.mod_lt _ (by decide))

/-- The rest of order 7: the walk is over, bound bittings are checked again, and a RESYNC that is due follows (R312, R319). -/
def Main.walkClosed (m : Main) : Main :=
  let k : Main := { m.walkOver with lz := { m.walkOver.lz with needWalk := false } }
  let k := k.chainRecheck k.chainOk
  let k := { k with kr := { k.kr with event := true } }
  let f := LzFrame.resync ((k.ctxs.map (·.1)).filter k.chainedCtx)
  let n := (k.lzSend 0 f).lzSend 1 f
  if k.lz.resyncDue then { n with lz := { n.lz with resyncDue := false } } else k

theorem Main.walkTake_eq (m : Main) (units : Nat) (ring : Bool) (gen : Nat) (addrs : List Nat) :
    m.walkTake units ring gen addrs = (m.addressed units ring gen addrs).walkClosed := rfl

theorem Main.walkClosed_of_none {m : Main} (hwork : m.NoChainWork) (hresync : m.lz.resyncDue = false) :
    m.walkClosed = { m.setFld F.LANIZA_STATUS_walk_busy 0 with
      lz := Laniza.ended { m.lz with needWalk := false }, kr := { m.kr with event := true } } := by
  have hrecheck := Main.chainRecheck_of_none
    (m := { m.setFld F.LANIZA_STATUS_walk_busy 0 with lz := Laniza.ended { m.lz with needWalk := false } }) hwork
    (Main.chainOk { m.setFld F.LANIZA_STATUS_walk_busy 0 with lz := Laniza.ended { m.lz with needWalk := false } })
  have hdue := (congrArg (fun k : Main => k.lz.resyncDue) hrecheck).trans hresync
  exact (if_neg (Bool.eq_false_iff.1 hdue)).trans (congrArg (fun k : Main => { k with kr := { k.kr with event := true } }) hrecheck)

/-- Order 7 where nothing of the chain waits here (R312). -/
theorem Main.walkTake_of_none {m : Main} {units : Nat} (hunits : units < 32) (hwork : m.NoChainWork) (hresync : m.lz.resyncDue = false)
    (ring : Bool) (gen : Nat) (addrs : List Nat) :
    ∃ g, m.walkTake units ring gen addrs
        = { m with regs := g, lz := Laniza.ended { m.lz with needWalk := false }, kr := { m.kr with event := true } }
      ∧ m.WalkTaken { m with regs := g } units ring gen addrs := by
  have htaken := m.addressed_walkTaken hunits ring gen addrs
  obtain ⟨a, ha⟩ := m.onlyRegs_addressed units ring gen addrs
  rw [Main.walkTake_eq, ha]
  rw [ha] at htaken
  exact ⟨_, Main.walkClosed_of_none hwork hresync, htaken⟩

/-- Order 6 where the walk is good: the head confirms and takes the result (R320). -/
theorem Main.walkFinish_of_good {m : Main} {fl mx : Nat} {addrs : List Nat} (hgen : fl ≤ mx) (haddrs : addrs.Nodup) (units : Nat)
    (ring : Bool) :
    m.walkFinish units ring fl mx addrs = (m.lzSend 1 (.confirm units ring mx addrs false)).walkTake units ring mx addrs := by
  simp only [Main.walkFinish, if_neg (Nat.not_lt.2 hgen), decide_eq_true haddrs, Bool.not_true, Bool.false_eq_true, if_false]

/-- A walk that the head of a chain finds failed: the failure goes downstream (R313). -/
theorem Main.walkFail_of_down {m : Main} (hup : m.portUp 0 = false) (hport : m.portUp 1 = true) (hwork : m.NoChainWork) {flag : Fld}
    (hflag : flag.WalkFlag) :
    ∃ g, m.walkFail flag = { m with regs := g, lz := Laniza.ended (m.lz.plus 1 (.confirm 0 false 0 [] true)) }
      ∧ Main.WalkLost { m with regs := g }
      ∧ m.RegsBut { m with regs := g } [F.LANIZA_STATUS_walk_busy.off, F.LANIZA_ADDR_valid.off, F.LANIZA_GEN_op_gen.off]
      ∧ Main.fld { m with regs := g } flag = 1 := by
  have hkeep : m.PortsAs (m.setFld flag 1) := Main.PortsAs.refl.setFld hflag.2.1 1
  have hnone := Main.lzSend_of_notUp ((hkeep.portUp 0).trans hup) (.confirm 0 false 0 [] true)
  have hsend := Main.lzSend_of_up ((hkeep.portUp 1).trans hport) (.confirm 0 false 0 [] true)
  rw [Main.walkFail, hnone, hsend]
  exact Main.walkLost_of_flag (m := { m with lz := m.lz.plus 1 (.confirm 0 false 0 [] true) }) hwork hflag

/-! ## How walks begin -/

/-- The DOWN port of an idle head trains (R312). -/
theorem Main.portChange_downTrained {m : Main} {st : Nat} (hpin : m.bit F.LANIZA_STATUS_head_pin = true)
    (hen : m.bit F.LANIZA_CTL_down_en = true) (hst : 2 ≤ st) (hlt : st < 4) (hold : m.fld F.LANIZA_STATUS_down_state < 2)
    (hidle : m.lz.phase = .idle) (hwork : m.NoChainWork) :
    m.portChange 1 st = { Main.walkMarked { m.setFld F.LANIZA_STATUS_down_state st with lz := { m.lz with failDown := 0 } } with
      lz := Laniza.plus { m.lz with failDown := 0, phase := .quiescing, restQuiet := false } 1 .quiesce } := by
  have hne : m.fld F.LANIZA_STATUS_down_state ≠ st := by omega
  have hhead : (m.setFld F.LANIZA_STATUS_down_state st).isHead = true :=
    (m.setFld_downState st).2.trans (Bool.or_eq_true_iff.2 (.inl hpin))
  have hport : (m.setFld F.LANIZA_STATUS_down_state st).portUp 1 = true :=
    decide_eq_true (hst.trans (m.fld_setFld_of_lt (f := F.LANIZA_STATUS_down_state) (by decide) hlt).ge)
  have hup : ¬(st < 2 ∧ 2 ≤ m.fld F.LANIZA_STATUS_down_state) := by omega
  have hone : st ≠ 1 := by omega
  have hwalk := Main.walkStart_of_head (m := { m.setFld F.LANIZA_STATUS_down_state st with lz := { m.lz with failDown := 0 } })
    hhead hport hidle hwork
  simp only [Main.portChange, hen, hne, hup, hone, Nat.one_ne_zero, if_true, if_false]
  exact hwalk

/-- LANIZA_PORT_CHANGE of a head's DOWN port (R312). -/
theorem Machine.lanizaPortChange_walks {s : State} {st : Fin 4} (hup : s.wardenUp = true)
    (hpin : s.mn.bit F.LANIZA_STATUS_head_pin = true) (hen : s.mn.bit F.LANIZA_CTL_down_en = true) (hst : 2 ≤ st.val)
    (hold : s.mn.fld F.LANIZA_STATUS_down_state < 2) (hidle : s.mn.lz.phase = .idle) (hwork : s.mn.NoChainWork) :
    OnWarden (.lanizaPortChange 1 st) s fun n => n = { s.mn with regs := n.regs, lz := n.lz, absent := n.absent }
      ∧ n.lz = Laniza.plus { s.mn.lz with failDown := 0, phase := .quiescing, restQuiet := false } 1 .quiesce
      ∧ s.mn.RegsBut n [F.LANIZA_STATUS_down_state.off, F.HINGE_NOW_in_force.off] ∧ n.fld F.LANIZA_STATUS_down_state = st.val
      ∧ n.fld F.LANIZA_STATUS_walk_busy = 1 := by
  refine onWarden_eq rfl hup (Main.portChange_downTrained hpin hen hst st.isLt hold hidle hwork) fun n a hn => ?_
  subst hn
  refine ⟨rfl, rfl, (Main.RegsBut.refl.setFld (by decide) st.val).walkMarked, ?state, Main.fld_walkMarked_busy _⟩
  case state =>
    exact (Main.fld_walkMarked_of_apart _ (by decide) (by decide)).trans (Main.fld_setFld_of_lt _ (by decide) st.isLt)

/-- A unit whose UP port is still down at the timeout is a head, and begins a walk (R311). -/
theorem Main.headUp_of_down {m : Main} (hpin : m.bit F.LANIZA_STATUS_head_pin = false) (hup : m.portUp 0 = false)
    (hport : m.portUp 1 = true) (hidle : m.lz.phase = .idle) (hwork : m.NoChainWork) :
    m.headUp = { m.walkMarked with
      lz := Laniza.plus { m.lz with headOut := true, phase := .quiescing, restQuiet := false } 1 .quiesce } := by
  have hhead : Main.isHead { m with lz := { m.lz with headOut := true } } = true :=
    Bool.or_eq_true_iff.2 (.inr (congrArg Bool.not hup))
  have hwalk := Main.walkStart_of_head (m := { m with lz := { m.lz with headOut := true } }) hhead hport hidle hwork
  have hheadUp : m.headUp = Main.walkStart { m with lz := { m.lz with headOut := true } } := by
    have hport' : Main.portUp { m with lz := { m.lz with headOut := true } } 1 = true := hport
    simp only [Main.headUp, hpin, hup, hport', Bool.or_self, Bool.false_eq_true, if_false, if_true]
  exact hheadUp.trans hwalk

/-- NO_HEAD_TIMEOUT at a unit that no walk has reached (R311, R313). -/
theorem Machine.noHeadTimeout_loses {s : State} (hup : s.wardenUp = true) (hhead : s.mn.isHead = false)
    (hreached : s.mn.lz.reached = false) (hwork : s.mn.NoChainWork) :
    OnWarden .noHeadTimeout s fun n => n = { s.mn with regs := n.regs, lz := s.mn.lz.ended, absent := n.absent } ∧ n.WalkLost
      ∧ s.mn.RegsBut n [F.LANIZA_STATUS_no_head.off, F.LANIZA_ADDR_valid.off, F.LANIZA_GEN_op_gen.off]
      ∧ n.fld F.LANIZA_STATUS_no_head = 1 := by
  obtain ⟨g, hlost, hfields, hregs, hflag⟩ := Main.walkLost_of_flag hwork (flag := F.LANIZA_STATUS_no_head) (by decide)
  have hnoHead : s.mn.noHead = { s.mn with regs := g, lz := s.mn.lz.ended } := by
    rw [Main.noHead, hhead, hreached]
    exact hlost
  refine onWarden_lapse rfl hup hnoHead rfl fun n a hn => ?_
  subst hn
  exact ⟨rfl, hfields, hregs, hflag⟩

/-- During no walk, LANIZA_CTL.rewalk begins one (R312, R324). -/
theorem Main.rewalk_of_idle {m : Main} (hidle : m.lz.phase = .idle) : m.rewalk = m.walkStart := if_pos hidle

/-- Settles O34: each cause of a walk by the lemma of its command. That a unit other than the head asks for the walk upstream is the
model's choice (log entry 34). -/
theorem walksBegin : Obligations.WalksBegin := by
  refine ⟨?trains, ?staysDown, ?noHead, ?rewalk, ?upstream⟩
  case trains =>
    intro s st hup hpin hen hst hold hidle hwork
    exact lanizaPortChange_walks hup hpin hen hst hold hidle hwork
  case staysDown =>
    intro s hup hpin hdown hport hidle hwork
    exact onWarden_lapse rfl hup (Main.headUp_of_down hpin hdown hport hidle hwork) rfl fun n a hn => Main.walkMarked_leaves hn
  case noHead =>
    intro s hup hhead hreached hwork
    exact noHeadTimeout_loses hup hhead hreached hwork
  case rewalk =>
    intro s hup hhead hport hidle hwork
    have hstart := (Main.rewalk_of_idle hidle).trans (Main.walkStart_of_head hhead hport hidle hwork)
    exact onWarden_hostLapse rfl hup hstart rfl fun n a hn => Main.walkMarked_leaves hn
  case upstream =>
    intro s hup hhead hport hidle
    have hstart := (Main.rewalk_of_idle hidle).trans (Main.walkStart_of_notHead hhead hport)
    exact onWarden_hostLapse rfl hup hstart rfl fun n a hn => by subst hn; rfl

/-! ## How walks go round -/

/-- QUIESCE at a unit that is not the head (R312, order 2). -/
theorem Main.quiesce_of_notHead {m : Main} (hhead : m.isHead = false) (hphase : m.lz.phase ≠ .quiescing) (hwork : m.NoChainWork)
    (hport : m.portUp 0 = true) :
    m.quiesce = { m.walkMarked with
      lz := Laniza.plus { m.lz with phase := .quiet, failUp := 0 } (if m.portUp 1 then 1 else 0)
        (if m.portUp 1 then .quiesce else .quiesced) } := by
  have hkeep := m.portsAs_walkMarked
  have hquiet := Main.walkQuiet_of_notHead (m := { m.walkMarked with lz := { m.lz with phase := .quiescing, failUp := 0 } }) rfl hwork
    ((hkeep.isHead rfl).trans hhead) ((hkeep.portUp 0).trans hport)
  have hdown : Main.portUp { m.walkMarked with lz := { m.lz with phase := .quiescing, failUp := 0 } } 1 = m.portUp 1 := hkeep.portUp 1
  rw [hdown] at hquiet
  rw [Main.quiesce, hhead]
  exact (if_neg hphase).trans hquiet

/-- QUIESCED back at the head, which begins order 3 in hardware mode. -/
theorem Main.quiesced_of_head {m : Main} (hhead : m.isHead = true) (hphase : m.lz.phase = .quiescing) (hwork : m.NoChainWork)
    (hport : m.portUp 1 = true) (hassist : m.assisted 7 = false) :
    m.quiesced = { m.setFld F.LANIZA_ADDR_position 0 with
      lz := Laniza.plus { m.lz with
          failDown := 0, restQuiet := true, phase := .walking, addrs := [0], reached := true, host := false
          floorMax := m.ownFloor, maxMin := m.ownMax }
        1 (.walk 1 m.ownFloor m.ownMax [0]) } := by
  have hquiet := Main.walkQuiet_of_restQuiet (m := { m with lz := { m.lz with failDown := 0, restQuiet := true } }) hphase hwork hhead rfl
  have hwalk := Main.walkHead_of_down (m := { m with lz := { m.lz with failDown := 0, restQuiet := true } }) hport hassist
  exact ((if_pos hhead).trans (if_pos hphase)).trans (hquiet.trans hwalk)

/-- QUIESCED goes on upstream. -/
theorem Main.quiesced_of_notHead {m : Main} (hhead : m.isHead = false) (hport : m.portUp 0 = true) :
    m.quiesced = { m with lz := Laniza.plus { m.lz with failDown := 0 } 0 .quiesced } := by
  have hsend := Main.lzSend_of_up (m := { m with lz := { m.lz with failDown := 0 } }) hport .quiesced
  exact (if_neg (Bool.eq_false_iff.1 hhead)).trans hsend

/-- END goes on upstream. -/
theorem Main.walkEnd_of_notHead {m : Main} (hhead : m.isHead = false) (hport : m.portUp 0 = true) (units fl mx : Nat)
    (addrs : List Nat) :
    m.walkEnd units fl mx addrs = { m with lz := Laniza.plus { m.lz with failDown := 0 } 0 (.walkEnd units fl mx addrs) } := by
  have hsend := Main.lzSend_of_up (m := { m with lz := { m.lz with failDown := 0 } }) hport (.walkEnd units fl mx addrs)
  exact (if_neg (Bool.eq_false_iff.1 hhead)).trans hsend

/-- END at the head of a walk (R312, order 6). -/
theorem Main.walkEnd_of_head {m : Main} (hhead : m.isHead = true) (hphase : m.lz.phase = .walking) (units fl mx : Nat)
    (addrs : List Nat) :
    m.walkEnd units fl mx addrs = Main.walkFinish { m with lz := { m.lz with failDown := 0 } } units false fl mx addrs :=
  (if_pos hhead).trans (if_pos hphase)

/-- END at the head where the generations meet and no address is named twice (R312, R320). -/
theorem Main.walkEnd_confirms {m : Main} {units fl mx : Nat} {addrs : List Nat} (hunits : units < 32) (hhead : m.isHead = true)
    (hphase : m.lz.phase = .walking) (hgen : fl ≤ mx) (haddrs : addrs.Nodup) (hport : m.portUp 1 = true)
    (hresync : m.lz.resyncDue = false) (hwork : m.NoChainWork) :
    ∃ g, m.walkEnd units fl mx addrs = { m with
        regs := g, kr := { m.kr with event := true }
        lz := Laniza.ended (Laniza.plus { m.lz with failDown := 0, needWalk := false } 1 (.confirm units false mx addrs false)) }
      ∧ m.WalkTaken { m with regs := g } units false mx addrs := by
  obtain ⟨g, htake, htaken⟩ := Main.walkTake_of_none
    (m := { m with lz := Laniza.plus { m.lz with failDown := 0 } 1 (.confirm units false mx addrs false) })
    hunits hwork hresync false mx addrs
  have hsend := Main.lzSend_of_up (m := { m with lz := { m.lz with failDown := 0 } }) hport (.confirm units false mx addrs false)
  rw [Main.walkEnd_of_head hhead hphase, Main.walkFinish_of_good hgen haddrs, hsend]
  exact ⟨g, htake, htaken⟩

/-- END at the head of a chain where no generation is common (R313, R320). -/
theorem Main.walkEnd_fails {m : Main} {units fl mx : Nat} {addrs : List Nat} (hhead : m.isHead = true)
    (hphase : m.lz.phase = .walking) (hgen : mx < fl) (hup : m.portUp 0 = false) (hport : m.portUp 1 = true) (hwork : m.NoChainWork) :
    ∃ g, m.walkEnd units fl mx addrs = { m with
        regs := g, lz := Laniza.ended (Laniza.plus { m.lz with failDown := 0 } 1 (.confirm 0 false 0 [] true)) }
      ∧ Main.WalkLost { m with regs := g }
      ∧ m.RegsBut { m with regs := g } [F.LANIZA_STATUS_walk_busy.off, F.LANIZA_ADDR_valid.off, F.LANIZA_GEN_op_gen.off]
      ∧ Main.fld { m with regs := g } F.LANIZA_STATUS_no_common_gen = 1 := by
  obtain ⟨g, hfail, hfacts⟩ := Main.walkFail_of_down (m := { m with lz := { m.lz with failDown := 0 } }) hup hport hwork
    (flag := F.LANIZA_STATUS_no_common_gen) (by decide)
  rw [Main.walkEnd_of_head hhead hphase]
  exact ⟨g, (if_pos hgen).trans hfail, hfacts⟩

/-- CONFIRM from upstream during a walk goes on downstream first (R312, order 7). -/
theorem Main.confirm_of_up {m : Main} (hphase : m.lz.phase ≠ .idle) (hport : m.portUp 1 = true) (units : Nat) (ring : Bool) (gen : Nat)
    (addrs : List Nat) (failed : Bool) {z : Laniza}
    (hz : z = Laniza.plus { m.lz with failUp := 0 } 1 (.confirm units ring gen addrs failed)) :
    m.confirm units ring gen addrs failed true
      = if failed then Main.walkLost { m with lz := z } else Main.walkTake { m with lz := z } units ring gen addrs := by
  have hsend := Main.lzSend_of_up (m := { m with lz := { m.lz with failUp := 0 } }) hport (.confirm units ring gen addrs failed)
  subst hz
  exact (if_neg hphase).trans (congrArg (fun k : Main => if failed then k.walkLost else k.walkTake units ring gen addrs) hsend)

/-- A walk's result from upstream, taken (R312, order 7). -/
theorem Main.confirm_takes {m : Main} {units : Nat} (hunits : units < 32) (hphase : m.lz.phase ≠ .idle) (hport : m.portUp 1 = true)
    (hresync : m.lz.resyncDue = false) (hwork : m.NoChainWork) (ring : Bool) (gen : Nat) (addrs : List Nat) :
    ∃ g, m.confirm units ring gen addrs false true = { m with
        regs := g, kr := { m.kr with event := true }
        lz := Laniza.ended (Laniza.plus { m.lz with failUp := 0, needWalk := false } 1 (.confirm units ring gen addrs false)) }
      ∧ m.WalkTaken { m with regs := g } units ring gen addrs := by
  obtain ⟨g, htake, htaken⟩ := Main.walkTake_of_none
    (m := { m with lz := Laniza.plus { m.lz with failUp := 0 } 1 (.confirm units ring gen addrs false) })
    hunits hwork hresync ring gen addrs
  exact ⟨g, (Main.confirm_of_up hphase hport units ring gen addrs false rfl).trans htake, htaken⟩

/-- A walk's failure from upstream (R313). -/
theorem Main.confirm_loses {m : Main} (hphase : m.lz.phase ≠ .idle) (hport : m.portUp 1 = true) (hwork : m.NoChainWork) (units : Nat)
    (ring : Bool) (gen : Nat) (addrs : List Nat) :
    ∃ g, m.confirm units ring gen addrs true true = { m with
        regs := g, lz := Laniza.ended (Laniza.plus { m.lz with failUp := 0 } 1 (.confirm units ring gen addrs true)) }
      ∧ Main.WalkLost { m with regs := g }
      ∧ m.RegsBut { m with regs := g } [F.LANIZA_STATUS_walk_busy.off, F.LANIZA_ADDR_valid.off, F.LANIZA_GEN_op_gen.off] := by
  obtain ⟨g, hlost, hfacts⟩ := Main.walkLost_leaves
    (m := { m with lz := Laniza.plus { m.lz with failUp := 0 } 1 (.confirm units ring gen addrs true) }) hwork
  exact ⟨g, (Main.confirm_of_up hphase hport units ring gen addrs true rfl).trans hlost, hfacts⟩

/-- Settles O35: each frame of a walk by the lemma of its command. -/
theorem walksGoRound : Obligations.WalksGoRound := by
  refine ⟨?quiesce, ?quiescedHead, ?quiescedUnit, ?walk, ?endGood, ?endBad, ?endUnit, ?confirmGood, ?confirmBad⟩
  case quiesce =>
    intro s hup hhead hphase hwork hport
    exact onWarden_lapse rfl hup (Main.quiesce_of_notHead hhead hphase hwork hport) rfl fun n a hn => Main.walkMarked_leaves hn
  case quiescedHead =>
    intro s hup hhead hphase hwork hport hassist
    refine onWarden_lapse rfl hup (Main.quiesced_of_head hhead hphase hwork hport hassist) rfl fun n a hn => ?_
    subst hn
    exact ⟨rfl, rfl, s.mn.regsBut_setFld _ _, s.mn.fld_setFld_of_lt (by decide) (by decide)⟩
  case quiescedUnit =>
    intro s hup hhead hport
    exact onWarden_lapse rfl hup (Main.quiesced_of_notHead hhead hport) rfl fun n a hn => by subst hn; exact ⟨rfl, rfl⟩
  case walk =>
    rintro s pos fl mx _ _ addrs hup hhead hpos hassist hport rfl rfl
    refine onWarden_lapse rfl hup (Main.walk_of_notHead hhead hport hassist hpos fl mx addrs) rfl fun n a hn => ?_
    subst hn
    exact ⟨rfl, rfl, s.mn.regsBut_walkPlaced pos, s.mn.fld_walkPlaced_position hpos, s.mn.fld_walkPlaced_busy pos⟩
  case endGood =>
    intro s units fl mx addrs hup hhead hphase hgen haddrs hport hresync hwork
    obtain ⟨g, hend, htaken⟩ := Main.walkEnd_confirms (units := units) (by omega) hhead hphase hgen haddrs hport hresync hwork
    exact onWarden_lapse rfl hup hend rfl fun n a hn => by subst hn; exact ⟨rfl, rfl, htaken⟩
  case endBad =>
    intro s units fl mx addrs hup hhead hphase hgen hdown hport hwork
    obtain ⟨g, hend, hlost, hregs, hflag⟩ := Main.walkEnd_fails (units := units) (addrs := addrs) hhead hphase hgen hdown hport hwork
    exact onWarden_lapse rfl hup hend rfl fun n a hn => by subst hn; exact ⟨rfl, hlost, hflag, hregs, rfl⟩
  case endUnit =>
    intro s units fl mx addrs hup hhead hport
    exact onWarden_lapse rfl hup (Main.walkEnd_of_notHead hhead hport units fl mx addrs) rfl fun n a hn => by subst hn; exact ⟨rfl, rfl⟩
  case confirmGood =>
    intro s units ring gen addrs hup hphase hport hresync hwork
    obtain ⟨g, hconfirm, htaken⟩ := Main.confirm_takes (units := units) (by omega) hphase hport hresync hwork ring gen addrs
    exact onWarden_eq rfl hup hconfirm fun n a hn => by subst hn; exact ⟨rfl, rfl, htaken⟩
  case confirmBad =>
    intro s units ring gen addrs hup hphase hport hwork
    obtain ⟨g, hconfirm, hlost, hregs⟩ := Main.confirm_loses hphase hport hwork units.val ring gen addrs
    exact onWarden_eq rfl hup hconfirm fun n a hn => by subst hn; exact ⟨rfl, hlost, hregs, rfl⟩

end Sys2Proof
end

section
/-! PROOF. What every command keeps: the queue behind it, the hasp's promise (spec/15_listening.md R344 to R347) and the fuses
(spec/19_security.md R412), by one case for each shared form of an effect. -/

namespace Sys2Proof
open Machine

/-- Whatever next state a command answers keeps the queue, the hasp's promise and the fuses. -/
def Machine.State.KeepsAll (s : State) (o : Host.Outcome State Fault Refusal) : Prop := ∀ t, o = .next t → s.Keeps t

section
variable {s : State}

theorem Machine.State.KeepsAll.next {t : State} (h : s.Keeps t) : s.KeepsAll (.next t) := fun _ e => Host.Outcome.next.inj e ▸ h

theorem Machine.State.KeepsAll.warden (f : Main → Main) : s.KeepsAll (.next (s.warden f)) := .next (s.keeps_warden f)

theorem Machine.State.KeepsAll.hostWarden (f : Main → Main) : s.KeepsAll (.next (s.hostWarden f)) := .next (s.keeps_hostWarden f)

theorem Machine.State.KeepsAll.hostDo {f : State → State} (h : ∀ t : State, t.Keeps (f t)) : s.KeepsAll (.next (s.hostDo f)) :=
  .next (s.keeps_hostDo f h)

theorem Machine.State.KeepsAll.hostLatch {f : State → State} (h : ∀ t : State, t.Keeps (f t)) : s.KeepsAll (.next (s.hostLatch f)) :=
  .next (s.keeps_hostLatch f h)

theorem Machine.State.KeepsAll.latch {f : State → State} (h : ∀ t : State, t.Keeps (f t)) : s.KeepsAll (.next (s.latch f)) :=
  .next (s.keeps_latch f h)

theorem Machine.State.KeepsAll.viaSdio {f : State → State} (h : ∀ t : State, t.Keeps (f t)) : s.KeepsAll (.next (s.viaSdio f)) :=
  .next (s.keeps_viaSdio f h)

theorem Machine.State.KeepsAll.markFwl {f : State → State} (h : ∀ t : State, t.Keeps (f t)) : s.KeepsAll (.next (s.markFwl f)) :=
  .next (s.keeps_markFwl f h)

/-- An effect of the Warden's side on the whole state, none while it is down. -/
theorem Machine.State.KeepsAll.whileUp {t : State} (h : s.Keeps t) : s.KeepsAll (.next (if s.wardenUp then t else s)) :=
  .next (.ite _ h (.rfl' s))

/-- A slot that fires changes the Warden's side alone, or stops the block. -/
theorem Machine.State.keepsAll_fire (s : State) (lead : Nat) (r : Resource) (work : SlotWork) (ecc : List EccEvent) :
    s.KeepsAll (s.fire lead r work ecc) := by
  unfold State.fire
  extract_lets asked
  clear_value asked
  split
  · exact .next (.rfl' s)
  · split
    · exact fun _ e => nomatch e
    · exact .next ((s.keeps_mn _).trans (State.keeps_sync _))
    · exact .next ((s.keeps_mn _).trans (State.keeps_sync _))

end

theorem Machine.exec_keepsAll (c : Instr) (s : State) : s.KeepsAll (exec c s) := by
  cases c with
  | sqDb | cqDb | irqArm | ctxCmdRelease | ctxCmdEvict | ctxBindBind | ctxBindUnbind | laneReserve | laneUnreserve | recover
  | cxlMemWrite | cxlMemRead | areaRegisterWrite | svcDbWrite | hingeCtlWrite | lanizaRewalk | lanizaSendWake | camLsEnable | i3cCmd
  | protLock | protectionWrite | strikeArm | threshSelWrite => exact .hostWarden _
  | descriptorRead | acceptReadback | run | bind | unbind | load | free | compress | laneStart | laneStop | endSeq | unknownOpcode
  | bindCopyDone | listPoint | roundBuild | planLoadEnd | rampUp | rampDown | rampResume | tileSwap | replayHoldArrival | replayVerdict
  | doneBundle | readyBundle | commitRecordWrite | commitPoint | commitRetire | irqHoldoffExpiry | misfitBundle | companionStart
  | switch | saveComplete | restoreComplete | teardownDone | laneReserved | laneTick | recoveryComplete | thermalLevelStep
  | loadEngineRead | regionSeal | loadTimeout | holdBegin | refetchGranuleArrival | refetchVerify | refetchTimeout | scrubStart
  | scrubUnitDone | compressPassStart | compressPassDone | svcRequestPost | h1Answer | h2Answer | h3Answer | h4Answer | h5Answer
  | h7Answer | h8Answer | h9Answer | lanizaPortChange | headUpTimeout | noHeadTimeout | quiesce | quiesced | walk | walkEnd | confirm
  | chainMembership | chainStart | chainReady | chainGo | chainGoTimeout | chainDropNotice | chainResync | csiFrameStart
  | csiLongPacket | csiFrameEnd | csiHeaderError | camFrameTimeout | camRecvTimeout | i3cCmdDone | i3cIbi | i3cHotJoin
  | errMirrorCopy | strikeInEdge | strikeDoneBundle | lanizaFrameCrcFail | laneInputFetchDone => exact .warden _
  | slotFire => exact s.keepsAll_fire _ _ _ _
  | tier3ReadTimeout => exact s.keepsAll_fire _ _ _ _
  | powerOn => exact .markFwl fun t => t.keeps_powerOn _ _
  | railPowerGood => exact .markFwl fun t => t.keeps_railGood _
  | railGoodTimeout => exact .markFwl fun t => t.keeps_railTimeout _
  | railRetryWaitEnd => exact .markFwl fun t => t.keeps_railRetry
  | brownOut => exact .markFwl fun t => t.keeps_brownOut _
  | resetNAsserted => exact .markFwl fun t => t.keeps_resetN _
  | watchdogExpiry => exact .markFwl fun t => t.keeps_watchdog
  | resetCtlWarm => exact .markFwl fun t => t.keeps_softReset _ _
  | functionLevelReset => exact .markFwl fun t => t.keeps_flr
  | hostLinkReset => exact .markFwl fun t => t.keeps_linkReset _
  | debugResetRequest => exact .markFwl fun t => t.keeps_debugReset _ _
  | clockFailure => exact .markFwl fun t => t.keeps_clockFailure _
  | lockUp => exact .markFwl fun t => t.keeps_lockUp _
  | stretchEnd => exact .markFwl fun t => t.keeps_stretchEnd
  | clockGood => exact .markFwl fun t => t.keeps_clockGood _ _
  | clockHoldTimeout => exact .markFwl fun t => t.keeps_clockHold _
  | resetForce => exact .markFwl fun t => t.keeps_hostLatch _ fun u => u.keeps_resetForce _
  | blockResetGo => exact .hostLatch fun t => t.keeps_blockGo _
  | blockIdle => exact .next (s.keeps_blockHold _)
  | blockIdleTimeout => exact .next (s.keeps_blockHold _)
  | blockResetHoldEnd => exact .next s.keeps_blockHoldEnd
  | bootCtlGo => exact .markFwl fun t => t.keeps_hostLatch _ fun u => u.keeps_bootGo
  | bootImageReceived => exact .markFwl fun t => t.keeps_bootImage _
  | fwlStart => exact .markFwl fun t => t.keeps_viaSdio _ fun u => u.keeps_fwlStart _
  | fwlData => exact .markFwl fun t => t.keeps_viaSdio _ fun u => u.keeps_fwlData _
  | fwlAbort => exact .markFwl fun t => t.keeps_viaSdio _ fun u => u.keeps_fwlAbort
  | latchRetry viaSdio =>
    exact .markFwl fun t => .ite _ (t.keeps_viaSdio _ fun u => u.keeps_latchRetry) (.ite _ t.keeps_latchRetry (.rfl' t))
  | plevelCapWrite => exact .hostLatch fun t => t.keeps_onMn _
  | throttleNAssert => exact .latch fun t => t.keeps_onMn _
  | throttleNDeassert => exact .latch fun t => t.keeps_onMn _
  | thermalAlert => exact .latch fun t => t.keeps_thermAlert _ _
  | h6Answer => exact .whileUp (s.keeps_h6Answer _)
  | hingeTimeout => exact .whileUp (s.keeps_lapseSvc _)
  | svcEnableClear => exact .hostDo fun t => t.keeps_lapseSvc _
  | haspMuteWrite => exact .hostLatch fun t => t.keeps_muteWrite _
  | muteNAssert => exact .next (s.keeps_muteLevel _)
  | muteNDeassert => exact .next (s.keeps_muteLevel _)
  | decimatorSettleEnd => exact .latch fun t => t.keeps_settleEnd _
  | wakeFrame => exact .latch fun t => t.keeps_wakeFrame _ _ _ _ _
  | kwWindowExpiry => exact .latch fun t => t.keeps_kwExpiry
  | verifyScore => exact .latch fun t => t.keeps_scored _
  | verifyBudgetExpiry => exact .latch fun t => t.keeps_verifyExpiry
  | verifierGranuleFail => exact .latch fun t => t.keeps_granuleFail
  | audioBlockFull => exact .latch fun t => t.keeps_writeBlock _
  | streamStart => exact .hostLatch fun t => .ite _ (t.keeps_streamStart _) (.rfl' t)
  | streamStop => exact .hostLatch fun t => .ite _ (t.keeps_streamStop _) (.rfl' t)
  | verifyLoad => exact .hostLatch fun t => .ite _ (t.keeps_verifyLoad _ _) (.rfl' t)
  | pdmGrpWrite => exact .hostLatch fun t => t.keeps_pdm _ _ _
  | sleepGo => exact .hostLatch fun t => t.keeps_sleepGo _
  | sleepEntryProceed => exact .markFwl fun t => .ite _ t.keeps_sleepProceed (.rfl' t)
  | sleepEntryTimeout => exact .whileUp s.keeps_sleepTimeout
  | wakeSource => exact .markFwl fun t => t.keeps_latch _ fun u => u.keeps_wakeFrom _
  | wakeComplete => exact .markFwl fun t => t.keeps_latch _ fun u => u.keeps_wakeComplete _
  | retentionSupplyLoss => exact .latch fun t => t.keeps_retentionLoss
  | confModeSet => exact .hostLatch fun t => t.keeps_onMn _
  | attestGo => exact .hostDo fun t => t.keeps_attestGo
  | attestDone => exact .whileUp s.keeps_attestDone
  | strikeFire => exact .hostDo fun t => t.keeps_strike _ _
  | thresholdStrike => exact .whileUp (s.keeps_threshold _)
  | strikeMarker => exact .whileUp (s.keeps_marker _ _)
  | strikeOutPulseEnd => exact .next (s.keeps_onMn _)
  | latchedLoRead => exact .next (s.keeps_readAny _)
  | registerWrite => exact .markFwl fun t => t.keeps_writeReg _ _ _
  | mbxStatus => exact .next (s.keeps_mbx _ _)
  | mbxMute => exact .next (s.keeps_mbx _ _)
  | mbxRetry => exact .markFwl fun t => t.keeps_mbx _ _
  | mbxReadReg => exact .next (s.keeps_mbx _ _)
  | mbxWriteReg => exact .markFwl fun t => t.keeps_mbx _ _
  | mbxUnknownCommand => exact .next (s.keeps_mbxUnknown _)
  | f2Start => exact .viaSdio fun t => t.keeps_f2Start
  | f2Stop => exact .viaSdio fun t => t.keeps_f2Stop
  | f2RecordRead => exact .viaSdio fun t => t.keeps_f2Record
  | f2AudioRead => exact .viaSdio fun t => t.keeps_f2Audio
  | audClkStop => exact .latch fun t => t.keeps_audClk _
  | audClkReturn => exact .latch fun t => t.keeps_audClk _
  | hostLinkUp => exact .next s.keeps_hostLinkUp

/-- A step keeps the hasp's promise and the fuses: it runs the front command with the queue's rest, or nothing. -/
theorem Machine.step_keeps {s t : State} (h : step s = .next t) :
    (s.HaspSafe → t.HaspSafe) ∧ s.rc.blown ≤ t.rc.blown ∧ (s.rc.revoked0 = true → t.rc.revoked0 = true)
      ∧ (s.rc.revoked1 = true → t.rc.revoked1 = true) := by
  cases hqueue : s.pending with
  | nil =>
    have hsame : s = t := by simpa [step, hqueue] using h
    subst hsame
    exact ⟨id, Nat.le_refl _, id, id⟩
  | cons c rest =>
    have hkeeps := exec_keepsAll c { s with pending := rest } t (step_of_front hqueue ▸ h)
    exact ⟨hkeeps.hasp, hkeeps.blown, hkeeps.rev0, hkeeps.rev1⟩

/-- Settles O4: each effect of a command keeps the promise. -/
theorem haspSafeKeptByEveryStep : Obligations.HaspSafeKeptByEveryStep := fun _ _ hsafe h => (step_keeps h).1 hsafe

/-- Settles O5: each effect of a command keeps the blown versions and both revocations. -/
theorem fusesNeverClear : Obligations.FusesNeverClear := by
  intro s t h
  obtain ⟨-, hblown, hrev0, hrev1⟩ := step_keeps h
  refine ⟨min_le_min_left 64 (Nat.add_le_add_left hblown _), fun k hk => ?_⟩
  rw [ResetCtl.revoked, Bool.or_eq_true] at hk ⊢
  refine hk.imp_right fun hslot => ?_
  by_cases hk0 : k = 0
  · rw [if_pos hk0] at hslot ⊢
    exact hrev0 hslot
  · rw [if_neg hk0] at hslot ⊢
    exact hrev1 hslot

end Sys2Proof
end

section
/-! SUPPORT AND PROOF. The hasp (spec/15_listening.md R344 to R347): what driving its outputs leaves, a change of its inputs while nothing
that was heard waits, and the two obligations about muting. -/

namespace Sys2Proof
open Machine

/-! ## Outputs driven -/

@[simp] theorem AudPath.next_stop (p : AudPath) : p.stop.next = p.next := by unfold AudPath.stop; split <;> rfl

@[simp] theorem AudPath.ran_stop (p : AudPath) : p.stop.ran = false := by
  unfold AudPath.stop; split
  · rfl
  · exact Bool.eq_false_iff.2 ‹_›

/-- Outputs driven after a change of inputs, registers and what they stop or clear. -/
theorem Latch.redriven_redrive (a : Latch) (h : Hasp) (regs : Tab Word) (stop : Bool) (preroll : Mem) (quiet : List Nat) (off : Bool) :
    a.Redriven (({ a with hasp := h, regs := regs, audStop := stop, preroll := preroll, quiet := quiet } : Latch).redrive off) :=
  ⟨rfl, rfl, rfl, by unfold Latch.redrive; dsimp only; split <;> simp, by unfold Latch.redrive; dsimp only; split <;> simp,
    by unfold Latch.redrive; dsimp only; split <;> simp⟩

/-- Neither a write of HASP_CTL nor an edge of MUTE_N looks at what the hasp drives. -/
theorem Hasp.drive_inputs (h k : Hasp) (run0 run1 : Bool) :
    ({ h with led := k.led, micPwr := k.micPwr, clk0 := k.clk0, clk1 := k.clk1 } : Hasp).drive run0 run1 = h.drive run0 run1 := rfl

/-! ## A change of the hasp's inputs -/

theorem Latch.haspTake_hasp (a : Latch) (h : Hasp) (off : Bool) :
    (a.haspTake h off).hasp = h.drive (a.pathOn off 0) (a.pathOn off 1) := by
  unfold Latch.haspTake
  dsimp only
  split
  · exact Latch.hasp_enterMute _
  · rfl

/-- With no candidate and nothing spooled, an entry to mute zeroes the pre-roll ring and no more (R346). -/
theorem Latch.haspTake_of_idle {a : Latch} (hcand : a.cand = none) (hspool : a.spool = none) (hw0 : a.w0On = false) (h : Hasp)
    (off : Bool) :
    a.haspTake h off = ({ a with
      hasp := { h with led := a.hasp.led, micPwr := a.hasp.micPwr, clk0 := a.hasp.clk0, clk1 := a.hasp.clk1 }
      preroll := if h.muted && !a.hasp.muted then [] else a.preroll } : Latch).redrive off := by
  cases a
  subst hcand hspool hw0
  unfold Latch.haspTake
  dsimp only
  split <;> rfl

theorem Machine.State.wakeFrom_la (s : State) (src : Nat) : (s.wakeFrom src).la = s.la := by
  unfold State.wakeFrom
  dsimp only
  (repeat' split) <;> rfl

theorem Machine.State.drainRecords_of_empty {s : State} (h : s.la.fifo = []) : s.drainRecords = s := by
  rw [State.drainRecords, h]; rfl

theorem Machine.State.hasp_copyRecords (n : Nat) (s : State) : (State.copyRecords n s).la.hasp = s.la.hasp := by
  induction n generalizing s with
  | zero => rfl
  | succ n ih =>
    unfold State.copyRecords
    dsimp only
    split
    · rfl
    · split
      · rfl
      · exact ih _

theorem Machine.State.hasp_ward0Off (s : State) : s.ward0Off.la.hasp = s.la.hasp := by
  unfold State.ward0Off; dsimp only; split <;> rfl

theorem Machine.State.hasp_haspTake (s : State) (h : Hasp) :
    (s.haspTake h).la.hasp = h.drive (s.la.pathOn s.g1Off 0) (s.la.pathOn s.g1Off 1) := by
  refine (State.hasp_copyRecords _ _).trans (Eq.trans ?_ (Latch.haspTake_hasp s.la h s.g1Off))
  split
  · exact State.hasp_ward0Off _
  · rfl

/-- With nothing waiting to go to the wake ring either, the Latch island alone changes. -/
theorem Machine.State.haspTake_of_idle {s : State} (hcand : s.la.cand = none) (hspool : s.la.spool = none) (hw0 : s.la.w0On = false)
    (hfifo : s.la.fifo = []) (h : Hasp) : s.haspTake h = { s with la := s.la.haspTake h s.g1Off } := by
  have hempty : (s.la.haspTake h s.g1Off).fifo = [] := by
    rw [Latch.haspTake_of_idle hcand hspool hw0]; exact hfifo
  have htake : s.haspTake h = State.drainRecords { s with la := s.la.haspTake h s.g1Off } := by
    simp [State.haspTake, hw0, State.onLa]
  rw [htake, State.drainRecords_of_empty hempty]

theorem Hasp.write_pin (h : Hasp) (v : Word) : (h.write v).pin = h.pin := by
  unfold Hasp.write; dsimp only; (repeat' split) <;> rfl

theorem Hasp.write_pinChanged (h : Hasp) (v : Word) : (h.write v).pinChanged = h.pinChanged := by
  unfold Hasp.write; dsimp only; (repeat' split) <;> rfl

theorem Hasp.write_settle (h : Hasp) (v : Word) : (h.write v).settle = v.toNat / 256 % 256 := by
  unfold Hasp.write; dsimp only; (repeat' split) <;> rfl

/-- A 1 mutes, a 0 unmutes unless MUTE_N is asserted (R345). -/
theorem Hasp.write_mute (h : Hasp) (v : Word) : (h.write v).mute = (v.getLsbD 0 || (h.pin && h.mute)) := by
  unfold Hasp.write
  cases hv : v.getLsbD 0 <;> cases hp : h.pin <;> simp

theorem Hasp.write_unmuteRefused (h : Hasp) (v : Word) :
    (h.write v).unmuteRefused = (h.unmuteRefused || (!v.getLsbD 0 && h.pin)) := by
  unfold Hasp.write
  cases hv : v.getLsbD 0 <;> cases hp : h.pin <;> simp

theorem Machine.State.hasp_muteWrite (s : State) (v : Word) :
    (s.muteWrite v).la.hasp = (s.la.hasp.write v).drive (s.la.pathOn s.g1Off 0) (s.la.pathOn s.g1Off 1) := s.hasp_haspTake _

/-- An edge of MUTE_N, also while the Latch island is in reset (R345). -/
theorem Machine.State.muteLevel_inputs {s : State} {asserted : Bool} (h : s.la.hasp.pin ≠ asserted) :
    (s.muteLevel asserted).la.hasp.pin = asserted ∧ (s.muteLevel asserted).la.hasp.mute = (s.la.hasp.mute || asserted) := by
  unfold State.muteLevel
  split
  · exact ⟨rfl, rfl⟩
  · rw [State.muteEdge, if_neg h, State.wakeFrom_la, State.hasp_haspTake]
    exact ⟨rfl, rfl⟩

theorem Machine.State.hasp_reply (s : State) (req : List Byte) (status : Nat) (payload : List Byte) :
    (s.reply req status payload).la.hasp = s.la.hasp := rfl

/-- A known request of the right length, with its command named. -/
theorem Machine.State.mbx_of_cmd {s : State} {bytes : List Byte} {k : Nat} (hup : s.CardUp) (hcmd : (mbxCmd (mbxPad bytes)).1 = k) :
    s.mbx k bytes = s.mbxDo (mbxPad bytes) := by
  rw [State.mbx, if_neg (not_not.2 hcmd), State.viaSdio_up _ _ hup.1 hup.2]

theorem Machine.State.mbxDo_mute {s : State} {req : List Byte} (h : mbxCmd req = (2, 1)) :
    s.mbxDo req = s.mbxMute req (mbxPayload req) := by
  rw [State.mbxDo, h]; rfl

/-- MUTE with 0: HASP_CTL is written with the settle time it holds. -/
theorem Machine.State.mbxMute_zero {s : State} {req p : List Byte} (h : leNat p = 0) :
    s.mbxMute req p = (s.muteWrite (BitVec.ofNat 32 (256 * s.la.hasp.settle))).reply req (if s.la.hasp.pin then 2 else 0)
      (leBytes 4 (s.muteWrite (BitVec.ofNat 32 (256 * s.la.hasp.settle))).la.hasp.status.toNat) := by
  simp [State.mbxMute, h]

theorem getLsbD_zero_settle (b n : Nat) : (BitVec.ofNat 32 (b + 256 * n)).getLsbD 0 = decide (b % 2 = 1) := by
  rw [BitVec.getLsbD_ofNat, Nat.testBit_zero]
  simp only [Nat.zero_lt_succ, decide_true, Bool.true_and, decide_eq_decide]
  omega

/-- Settles O38: the inputs of the hasp after each command. -/
theorem muteFollowsThePin : Obligations.MuteFollowsThePin := by
  refine ⟨?assert, ?refused, ?deassert, ?unmute, ?mailbox, by decide⟩
  case assert =>
    intro s hpin
    obtain ⟨hp, hm⟩ := State.muteLevel_inputs (s := s) (asserted := true) (by rw [hpin]; decide)
    exact ⟨_, rfl, hp, hm.trans (Bool.or_true _)⟩
  case refused =>
    intro s v hup hpin hv
    refine ⟨_, next_hostLatch rfl hup, ?_, ?_⟩
    · rw [State.hasp_muteWrite]
      exact (Hasp.write_mute _ v).trans (by rw [hpin, hv]; rfl)
    · rw [State.hasp_muteWrite]
      exact (Hasp.write_unmuteRefused _ v).trans (by rw [hpin, hv]; exact Bool.or_true _)
  case deassert =>
    intro s hpin
    obtain ⟨hp, hm⟩ := State.muteLevel_inputs (s := s) (asserted := false) (by rw [hpin]; decide)
    exact ⟨_, rfl, hp, hm.trans (Bool.or_false _)⟩
  case unmute =>
    intro s v hup hpin hv
    refine ⟨_, next_hostLatch rfl hup, ?_, ?_⟩
    · rw [State.hasp_muteWrite]
      exact (Hasp.write_mute _ v).trans (by rw [hpin, hv]; rfl)
    · rw [State.hasp_muteWrite]
      exact (Hasp.write_unmuteRefused _ v).trans (by rw [hpin, hv]; exact Bool.or_false _)
  case mailbox =>
    intro s bytes hup hpin hcmd hval
    refine ⟨_, rfl, ?_⟩
    rw [State.mbx_of_cmd hup (congrArg Prod.fst hcmd), State.mbxDo_mute hcmd, State.mbxMute_zero hval, State.hasp_reply,
      State.hasp_muteWrite]
    refine (Hasp.write_mute _ _).trans ?_
    rw [hpin, ← Nat.zero_add (256 * _), getLsbD_zero_settle]; rfl

/-- The model records an edge of MUTE_N in LAST_WAKE as a further wake source, 7, while a wake is held for recovery (R384). -/
theorem muteNAssert_of_wakeHeld :
    ∃ t, exec .muteNAssert wakeAwaitingRecovery = .next t ∧ t.mn.fld F.LAST_WAKE_also = 0x40 :=
  ⟨_, rfl, by decide⟩

/-- Refutes O39: its second clause has an edge of MUTE_N change the Latch island alone. While a wake is held for recovery no sleep
sequence is busy and the Warden runs, and the edge is flagged in LAST_WAKE.also besides. -/
theorem not_theHaspMutes : ¬ Obligations.TheHaspMutes := by
  rintro ⟨-, hassert, -⟩
  obtain ⟨a, hclaim, -⟩ :=
    hassert wakeAwaitingRecovery (by decide) (by decide) (by decide) (by decide) (by decide) (by decide) (by decide) (by decide)
  obtain ⟨t, hmodel, hflag⟩ := muteNAssert_of_wakeHeld
  have hsame : { wakeAwaitingRecovery with la := a } = t := Host.Outcome.next.inj (hclaim.symm.trans hmodel)
  have hclear : t.mn.fld F.LAST_WAKE_also = 0 := hsame ▸ (by decide : wakeAwaitingRecovery.mn.fld F.LAST_WAKE_also = 0)
  rw [hclear] at hflag
  exact absurd hflag (by decide)

end Sys2Proof
end

section
/-! SUPPORT AND PROOF. How wake candidates end (spec/15_listening.md R334, R336 to R338): fields of audio registers, a candidate that ends
asleep, the wake it begins, and the verifier image. -/

namespace Sys2Proof
open Machine

/-! ## Registers of the audio block -/

theorem Latch.word_setWord_same (a : Latch) (off : Nat) (w : Word) : (a.setWord off w).word off = w := Tab.get_put_same _ _ _ _

theorem Latch.regsBut_setWord (a : Latch) (off : Nat) (w : Word) : a.RegsBut (a.setWord off w) [off] := fun _ ho =>
  Tab.get_put_other _ _ _ _ _ fun h => ho (List.mem_singleton.2 h)

theorem Latch.regsBut_setFld (a : Latch) (f : Fld) (v : Nat) : a.RegsBut (a.setFld f v) [f.off] := a.regsBut_setWord _ _

theorem Latch.fld_setFld_of_lt (a : Latch) {f : Fld} {v : Nat} (hf : f.In) (hv : v < 2 ^ f.width) : (a.setFld f v).fld f = v := by
  rw [Latch.setFld, Latch.fld, Latch.word_setWord_same, Fld.of_into _ _ _ hf, Nat.mod_eq_of_lt hv]

/-! ## Candidates that end -/

/-- A candidate ends before it has passed stage 1: it leaves no record (R334). -/
theorem Latch.closeCand_of_stage1 {a : Latch} {c : Cand} (hc : a.cand = some c) (hst : c.st = .stage1) {outcome : Nat}
    (hout : outcome ≠ 0) (score2 wflags : Nat) :
    a.closeCand outcome score2 wflags = { a with cand := none, w0On := false, spool := none } := by
  simp only [Latch.closeCand, hc, hst, if_true, if_neg hout]

/-- A candidate past stage 1 ends: its record joins the FIFO (R338, R342). -/
theorem Latch.closeCand_of_past {a : Latch} {c : Cand} (hc : a.cand = some c) (hst : c.st ≠ .stage1) (hroom : a.fifo.length < 16)
    (outcome score2 wflags : Nat) : a.closeCand outcome score2 wflags = a.ended c outcome score2 wflags := by
  have hspool (x : Latch) : (if outcome = 0 then x else { x with spool := none })
      = { x with spool := if outcome = 0 then x.spool else none } := by split <;> rfl
  simp only [Latch.closeCand, hc, if_neg hst, hspool]
  refine (Latch.putRecord_of_room ?room _).trans rfl
  case room => exact hroom

/-- The rail of ward 0 goes off with it in S3 and S4 (R482). -/
def ResetCtl.ward0Dark (r : ResetCtl) : ResetCtl :=
  { r with enables := r.enables.filter (· != 1), pgs := r.pgs.filter (· != 1) }

theorem Machine.State.ward0Off_eq (s : State) :
    s.ward0Off = { s with la := { s.la with w0On := false }, rc := if 3 ≤ s.mn.sleepState then s.rc.ward0Dark else s.rc } := by
  by_cases hdeep : 3 ≤ s.mn.sleepState
  · rw [if_pos hdeep]; exact if_pos hdeep
  · rw [if_neg hdeep]; exact if_neg hdeep

/-- No record reaches the wake ring while the part sleeps (R343). -/
theorem Machine.State.drainRecords_asleep {s : State} (h : s.mn.sleepState ≠ 0) : s.drainRecords = s := by
  have hdma : s.ringDma = false := by simp [State.ringDma, h]
  rw [State.drainRecords]
  cases s.la.fifo.length with
  | zero => rfl
  | succ k =>
    cases hfifo : s.la.fifo with
    | nil => simp only [State.copyRecords, hfifo]
    | cons x rest => simp [State.copyRecords, hfifo, hdma]

section
variable {s : State} {c : Cand} (hc : s.la.cand = some c) (hst : c.st = .stage2) (hroom : s.la.fifo.length < 16)
include hc hst hroom

/-- A candidate at stage 2 is closed and ward 0 goes off. -/
theorem Machine.State.closed_asleep (outcome score2 : Nat) :
    (s.onLa fun a => a.closeCand outcome score2 0).ward0Off = { s with
      la := s.la.ended c outcome score2 0, rc := if 3 ≤ s.mn.sleepState then s.rc.ward0Dark else s.rc } := by
  rw [State.ward0Off_eq, State.onLa, Latch.closeCand_of_past hc (by rw [hst]; decide) hroom]
  rfl

/-- A candidate rejected, over budget or cut off by a bad granule while the part sleeps wakes nothing. -/
theorem Machine.State.endCand_asleep (hasleep : 2 ≤ s.mn.sleepState) {outcome : Nat} (hout : outcome ≠ 0) (score2 : Nat) :
    s.endCand outcome score2 0 = { s with
      la := s.la.ended c outcome score2 0, rc := if 3 ≤ s.mn.sleepState then s.rc.ward0Dark else s.rc } := by
  simp only [State.endCand, State.closed_asleep hc hst hroom, hout, false_and, if_false]
  exact State.drainRecords_asleep (by show s.mn.sleepState ≠ 0; omega)

/-- In S2 the rails stay. -/
theorem Machine.State.endCand_inS2 (hs2 : s.mn.sleepState = 2) {outcome : Nat} (hout : outcome ≠ 0) (score2 : Nat) :
    s.endCand outcome score2 0 = { s with la := s.la.ended c outcome score2 0 } := by
  rw [State.endCand_asleep hc hst hroom (by omega) hout, if_neg (by omega)]

end

/-! ## A wake begun -/

theorem ResetCtl.latchMode_of_wardenHeld {r : ResetCtl} (h : r.wardenHeld = false) : r.latchMode = false := by
  simp only [ResetCtl.wardenHeld, Bool.or_eq_false_iff] at h
  obtain ⟨⟨⟨⟨⟨hmode, -⟩, -⟩, -⟩, -⟩, -⟩ := h
  exact hmode

/-- A state of sleep is shown only where no wake is held for recovery. -/
theorem Main.wakeHeld_of_asleep {m : Main} (h : m.sleepState ≠ 0) : m.wakeHeld = false := by
  rw [Main.sleepState] at h
  exact Bool.eq_false_iff.2 fun hheld => h (if_pos hheld)

/-- A source of wakes from S1 and S2 is recorded, and the wake is under way (R384). -/
def Main.waking (m : Main) (src : Nat) : Main := (m.noteWake src m.sleepState 0).setFld F.SLEEP_STATUS_busy 1

theorem Machine.State.wakeFrom_shallow {s : State} {src : Nat} (henabled : s.mn.wakeEnabled src = true) (hheld : s.rc.wardenHeld = false)
    (hawake : s.mn.sleepState ≠ 0) (hdeep : s.mn.sleepState < 3) (hin : wakeIn src s.mn.sleepState = true)
    (hbusy : s.mn.sleepBusy = false) : s.wakeFrom src = { s with mn := s.mn.waking src } := by
  simp [State.wakeFrom, henabled, hheld, hawake, hin, hbusy, Nat.not_le.2 hdeep, Main.waking]

theorem Main.noteWake_word (m : Main) (src st aborted : Nat) :
    (m.noteWake src st aborted).word 0x300c = BitVec.ofNat 32 (src + 16 * st + 128 * aborted
      + 2 ^ 24 * if aborted = 0 then satAdd 8 (m.fld F.LAST_WAKE_count) 1 else m.fld F.LAST_WAKE_count) :=
  Main.word_setWord_same _ _ _

theorem Main.fld_lt (m : Main) (f : Fld) : m.fld f < 2 ^ f.width := Nat.mod_lt _ (by positivity)

/-- What LAST_WAKE shows of the source last found (R384). -/
theorem Main.noteWake_fields (m : Main) {src st aborted : Nat} (hsrc : src < 16) (hst : st < 8) (habort : aborted < 2) :
    (m.noteWake src st aborted).fld F.LAST_WAKE_source = src ∧ (m.noteWake src st aborted).fld F.LAST_WAKE_from_state = st
      ∧ (m.noteWake src st aborted).fld F.LAST_WAKE_aborted = aborted
      ∧ (m.noteWake src st aborted).fld F.LAST_WAKE_count
          = if aborted = 0 then satAdd 8 (m.fld F.LAST_WAKE_count) 1 else m.fld F.LAST_WAKE_count := by
  have hcount : (if aborted = 0 then satAdd 8 (m.fld F.LAST_WAKE_count) 1 else m.fld F.LAST_WAKE_count) < 256 := by
    have := m.fld_lt F.LAST_WAKE_count
    have hwidth : F.LAST_WAKE_count.width = 8 := rfl
    rw [hwidth] at this
    split
    · rw [satAdd]; omega
    · omega
  generalize hn : (if aborted = 0 then satAdd 8 (m.fld F.LAST_WAKE_count) 1 else m.fld F.LAST_WAKE_count) = n at hcount ⊢
  have hword := m.noteWake_word src st aborted
  rw [hn] at hword
  have hnat : ((m.noteWake src st aborted).word 0x300c).toNat = src + 16 * st + 128 * aborted + 2 ^ 24 * n := by
    rw [hword, BitVec.toNat_ofNat, Nat.mod_eq_of_lt (by omega)]
  have hfld (f : Fld) (hoff : f.off = 0x300c) :
      (m.noteWake src st aborted).fld f = (src + 16 * st + 128 * aborted + 2 ^ 24 * n) / 2 ^ f.lo % 2 ^ (f.hi + 1 - f.lo) := by
    rw [Main.fld, hoff, Fld.of, hnat]
  refine ⟨(hfld _ rfl).trans ?_, (hfld _ rfl).trans ?_, (hfld _ rfl).trans ?_, (hfld _ rfl).trans ?_⟩ <;>
    simp only [F.LAST_WAKE_source, F.LAST_WAKE_from_state, F.LAST_WAKE_aborted, F.LAST_WAKE_count] <;> omega

section
variable {s : State} {c : Cand} (hc : s.la.cand = some c) (hst : c.st = .stage2)
include hc hst

/-- A score that comes while ward 0 runs and the budget lasts decides by the threshold (R336). -/
theorem Machine.State.verifyScore_decides {w : Word} {q other : Nat} (hw0 : s.la.w0On = true)
    (hbudget : s.la.wake.next ≤ s.la.budgetEnd c) (hgood : s.rc.pgs.contains 1 = true) (hq : scoreQ78 w = some q) :
    s.verifyScore w other = s.endCand (if q78 (s.la.fld F.VERIFY_CFG_thresh) ≤ q78 q then 0 else 1) q 0 := by
  have hready : ¬(c.st ≠ .stage2 ∨ (!s.la.w0On) = true ∨ s.la.budgetEnd c < s.la.wake.next ∨ (!s.rc.pgs.contains 1) = true) := by
    simp [hst, hw0, List.contains_iff_mem.1 hgood, Nat.not_lt.2 hbudget]
  simp only [State.verifyScore, hc, if_neg hready, hq, Option.getD_some]

theorem Machine.State.verifyExpiry_ends (hbudget : s.la.budgetEnd c ≤ s.la.wake.next) : s.verifyExpiry = s.endCand 4 0x8000 0 := by
  simp only [State.verifyExpiry, hc]
  exact if_pos ⟨hst, hbudget⟩

theorem Machine.State.granuleFail_ends :
    s.granuleFail = (s.onLa fun a => a.setFld F.WAKE_STATUS_image_bad 1).endCand 5 0x8000 0 := by
  simp only [State.granuleFail, hc, if_pos hst]

/-- A score at the threshold in S2 drives WAKE# and begins the wake (R338). -/
theorem Machine.State.endCand_wakes (hroom : s.la.fifo.length < 16) (hs2 : s.mn.sleepState = 2) (hbusy : s.mn.sleepBusy = false)
    (hheld : s.rc.wardenHeld = false) (henabled : s.mn.wakeEnabled 6 = true) (score2 : Nat) :
    s.endCand 0 score2 0 = { s with la := { s.la.ended c 0 score2 0 with wakePin := true }, mn := s.mn.waking 6 } := by
  have hclosed := State.closed_asleep hc hst hroom 0 score2
  rw [if_neg (by omega)] at hclosed
  have hwake : State.wakeFrom { s with la := { s.la.ended c 0 score2 0 with wakePin := true } } 6
      = { s with la := { s.la.ended c 0 score2 0 with wakePin := true }, mn := s.mn.waking 6 } :=
    State.wakeFrom_shallow henabled hheld (by show s.mn.sleepState ≠ 0; omega) (by show s.mn.sleepState < 3; omega)
      (by show wakeIn 6 s.mn.sleepState = true; rw [hs2]; decide) hbusy
  have hgoes : (0 = 0) ∧ 2 ≤ s.mn.sleepState ∧ (!s.rc.latchMode) = true :=
    ⟨rfl, by omega, by rw [ResetCtl.latchMode_of_wardenHeld hheld]; rfl⟩
  have hstate : (s.mn.waking 6).sleepState ≠ 0 := by
    have : (s.mn.waking 6).fld F.SLEEP_STATUS_state = s.mn.fld F.SLEEP_STATUS_state :=
      (Main.fld_setFld_of_apart _ (by decide) _).trans (Main.fld_setWord_other _ _ _ _ (by decide))
    have hfree := Main.wakeHeld_of_asleep (m := s.mn) (by omega)
    have hshown : s.mn.sleepState = s.mn.fld F.SLEEP_STATUS_state := by
      rw [Main.sleepState, hfree]; rfl
    have hkept : (s.mn.waking 6).sleepState = (s.mn.waking 6).fld F.SLEEP_STATUS_state := by
      rw [Main.sleepState, show (s.mn.waking 6).wakeHeld = false from hfree]; rfl
    omega
  rw [State.endCand]
  dsimp only
  rw [hclosed, if_pos hgoes]
  exact (congrArg State.drainRecords hwake).trans (State.drainRecords_asleep hstate)

end

/-! ## The wake that a verdict begins -/

theorem Main.regsBut_waking (m : Main) (src : Nat) : m.RegsBut (m.waking src) [F.LAST_WAKE_source.off, F.SLEEP_STATUS_busy.off] := by
  intro o ho
  obtain ⟨hlast, hsleep⟩ : o ≠ F.LAST_WAKE_source.off ∧ o ≠ F.SLEEP_STATUS_busy.off := by simpa using ho
  exact (Main.word_setWord_other _ _ _ _ hsleep).trans (Main.word_setWord_other _ _ _ _ hlast)

theorem Main.sleepBusy_waking {m : Main} (h : m.sleepState ≠ 0) (src : Nat) : (m.waking src).sleepBusy = true := by
  have hheld : (m.waking src).wakeHeld = false := Main.wakeHeld_of_asleep (m := m) h
  have hbusy : (m.waking src).fld F.SLEEP_STATUS_busy = 1 := Main.fld_setFld_of_lt _ (by decide) (by decide)
  rw [Main.sleepBusy, hheld, Main.bit, hbusy]
  rfl

/-- A wake is recorded with its source and the state it leaves (R384). -/
theorem Main.waking_fields (m : Main) {src : Nat} (hsrc : src < 16) (hst : m.sleepState < 8) :
    (m.waking src).fld F.LAST_WAKE_source = src ∧ (m.waking src).fld F.LAST_WAKE_from_state = m.sleepState := by
  obtain ⟨hsource, hfrom, -, -⟩ := m.noteWake_fields (aborted := 0) hsrc hst (by decide)
  exact ⟨(Main.fld_setFld_of_apart _ (by decide) _).trans hsource, (Main.fld_setFld_of_apart _ (by decide) _).trans hfrom⟩

/-! ## The verifier image (R337) -/

theorem length_flatMap_words (l : List Nat) (f : Nat → Nat) : (l.flatMap fun g => leBytes 4 (f g)).length = 4 * l.length := by
  induction l with
  | nil => rfl
  | cons x l ih => rw [List.flatMap_cons, List.length_append, ih]; simp [leBytes]; omega

/-- An image and its check tail behind it read back as written. -/
theorem Mem.image_and_tail (m : Mem) (b n k : Nat) (bs tail : List Byte) (hbs : bs.length = n) (htail : tail.length = k) :
    (Mem.wrN (b + n) tail (Mem.wrN b bs m)).rdN b n = bs ∧ (Mem.wrN (b + n) tail (Mem.wrN b bs m)).rdN (b + n) k = tail := by
  subst hbs htail
  exact ⟨(Mem.rdN_wrN_out _ _ _ _ _ (.inl le_rfl)).trans (Mem.rdN_wrN _ _ _), Mem.rdN_wrN _ _ _⟩

/-- The check tail of an image of `n` bytes: a CRC for each granule (R337). -/
def checkTail (n : Nat) (bs : List Byte) : List Byte :=
  (List.range (n / 4096)).flatMap fun g => leBytes 4 (crc32c ((bs.drop (4096 * g)).take 4096))

/-- The verifier image `bs` stands in PSRAM with its check tail, and whether it is valid is shown. -/
def Latch.imaged (a : Latch) (b n : Nat) (bs : List Byte) (ok : Bool) : Latch :=
  ({ a with psram := Mem.wrN (b + n) (checkTail n bs) (Mem.wrN b bs a.psram) } : Latch).setFld F.WAKE_STATUS_image_bad (b2n (!ok))

/-- Settles O41: a candidate is closed by the window, the score, the budget or a bad granule, and asleep a verdict begins a wake. -/
theorem candidatesAreDecided : Obligations.CandidatesAreDecided := by
  refine ⟨fun s c hup hc hst hpast => ?_, fun s c w q hup hc hst hw0 hbudget hgood hq hlow hroom hasleep => ?_,
    fun s c w q hup hc hst hw0 hbudget hgood hq hpass hroom hs2 hbusy hheld henabled => ?_,
    fun s c hup hc hst hbudget hroom hs2 => ?_, fun s c hup hc hst hroom hs2 => ?_,
    fun s aux b n src bs hup hb hn hpos hfit hsrc hbs => ?_⟩
  · have hexec := next_latch (c := .kwWindowExpiry) (f := fun s => s.kwExpiry) rfl hup
    refine ⟨_, hexec.trans ?_, rfl⟩
    simp only [State.kwExpiry, hc]
    rw [if_pos ⟨hst, hpast⟩, State.onLa, Latch.closeCand_of_stage1 hc hst (by decide)]
  · rw [next_latch (c := .verifyScore w) (f := fun s => s.scored w) rfl hup, State.scored,
      State.verifyScore_decides hc hst hw0 hbudget hgood hq, if_neg (not_le.2 hlow),
      State.endCand_asleep hc hst hroom hasleep (by decide)]
    rfl
  · refine ⟨_, next_latch (c := .verifyScore w) (f := fun s => s.scored w) rfl hup, ?_⟩
    rw [State.scored, State.verifyScore_decides hc hst hw0 hbudget hgood hq, if_pos hpass,
      State.endCand_wakes hc hst hroom hs2 hbusy hheld henabled]
    obtain ⟨hsource, hfrom⟩ := s.mn.waking_fields (src := 6) (by decide) (by omega)
    exact ⟨rfl, rfl, Main.sleepBusy_waking (by omega) 6, hsource, hfrom.trans hs2, s.mn.regsBut_waking 6⟩
  · rw [next_latch (c := .verifyBudgetExpiry) (f := fun s => s.verifyExpiry) rfl hup, State.verifyExpiry_ends hc hst hbudget,
      State.endCand_inS2 hc hst hroom hs2 (by decide)]
  · rw [next_latch (c := .verifierGranuleFail) (f := fun s => s.granuleFail) rfl hup, State.granuleFail_ends hc hst,
      State.endCand_inS2 (s := s.onLa fun a => a.setFld F.WAKE_STATUS_image_bad 1) hc hst hroom hs2 (by decide)]
    rfl
  · have hexec := next_hostLatch (c := .verifyLoad aux false) (f := fun s => if s.mn.sleepState = 0 then s.verifyLoad aux false else s) rfl hup
    rw [if_pos hup.2] at hexec
    have hload : ¬(false = true ∨ s.la.fld F.VERIFY_BASE_length * 0x10000 = 0
        ∨ (!s.la.psramOk (s.la.fld F.VERIFY_BASE_base * 0x10000) (s.la.fld F.VERIFY_BASE_length * 0x10000)) = true) := by
      rw [← hb, ← hn, hfit]; simp; omega
    have hbytes : bs.length = n := by rw [hbs]; exact Mem.rdN_length _ _ _
    have hloaded : s.verifyLoad aux false = s.onLa fun a => a.imaged b n bs (s.verifierOk bs aux) := by
      simp only [State.verifyLoad]
      rw [if_neg hload, ← hb, ← hn, ← hsrc, ← hbs]
      rfl
    obtain ⟨himage, htail⟩ := Mem.image_and_tail s.la.psram b n (n / 1024) bs (checkTail n bs) hbytes
      (by rw [checkTail, length_flatMap_words, List.length_range]; omega)
    exact ⟨s.la.imaged b n bs (s.verifierOk bs aux), hexec.trans (congrArg _ hloaded), rfl, Latch.regsBut_setFld _ _ _,
      Latch.fld_setFld_of_lt _ ⟨by decide, by decide⟩ (b2n_lt _), himage, htail⟩

end Sys2Proof
end

section
/-! SUPPORT AND PROOF. Audio frames (spec/15_listening.md R326 to R335): what 10 ms of audio does to a part that listens and streams
nothing, and what stages 0 and 1 make of it. -/

namespace Sys2Proof
open Machine

/-! ## The pre-roll ring (R331) -/

/-- A pair of samples as the pre-roll ring holds it. -/
def pairBytes (p : Nat × Nat) : List Byte := leBytes 4 (ext24 p.1) ++ leBytes 4 (ext24 p.2)

theorem length_pairBytes (p : Nat × Nat) : (pairBytes p).length = 8 := rfl

/-- The pre-roll ring after `k` pairs of a frame whose first has sample number `n`. -/
def prerolled (pairs : List (Nat × Nat)) (n k : Nat) (m : Mem) : Mem :=
  (List.range k).foldl (fun m i => Mem.wrN ((n + i) % 40000 * 8) (pairBytes (pairs.getD i (0, 0))) m) m

theorem prerolled_succ (pairs : List (Nat × Nat)) (n k : Nat) (m : Mem) :
    prerolled pairs n (k + 1) m = Mem.wrN ((n + k) % 40000 * 8) (pairBytes (pairs.getD k (0, 0))) (prerolled pairs n k m) := by
  simp [prerolled, List.range_succ]

/-- Every pair of a frame stands at its place: the ring holds more pairs than a frame has. -/
theorem rdN_prerolled (pairs : List (Nat × Nat)) (n : Nat) {k : Nat} (hk : k ≤ 40000) (m : Mem) {i : Nat} (hi : i < k) :
    (prerolled pairs n k m).rdN ((n + i) % 40000 * 8) 8 = pairBytes (pairs.getD i (0, 0)) := by
  induction k with
  | zero => omega
  | succ k ih =>
    rw [prerolled_succ]
    by_cases hlast : i = k
    · subst hlast; exact Mem.rdN_wrN _ _ _
    · rw [Mem.rdN_wrN_out _ _ _ _ _ (by rw [length_pairBytes]; omega)]
      exact ih (by omega) (by omega)

/-- Nothing else of the ring changes. -/
theorem rd_prerolled_out (pairs : List (Nat × Nat)) (n k : Nat) (m : Mem) {x : Nat} (hx : ∀ i < k, x / 8 ≠ (n + i) % 40000) :
    (prerolled pairs n k m).rd x = m.rd x := by
  induction k with
  | zero => rfl
  | succ k ih =>
    have hk := hx k (by omega)
    rw [prerolled_succ, Mem.rd_wrN_out _ _ _ _ (by rw [length_pairBytes]; omega)]
    exact ih fun i hi => hx i (by omega)

/-! ## 10 ms of audio -/

theorem AStream.push_of_stopped {st : AStream} (h : st.running = false) (cap limit num : Nat) (muted spool : Bool) (set : List Nat) :
    AStream.push cap limit num muted spool set st = st := by
  simp [AStream.push, h]

/-- The Latch island after a frame's samples, with nothing streamed or spooled (R330, R331). -/
def Latch.sampled (a : Latch) (pairs : List (Nat × Nat)) : Latch :=
  { a with
    g0 := { a.g0 with ran := true, next := sampleAdd a.g0.next (if a.bit (F.PDM_GRP_rate 0) then 480 else 160) }
    wake := { a.wake with ran := true, next := sampleAdd a.wake.next 160 }
    quiet := a.quiet.take 250, preroll := prerolled pairs a.wake.next 160 a.preroll }

/-- A gap is no mark for a stream that does not run. -/
theorem AStream.gap_of_stopped {x : AStream} (h : x.running = false) (g : Bool) :
    ({ x with gap := x.gap || (x.running && g) } : AStream) = x := by
  cases x; simp_all

theorem AStream.mark_of_stopped {x : AStream} (h : x.running = false) : ({ x with gap := x.gap || x.running } : AStream) = x := by
  cases x; simp_all

/-- Group 0's sample sets pass a capture stream that does not run (R330). -/
theorem Latch.groupFrame_of_stopped {a : Latch} (h : a.cap0.running = false) (sets : List (List Nat)) :
    a.groupFrame 0 sets = { a with
      g0 := { a.g0 with ran := true, next := sampleAdd a.g0.next (if a.bit (F.PDM_GRP_rate 0) then 480 else 160) } } := by
  have hpush (f : Nat → List Nat) (cap limit n : Nat) (muted : Bool) (num : Nat → Nat) :
      (List.range n).foldl (fun st i => AStream.push cap limit (num i) muted false (f i) st) a.cap0 = a.cap0 :=
    List.foldl_fixed' (fun i => AStream.push_of_stopped h _ _ _ _ _ _) _
  simp only [Latch.groupFrame, if_true, AStream.gap_of_stopped h, hpush, ite_self]
  simp only [h, Bool.not_false, Bool.and_true]

/-- One pair of a frame: into the pre-roll ring, and to what streams or spools (R331, R332). -/
def Latch.takeStep (pairs : List (Nat × Nat)) (n : Nat) (muted silent : Bool) (a : Latch) (i : Nat) : Latch :=
  let pair := if silent then (0, 0) else ((pairs.getD i (0, 0)).1, (pairs.getD i (0, 0)).2)
  let a := { a with preroll := Mem.wrN (sampleAdd n i % 40000 * 8) (leBytes 4 (ext24 pair.1) ++ leBytes 4 (ext24 pair.2)) a.preroll }
  if a.stream.running || a.sdio.stream.running || a.spool.isSome then
    a.takePair (sampleAdd n i) muted (ext24 pair.1) (ext24 pair.2) else a

/-- The streams that run are marked with the pause before the frame (R330). -/
def Latch.gapMarked (a : Latch) : Latch :=
  if a.wake.gap then { a with
      stream := { a.stream with gap := a.stream.gap || a.stream.running }
      sdio := { a.sdio with stream := { a.sdio.stream with gap := a.sdio.stream.gap || a.sdio.stream.running } } } else a

/-- The wake pair's sample numbers advance at a frame's end. -/
def Latch.frameEnd (a : Latch) (muted : Bool) (n : Nat) (gap : Bool) : Latch :=
  { a with
    quiet := (if muted then n / 160 :: a.quiet else a.quiet).take 250
    wake := { ran := true, next := sampleAdd n 160, gap := gap && !(a.stream.running || a.sdio.stream.running) } }

theorem Latch.wakeSamples_eq (a : Latch) (pairs : List (Nat × Nat)) :
    a.wakeSamples pairs = (Latch.frameEnd ((List.range 160).foldl
      (Latch.takeStep pairs a.wake.next a.hasp.muted (a.hasp.muted || a.settle0)) a.gapMarked) a.hasp.muted a.wake.next a.wake.gap).pumpAll := by
  delta Latch.wakeSamples Latch.takeStep Latch.gapMarked Latch.frameEnd
  with_reducible rfl

theorem Latch.pumpAll_of_unspooled {a : Latch} (h : a.spool = none) : a.pumpAll = a := by
  simp [Latch.pumpAll, Latch.pump, h]

section
variable {a : Latch} (hstream : a.stream.running = false) (hsdio : a.sdio.stream.running = false)
include hstream hsdio

theorem Latch.gapMarked_of_idle : a.gapMarked = a := by
  unfold Latch.gapMarked
  dsimp only
  rw [AStream.mark_of_stopped hstream, AStream.mark_of_stopped hsdio]
  exact ite_self _

/-- A frame's pairs go to the pre-roll ring alone while nothing streams and nothing is spooled. -/
theorem Latch.takeSteps_of_idle (hspool : a.spool = none) (pairs : List (Nat × Nat)) {n k : Nat} (hnext : n + k < 2 ^ 48) :
    (List.range k).foldl (Latch.takeStep pairs n false false) a = { a with preroll := prerolled pairs n k a.preroll } := by
  induction k with
  | zero => rfl
  | succ k ih =>
    rw [List.range_succ, List.foldl_append, ih (by omega), prerolled_succ]
    have hnum : sampleAdd n k = n + k := Nat.mod_eq_of_lt (by omega)
    simp [Latch.takeStep, hstream, hsdio, hspool, hnum, pairBytes]

/-- The wake pair's samples go to the pre-roll ring alone (R331). -/
theorem Latch.wakeSamples_of_idle (hmuted : a.hasp.muted = false) (hsettled : a.settle0 = false) (hspool : a.spool = none)
    (hnext : a.wake.next + 160 < 2 ^ 48) (pairs : List (Nat × Nat)) :
    a.wakeSamples pairs = { a with
      wake := { a.wake with ran := true, next := sampleAdd a.wake.next 160 }
      quiet := a.quiet.take 250, preroll := prerolled pairs a.wake.next 160 a.preroll } := by
  have hsilent : (a.hasp.muted || a.settle0) = false := by rw [hmuted, hsettled]; rfl
  rw [Latch.wakeSamples_eq, hsilent, hmuted, Latch.gapMarked_of_idle hstream hsdio,
    Latch.takeSteps_of_idle hstream hsdio hspool pairs hnext]
  simp only [Latch.frameEnd, hstream, hsdio, Bool.or_self, Bool.not_false, Bool.and_true, Bool.false_eq_true, if_false]
  exact Latch.pumpAll_of_unspooled (by exact hspool)

end

/-- What stages 0 and 1 make of a frame of a part that listens (R333, R334). -/
def Latch.judgedFrame (a : Latch) (pairs : List (Nat × Nat)) (voice : Bool) (scores : List (Nat × Nat)) : Latch :=
  Latch.stage1 scores ((a.sampled pairs).stage0 (a.wake.next / 160) voice)

theorem Latch.pathOn_of_wakeOn {a : Latch} (h : a.wakeOn = true) (off : Bool) : a.pathOn off 0 = true := by
  simp only [Latch.wakeOn, Latch.pathOn, Bool.and_eq_true] at h ⊢
  obtain ⟨-, ⟨hon, -⟩⟩ := h
  exact ⟨hon, by simp⟩

/-- 10 ms of audio while the part listens. -/
theorem Machine.State.samples_of_listening {s : State} (h : s.Listening) (pairs : List (Nat × Nat)) (g0 : List (List Nat)) :
    (s.la.groupFrame 0 g0).wakeSamples pairs = s.la.sampled pairs := by
  obtain ⟨-, -, -, hmuted, hsettled, hstream, hsdio, hcap, hspool, hnext⟩ := h
  rw [Latch.groupFrame_of_stopped hcap]
  rw [Latch.wakeSamples_of_idle]
  · simp only [Latch.sampled]
  all_goals assumption

section
variable {s : State} (h : s.Listening) {pairs : List (Nat × Nat)} {voice : Bool} {scores : List (Nat × Nat)}
  (hsdio : (s.la.judgedFrame pairs voice scores).sdio = s.la.sdio)
include h hsdio

/-- The Latch island of a part that listens, after a frame: nothing is flagged for function 2. -/
theorem Machine.State.wakeFrame_eq (g0 g1 : List (List Nat)) :
    s.wakeFrame pairs g0 g1 voice scores =
      (((s.la.judgedFrame pairs voice scores).cand.filter fun c =>
          c.st == .verdict && !(s.la.cand.map fun c => decide (c.st = .verdict)).getD false).map fun c =>
        State.passed { s with la := s.la.judgedFrame pairs voice scores } c).getD { s with la := s.la.judgedFrame pairs voice scores } := by
  have hsamples := State.samples_of_listening h pairs g0
  obtain ⟨-, hwake, hpath1, -, -, -, -, hcap, -, -⟩ := h
  have hflag : State.flagBlocks { s with la := s.la.judgedFrame pairs voice scores } s.la.sdio.stream.full.length
      = { s with la := s.la.judgedFrame pairs voice scores } := by
    rw [State.flagBlocks, if_neg]
    show ¬s.la.sdio.stream.full.length < (s.la.judgedFrame pairs voice scores).sdio.stream.full.length
    rw [hsdio]; exact lt_irrefl _
  have hgroup := Latch.groupFrame_of_stopped hcap g0
  have hpath1' : (s.la.groupFrame 0 g0).pathOn s.g1Off 1 = false := by rw [hgroup]; exact hpath1
  have hwake' : (s.la.groupFrame 0 g0).wakeOn = true := by rw [hgroup]; exact hwake
  have hnext : (s.la.groupFrame 0 g0).wake = s.la.wake := by rw [hgroup]
  simp only [State.wakeFrame, Latch.pathOn_of_wakeOn hwake, if_true, hpath1', hwake', hnext, hsamples, Bool.false_eq_true, if_false]
  rw [← Latch.judgedFrame, hflag]
  cases (s.la.judgedFrame pairs voice scores).cand with
  | none => rfl
  | some c =>
    by_cases hv : c.st = .verdict ∧ (!(s.la.cand.map fun c => decide (c.st = .verdict)).getD false) = true
    · simp [hv, Option.filter]
    · simp only [if_neg hv, Option.filter]
      rw [if_neg (by simpa using hv)]
      rfl

/-- No verdict comes of the frame. -/
theorem Machine.State.wakeFrame_quiet (g0 g1 : List (List Nat))
    (hno : ∀ c, (s.la.judgedFrame pairs voice scores).cand = some c → c.st ≠ .verdict) :
    s.wakeFrame pairs g0 g1 voice scores = { s with la := s.la.judgedFrame pairs voice scores } := by
  rw [State.wakeFrame_eq h hsdio]
  cases hc : (s.la.judgedFrame pairs voice scores).cand with
  | none => rfl
  | some c => simp [Option.filter, hno c hc]

/-- The candidate passes stage 1 with the frame. -/
theorem Machine.State.wakeFrame_passes (g0 g1 : List (List Nat)) {c c' : Cand} (hc : s.la.cand = some c) (hst : c.st = .stage1)
    (hc' : (s.la.judgedFrame pairs voice scores).cand = some c') (hst' : c'.st = .verdict) :
    s.wakeFrame pairs g0 g1 voice scores = State.passed { s with la := s.la.judgedFrame pairs voice scores } c' := by
  rw [State.wakeFrame_eq h hsdio, hc', hc]
  simp [Option.filter, hst, hst']

end

/-! ## Stage 0 (R333) -/

section
variable {a : Latch} (hmuted : a.hasp.muted = false) (hsettled : a.settle0 = false) (pairs : List (Nat × Nat)) {voice : Bool}
include hmuted hsettled

/-- Too few voiced frames raise nothing. -/
theorem Latch.stage0_of_few (hfew : ((a.judgedNext voice).filter (·.2)).length < a.vldMin) :
    (a.sampled pairs).stage0 (a.wake.next / 160) voice = { a.sampled pairs with judged := a.judgedNext voice } := by
  have hvoice : (voice && !(a.sampled pairs).hasp.muted && !(a.sampled pairs).settle0) = voice := by
    show (voice && !a.hasp.muted && !a.settle0) = voice
    rw [hmuted, hsettled]; simp
  simp only [Latch.stage0, hvoice]
  exact if_pos hfew

/-- Enough voiced frames raise a candidate, whose audio begins where R333 says. -/
theorem Latch.stage0_raises {h : List Nat} {start : Nat} (hcand : a.cand = none) (hroom : a.fifo.length < 16)
    (hh : h = ((a.judgedNext voice).filter (·.2)).map (·.1)) (hmin : a.vldMin ≤ h.length)
    (hstart : start = max (max (h.foldl min (a.wake.next / 160) * 160 - a.fld F.VLD_CFG_lookback * 160)
      ((a.wake.next / 160 + 1) * 160 - 40000)) ((a.prevLast.map (· + 1)).getD 0)) :
    (a.sampled pairs).stage0 (a.wake.next / 160) voice = { a.sampled pairs with
      judged := a.judgedNext voice
      cand := some { number := a.candNext, first := start, next := start / 160, rep := start }
      candNext := (a.candNext + 1) % 2 ^ 32 } := by
  have hvoice : (voice && !(a.sampled pairs).hasp.muted && !(a.sampled pairs).settle0) = voice := by
    show (voice && !a.hasp.muted && !a.settle0) = voice
    rw [hmuted, hsettled]; simp
  have hmany : ¬((a.judgedNext voice).filter (·.2)).length < a.vldMin := by
    rw [hh, List.length_map] at hmin; exact not_lt.2 hmin
  have hfree : ¬(a.cand.isSome = true ∨ (16 ≤ a.fifo.length ∧ a.fifo.all (fun r => r.outcome == 0) = true)) := by
    rw [hcand]; simp; omega
  have hlast (x : Nat) : (match a.prevLast with | some l => max x (l + 1) | none => x) = max x ((a.prevLast.map (· + 1)).getD 0) := by
    cases a.prevLast <;> simp
  simp only [Latch.stage0, hvoice]
  refine (if_neg hmany).trans ((if_neg hfree).trans ?_)
  subst hh hstart
  rw [← hlast]
  rfl

end

/-! ## Stage 1 (R334) -/

theorem Latch.stage1_of_none {a : Latch} (h : a.cand = none) (scores : List (Nat × Nat)) : Latch.stage1 scores a = a := by
  cases scores with
  | nil => rfl
  | cons x rest => simp only [Latch.stage1, h]

/-- A candidate that has passed stage 1 with its score (R334). -/
def Cand.passedWith (c : Cand) (score rep : Nat) : Cand :=
  { c with st := .verdict, rep := max c.first rep, last := c.next * 160 + 159, score1 := score % 2 ^ 16 }

theorem Latch.stage1_passes {a : Latch} {c : Cand} {score rep : Nat} (hc : a.cand = some c) (hst : c.st = .stage1)
    (himage : a.image.isSome = true) (hdue : c.next < a.wake.next / 160) (hopen : c.next < c.first / 160 + a.kwWindow)
    (hpass : q78 (a.fld F.KW_CFG_thresh) ≤ q78 score) :
    Latch.stage1 [(score, rep)] a = { a with cand := some (c.passedWith score rep) } := by
  have htaken : ¬(c.st ≠ .stage1 ∨ a.image.isNone = true ∨ a.wake.next / 160 ≤ c.next ∨ c.first / 160 + a.kwWindow ≤ c.next) := by
    rw [Option.isNone_eq_false_iff.2 himage]; simp [hst]; omega
  simp only [Latch.stage1, hc, if_neg htaken, if_pos hpass]
  rfl

/-! ## A pass while the part is awake (R335) -/

theorem Main.sleepState_swing (m : Main) (h : Nat) : (m.swing h).sleepState = m.sleepState := by
  have hstate : (m.swing h).fld F.SLEEP_STATUS_state = m.fld F.SLEEP_STATUS_state := Main.fld_setFld_other _ _ _ _ (by decide)
  rw [Main.sleepState, Main.sleepState, hstate]
  rfl

/-- In hardware mode a pass is decided at once. -/
theorem Machine.State.awakePass_hardware {s : State} (hoff : s.mn.fld F.HINGE_CTL_assist = 0) (c : Cand) :
    s.awakePass c = State.endCand { s with mn := s.mn.swing 6 } 0 0x8000 0 := by
  simp [State.awakePass, Main.assisted_swing_off 6 hoff]

/-- A pass awake in hardware mode, without a spool, ends as stage 3 (R335, Table 15-2). -/
theorem Machine.State.passed_awake {s : State} (hawake : s.mn.sleepState = 0) (hmode : s.rc.latchMode = false)
    (hoff : s.mn.fld F.HINGE_CTL_assist = 0) (hpairs : s.la.spoolPairs = 0) (hroom : s.la.fifo.length < 16)
    (hio2 : s.la.sdio.io2 = true) {c : Cand} (hst : c.st = .verdict) :
    s.passed c = { s with mn := s.mn.swing 6, la := { s.la with spool := none }.ended { c with state := 0 } 0 0x8000 0 } := by
  have hstate (a : Latch) : State.passState { s with la := a } = 0 := by
    show (if s.rc.latchMode then 5 else s.mn.sleepState) = 0
    rw [hmode, hawake]; rfl
  have hspool : ({ s.la with cand := some { c with state := 0 } } : Latch).startSpool c.first
      = { s.la with cand := some { c with state := 0 }, spool := none } := by
    have hpairs' : ({ s.la with cand := some { c with state := 0 } } : Latch).spoolPairs = 0 := hpairs
    simp [Latch.startSpool, hpairs']
  have hawake6 : (s.mn.swing 6).sleepState = 0 := (Main.sleepState_swing _ _).trans hawake
  have hend := State.endCand_awake (s := { s with
    mn := s.mn.swing 6, la := { s.la with cand := some { c with state := 0 }, spool := none } }) hawake6 rfl hst hroom hio2 0 0x8000 0
  have hpass := State.awakePass_hardware (s := { s with la := { s.la with cand := some { c with state := 0 }, spool := none } }) hoff
    { c with state := 0 }
  simp only [State.passed, State.onLa, show s.passState = 0 from hstate s.la, hspool, hstate]
  exact hpass.trans hend

/-! ## Groups and clocks (R326, R488) -/

/-- A bit as a number is what remains of a division by two. -/
theorem mod_two_eq_b2n (n : Nat) : n % 2 = b2n (decide (n % 2 = 1)) := by
  by_cases h : n % 2 = 1
  · rw [decide_eq_true h]
    exact h
  · rw [decide_eq_false h]
    exact Nat.mod_two_ne_one.1 h

/-- PDM_GRPg written to a group that is off, with a decimation in range (R326). -/
theorem Latch.pdmWrite_accepts {a : Latch} {g : Nat} {v : Word} (hoff : a.bit (F.PDM_GRP_enable g) = false)
    (hd : if v.getLsbD 1 then 22 ≤ v.toNat / 4 % 2 ^ 9 ∧ v.toNat / 4 % 2 ^ 9 ≤ 100 else 64 ≤ v.toNat / 4 % 2 ^ 9 ∧ v.toNat / 4 % 2 ^ 9 ≤ 300)
    (off : Bool) : a.pdmWrite g v off = (a.setWord (0xa010 + 4 * g) (v &&& 0xffff07ff#32)).redrive off := by
  have hdecim : (F.PDM_GRP_decim g).of v = v.toNat / 4 % 2 ^ 9 := rfl
  have hrate : (F.PDM_GRP_rate g).of v = b2n (v.getLsbD 1) := by
    show v.toNat / 2 ^ 1 % 2 ^ 1 = _
    rw [← BitVec.testBit_toNat, Nat.testBit_eq_decide_div_mod_eq]
    exact mod_two_eq_b2n _
  simp only [Latch.pdmWrite, hdecim, hrate, hoff]
  cases hr : v.getLsbD 1 <;> simp_all [b2n]

/-- With AUD_CLK stopped no path runs (R488). -/
theorem Latch.paths_of_stopped {a : Latch} (h : a.audStop = true) (off : Bool) :
    a.pathOn off 0 = false ∧ a.pathOn off 1 = false ∧ a.wakeOn = false := by
  simp [Latch.wakeOn, Latch.pathOn, h]

/-- Otherwise each group's path runs as it is enabled, group 1's not in S3, S4 and Latch mode (R329). -/
theorem Latch.paths_of_running {a : Latch} (h : a.audStop = false) (off : Bool) :
    a.pathOn off 0 = a.bit (F.PDM_GRP_enable 0) ∧ a.pathOn off 1 = (a.bit (F.PDM_GRP_enable 1) && !off) := by
  simp [Latch.pathOn, h]

theorem Latch.redrive_of_stopped {a : Latch} (h : a.audStop = true) (off : Bool) :
    (a.redrive off).hasp.clk0 = false ∧ (a.redrive off).hasp.clk1 = false ∧ (a.redrive off).g0.ran = false
      ∧ (a.redrive off).g1.ran = false ∧ (a.redrive off).wake.ran = false := by
  obtain ⟨hpath0, hpath1, hwake⟩ := Latch.paths_of_stopped h off
  simp [Latch.redrive, Hasp.drive, hpath0, hpath1, hwake]

/-- Settles O40: a frame goes through the samples, stage 0 and stage 1, and a pass awake ends as stage 3. -/
theorem framesAreHeard : Obligations.FramesAreHeard := by
  refine ⟨fun s g v d hup hoff hd hrange => ?_, fun s g hup => ?_, fun s hup => ?_, fun s hup => ?_,
    fun s pairs g0 g1 voice scores n hlisten hcand hfew hn => ?_,
    fun s pairs g0 g1 voice h start hlisten hcand hroom hh hmin hstart => ?_,
    fun s pairs g0 g1 voice score rep c hlisten hc hst hfew himage hdue hopen hpass hpairs hroom hio2 hawake hmode hoff => ?_⟩
  · subst hd
    have hword := Latch.pdmWrite_accepts hoff hrange s.g1Off
    have hexec := next_hostLatch (c := .pdmGrpWrite g v) (f := fun s => s.onLa fun a => a.pdmWrite g.val v s.g1Off) rfl hup
    rw [State.onLa, hword] at hexec
    exact ⟨_, hexec, Latch.redriven_redrive s.la s.la.hasp _ _ _ _ _, Latch.regsBut_setWord _ _ _, Latch.word_setWord_same _ _ _,
      rfl, rfl, rfl, rfl, rfl, rfl, rfl⟩
  · refine ⟨_, next_latch (c := .decimatorSettleEnd g) (f := fun s => s.settleEnd g.val) rfl hup, ?_⟩
    match g with
    | 0 => simp
    | 1 => simp
  · refine ⟨_, next_latch (c := .audClkStop) (f := fun s => s.audClk true) rfl hup,
      Latch.redriven_redrive s.la s.la.hasp s.la.regs true s.la.preroll s.la.quiet s.g1Off, rfl, rfl, ?_⟩
    obtain ⟨hclk0, hclk1, hran0, hran1, hwake⟩ := Latch.redrive_of_stopped (a := { s.la with audStop := true }) rfl s.g1Off
    exact ⟨hclk0, hclk1, rfl, rfl, rfl, hran0, hran1, hwake⟩
  · refine ⟨_, next_latch (c := .audClkReturn) (f := fun s => s.audClk false) rfl hup,
      Latch.redriven_redrive s.la s.la.hasp s.la.regs false s.la.preroll s.la.quiet s.g1Off, rfl, rfl, rfl, rfl, rfl, ?_⟩
    obtain ⟨hpath0, hpath1⟩ := Latch.paths_of_running (a := { s.la with audStop := false }) rfl s.g1Off
    exact ⟨congrArg (_ && ·) hpath0, (congrArg (_ && ·) hpath1).trans (Bool.and_assoc _ _ _).symm⟩
  · subst hn
    obtain ⟨hup, -, -, hmuted, hsettled, -⟩ := id hlisten
    have hheard : s.la.judgedFrame pairs voice scores = { s.la.sampled pairs with judged := s.la.judgedNext voice } := by
      rw [Latch.judgedFrame, Latch.stage0_of_few hmuted hsettled pairs hfew]
      exact Latch.stage1_of_none (a := { s.la.sampled pairs with judged := _ }) hcand _
    have hframe := State.wakeFrame_quiet hlisten (by rw [hheard]; rfl) g0 g1 (by rw [hheard]; simp [Latch.sampled, hcand])
    refine ⟨_, (next_latch (c := .wakeFrame pairs g0 g1 voice scores) rfl hup).trans (congrArg _ hframe), ?_⟩
    rw [hheard]
    exact ⟨rfl, fun i hi => rdN_prerolled _ _ (by decide) _ hi, fun x hx => rd_prerolled_out _ _ _ _ hx⟩
  · obtain ⟨hup, -, -, hmuted, hsettled, -⟩ := id hlisten
    have hheard := Latch.stage0_raises hmuted hsettled pairs hcand hroom hh hmin hstart
    have hframe := State.wakeFrame_quiet (scores := []) hlisten (by rw [Latch.judgedFrame, hheard]; rfl) g0 g1
      (by rw [Latch.judgedFrame, hheard]; rintro _ ⟨⟩; exact (by decide : CandSt.stage1 ≠ .verdict))
    refine ⟨_, (next_latch (c := .wakeFrame pairs g0 g1 voice []) rfl hup).trans (congrArg _ hframe), ?_⟩
    rw [Latch.judgedFrame, hheard]
    rfl
  · obtain ⟨hup, -, -, hmuted, hsettled, -, -, -, -, hnumber⟩ := id hlisten
    have hheard : s.la.judgedFrame pairs voice [(score, rep)]
        = { s.la.sampled pairs with judged := s.la.judgedNext voice, cand := some (c.passedWith score rep) } := by
      rw [Latch.judgedFrame, Latch.stage0_of_few hmuted hsettled pairs hfew]
      have hnext : sampleAdd s.la.wake.next 160 = s.la.wake.next + 160 := Nat.mod_eq_of_lt hnumber
      exact Latch.stage1_passes (a := { s.la.sampled pairs with judged := _ }) hc hst himage
        (by show c.next < sampleAdd s.la.wake.next 160 / 160; omega) hopen hpass
    have hframe := State.wakeFrame_passes hlisten (by rw [hheard]; rfl) g0 g1 hc hst (by rw [hheard]) (rfl : (c.passedWith score rep).st = _)
    have hpassed := State.passed_awake (s := { s with la := s.la.judgedFrame pairs voice [(score, rep)] }) hawake hmode hoff
      (by rw [hheard]; exact hpairs) (by rw [hheard]; exact hroom) (by rw [hheard]; exact hio2) (rfl : (c.passedWith score rep).st = _)
    have hexec := next_latch (c := .wakeFrame pairs g0 g1 voice [(score, rep)])
      (f := fun s => s.wakeFrame pairs g0 g1 voice [(score, rep)]) rfl hup
    rw [hframe, hpassed, hheard] at hexec
    refine ⟨_, hexec, rfl, Main.regsBut_setFld s.mn _ _, rfl, rfl, ?_⟩
    simp [Latch.ended, Latch.recordFor, Cand.passedWith, Latch.sampled, Latch.bit, Latch.fld, Latch.word]

end Sys2Proof
end

section
/-! SUPPORT AND PROOF. Resets of warm class (spec/18_reset.md R388 to R392, R396 to R398, R405): which register words they keep
(Table 18-7), the state they leave, and the obligations about RESET_N and the other sources. -/

namespace Sys2Proof
open Machine

/-! ## Tables gone through entry by entry -/

/-- A table in which every entry of number `k` is what the number reads as. -/
def Tab.Sole {α : Type} (d : Nat → α) (t : Tab α) (k : Nat) : Prop := ∀ p ∈ t, p.1 = k → p.2 = Tab.get d t k

theorem Tab.sole_of_nodup {α : Type} (d : Nat → α) {t : Tab α} (h : (t.map (·.1)).Nodup) (k : Nat) : Tab.Sole d t k :=
  fun _ hp hk => hk ▸ (Tab.get_of_mem d h hp).symm

section
variable {α : Type} [DecidableEq α] (d : Nat → α) (f : Nat → α → α)

/-- A table rebuilt by writing an image of each entry. -/
def Tab.rebuilt (t : Tab α) : Tab α := t.foldl (fun u p => Tab.put d p.1 (f p.1 p.2) u) []

/-- What a rebuilt table reads is the default or the image of an entry. -/
theorem Tab.get_rebuilt_mem (t : Tab α) (k : Nat) :
    Tab.get d (Tab.rebuilt d f t) k = d k ∧ k ∉ t.map (·.1)
      ∨ ∃ p ∈ t, p.1 = k ∧ Tab.get d (Tab.rebuilt d f t) k = f k p.2 := by
  induction t using List.reverseRecOn with
  | nil => exact .inl ⟨rfl, by simp⟩
  | append_singleton t p ih =>
    have hstep : Tab.rebuilt d f (t ++ [p]) = Tab.put d p.1 (f p.1 p.2) (Tab.rebuilt d f t) := by
      simp [Tab.rebuilt, List.foldl_append]
    rw [hstep]
    by_cases hp : k = p.1
    · subst hp
      exact .inr ⟨p, by simp, rfl, Tab.get_put_same _ _ _ _⟩
    · rw [Tab.get_put_other _ _ _ _ _ hp]
      rcases ih with ⟨hget, hk⟩ | ⟨q, hq, hqk, hget⟩
      · exact .inl ⟨hget, by simp_all⟩
      · exact .inr ⟨q, by simp [hq], hqk, hget⟩

/-- A property of the default and of every image of a number holds of what a rebuilt table reads. -/
theorem Tab.get_rebuilt_of_forall {P : α → Prop} (t : Tab α) (k : Nat) (hd : P (d k)) (hf : ∀ v, P (f k v)) :
    P (Tab.get d (Tab.rebuilt d f t) k) := by
  rcases Tab.get_rebuilt_mem d f t k with ⟨h, -⟩ | ⟨p, -, -, h⟩
  · exact h ▸ hd
  · exact h ▸ hf p.2

/-- The entries of a number that all agree read as their image. -/
theorem Tab.get_rebuilt_of_sole {t : Tab α} {k : Nat} (h : Tab.Sole d t k) (hd : f k (d k) = d k) :
    Tab.get d (Tab.rebuilt d f t) k = f k (Tab.get d t k) := by
  rcases Tab.get_rebuilt_mem d f t k with ⟨hget, hk⟩ | ⟨p, hp, hpk, hget⟩
  · rcases Tab.get_mem_or_default d t k with hmem | hdef
    · exact absurd (List.mem_map.2 ⟨_, hmem, rfl⟩) hk
    · rw [hget, hdef, hd]
  · rw [hget, h p hp hpk]

end

/-! ## What a warm reset keeps of the registers (Table 18-7) -/

theorem keptRegs_eq (t : Tab Word) : keptRegs t = Tab.rebuilt regReset keptWord t := rfl

/-- Registers outside the blocks that Table 18-7 names are reset. -/
def ResetByWarm (o : Nat) : Prop := (0x1000 ≤ o ∧ o < 0x3000 ∨ 0x5000 ≤ o) ∧ o ∉ [0xd000, 0xd008, 0xe000, 0xe004]

/-- Registers of the power and reset blocks that a warm reset keeps whole. -/
def KeptByWarm (o : Nat) : Prop := 0x3000 ≤ o ∧ o < 0x5000 ∧ o ∉ [0x4014, 0x4020]

theorem keptWord_of_reset {o : Nat} (h : ResetByWarm o) (w : Word) : keptWord o w = regReset o := by
  obtain ⟨hrange, hout⟩ := h
  simp only [List.mem_cons, List.not_mem_nil, or_false, not_or] at hout
  obtain ⟨h0, h1, h2, h3⟩ := hout
  simp only [keptWord]
  rw [if_neg (by omega), if_neg (by omega), if_neg (by omega), if_neg (by omega), if_neg (by omega), if_neg h2, if_neg h3]

theorem keptWord_of_kept {o : Nat} (h : KeptByWarm o) (w : Word) : keptWord o w = w := by
  obtain ⟨hlow, hhigh, hout⟩ := h
  simp only [List.mem_cons, List.not_mem_nil, or_false, not_or] at hout
  obtain ⟨h0, h1⟩ := hout
  simp only [keptWord]
  rw [if_neg (by omega), if_neg h0, if_neg h1, if_pos ⟨hlow, hhigh⟩]

/-- The register file after what `warmed` writes once it has reset. -/
theorem Main.word_warmed (m : Main) {o : Nat} (h : o ≠ 0x3008) (h' : o ≠ 0x9008) :
    m.warmed.word o = Tab.get regReset (keptRegs m.regs) o :=
  (Main.word_setWord_other _ _ _ _ h').trans ((Main.word_setWord_other _ _ _ _ h).trans (Main.word_setWord_other _ _ _ _ h))

theorem Main.word_warmed_of_reset (m : Main) {o : Nat} (h : ResetByWarm o) (h' : o ≠ 0x9008) : m.warmed.word o = regReset o := by
  rw [Main.word_warmed m (by obtain ⟨hrange, -⟩ := h; omega) h', keptRegs_eq]
  exact Tab.get_rebuilt_of_forall (P := (· = regReset o)) _ _ _ _ rfl fun w => keptWord_of_reset h w

theorem Main.word_warmed_of_kept {m : Main} {o : Nat} (h : KeptByWarm o) (h' : o ≠ 0x3008) (hsole : Tab.Sole regReset m.regs o) :
    m.warmed.word o = m.word o := by
  rw [Main.word_warmed m h' (by obtain ⟨-, hhigh, -⟩ := h; omega), keptRegs_eq,
    Tab.get_rebuilt_of_sole _ _ hsole (keptWord_of_kept h _), keptWord_of_kept h]
  rfl

theorem Main.wakeHeld_warmed (m : Main) : m.warmed.wakeHeld = false := rfl

theorem Main.sleepState_warmed (m : Main) : m.warmed.sleepState = 0 := by
  have hstate : m.warmed.fld F.SLEEP_STATUS_state = 0 :=
    (Main.fld_setFld_other _ _ _ _ (by decide)).trans ((Main.fld_setFld_of_apart _ (by decide) _).trans
      (Main.fld_setFld_of_lt _ (by decide) (by decide)))
  rw [Main.sleepState, Main.wakeHeld_warmed, hstate]
  exact if_neg (by decide)

theorem Main.sleepBusy_warmed (m : Main) : m.warmed.sleepBusy = false := by
  have hbusy : m.warmed.fld F.SLEEP_STATUS_busy = 0 :=
    (Main.fld_setFld_other _ _ _ _ (by decide)).trans (Main.fld_setFld_of_lt _ (by decide) (by decide))
  rw [Main.sleepBusy, Main.bit, hbusy]
  exact Bool.and_false _

/-- ERR_CTL.latch_after is kept (R446). -/
theorem Main.latchAfter_warmed {m : Main} (h : Tab.Sole regReset m.regs 0xe000) : m.warmed.latchAfter = m.latchAfter := by
  have hreset : keptWord 0xe000 (regReset 0xe000) = regReset 0xe000 := by decide
  have hword : m.warmed.word 0xe000 = keptWord 0xe000 (m.word 0xe000) := by
    rw [Main.word_warmed m (by decide) (by decide), keptRegs_eq, Tab.get_rebuilt_of_sole _ _ h hreset]; rfl
  have hfld : m.warmed.fld F.ERR_CTL_latch_after = m.fld F.ERR_CTL_latch_after := by
    show F.ERR_CTL_latch_after.of (m.warmed.word 0xe000) = _
    rw [hword]
    exact (Fld.of_into _ _ _ (by constructor <;> decide)).trans (Nat.mod_eq_of_lt (m.fld_lt F.ERR_CTL_latch_after))
  rw [Main.latchAfter, hfld]; rfl

/-! ## RESET_CAUSE (Table 18-11) -/

theorem Main.noteReset_fields (m : Main) {cls cause isl : Nat} (hcls : cls < 4) (hcause : cause < 16) (hisl : isl < 256) :
    (m.noteReset cls cause isl).fld F.RESET_CAUSE_class = cls ∧ (m.noteReset cls cause isl).fld F.RESET_CAUSE_cause = cause
      ∧ (m.noteReset cls cause isl).fld F.RESET_CAUSE_island = isl := by
  unfold Main.noteReset
  refine ⟨?_, ?_, ?_⟩
  · rw [Main.fld_setFld_of_apart _ (by decide), Main.fld_setFld_of_lt _ (by decide) hcls]
  · rw [Main.fld_setFld_of_apart _ (by decide), Main.fld_setFld_of_apart _ (by decide), Main.fld_setFld_of_apart _ (by decide),
      Main.fld_setFld_of_lt _ (by decide) hcause]
  · rw [Main.fld_setFld_of_apart _ (by decide), Main.fld_setFld_of_apart _ (by decide), Main.fld_setFld_of_lt _ (by decide) hisl]

theorem Main.word_noteReset_other (m : Main) (cls cause isl : Nat) {o : Nat} (h : o ≠ 0x4000) :
    (m.noteReset cls cause isl).word o = m.word o := by
  have hstep (n : Main) (f : Fld) (v : Nat) (hf : o ≠ f.off) : (n.setFld f v).word o = n.word o := Main.word_setWord_other _ _ _ _ hf
  unfold Main.noteReset
  rw [hstep _ _ _ h, hstep _ _ _ h, hstep _ _ _ h, hstep _ _ _ h]

theorem Main.word_of_regs {m n : Main} (h : n.regs = m.regs) (o : Nat) : n.word o = m.word o := by
  unfold Main.word; rw [h]

theorem Main.fld_of_regs {m n : Main} (h : n.regs = m.regs) (f : Fld) : n.fld f = m.fld f := congrArg f.of (Main.word_of_regs h _)

theorem Main.OnlyRegs.eq {m n : Main} (h : m.OnlyRegs n) : n = { m with regs := n.regs } := by
  obtain ⟨g, rfl⟩ := h; rfl

theorem Main.OnlyRegs.wakeHeld {m n : Main} (h : m.OnlyRegs n) : n.wakeHeld = m.wakeHeld := by
  obtain ⟨g, rfl⟩ := h; rfl

theorem Main.onlyRegs_noteReset (m : Main) (cls cause isl : Nat) : m.OnlyRegs (m.noteReset cls cause isl) :=
  (((Main.OnlyRegs.refl.setFld _ _).setFld _ _).setFld _ _).setFld _ _

/-- The Warden's side once a warm reset has begun. -/
def Main.warmStarted (m : Main) (cause isl run : Nat) : Main :=
  (m.warmed.noteReset 1 cause isl).setFld F.ERR_STATUS_latch_run run

section
variable (m : Main) (cause isl run : Nat)

theorem Main.word_warmStarted {o : Nat} (h : o ≠ 0x4000) (h' : o ≠ 0xe004) : (m.warmStarted cause isl run).word o = m.warmed.word o :=
  (Main.word_setWord_other _ _ _ _ h').trans (Main.word_noteReset_other _ _ _ _ h)

theorem Main.fld_warmStarted (f : Fld) (h : f.off ≠ 0x4000) (h' : f.off ≠ 0xe004) :
    (m.warmStarted cause isl run).fld f = m.warmed.fld f := congrArg f.of (m.word_warmStarted cause isl run h h')

theorem Main.onlyRegs_warmStarted : m.warmed.OnlyRegs (m.warmStarted cause isl run) := (m.warmed.onlyRegs_noteReset _ _ _).setFld _ _

theorem Main.sleepState_warmStarted : (m.warmStarted cause isl run).sleepState = 0 := by
  have hheld := (m.onlyRegs_warmStarted cause isl run).wakeHeld
  rw [Main.sleepState, m.fld_warmStarted cause isl run _ (by decide) (by decide), hheld]
  exact m.sleepState_warmed

theorem Main.sleepBusy_warmStarted : (m.warmStarted cause isl run).sleepBusy = false := by
  have hheld := (m.onlyRegs_warmStarted cause isl run).wakeHeld
  rw [Main.sleepBusy, Main.bit, m.fld_warmStarted cause isl run _ (by decide) (by decide), hheld]
  exact m.sleepBusy_warmed

theorem Main.latchAfter_warmStarted (h : Tab.Sole regReset m.regs 0xe000) :
    (m.warmStarted cause isl run).latchAfter = m.latchAfter := by
  rw [← Main.latchAfter_warmed h, Main.latchAfter, m.fld_warmStarted cause isl run F.ERR_CTL_latch_after (by decide) (by decide)]
  rfl

end

/-! ## F1_INT.fwl -/

theorem Machine.State.markedFwl_markFwl {s : State} {f : State → State} (h : (f s).la.sdio.int1 = s.la.sdio.int1) :
    s.MarkedFwl (s.markFwl f) := by
  have hstatus : (s.markFwl f).fwlStatus = (f s).fwlStatus := by unfold State.markFwl; dsimp only; split <;> rfl
  unfold State.MarkedFwl
  rw [hstatus]
  unfold State.markFwl
  dsimp only
  split
  · simp [h]
  · simp [State.onLa, h]

/-- A command whose effect leaves FWL_STATUS alone marks nothing. -/
theorem Machine.State.markFwl_of_unchanged {s : State} {f : State → State} (h : (f s).fwlStatus = s.fwlStatus) : s.markFwl f = f s :=
  if_pos h

theorem Machine.State.markFwl_of_id {s : State} {f : State → State} (h : f s = s) : s.markFwl f = s :=
  (State.markFwl_of_unchanged (congrArg State.fwlStatus h)).trans h

/-- F1_INT stands apart from what the hasp and the clocks change. -/
theorem Latch.Redriven.withInt1 {a b : Latch} (h : a.Redriven b) (n : Nat) :
    Latch.Redriven { a with sdio := { a.sdio with int1 := n } } { b with sdio := { b.sdio with int1 := n } } := by
  obtain ⟨heq, hled, hpwr, h0, h1, hw⟩ := h
  exact ⟨by rw [heq], hled, hpwr, h0, h1, hw⟩

theorem Latch.redriven_redrive_self (a : Latch) (off : Bool) : a.Redriven (a.redrive off) :=
  Latch.redriven_redrive a a.hasp a.regs a.audStop a.preroll a.quiet off

/-- A state with its three sides replaced, its absent islands and its clocks brought up to date. -/
def Machine.State.restarted (s : State) (m : Main) (a : Latch) (r : ResetCtl) : State :=
  (State.sync { s with mn := m, la := a, rc := r }).redrive

section
variable (s : State) (m : Main) (a : Latch) (r : ResetCtl)

theorem Machine.State.restarted_mn : (s.restarted m a r).mn = { m with absent := (s.restarted m a r).mn.absent } := rfl

theorem Machine.State.restarted_rc : (s.restarted m a r).rc = r := rfl

theorem Machine.State.restarted_frame : s.restarted m a r
    = { s with mn := (s.restarted m a r).mn, la := (s.restarted m a r).la, rc := (s.restarted m a r).rc } := rfl

theorem Machine.State.restarted_la : a.Redriven (s.restarted m a r).la := Latch.redriven_redrive_self _ _

theorem Machine.State.restarted_sdio : (s.restarted m a r).la.sdio = a.sdio := rfl

end

/-! ## A warm reset begins -/

/-- What R440's counter shows after a warm reset. -/
def Machine.State.runAfter (s : State) (cause : Nat) (fw : Bool) : Nat :=
  if s.rc.latchMode then s.mn.latchAfter - 1
  else if countsForLatch cause fw then min 7 (s.mn.fld F.ERR_STATUS_latch_run + 1) else s.mn.fld F.ERR_STATUS_latch_run

theorem Machine.State.runAfter_lt (s : State) (cause : Nat) (fw : Bool) : s.runAfter cause fw < 8 := by
  have hrun : s.mn.fld F.ERR_STATUS_latch_run < 8 := s.mn.fld_lt _
  have hafter : s.mn.latchAfter ≤ 7 := by
    have : s.mn.fld F.ERR_CTL_latch_after < 8 := s.mn.fld_lt _
    simp only [Main.latchAfter]; split <;> omega
  unfold State.runAfter; split
  · omega
  · split <;> omega

/-- Whether every rail that reset needs is on and good. -/
def ResetCtl.railsGood (r : ResetCtl) : Bool := [0, 1, 2, 3, 4].all fun k => r.enables.contains k && r.pgs.contains k

theorem ResetCtl.railsGood_eq (r : ResetCtl) :
    ([0, 1, 2, 3, 4].all r.enables.contains && [0, 1, 2, 3, 4].all r.pgs.contains) = r.railsGood := by
  simp only [ResetCtl.railsGood, List.all_cons, List.all_nil, Bool.and_true]
  ac_rfl

/-- The reset controller once a warm reset has begun. -/
def Machine.State.warmCtl (s : State) (cause : Nat) (fw reload : Bool) (m : Main) : ResetCtl :=
  { s.rc with
    phase := if s.rc.railsGood then .stretch else .rails
    enables := if s.rc.railsGood then s.rc.enables else 0 :: 1 :: s.rc.enables.filter (2 ≤ ·)
    cls := 1, wait := [], good := [], linkHeld := true, linkUp := false, latchMode := false
    lastCause := (m.word 0x4000).toNat % 256, imem := if 3 ≤ s.mn.sleepState then none else s.rc.imem
    reload := reload, untrained := [], ready := false, fetching := false, queue := [], blk := none
    wakeBoot := false, retLost := false, fuseBad := false, perstDue := false, logDue := true
    latchDue := !s.rc.latchMode && countsForLatch cause fw && decide (m.latchAfter ≤ s.runAfter cause fw) }

theorem Machine.State.beginReset_warm (s : State) (cause isl : Nat) (fw reload : Bool) :
    s.beginReset 1 cause isl fw reload = s.restarted (s.mn.warmStarted cause isl (s.runAfter cause fw)) s.la.wardenLost
      (s.warmCtl cause fw reload (s.mn.warmStarted cause isl (s.runAfter cause fw))) := by
  have hrun : (if s.rc.latchMode = true then s.mn.latchAfter - 1
      else if (!s.rc.latchMode && countsForLatch cause fw) = true then min 7 (s.mn.fld F.ERR_STATUS_latch_run + 1)
      else s.mn.fld F.ERR_STATUS_latch_run) = s.runAfter cause fw := by
    unfold State.runAfter
    cases s.rc.latchMode <;> rfl
  have hcls : ((1 : Nat) == 2) = false := rfl
  unfold State.beginReset
  simp only [beq_self_eq_true, hcls, Bool.and_true, Bool.true_and, Bool.and_false, hrun, ResetCtl.railsGood_eq]
  simp only [if_neg (by decide : ¬(1 : Nat) = 2), if_true, decide_eq_true_eq]
  rfl

/-- A register that the host-assisted commands flag apart, a command that restarts the part: its three sides. -/
theorem Machine.State.markFwl_restarted {s u : State} {f : State → State} {m : Main} {a : Latch} {r : ResetCtl}
    (hf : f s = u.restarted m a r) :
    s.markFwl f = { u with mn := (s.markFwl f).mn, la := (s.markFwl f).la, rc := (s.markFwl f).rc }
      ∧ (s.markFwl f).mn = { m with absent := (s.markFwl f).mn.absent } ∧ (s.markFwl f).rc = r
      ∧ Latch.Redriven { a with sdio := { a.sdio with int1 := (s.markFwl f).la.sdio.int1 } } (s.markFwl f).la := by
  refine ⟨?_, ?_, ?_, ?_⟩
  · unfold State.markFwl
    dsimp only
    rw [hf]
    split <;> rfl
  · rw [State.markFwl_mn, hf, ← State.restarted_mn]
  · rw [State.markFwl_rc, hf, State.restarted_rc]
  · rw [State.markFwl_la, hf]
    exact (u.restarted_la m a r).withInt1 _

theorem Main.warmed_frame (m : Main) :
    m.warmed = { regs := m.warmed.regs, host := m.host, msgs := m.msgs, fence := m.keptFence, wards := m.warmed.wards
                 err := { next := m.err.next, window := m.err.window }, lz := { sent := m.lz.sent } } := rfl

/-- Every reset of warm class leaves what Table 18-7 says. -/
theorem Machine.State.warmReset_of_beginReset {s u : State} {f : State → State} {cause isl : Nat} {fw reload : Bool}
    (hf : f s = u.beginReset 1 cause isl fw reload) (hmn : u.mn = s.mn) (hla : u.la = s.la) (hcause : cause < 16) (hisl : isl < 256) :
    u.WarmReset (s.markFwl f) cause isl fw reload := by
  rw [State.beginReset_warm] at hf
  obtain ⟨hframe, hm, hr, ha⟩ := State.markFwl_restarted hf
  have hint : (f s).la.sdio.int1 = s.la.sdio.int1 := by rw [hf, State.restarted_sdio, ← hla]; rfl
  have hmark := State.markedFwl_markFwl hint
  generalize s.markFwl f = t at hframe hm hr ha hmark ⊢
  have hmark' : u.MarkedFwl t := by rw [State.MarkedFwl, State.fwlStatus, State.fwlStatus, hmn, hla]; exact hmark
  generalize hrun : u.runAfter cause fw = run at hm hr
  have hrunlt := u.runAfter_lt cause fw
  have hwarm := u.mn.onlyRegs_warmStarted cause isl run
  have hregs : t.mn.regs = (u.mn.warmStarted cause isl run).regs := by rw [hm]
  have hword (o : Nat) (h : o ≠ 0x4000) (h' : o ≠ 0xe004) : t.mn.word o = u.mn.warmed.word o :=
    (Main.word_of_regs hregs o).trans (u.mn.word_warmStarted cause isl run h h')
  obtain ⟨hclass, hcauses, hislands⟩ := u.mn.warmed.noteReset_fields (cls := 1) (by decide) hcause hisl
  have hnote (g : Fld) (hg : g.off = 0x4000) : t.mn.fld g = (u.mn.warmed.noteReset 1 cause isl).fld g :=
    (Main.fld_of_regs hregs g).trans (Main.fld_setFld_other _ _ _ _ (by rw [hg]; decide))
  have hheld : t.mn.wakeHeld = false := by
    have hsame : t.mn.wakeHeld = (u.mn.warmStarted cause isl run).wakeHeld := by rw [hm]
    rw [hsame, hwarm.wakeHeld]
    exact u.mn.wakeHeld_warmed
  refine ⟨hframe, ?_, fun o hrange hout => ?_, fun hnodup o hlow hhigh hout => ?_, (hnote _ rfl).trans hclass, (hnote _ rfl).trans hcauses,
    (hnote _ rfl).trans hislands, ?_, ?_, ?_, ha, hmark', ?_, fun hnodup => ?_⟩
  · have hframe := Main.warmed_frame u.mn
    clear hword hf
    generalize u.mn.warmStarted cause isl run = w at hm hwarm
    generalize u.mn.warmed = x at hwarm hframe
    obtain ⟨g, rfl⟩ := hwarm
    rw [hm, hframe]
  · simp only [List.mem_cons, List.not_mem_nil, or_false, not_or] at hout
    obtain ⟨hpin, hconf, hsec, hctl, hstatus⟩ := hout
    rw [hword o (by omega) hstatus]
    exact Main.word_warmed_of_reset _ ⟨hrange, by simp only [List.mem_cons, List.not_mem_nil, or_false, not_or]; exact ⟨hconf, hsec, hctl, hstatus⟩⟩ hpin
  · simp only [List.mem_cons, List.not_mem_nil, or_false, not_or] at hout
    obtain ⟨hsleep, hcause0, hlast, hboot⟩ := hout
    rw [hword o hcause0 (by omega)]
    exact Main.word_warmed_of_kept ⟨hlow, hhigh, by simp [hlast, hboot]⟩ hsleep (Tab.sole_of_nodup _ hnodup _)
  · rw [Main.sleepState, hheld, Main.fld_of_regs hregs]
    have := u.mn.sleepState_warmStarted cause isl run
    rw [Main.sleepState, hwarm.wakeHeld, Main.wakeHeld_warmed] at this
    exact this
  · rw [Main.sleepBusy, Main.bit, hheld, Main.fld_of_regs hregs]
    have := u.mn.sleepBusy_warmStarted cause isl run
    rw [Main.sleepBusy, Main.bit, hwarm.wakeHeld, Main.wakeHeld_warmed] at this
    exact this
  · rw [Main.fld_of_regs hregs]
    refine (Main.fld_setFld_of_lt _ (by decide) (hrun ▸ hrunlt)).trans hrun.symm
  · rw [hr, State.warmCtl, Main.word_of_regs hregs]
    rfl
  · have hafter := u.mn.latchAfter_warmStarted cause isl run (Tab.sole_of_nodup _ hnodup _)
    rw [hr, State.warmCtl]
    simp only [Bool.and_eq_true, Bool.not_eq_true', decide_eq_true_eq, and_assoc, hafter, State.runAfter]
    refine and_congr_right fun hmode => and_congr_right fun hcounts => ?_
    rw [hmode, hcounts]
    rfl

theorem Machine.State.takeReset_run {s : State} (h : s.rc.phase = .run) (cls cause isl : Nat) (fw reload : Bool) :
    s.takeReset cls cause isl fw reload = s.beginReset cls cause isl fw reload := by
  simp only [State.takeReset, h]

/-- During a stretch a reset of the same class does not begin another (R392). -/
theorem Machine.State.takeReset_stretch {s : State} (h : s.rc.phase = .stretch) {cls : Nat} (hcls : cls ≤ s.rc.cls) (cause isl : Nat)
    (fw reload : Bool) : s.takeReset cls cause isl fw reload = s := by
  simp only [State.takeReset, h, if_pos hcls]

/-- A command whose effect is a source of warm class while the part runs. -/
theorem Machine.State.warmReset_of_takeReset {s : State} {f : State → State} {cause isl : Nat} {fw reload : Bool}
    (hphase : s.rc.phase = .run) (hcause : cause < 16) (hisl : isl < 256) (hf : f s = s.takeReset 1 cause isl fw reload) :
    s.WarmReset (s.markFwl f) cause isl fw reload :=
  State.warmReset_of_beginReset (hf.trans (State.takeReset_run hphase ..)) rfl rfl hcause hisl

/-! ## RESET_N (R391) -/

theorem Machine.State.resetN_long {s : State} {us : Nat} (h : 10 ≤ us) :
    s.resetN us = if s.rc.phase != .stretch then s.takeReset 1 3 0 false false else s := by
  simp [State.resetN, h, Nat.not_lt.2 h]

theorem Machine.State.resetN_short {s : State} {us : Nat} (h : us < 1) : s.resetN us = s := by
  simp [State.resetN, show us = 0 by omega]

/-- Between 1 and 10 µs a free choice takes the low or not. -/
theorem Machine.State.resetN_between {s : State} {us : Nat} (hlow : 1 ≤ us) (hhigh : us < 10) (hphase : s.rc.phase = .run) :
    s.resetN us = { s with free := s.free + 1 } ∨ s.resetN us = State.takeReset { s with free := s.free + 1 } 1 3 0 false false := by
  by_cases hfree : Config.freeNat s.free % 2 = 1
  · right; simp [State.resetN, hlow, hhigh, hfree, hphase]
  · left; simp [State.resetN, hlow, hhigh, hfree, Nat.not_le.2 hhigh]

/-- Settles O55: RESET_N by the length of its low. -/
theorem resetPinIsTaken : Obligations.ResetPinIsTaken := by
  refine ⟨fun s us hus hphase => ?_, fun s us hus hphase => ?_, fun s us hus => ?_, fun s us hlow hhigh hphase => ?_⟩
  · exact ⟨_, rfl, State.warmReset_of_takeReset hphase (by decide) (by decide) (by rw [State.resetN_long hus, hphase]; rfl)⟩
  · exact congrArg _ (State.markFwl_of_id (f := fun s => s.resetN us) (by rw [State.resetN_long hus, hphase]; rfl))
  · exact congrArg _ (State.markFwl_of_id (f := fun s => s.resetN us) (State.resetN_short hus))
  · refine ⟨_, rfl, ?_⟩
    rcases State.resetN_between hlow hhigh hphase with h | h
    · exact .inl ((State.markFwl_of_unchanged (by rw [h]; rfl)).trans h)
    · refine .inr (State.warmReset_of_beginReset (u := { s with free := s.free + 1 }) (h.trans ?_) rfl rfl (by decide) (by decide))
      exact State.takeReset_run (s := { s with free := s.free + 1 }) hphase ..

/-! ## The other sources -/

/-- Settles O56: each source of warm class begins a reset while the part runs, and none while one is stretched. -/
theorem warmResetsKeepAndClear : Obligations.WarmResetsKeepAndClear := by
  refine ⟨fun s hfw hphase => ?_, fun s reload hup hphase => ?_, fun s reload hfw hphase => ?_, fun s hcfg hphase => ?_,
    fun s ev hasleep hphase hmode => ?_, fun s ev hphase hcls hasleep hmode => ?_, fun s hconf hmode hphase => ?_,
    fun s hheld hawake hphase => ⟨?_, ?_, ?_⟩, fun s k hisland hphase => ?_⟩
  · exact ⟨_, rfl, State.warmReset_of_takeReset hphase (by decide) (by decide) (if_pos hfw)⟩
  · exact ⟨_, rfl, State.warmReset_of_takeReset hphase (by decide) (by decide) (if_pos hup.1)⟩
  · exact ⟨_, rfl, State.warmReset_of_takeReset hphase (by decide) (by decide) (if_pos hfw)⟩
  · exact ⟨_, rfl, State.warmReset_of_takeReset hphase (by decide) (by decide) (if_pos hcfg)⟩
  · exact ⟨_, rfl, State.warmReset_of_takeReset hphase (by decide) (by decide) (by
      have hlive : ¬(ev = .linkDown ∧ s.rc.latchMode = true) := fun ⟨hev, hon⟩ => Bool.noConfusion ((hmode hev).symm.trans hon)
      simp [State.linkReset, hphase, Nat.not_le.2 hasleep, if_neg hlive])⟩
  · refine congrArg _ (State.markFwl_of_id (f := fun s => s.linkReset ev) ?_)
    simp [State.linkReset, hphase, hcls, hmode, Nat.not_le.2 hasleep, State.takeReset]
  · exact ⟨_, rfl, State.warmReset_of_takeReset hphase (by decide) (by decide) (by simp [State.debugReset, hconf, hmode])⟩
  · exact ⟨_, rfl, State.warmReset_of_takeReset hphase (by decide) (by decide) (by simp [State.clockFailure, hheld, hawake]; rfl)⟩
  · exact ⟨_, rfl, State.warmReset_of_takeReset hphase (by decide) (by decide) (by simp [State.clockFailure, hheld, hawake]; rfl)⟩
  · exact ⟨_, rfl, State.warmReset_of_takeReset hphase (by decide) (by decide) (by simp [State.lockUp, hheld, hawake]; rfl)⟩
  · exact ⟨_, rfl, State.warmReset_of_takeReset hphase (by decide) (by omega) (if_pos hisland)⟩

end Sys2Proof
end

section
/-! SUPPORT AND PROOF. Power-up (spec/18_reset.md R388, R390, spec/23_pins_package.md R481): what a reset of power-on class leaves, and
the rails. -/

namespace Sys2Proof
open Machine

/-! ## A reset of power-on class -/

/-- The Warden's side after power-on, before its absent islands are known. -/
def Machine.State.poweredMain (s : State) (cause : Nat) (head : Bool) : Main :=
  let m : Main := { host := s.mn.host, msgs := s.mn.msgs, lz := { sent := s.mn.lz.sent } }
  (((m.setFld F.PLEVEL_CTL_throttle_pin (s.mn.fld F.PLEVEL_CTL_throttle_pin)).setFld F.CONF_MODE_enable (b2n s.rc.fuseConf)).setFld
    F.RESET_CAUSE_cause cause).setFld F.LANIZA_STATUS_head_pin (b2n head)

section
variable (s : State) (cause : Nat) (head : Bool)

theorem Machine.State.onlyRegs_poweredMain :
    Main.OnlyRegs { host := s.mn.host, msgs := s.mn.msgs, lz := { sent := s.mn.lz.sent } } (s.poweredMain cause head) :=
  (((Main.OnlyRegs.refl.setFld _ _).setFld _ _).setFld _ _).setFld _ _

theorem Machine.State.word_poweredMain {o : Nat} (h : o ∉ [0x3000, 0x4000, 0x9008, 0xd000]) : (s.poweredMain cause head).word o = regReset o := by
  simp only [List.mem_cons, List.not_mem_nil, or_false, not_or] at h
  obtain ⟨hlevel, hcause, hpin, hconf⟩ := h
  have hstep (n : Main) (f : Fld) (v : Nat) (hf : o ≠ f.off) : (n.setFld f v).word o = n.word o := Main.word_setWord_other _ _ _ _ hf
  unfold State.poweredMain
  rw [hstep _ _ _ hpin, hstep _ _ _ hcause, hstep _ _ _ hconf, hstep _ _ _ hlevel]
  rfl

theorem Machine.State.fld_poweredMain (hcause : cause < 16) :
    (s.poweredMain cause head).fld F.CONF_MODE_enable = b2n s.rc.fuseConf
      ∧ (s.poweredMain cause head).fld F.RESET_CAUSE_cause = cause
      ∧ (s.poweredMain cause head).fld F.LANIZA_STATUS_head_pin = b2n head
      ∧ (s.poweredMain cause head).fld F.PLEVEL_CTL_throttle_pin = s.mn.fld F.PLEVEL_CTL_throttle_pin := by
  have hother (n : Main) (f g : Fld) (v : Nat) (h : g.off ≠ f.off) : (n.setFld f v).fld g = n.fld g := Main.fld_setFld_other _ _ _ _ h
  unfold State.poweredMain
  refine ⟨?_, ?_, ?_, ?_⟩
  · rw [hother _ _ _ _ (by decide), hother _ _ _ _ (by decide), Main.fld_setFld_of_lt _ (by decide) (b2n_lt _)]
  · rw [hother _ _ _ _ (by decide), Main.fld_setFld_of_lt _ (by decide) hcause]
  · rw [Main.fld_setFld_of_lt _ (by decide) (b2n_lt _)]
  · rw [hother _ _ _ _ (by decide), hother _ _ _ _ (by decide), hother _ _ _ _ (by decide),
      Main.fld_setFld_of_lt _ (by decide) (s.mn.fld_lt _)]

/-- The reset controller after power-on. -/
def Machine.State.poweredCtl : ResetCtl :=
  { phase := .rails, enables := [0, 1], pgs := [], linkHeld := true, chainHead := head
    fuseConf := s.rc.fuseConf, blown := s.rc.blown, revoked0 := s.rc.revoked0, revoked1 := s.rc.revoked1 }

theorem Machine.State.powerOn_eq : s.powerOn cause head
    = State.sync { s with mn := s.poweredMain cause head, rc := s.poweredCtl head, la := { s.la.cleared with image := none } } := rfl

end

/-- A reset of power-on class leaves what R390 says. -/
theorem Machine.State.poweredUp_of_powerOn {s : State} {f : State → State} {cause : Nat} {head : Bool} (hcause : cause < 16)
    (hf : f s = s.powerOn cause head) : s.PoweredUp (s.markFwl f) cause head := by
  rw [State.powerOn_eq] at hf
  have hmn : (s.markFwl f).mn = { s.poweredMain cause head with absent := (s.markFwl f).mn.absent } := by
    rw [State.markFwl_mn, hf]; rfl
  have hla : (s.markFwl f).la = { s.la.cleared with image := none, sdio := { int1 := (s.markFwl f).la.sdio.int1 } } := by
    rw [State.markFwl_la, hf]; rfl
  have hrc : (s.markFwl f).rc = s.poweredCtl head := by rw [State.markFwl_rc, hf]; rfl
  have hframe : s.markFwl f = { s with mn := (s.markFwl f).mn, la := (s.markFwl f).la, rc := (s.markFwl f).rc } := by
    unfold State.markFwl; dsimp only; rw [hf]; split <;> rfl
  generalize s.markFwl f = t at hmn hla hrc hframe ⊢
  have hregs : t.mn.regs = (s.poweredMain cause head).regs := by rw [hmn]
  obtain ⟨hconf, hcauses, hpin, hthrottle⟩ := s.fld_poweredMain cause head hcause
  have honly := s.onlyRegs_poweredMain cause head
  refine ⟨hframe, ?_, fun o ho => (Main.word_of_regs hregs o).trans (s.word_poweredMain cause head ho), ?_,
    (Main.fld_of_regs hregs _).trans hcauses, (Main.fld_of_regs hregs _).trans hpin, (Main.fld_of_regs hregs _).trans hthrottle, hla, hrc⟩
  · rw [hmn, honly.eq]
  · rw [Main.conf, Main.bit, Main.fld_of_regs hregs, hconf]
    cases s.rc.fuseConf <;> rfl

/-! ## Rails (R481) -/

/-- A list that gains a number unless it has it. -/
theorem contains_gained (l : List Nat) (j k : Nat) : (if l.contains j then l else l ++ [j]).contains k = (l.contains k || decide (k = j)) := by
  by_cases hj : l.contains j = true
  · rw [if_pos hj]
    by_cases hk : k = j
    · subst hk; simp_all
    · simp [hk]
  · rw [if_neg hj]
    simp

/-- The enables that the inputs now good allow (Table 23-6). -/
def allowedRails (enables pgs : List Nat) : List Nat :=
  let on := if [0, 1].all pgs.contains then [2, 3].foldl (fun l k => if l.contains k then l else l ++ [k]) enables else enables
  if [2, 3].all pgs.contains && !on.contains 4 then on ++ [4] else on

theorem contains_allowedRails (enables pgs : List Nat) (k : Nat) :
    (allowedRails enables pgs).contains k = (enables.contains k || decide (k = 2 ∨ k = 3) && [0, 1].all pgs.contains
      || decide (k = 4) && [2, 3].all pgs.contains) := by
  have hfirst (k : Nat) : (if [0, 1].all pgs.contains then [2, 3].foldl (fun l k => if l.contains k then l else l ++ [k]) enables
      else enables).contains k = (enables.contains k || decide (k = 2 ∨ k = 3) && [0, 1].all pgs.contains) := by
    cases [0, 1].all pgs.contains with
    | false => simp
    | true =>
      simp only [if_true, List.foldl_cons, List.foldl_nil, Bool.and_true, Bool.decide_or, ← Bool.or_assoc]
      exact (contains_gained _ 3 k).trans (congrArg (· || decide (k = 3)) (contains_gained enables 2 k))
  unfold allowedRails
  dsimp only
  generalize (if [0, 1].all pgs.contains then [2, 3].foldl (fun l k => if l.contains k then l else l ++ [k]) enables else enables) = on at hfirst ⊢
  rw [← hfirst]
  cases [2, 3].all pgs.contains with
  | false => simp
  | true =>
    have hgain := contains_gained on 4 k
    cases hon : on.contains 4 <;> simp_all

/-- An input that becomes good during power-up. -/
theorem Machine.State.railGood_rails {s : State} {r : Nat} (hr : r < 5) (hphase : s.rc.phase = .rails) (hon : s.rc.enables.contains r = true)
    (hbad : s.rc.pgs.contains r = false) :
    s.railGood r = { s with rc := { s.rc with
      pgs := r :: s.rc.pgs, enables := allowedRails s.rc.enables (r :: s.rc.pgs)
      phase := if [0, 1, 2, 3, 4].all (r :: s.rc.pgs).contains then .stretch else .rails } } := by
  have htaken : ¬(5 ≤ r ∨ (!s.rc.enables.contains r) = true ∨ s.rc.pgs.contains r = true) := by
    rw [hon, hbad]; simp; omega
  simp only [State.railGood, if_neg htaken, hphase, if_true]
  rfl

/-- Settles O57: power-on, the rails in order, a time-out and the wait after it. -/
theorem railsComeUpInOrder : Obligations.RailsComeUpInOrder := by
  refine ⟨fun s head => ⟨_, rfl, State.poweredUp_of_powerOn (by decide) rfl⟩, fun s sup hsup => ⟨_, rfl, ?_⟩, fun s hoff => ?_,
    fun s r hr hphase hon hbad => ?_, fun s r hno => ?_, fun s r hphase hon hbad => ?_, fun s hphase => ?_⟩
  · refine State.poweredUp_of_powerOn (by decide) ?_
    rcases hsup with rfl | ⟨hon, hgood⟩
    · rfl
    · cases sup with
      | alwaysOn => rfl
      | core => exact if_pos (by rw [hon, hgood]; rfl)
  · refine congrArg _ (State.markFwl_of_id (f := fun s => s.brownOut .core) (if_neg ?_))
    rcases hoff with h | h <;> rw [h] <;> simp
  · have hgood := State.railGood_rails hr hphase hon hbad
    exact ⟨_, congrArg _ ((State.markFwl_of_unchanged (f := fun s => s.railGood r.val) (by rw [hgood]; rfl)).trans hgood), rfl,
      fun k _ => contains_allowedRails _ _ k⟩
  · refine congrArg _ (State.markFwl_of_id (f := fun s => s.railGood r.val) (if_pos ?_))
    rcases hno with h | h | h
    · exact .inl h
    · exact .inr (.inl (by rw [h]; rfl))
    · exact .inr (.inr h)
  · have htimeout : s.railTimeout r.val = { s with rc := { s.rc with phase := .retryWait, enables := [], pgs := [] } } :=
      if_pos ⟨hphase, hon, by rw [hbad]; rfl⟩
    exact ⟨_, congrArg _ ((State.markFwl_of_unchanged (f := fun s => s.railTimeout r.val) (by rw [htimeout]; rfl)).trans htimeout), rfl⟩
  · have hretry : s.railRetry = { s with rc := { s.rc with phase := .rails, enables := [0, 1], pgs := [] } } := if_pos hphase
    exact ⟨_, congrArg _ ((State.markFwl_of_unchanged (f := fun s => s.railRetry) (by rw [hretry]; rfl)).trans hretry), rfl⟩

end Sys2Proof
end

section
/-! SUPPORT AND PROOF. Release (spec/18_reset.md R392 to R394, spec/20_faults.md R440 to R443): how far the release goes, entry to Latch
mode, a ward held for its clock, and the obligations about the release, Latch mode and block resets. -/

namespace Sys2Proof
open Machine

/-! ## How far the release goes -/

section
variable {s : State}

/-- With no detector passed no block is released. -/
theorem ResetCtl.clockOk_of_none {r : ResetCtl} (h : r.good = []) (c : Nat) : r.clockOk c = false := by
  unfold ResetCtl.clockOk
  split
  · simp [wardCodes, h]
  · simp [h]

theorem Machine.State.releaseGo_of_none (h : s.rc.turn.find? s.rc.clockOk = none) (n : Nat) : State.releaseGo n s = s := by
  cases n with
  | zero => rfl
  | succ n => simp [State.releaseGo, h]

theorem Machine.State.releaseGo_succ {c : Nat} (hphase : s.rc.phase = .release) (h : s.rc.turn.find? s.rc.clockOk = some c) (n : Nat) :
    State.releaseGo (n + 1) s = State.releaseGo n (s.releaseOne c) := by
  simp [State.releaseGo, hphase, h]

theorem Machine.State.releaseLink_of_bad (h : s.rc.good.contains 0xC1 = false) : s.releaseLink = s := by
  simp only [State.releaseLink, h, Bool.and_false, Bool.false_eq_true, if_false]

/-- A host-link controller that is released stays so. -/
theorem Machine.State.releaseLink_of_released (h : s.rc.linkHeld = false) : s.releaseLink = s := by
  have hsame : ({ s.rc with linkHeld := false } : ResetCtl) = s.rc := by rw [← h]
  unfold State.releaseLink
  rw [hsame]
  exact ite_self _

theorem Machine.State.releaseDone_of_waiting (h : s.rc.wait ≠ []) : s.releaseDone = s :=
  if_pos (.inr (by simpa using h))

/-- The release stands while no block whose turn it is has its clock. -/
theorem Machine.State.release_stands (hturn : s.rc.turn.find? s.rc.clockOk = none) (hlink : s.rc.good.contains 0xC1 = false)
    (hwait : s.rc.wait ≠ []) : s.release = s.sync.redrive := by
  rw [State.release, State.releaseGo_of_none hturn, State.releaseLink_of_bad hlink, State.releaseDone_of_waiting hwait]

/-- One block is released, and the release stands again. -/
theorem Machine.State.release_one {c : Nat} (hphase : s.rc.phase = .release) (hturn : s.rc.turn.find? s.rc.clockOk = some c)
    (hnext : (s.releaseOne c).rc.turn.find? (s.releaseOne c).rc.clockOk = none) (hlink : (s.releaseOne c).rc.good.contains 0xC1 = false)
    (hwait : (s.releaseOne c).rc.wait ≠ []) : s.release = (s.releaseOne c).sync.redrive := by
  rw [State.release, State.releaseGo_succ hphase hturn, State.releaseGo_of_none hnext, State.releaseLink_of_bad hlink,
    State.releaseDone_of_waiting hwait]

end

/-! ## Turns (Table 18-3) -/

theorem ResetCtl.turn_of_fuse {r : ResetCtl} (hlatch : r.wait.contains 0xB0 = false) (h : r.wait.contains 0xC0 = true) :
    r.turn = [0xC0] := by
  simp only [ResetCtl.turn, hlatch, h, if_true, Bool.false_eq_true, if_false]

theorem ResetCtl.turn_of_warden {r : ResetCtl} (hlatch : r.wait.contains 0xB0 = false) (hfuse : r.wait.contains 0xC0 = false)
    (h : r.wait.contains 0x90 = true) : r.turn = [0x90] := by
  simp only [ResetCtl.turn, hlatch, hfuse, h, if_true, Bool.false_eq_true, if_false]

/-- Once only wards wait, all of them have their turn. -/
theorem ResetCtl.turn_of_wards {r : ResetCtl} (h : ∀ c ∈ r.wait, 0x80 ≤ c ∧ c < 0x90) : r.turn = r.wait := by
  have hno (c : Nat) (hc : 0x90 ≤ c) : r.wait.contains c = false :=
    Bool.eq_false_iff.2 fun hin => by have := h c (List.contains_iff_mem.1 hin); omega
  have hmcs : (r.wait.filter fun c => decide (0xA0 ≤ c ∧ c < 0xB0)) = [] :=
    List.filter_eq_nil_iff.2 fun c hc => by have := h c hc; simp; omega
  simp only [ResetCtl.turn, hno 0xB0 (by decide), hno 0xC0 (by decide), hno 0x90 (by decide), hmcs, List.isEmpty_nil, if_true,
    Bool.false_eq_true, if_false]

/-- A turn is among what waits. -/
theorem ResetCtl.mem_wait_of_mem_turn {r : ResetCtl} {c : Nat} (h : c ∈ r.turn) : c ∈ r.wait := by
  unfold ResetCtl.turn at h
  dsimp only at h
  (repeat' split at h) <;> simp_all

/-- With one detector passed, no block but its own is released. -/
theorem ResetCtl.find?_turn_of_one {r : ResetCtl} {g : Nat} (hgood : r.good = [g]) (hwait : g ∉ r.wait) : r.turn.find? r.clockOk = none := by
  refine List.find?_eq_none.2 fun c hc => ?_
  have hne : c ≠ g := fun e => hwait (e ▸ ResetCtl.mem_wait_of_mem_turn hc)
  unfold ResetCtl.clockOk
  rw [hgood]
  split
  case isTrue hward => simp [wardCodes, show 0x80 + (c - 0x80) = c by omega, hne]
  case isFalse => simp [hne]

theorem ResetCtl.find?_turn_of_none {r : ResetCtl} (h : r.good = []) : r.turn.find? r.clockOk = none :=
  List.find?_eq_none.2 fun c _ => by rw [ResetCtl.clockOk_of_none h]; exact Bool.false_ne_true

/-! ## A ward fenced at a boundary (R438, R439) -/

/-- The bit of a ward in a mask that gains it. -/
theorem bit_or_pow (n v w : Nat) : ((n ||| 2 ^ w) / 2 ^ v % 2 == 1) = (n / 2 ^ v % 2 == 1 || decide (v = w)) := by
  have hbit (k : Nat) : (k / 2 ^ v % 2 == 1) = k.testBit v := by rw [Nat.testBit_eq_decide_div_mod_eq]; rfl
  rw [hbit, hbit, Nat.testBit_or, Nat.testBit_two_pow]
  by_cases h : v = w <;> simp [h, eq_comm]

/-- Only ward `w` waits to be fenced, and it stands at its boundary. -/
structure Main.FencesOnly (m : Main) (w : Nat) : Prop where
  lt : w < 16
  due : (m.ward w).fencePending = true
  others : ∀ v < 16, v ≠ w → (m.ward v).fencePending = false ∧ (m.fencedWard v = true → (m.ward v).powered = false)
  idle : m.insts = []
  lanes : ∀ l < 4, (m.lane l).st = .idle ∧ (m.lane l).saving = false
  ctxs : ∀ p ∈ m.ctxs, p.2.nextShare = none ∧ p.2.unbindPending = false ∧ p.2.pendingDrop = none ∧ p.2.pendingResync = false
  prot : m.prot.force = m.prot.written

theorem Main.laneTaking_of_idle {m : Main} (h : ∀ l < 4, (m.lane l).st = .idle ∧ (m.lane l).saving = false) (w : Nat) :
    m.laneTaking w = none := by
  refine List.find?_eq_none.2 fun l hl => ?_
  obtain ⟨hst, hsaving⟩ := h l (List.mem_range.1 hl)
  simp [hst, hsaving]

/-- The Warden's side with ward `w` fenced, its power not yet considered. -/
def Main.fencedAt (m : Main) (w : Nat) : Main :=
  { m.updWard w fun x => { x with fencePending := false } with
    fence := { m.fence with fenced := m.fence.fenced ||| 2 ^ w }, kr := { m.kr with event := true } }

theorem Main.settleFence_of_due {m : Main} {w : Nat} (h : m.FencesOnly w) : m.settleFence w = m.fencedAt w := by
  have hinst : m.instOn w = none := by rw [Main.instOn, h.idle]; rfl
  have htaking : m.laneTaking w = none := Main.laneTaking_of_idle h.lanes w
  have hquiet : m.laneQuiet w = true := by rw [Main.laneQuiet, htaking]
  have htaking' : (m.fencedAt w).laneTaking w = none := Main.laneTaking_of_idle (m := m.fencedAt w) h.lanes w
  simp only [Main.settleFence, h.due, hinst, hquiet, Option.isSome_none, Bool.not_true, Bool.or_self, Bool.false_eq_true, if_false]
  split
  next l hl => exact absurd (hl.symm.trans htaking') (Option.some_ne_none l)
  next => rfl

theorem Main.settleFence_fencedAt (m : Main) (w : Nat) : (m.fencedAt w).settleFence w = m.fencedAt w := by
  refine Main.settleFence_of_none _ w ?_
  rw [show (m.fencedAt w).ward w = { m.ward w with fencePending := false } from Main.ward_setWard_same _ _ _]

/-- A ward that is not fenced now keeps its flags when another is. -/
theorem Main.ward_fencedAt_other (m : Main) {v w : Nat} (h : v ≠ w) : (m.fencedAt w).ward v = m.ward v := Main.ward_setWard_other _ _ _ _ h

theorem Main.fencedWard_fencedAt (m : Main) (v w : Nat) : (m.fencedAt w).fencedWard v = (m.fencedWard v || decide (v = w)) :=
  bit_or_pow _ _ _

/-- A ward's power is switched off, or not: wards, absent islands and resident sets alone may change. -/
theorem Main.settlePower_frame (m : Main) (w : Nat) :
    ∃ u a k, m.settlePower w = { m with wards := u, absent := a, kr := k } := by
  unfold Main.settlePower
  split
  · exact ⟨_, _, _, rfl⟩
  · exact ⟨m.wards, m.absent, m.kr, rfl⟩

/-- A boundary at which one ward is fenced (R438, R439). -/
theorem Main.settle_of_fencing {m : Main} {w : Nat} (h : m.FencesOnly w) :
    ∃ r u a k, m.settle = { m with regs := r, wards := u, absent := a, kr := k, fence := { m.fence with fenced := m.fence.fenced ||| 2 ^ w } }
      ∧ m.RegsBut { m with regs := r } [F.HINGE_NOW_in_force.off] := by
  have hfence : (List.range 16).foldl Main.settleFence m = m.fencedAt w :=
    foldl_of_one (List.mem_range.2 h.lt) (fun v hv hne => m.settleFence_of_none v (h.others v (List.mem_range.1 hv) hne).1)
      (Main.settleFence_of_due h) fun v hv => by
        by_cases hne : v = w
        · rw [hne, Main.settleFence_fencedAt]
        · exact Main.settleFence_of_none _ v (by rw [m.ward_fencedAt_other hne]; exact (h.others v (List.mem_range.1 hv) hne).1)
  have hpower : ∃ u a k, (List.range 16).foldl Main.settlePower (m.fencedAt w) = { m.fencedAt w with wards := u, absent := a, kr := k } :=
    List.foldlRecOn (motive := fun x => ∃ u a k, x = { m.fencedAt w with wards := u, absent := a, kr := k }) _ _
      ⟨_, _, _, rfl⟩ fun x ⟨u, a, k, hx⟩ v _ => by
        obtain ⟨u', a', k', hv⟩ := x.settlePower_frame v
        exact ⟨u', a', k', by rw [hv, hx]⟩
  obtain ⟨u, a, k, hpower⟩ := hpower
  have hctxs (x : Main) (hx : x.ctxs = m.ctxs) :
      (x.ctxs.map (·.1)).foldl (fun m c => ((m.settleShare c).settleChain c).settleUnbind c) x = x :=
    List.foldlRecOn (motive := (· = x)) _ _ rfl fun y hy c hc => by
      obtain ⟨p, hp, rfl⟩ := List.mem_map.1 hc
      obtain ⟨hshare, hunbind, hdrop, hresync⟩ := h.ctxs (p.1, x.ctx p.1) (by
        rw [Main.ctx, hx]; exact Tab.get_mem ctxDef _ (hx ▸ hp))
      rw [hy, x.settleShare_of_none _ hshare, x.settleChain_of_none _ hdrop hresync, x.settleUnbind_of_none _ hunbind]
  have hsettle : m.settle = Main.settleH3 { m.fencedAt w with wards := u, absent := a, kr := k } := by
    simp only [Main.settle, hfence, hpower]
    exact (congrArg (fun x : Main => x.settleProt.settleH3) (hctxs { m.fencedAt w with wards := u, absent := a, kr := k } rfl)).trans
      (congrArg Main.settleH3 (Main.settleProt_of_same _ h.prot))
  obtain ⟨r, hr, hregs⟩ := Main.settleH3_regs { m.fencedAt w with wards := u, absent := a, kr := k }
  exact ⟨r, u, a, k, hsettle.trans hr, hregs⟩

/-- A ward to be fenced for its clock is marked and logged (R438). -/
theorem Main.fenceWard_clock {m : Main} {w : Nat} (hpending : (m.ward w).fencePending = false) (hfenced : m.fencedWard w = false) :
    ∃ d g k c, m.fenceWard w 1 = { m.updWard w fun x => { x with fencePending := true } with
        fence := { m.fence with details := d, clock := m.fence.clock ||| 2 ^ w }, err := g, strk := k, ctr := c }
      ∧ g.next = nextIndex m.err.next := by
  have hfree : ¬((m.ward w).fencePending = true ∨ m.fencedWard w = true) := by rw [hpending, hfenced]; simp
  rw [Main.fenceWard, if_neg hfree]
  dsimp only
  rw [if_pos rfl]
  obtain ⟨g, k, c, hlog, hnext⟩ := Main.logErr_eq _ _
  exact ⟨_, g, k, c, hlog, hnext⟩

/-- A ward that stays in reset for its clock is fenced at once, as it stands at a boundary (Table 18-4). -/
theorem Main.settle_fenceWard_clock {m : Main} {w : Nat} (hw : w < 16) (hquiet : m.Quiet) (hidle : m.insts = [])
    (hlanes : ∀ l < 4, (m.lane l).st = .idle ∧ (m.lane l).saving = false) (hfenced : m.fencedWard w = false) :
    ∃ r u a k d g y c, (m.fenceWard w 1).settle = { m with
        regs := r, wards := u, absent := a, kr := k, err := g, strk := y, ctr := c
        fence := { m.fence with details := d, clock := m.fence.clock ||| 2 ^ w, fenced := m.fence.fenced ||| 2 ^ w } }
      ∧ m.RegsBut { m with regs := r } [F.HINGE_NOW_in_force.off] ∧ g.next = nextIndex m.err.next := by
  obtain ⟨hwards, hctxs, hprot⟩ := hquiet
  obtain ⟨d, g, y, c, hmark, hnext⟩ := Main.fenceWard_clock (hwards w hw).1 hfenced
  have hsame : (m.updWard w fun x => { x with fencePending := true }).ward w = { m.ward w with fencePending := true } :=
    Main.ward_setWard_same _ _ _
  have hother (v : Nat) (hne : v ≠ w) : (m.updWard w fun x => { x with fencePending := true }).ward v = m.ward v :=
    Main.ward_setWard_other _ _ _ _ hne
  have honly : (m.fenceWard w 1).FencesOnly w := by
    rw [hmark]
    exact ⟨hw, congrArg Ward.fencePending hsame, fun v hv hne => hother v hne ▸ hwards v hv, hidle, hlanes, hctxs, hprot⟩
  obtain ⟨r, u, a, k, hsettle, hregs⟩ := Main.settle_of_fencing honly
  rw [hmark] at hsettle hregs
  exact ⟨r, u, a, k, d, g, y, c, by rw [hmark]; exact hsettle, hregs, hnext⟩

end Sys2Proof
end

section
/-! SUPPORT AND PROOF. Entry to Latch mode (spec/20_faults.md R440 to R442) and the obligation about the release (spec/18_reset.md R392 to
R394). -/

namespace Sys2Proof
open Machine

/-! ## Entry to Latch mode -/

theorem Tab.mem_put {α : Type} [DecidableEq α] {d : Nat → α} {k : Nat} {v : α} {t : Tab α} {p : Nat × α} (h : p ∈ Tab.put d k v t) :
    p = (k, v) ∨ p ∈ t ∧ p.1 ≠ k := by
  have hdel (h : p ∈ Tab.del k t) : p ∈ t ∧ p.1 ≠ k := ⟨(Tab.del_sublist k t).subset h, Tab.del_ne k t p h⟩
  unfold Tab.put at h
  split at h
  · exact .inr (hdel h)
  · rcases List.mem_cons.1 ((Tab.ins_perm k v _).subset h) with h | h
    · exact .inl h
    · exact .inr (hdel h)

/-- A number written stands alone in its table. -/
theorem Tab.sole_put_same {α : Type} [DecidableEq α] (d : Nat → α) (k : Nat) (v : α) (t : Tab α) : Tab.Sole d (Tab.put d k v t) k :=
  fun p hp hk => by
    rcases Tab.mem_put hp with rfl | ⟨-, hne⟩
    · exact (Tab.get_put_same d k v t).symm
    · exact absurd hk hne

theorem Tab.sole_put_other {α : Type} [DecidableEq α] {d : Nat → α} {t : Tab α} {k : Nat} (h : Tab.Sole d t k) {j : Nat} (hj : k ≠ j) (v : α) :
    Tab.Sole d (Tab.put d j v t) k := fun p hp hk => by
  rw [Tab.get_put_other d k j v t hj]
  rcases Tab.mem_put hp with rfl | ⟨hp, -⟩
  · exact absurd hk.symm hj
  · exact h p hp hk

theorem Main.sole_setFld_same (m : Main) (f : Fld) (v : Nat) : Tab.Sole regReset (m.setFld f v).regs f.off := Tab.sole_put_same _ _ _ _

theorem Main.sole_setFld_other {m : Main} {o : Nat} (h : Tab.Sole regReset m.regs o) {f : Fld} (ho : o ≠ f.off) (v : Nat) :
    Tab.Sole regReset (m.setFld f v).regs o := Tab.sole_put_other h ho _

/-- The boot stage returns to 0 (Table 18-7). -/
theorem Main.bootStage_warmed (m : Main) : m.warmed.fld F.BOOT_STATUS_stage = 0 := by
  have hin : F.BOOT_STATUS_stage.In := by constructor <;> decide
  have hword : m.warmed.word 0x4020 = Tab.get regReset (Tab.rebuilt regReset keptWord m.regs) 0x4020 := m.word_warmed (by decide) (by decide)
  show F.BOOT_STATUS_stage.of (m.warmed.word 0x4020) = 0
  rw [hword]
  exact Tab.get_rebuilt_of_forall (P := fun w => F.BOOT_STATUS_stage.of w = 0) _ _ _ _ (by decide) fun w => Fld.of_into _ 0 w hin

/-- The reset controller in Latch mode (R440 to R442). -/
def Machine.State.latchCtl (s : State) (reason : Nat) : ResetCtl :=
  { s.rc with
    latchMode := true, reason := reason, bootErr := s.mn.fld F.BOOT_STATUS_error, runAt := s.mn.fld F.ERR_STATUS_latch_run
    aer := s.rc.aer + b2n s.rc.linkUp, phase := .run, wait := [], queue := [], blk := none, ready := false
    wakeBoot := false, fetching := false, latchDue := false, logDue := false }

theorem Latch.wardenLost_of_none {a : Latch} (h : a.cand = none) : a.wardenLost = { a with w0On := false } := by
  cases a; subst h; rfl

/-- With no candidate open, entry to Latch mode restarts the part with its SDIO interrupt flagged. -/
theorem Machine.State.enterLatch_eq {s : State} (hcand : s.la.cand = none) (reason : Nat) :
    s.enterLatch reason = s.restarted s.mn.warmed
      { s.la with w0On := false, sdio := { s.la.sdio with int1 := s.la.sdio.int1 ||| 1 } } (s.latchCtl reason) := by
  have hnone : (s.restarted s.mn.warmed { s.la with w0On := false, sdio := { s.la.sdio with int1 := s.la.sdio.int1 ||| 1 } }
      (s.latchCtl reason)).la.cand = none := hcand
  unfold State.enterLatch
  rw [Latch.wardenLost_of_none hcand]
  dsimp only
  split
  next c hc => exact absurd (hc.symm.trans hnone) (Option.some_ne_none c)
  next => rfl

theorem Machine.State.markFwl_int1 (s : State) (f : State → State) :
    (s.markFwl f).la.sdio.int1 = (f s).la.sdio.int1 ∨ (s.markFwl f).la.sdio.int1 = (f s).la.sdio.int1 ||| 4 := by
  unfold State.markFwl; dsimp only; split
  · exact .inl rfl
  · exact .inr rfl

theorem bit_zero_or (n : Nat) : (n ||| 1) &&& 1 = 1 ∧ (n ||| 1 ||| 4) &&& 1 = 1 := by
  have h : n &&& 1 = 0 ∨ n &&& 1 = 1 := by rw [Nat.and_one_is_mod]; omega
  rw [Nat.and_or_distrib_right, Nat.and_or_distrib_right, Nat.and_or_distrib_right]
  rcases h with h | h <;> rw [h] <;> decide

/-- Latch mode is entered from a state that differs from `s` in registers and in how far its release had come. -/
theorem Machine.State.latchEntered_of_enterLatch {s : State} {m : Main} {p : RcPhase} {w : List Nat} {f : State → State} {reason : Nat}
    (hf : f s = State.enterLatch { s with mn := m, rc := { s.rc with phase := p, wait := w } } reason) (honly : s.mn.OnlyRegs m)
    (hcand : s.la.cand = none) (herr : m.fld F.BOOT_STATUS_error = s.mn.fld F.BOOT_STATUS_error)
    (hrun : m.fld F.ERR_STATUS_latch_run = s.mn.fld F.ERR_STATUS_latch_run) :
    s.LatchEntered (s.markFwl f) reason ∧ (s.markFwl f).mn.regs = m.warmed.regs ∧ (s.markFwl f).rc.linkHeld = s.rc.linkHeld := by
  rw [State.enterLatch_eq (s := { s with mn := m, rc := { s.rc with phase := p, wait := w } }) hcand] at hf
  obtain ⟨hframe, hm, hr, ha⟩ := State.markFwl_restarted hf
  have hint := s.markFwl_int1 f
  rw [hf, State.restarted_sdio] at hint
  generalize s.markFwl f = t at hframe hm hr ha hint ⊢
  have hregs : t.mn.regs = m.warmed.regs := by rw [hm]
  have hrc : t.rc = { s.rc with
      latchMode := true, reason := reason, bootErr := s.mn.fld F.BOOT_STATUS_error, runAt := s.mn.fld F.ERR_STATUS_latch_run
      aer := s.rc.aer + b2n s.rc.linkUp, phase := .run, wait := [], queue := [], blk := none, ready := false
      wakeBoot := false, fetching := false, latchDue := false, logDue := false } := by
    rw [hr, State.latchCtl, herr, hrun]
  have hhost : m.host = s.mn.host := by obtain ⟨g, rfl⟩ := honly; rfl
  have hlog : m.err = s.mn.err := by obtain ⟨g, rfl⟩ := honly; rfl
  refine ⟨⟨hframe, ?_, ?_, ?_, ?_, ?_, ?_, ?_, ?_, ha, ?_⟩, hregs, by rw [hrc]⟩
  · rw [hm]; exact hhost
  · rw [hm]; rfl
  · rw [hm]; rfl
  · rw [hm]; rfl
  · rw [hm, ← hlog]; rfl
  · rw [hm, ← hlog]; rfl
  · rw [Main.fld_of_regs hregs]; exact m.bootStage_warmed
  · rw [hrc]
  · rcases hint with h | h <;> rw [h]
    · exact (bit_zero_or _).1
    · exact (bit_zero_or _).2

/-! ## The release (R392 to R394) -/

theorem Machine.State.redriven_redrive (s : State) : s.la.Redriven s.redrive.la := Latch.redriven_redrive_self _ _

/-- What F1_INT.fwl follows looks at BOOT_STATUS and at what the card has sent. -/
theorem Machine.State.fwlStatus_congr {s t : State} (hstage : t.mn.fld F.BOOT_STATUS_stage = s.mn.fld F.BOOT_STATUS_stage)
    (herr : t.mn.fld F.BOOT_STATUS_error = s.mn.fld F.BOOT_STATUS_error) (hfwl : t.la.sdio.fwl = s.la.sdio.fwl) :
    t.fwlStatus = s.fwlStatus := by
  rw [State.fwlStatus, State.fwlStatus, hstage, herr, hfwl]

/-- A command under which FWL_STATUS stays as it is. -/
theorem Machine.next_markFwl {c : Instr} {s t : State} {f : State → State} (e : exec c s = .next (s.markFwl f)) (h : f s = t)
    (hs : t.fwlStatus = s.fwlStatus) : exec c s = .next t := by
  rw [e, State.markFwl_of_unchanged (h ▸ hs), h]

/-- A detector that passes (R394). -/
def ResetCtl.passed (r : ResetCtl) (isl : Island) (ok : Bool) : ResetCtl :=
  { r with
    good := if r.good.contains (clockCode isl) then r.good else clockCode isl :: r.good
    fuseBad := r.fuseBad || (isl == .fuse && !ok)
    untrained := match isl with
      | .mc k => if ok then r.untrained.filter (· != k.val) else k.val :: r.untrained.filter (· != k.val)
      | _ => r.untrained }

/-- A detector that had not passed, other than a memory controller's. -/
theorem ResetCtl.passed_of_new {r : ResetCtl} {isl : Island} (hmc : ∀ k, isl ≠ .mc k) (hnew : r.good.contains (clockCode isl) = false) :
    r.passed isl true = { r with good := clockCode isl :: r.good } := by
  have hfuse : (r.fuseBad || (isl == Island.fuse && !true)) = r.fuseBad := by simp
  cases isl with
  | mc k => exact absurd rfl (hmc k)
  | _ => simp only [ResetCtl.passed, hnew, hfuse, Bool.false_eq_true, if_false]

theorem Machine.State.clockGood_eq (s : State) (isl : Island) (ok : Bool) :
    s.clockGood isl ok = match s.rc.phase with
      | .stretch => { s with rc := s.rc.passed isl ok }
      | .release => State.release { s with rc := s.rc.passed isl ok }
      | .run => if s.rc.blk.isSome || s.rc.linkHeld then
          State.releaseLink (State.blockRelease { s with rc := { s.rc.passed isl ok with untrained := s.rc.untrained, fuseBad := s.rc.fuseBad } })
        else s
      | _ => s := rfl

/-- The state once a stretch has ended: CLK_HELD is clear, and every block waits its turn (R392, R393). -/
def Machine.State.releasing (s : State) : State :=
  { s with mn := s.mn.setWord 0x4004 0#32, rc := { s.rc with phase := .release, wait := releaseOrder s.rc.cls } }

theorem Machine.State.stretchEnd_begins {s : State} (hphase : s.rc.phase = .stretch) (hdue : s.rc.latchDue = false)
    (hmode : s.rc.latchMode = false) (hgood : s.rc.good = []) : s.stretchEnd = s.releasing.sync.redrive := by
  have hstands : s.releasing.release = s.releasing.sync.redrive :=
    State.release_stands (ResetCtl.find?_turn_of_none hgood) (by show s.rc.good.contains 0xC1 = false; rw [hgood]; rfl)
      (by simp [State.releasing, releaseOrder])
  refine Eq.trans ?_ hstands
  simp [State.stretchEnd, hphase, hdue, hmode, State.releasing]

/-- The fuses' detector passes: they are released, and the Warden waits for its own (Table 18-3). -/
theorem Machine.State.clockGood_fuse {s : State} {rest : List Nat} (hphase : s.rc.phase = .release) (hwait : s.rc.wait = 0xC0 :: rest)
    (hlatch : rest.contains 0xB0 = false) (hgood : s.rc.good = []) (hbad : s.rc.fuseBad = false) (hfuse : rest.contains 0xC0 = false)
    (hwarden : rest.contains 0x90 = true) :
    s.clockGood .fuse true = s.restarted s.mn s.la { s.rc with wait := rest, good := [0xC0] } := by
  have hpassed : s.rc.passed .fuse true = { s.rc with good := [0xC0] } := by
    rw [ResetCtl.passed_of_new (fun _ => Island.noConfusion) (by rw [hgood]; rfl), hgood]; rfl
  have hturn : ({ s.rc with good := [0xC0] } : ResetCtl).turn = [0xC0] :=
    ResetCtl.turn_of_fuse (by show s.rc.wait.contains 0xB0 = false; rw [hwait]; simpa using hlatch)
      (by show s.rc.wait.contains 0xC0 = true; rw [hwait]; simp)
  have hrest : rest.filter (· != 0xC0) = rest := by
    refine List.filter_eq_self.2 fun c hc => ?_
    have : c ≠ 0xC0 := fun e => by simp_all
    simpa using this
  have hone : State.releaseOne { s with rc := { s.rc with good := [0xC0] } } 0xC0 = { s with rc := { s.rc with wait := rest, good := [0xC0] } } := by
    simp [State.releaseOne, hwait, hrest, hbad]
  have hnext : ({ s.rc with wait := rest, good := [0xC0] } : ResetCtl).turn.find? ({ s.rc with wait := rest, good := [0xC0] } : ResetCtl).clockOk = none :=
    ResetCtl.find?_turn_of_one rfl (by simpa using hfuse)
  have hrelease := State.release_one (s := { s with rc := { s.rc with good := [0xC0] } }) (c := 0xC0) hphase
    (by show ({ s.rc with good := [0xC0] } : ResetCtl).turn.find? _ = _; rw [hturn]; rfl)
    (by rw [hone]; exact hnext) (by rw [hone]; rfl) (by rw [hone]; intro h; simp_all)
  rw [State.clockGood_eq, hphase, hpassed]
  dsimp only
  rw [hrelease, hone]
  rfl

/-- Wards and memory controllers wait behind the Warden. -/
def BehindWarden (rest : List Nat) : Prop := ∀ c ∈ rest, 0x80 ≤ c ∧ c < 0xA2 ∧ c ≠ 0x90

theorem BehindWarden.absent {rest : List Nat} (h : BehindWarden rest) {c : Nat} (hc : c < 0x80 ∨ 0xA2 ≤ c ∨ c = 0x90) : rest.contains c = false :=
  Bool.eq_false_iff.2 fun hin => by have := h c (List.contains_iff_mem.1 hin); omega

/-- The Warden's detector passes with nothing in instruction memory: an image is awaited (Tables 18-3 and 18-8). -/
theorem Machine.State.clockGood_warden {s : State} {rest : List Nat} (hphase : s.rc.phase = .release) (hwait : s.rc.wait = 0x90 :: rest)
    (hrest : rest ≠ []) (hcodes : BehindWarden rest) (hgood : s.rc.good = []) (himem : s.rc.imem = none) (hreload : s.rc.reload = false) :
    s.clockGood .warden true = s.restarted (s.mn.setFld F.BOOT_STATUS_stage 1) s.la
      { s.rc with wait := rest, good := [0x90], imem := none, fetching := false } := by
  have hpassed : s.rc.passed .warden true = { s.rc with good := [0x90] } := by
    rw [ResetCtl.passed_of_new (fun _ => Island.noConfusion) (by rw [hgood]; rfl), hgood]; rfl
  have hcontains (c : Nat) : s.rc.wait.contains c = (c == 0x90 || rest.contains c) := by rw [hwait]; exact List.contains_cons
  have hturn : ({ s.rc with good := [0x90] } : ResetCtl).turn = [0x90] :=
    ResetCtl.turn_of_warden (by show s.rc.wait.contains _ = _; rw [hcontains, hcodes.absent (by decide)]; rfl)
      (by show s.rc.wait.contains _ = _; rw [hcontains, hcodes.absent (by decide)]; rfl)
      (by show s.rc.wait.contains _ = _; rw [hcontains]; rfl)
  have hrest' : rest.filter (· != 0x90) = rest := List.filter_eq_self.2 fun c hc => by have := (hcodes c hc).2.2; simpa using this
  have hone : State.releaseOne { s with rc := { s.rc with good := [0x90] } } 0x90
      = { s with mn := s.mn.setFld F.BOOT_STATUS_stage 1, rc := { s.rc with wait := rest, good := [0x90], imem := none, fetching := false } } := by
    simp [State.releaseOne, State.bootStart, State.bootWait, hwait, hrest', himem, hreload]
  have hnext := ResetCtl.find?_turn_of_one (r := { s.rc with wait := rest, good := [0x90], imem := none, fetching := false }) rfl
    fun h => (hcodes _ h).2.2 rfl
  have hrelease := State.release_one (s := { s with rc := { s.rc with good := [0x90] } }) (c := 0x90) hphase
    (by show ({ s.rc with good := [0x90] } : ResetCtl).turn.find? _ = _; rw [hturn]; rfl)
    (by rw [hone]; exact hnext) (by rw [hone]; rfl) (by rw [hone]; exact hrest)
  rw [State.clockGood_eq, hphase, hpassed]
  dsimp only
  rw [hrelease, hone]
  rfl

/-- The last block is released while the host link is up. -/
theorem Machine.State.release_last {s : State} {c : Nat} (hphase : s.rc.phase = .release) (hturn : s.rc.turn.find? s.rc.clockOk = some c)
    (hnext : (s.releaseOne c).rc.turn.find? (s.releaseOne c).rc.clockOk = none) (hlink : (s.releaseOne c).rc.linkHeld = false) :
    s.release = (s.releaseOne c).releaseDone.sync.redrive := by
  rw [State.release, State.releaseGo_succ hphase hturn, State.releaseGo_of_none hnext, State.releaseLink_of_released hlink]

/-- Every block has had its turn, firmware does not run yet, and nothing waited for the end of the release. -/
theorem Machine.State.releaseDone_of_over {s : State} (hphase : s.rc.phase = .release) (hwait : s.rc.wait = [])
    (hstage : s.mn.fld F.BOOT_STATUS_stage ≠ 3) (hmode : s.rc.latchMode = false) (hperst : s.rc.perstDue = false) (hcand : s.la.cand = none) :
    s.releaseDone = { s with
      mn := s.mn.setFld F.RESET_CAUSE_held (b2n (s.mn.word 0x4004 != 0#32)), rc := { s.rc with phase := .run } } := by
  have hstage' (v : Nat) : (s.mn.setFld F.RESET_CAUSE_held v).fld F.BOOT_STATUS_stage ≠ 3 := by
    rw [Main.fld_setFld_other _ _ _ _ (by decide)]; exact hstage
  simp [State.releaseDone, State.afterBoot, State.nowAwake, hphase, hwait, hstage', hmode, hperst, hcand]

/-- The last ward's detectors pass: the release is over (R394). -/
theorem Machine.State.clockGood_lastWard {s : State} {w : Fin 16} (hphase : s.rc.phase = .release) (hwait : s.rc.wait = [0x80 + w.val])
    (hnew : s.rc.good.contains (0x80 + w.val) = false) (hcyls : ∀ i < 8, s.rc.good.contains (8 * w.val + i) = true)
    (hstage : s.mn.fld F.BOOT_STATUS_stage ≠ 3) (hperst : s.rc.perstDue = false) (hcand : s.la.cand = none)
    (hlink : s.rc.linkHeld = false) (hmode : s.rc.latchMode = false) :
    s.clockGood (.ward w) true = s.restarted (s.mn.setFld F.RESET_CAUSE_held (b2n (s.mn.word 0x4004 != 0#32))) s.la
      { s.rc with phase := .run, wait := [], good := (0x80 + w.val) :: s.rc.good } := by
  have hpassed : s.rc.passed (.ward w) true = { s.rc with good := (0x80 + w.val) :: s.rc.good } :=
    ResetCtl.passed_of_new (fun _ => Island.noConfusion) hnew
  have hward : 0x80 ≤ 0x80 + w.val ∧ 0x80 + w.val < 0x90 := ⟨by omega, by omega⟩
  have hturn : ({ s.rc with good := (0x80 + w.val) :: s.rc.good } : ResetCtl).turn = [0x80 + w.val] :=
    (ResetCtl.turn_of_wards (by show ∀ c ∈ s.rc.wait, _; rw [hwait]; simpa using hward)).trans hwait
  have hclock : ({ s.rc with good := (0x80 + w.val) :: s.rc.good } : ResetCtl).clockOk (0x80 + w.val) = true := by
    rw [ResetCtl.clockOk, if_pos hward, List.all_eq_true]
    intro c hc
    rcases List.mem_cons.1 hc with h | h
    · rw [h]; simp
    · obtain ⟨i, hi, rfl⟩ := List.mem_map.1 h
      have := hcyls i (List.mem_range.1 hi)
      rw [show 0x80 + w.val - 0x80 = w.val by omega, List.contains_cons, this, Bool.or_true]
  have hone : State.releaseOne { s with rc := { s.rc with good := (0x80 + w.val) :: s.rc.good } } (0x80 + w.val)
      = { s with rc := { s.rc with wait := [], good := (0x80 + w.val) :: s.rc.good } } := by
    have hcodes : 0x80 + w.val ≠ 0xC0 ∧ 0x80 + w.val ≠ 0x90 ∧ ¬(0x80 + w.val = 0xA0 ∨ 0x80 + w.val = 0xA1) := by omega
    simp [State.releaseOne, hwait, hcodes]
  have hempty : ({ s.rc with wait := [], good := (0x80 + w.val) :: s.rc.good } : ResetCtl).turn = [] := rfl
  have hdone := State.releaseDone_of_over (s := { s with rc := { s.rc with wait := [], good := (0x80 + w.val) :: s.rc.good } }) hphase rfl hstage
    hmode hperst hcand
  have hrelease := State.release_last (s := { s with rc := { s.rc with good := (0x80 + w.val) :: s.rc.good } }) (c := 0x80 + w.val) hphase
    (by show List.find? _ (ResetCtl.turn _) = _; rw [hturn, List.find?_cons, hclock])
    (by rw [hone]; show List.find? _ (ResetCtl.turn _) = _; rw [hempty]; rfl) (by rw [hone]; exact hlink)
  rw [State.clockGood_eq, hphase, hpassed]
  dsimp only
  rw [hrelease, hone, hdone]
  rfl

/-- A ward's clock does not come within its time (Table 18-4). -/
theorem Machine.State.clockHold_ward {s : State} {w : Fin 16} {c : Nat} {rest : List Nat} (hphase : s.rc.phase = .release)
    (hwait : s.rc.wait = (0x80 + w.val) :: c :: rest) (hcodes : ∀ x ∈ c :: rest, 0x80 ≤ x ∧ x < 0x90 ∧ x ≠ 0x80 + w.val)
    (hgood : s.rc.good = []) :
    s.clockHold (.ward w) = s.restarted ((s.mn.setFld F.CLK_HELD_wards (s.mn.fld F.CLK_HELD_wards ||| 2 ^ w.val)).fenceWard w.val 1).settle s.la
      { s.rc with wait := c :: rest } := by
  have hturn : s.rc.turn = s.rc.wait := ResetCtl.turn_of_wards (by
    rw [hwait]; intro x hx
    rcases List.mem_cons.1 hx with rfl | hx
    · omega
    · exact ⟨(hcodes x hx).1, (hcodes x hx).2.1⟩)
  have hheld : s.rc.phase = .release ∧ s.rc.turn.contains (0x80 + w.val) = true ∧ (!s.rc.clockOk (0x80 + w.val)) = true :=
    ⟨hphase, by rw [hturn, hwait]; simp, by rw [ResetCtl.clockOk_of_none hgood]; rfl⟩
  have hrest : (c :: rest).filter (· != 0x80 + w.val) = c :: rest :=
    List.filter_eq_self.2 fun x hx => by have := (hcodes x hx).2.2; simpa using this
  have hwait' : s.rc.wait.filter (· != 0x80 + w.val) = c :: rest := by
    rw [hwait, List.filter_cons_of_neg (by simp), hrest]
  have hstands := State.release_stands (s := s.holdWard w.val) (ResetCtl.find?_turn_of_none hgood)
    (by show s.rc.good.contains 0xC1 = false; rw [hgood]; rfl) (by show s.rc.wait.filter _ ≠ []; rw [hwait']; simp)
  have hcode : 0x80 + w.val ≠ 0xB0 ∧ 0x80 + w.val ≠ 0x90 ∧ 0x80 + w.val ≠ 0xA0 ∧ 0x80 + w.val ≠ 0xA1 := by omega
  obtain ⟨hB0, h90, hA0, hA1⟩ := hcode
  simp only [State.clockHold, holdCode, if_pos hheld, if_neg hB0, if_neg h90, if_neg hA0, if_neg hA1,
    show 0x80 + w.val - 0x80 = w.val by omega]
  rw [hstands, State.holdWard, hwait']
  rfl

/-- A held Warden shown in CLK_HELD and RESET_CAUSE (Table 18-4). -/
def Main.heldWarden (m : Main) : Main := (m.setFld F.CLK_HELD_warden 1).setFld F.RESET_CAUSE_held 1

theorem Main.fld_heldWarden (m : Main) (f : Fld) (h : f.off ∉ [0x4000, 0x4004]) : m.heldWarden.fld f = m.fld f := by
  simp only [List.mem_cons, List.not_mem_nil, or_false, not_or] at h
  unfold Main.heldWarden
  rw [Main.fld_setFld_other _ F.RESET_CAUSE_held f 1 h.1, Main.fld_setFld_other _ F.CLK_HELD_warden f 1 h.2]

theorem Main.onlyRegs_heldWarden (m : Main) : m.OnlyRegs m.heldWarden := (Main.OnlyRegs.refl.setFld _ _).setFld _ _

/-- It stays shown through the reset that entry to Latch mode makes. -/
theorem Main.heldWarden_warmed (m : Main) :
    m.heldWarden.warmed.fld F.CLK_HELD_warden = 1 ∧ m.heldWarden.warmed.fld F.RESET_CAUSE_held = 1 := by
  have hclock : Tab.Sole regReset m.heldWarden.regs F.CLK_HELD_warden.off :=
    Main.sole_setFld_other (m.sole_setFld_same F.CLK_HELD_warden 1) (by decide) _
  have hcause : Tab.Sole regReset m.heldWarden.regs F.RESET_CAUSE_held.off := Main.sole_setFld_same _ F.RESET_CAUSE_held 1
  constructor
  · refine (congrArg F.CLK_HELD_warden.of (Main.word_warmed_of_kept (by unfold KeptByWarm; decide) (by decide) hclock)).trans ?_
    show m.heldWarden.fld F.CLK_HELD_warden = 1
    unfold Main.heldWarden
    rw [Main.fld_setFld_other _ _ _ _ (by decide), Main.fld_setFld_of_lt _ (by decide) (by decide)]
  · refine (congrArg F.RESET_CAUSE_held.of (Main.word_warmed_of_kept (by unfold KeptByWarm; decide) (by decide) hcause)).trans ?_
    exact Main.fld_setFld_of_lt _ (by decide) (by decide)

/-- Settles O58: the release block by block, and what a clock that does not come means. -/
theorem releaseFollowsTheClocks : Obligations.ReleaseFollowsTheClocks := by
  refine ⟨fun s hphase hdue hmode hgood => ?_, fun s rest hphase hwait hlatch hgood hfuse hnofuse hwarden => ?_,
    fun s rest hphase hwait hrest hcodes hgood himem hreload => ?_,
    fun s w hphase hwait hnew hcyls hstage hperst hcand hlink hmode => ?_, fun s hphase hlink hwait hblk hnew => ?_,
    fun s isl hphase hfuse hmc hnew => ?_, fun s w c rest hphase hwait hcodes hgood hquiet hidle hlanes hfenced hcand => ?_,
    fun s hphase hlatch hbad => ?_, fun s hphase hturn hbad hcand hlatch => ?_, fun s hlink hsleep hfifo => ?_⟩
  case refine_1 =>
    have hend := State.stretchEnd_begins hphase hdue hmode hgood
    exact ⟨_, next_markFwl rfl hend (State.fwlStatus_congr (Main.fld_setWord_other s.mn 0x4004 0#32 F.BOOT_STATUS_stage (by decide))
      (Main.fld_setWord_other s.mn 0x4004 0#32 F.BOOT_STATUS_error (by decide)) rfl), rfl, s.mn.regsBut_setWord 0x4004 0#32,
      s.mn.word_setWord_same 0x4004 0#32,
      Latch.redriven_redrive_self _ _, rfl⟩
  case refine_2 =>
    have hpass := State.clockGood_fuse hphase hwait hlatch hgood hfuse hnofuse hwarden
    exact ⟨_, next_markFwl rfl hpass rfl, rfl, Latch.redriven_redrive_self _ _, rfl⟩
  case refine_3 =>
    have hpass := State.clockGood_warden hphase hwait hrest hcodes hgood himem hreload
    obtain ⟨hframe, hm, hr, -⟩ := State.markFwl_restarted (f := fun s => s.clockGood .warden true) hpass
    have hmark := State.markedFwl_markFwl (s := s) (f := fun s => s.clockGood .warden true) (by rw [hpass]; rfl)
    refine ⟨_, rfl, hmark, ?_⟩
    generalize State.markFwl s _ = t at hframe hm hr ⊢
    have hregs : t.mn.regs = (s.mn.setFld F.BOOT_STATUS_stage 1).regs := by rw [hm]
    refine ⟨?_, fun o ho => (Main.word_of_regs hregs o).trans (s.mn.regsBut_setFld _ _ o ho),
      (Main.fld_of_regs hregs _).trans (Main.fld_setFld_of_lt _ (by decide) (by decide)), hr⟩
    rw [hframe, hm]
    rfl
  case refine_4 =>
    have hpass := State.clockGood_lastWard hphase hwait hnew hcyls hstage hperst hcand hlink hmode
    have hstays := State.fwlStatus_congr (s := s) (t := s.restarted (s.mn.setFld F.RESET_CAUSE_held (b2n (s.mn.word 0x4004 != 0#32))) s.la
        { s.rc with phase := .run, wait := [], good := (0x80 + w.val) :: s.rc.good })
      (s.mn.fld_setFld_other F.RESET_CAUSE_held F.BOOT_STATUS_stage _ (by decide))
      (s.mn.fld_setFld_other F.RESET_CAUSE_held F.BOOT_STATUS_error _ (by decide)) rfl
    exact ⟨_, next_markFwl rfl hpass hstays, rfl, s.mn.regsBut_setFld F.RESET_CAUSE_held _,
      Main.fld_setFld_of_lt s.mn (f := F.RESET_CAUSE_held) (by decide) (b2n_lt _), State.restarted_la _ _ _ _, rfl⟩
  case refine_5 =>
    have hpassed := ResetCtl.passed_of_new (r := s.rc) (isl := .hostLink) (fun _ => Island.noConfusion) hnew
    have hpass : s.clockGood .hostLink true = { s with rc := { s.rc with linkHeld := false, good := 0xC1 :: s.rc.good } } := by
      have hheld : s.rc.latchHeld = false := by rw [ResetCtl.latchHeld, hwait, hphase]; rfl
      rw [State.clockGood_eq, hpassed, hphase]
      simp [State.blockRelease, State.releaseLink, ResetCtl.latchHeld, hblk, hlink, hwait, hphase, clockCode]
    exact ⟨_, next_markFwl (f := fun s => s.clockGood .hostLink true) rfl hpass rfl, rfl⟩
  case refine_6 =>
    have hpassed := ResetCtl.passed_of_new hmc hnew
    refine ⟨_, next_markFwl (f := fun s => s.clockGood isl true) rfl (t := { s with rc := { s.rc with good := clockCode isl :: s.rc.good } }) ?_ rfl, rfl⟩
    exact (State.clockGood_eq s isl true).trans (by rw [hphase, hpassed])
  case refine_7 =>
    have hheld := State.clockHold_ward hphase hwait hcodes hgood
    obtain ⟨r, u, a, k, d, g, y, x, hsettle, hregs, hnext⟩ := Main.settle_fenceWard_clock
      (m := s.mn.setFld F.CLK_HELD_wards (s.mn.fld F.CLK_HELD_wards ||| 2 ^ w.val)) w.isLt hquiet hidle hlanes hfenced
    rw [hsettle] at hheld
    obtain ⟨-, hm, hr, -⟩ := State.markFwl_restarted (f := fun s => s.clockHold (.ward w)) hheld
    refine ⟨_, rfl, ?_⟩
    generalize State.markFwl s _ = t at hm hr ⊢
    have hwards : t.mn.fld F.CLK_HELD_wards
        = (s.mn.setFld F.CLK_HELD_wards (s.mn.fld F.CLK_HELD_wards ||| 2 ^ w.val)).fld F.CLK_HELD_wards :=
      (Main.fld_of_regs (m := { s.mn with regs := r }) (by rw [hm]) _).trans (congrArg F.CLK_HELD_wards.of (hregs _ (by decide)))
    have hfence : t.mn.fencedWard w.val = true := by
      rw [Main.fencedWard, hm]
      exact (bit_or_pow _ _ _).trans (by simp)
    refine ⟨hwards.trans (Main.fld_setFld_same _ _ _ (by constructor <;> decide)), hfence, by rw [hm]; rfl, by rw [hm]; exact hnext, hr,
      by rw [hm]; rfl, by rw [hm]; rfl⟩
  case refine_8 =>
    have hturn : s.rc.turn = [0xB0] := if_pos hlatch
    have hheld : s.rc.phase = .release ∧ s.rc.turn.contains 0xB0 = true ∧ (!s.rc.clockOk 0xB0) = true :=
      ⟨hphase, by rw [hturn]; rfl, by rw [ResetCtl.clockOk, if_neg (by decide), hbad]; rfl⟩
    have hdead : s.clockHold .latch = { s with rc := { s.rc with phase := .dead } } := by
      simp only [State.clockHold, holdCode, if_pos hheld, if_true]
    exact ⟨_, next_markFwl (f := fun s => s.clockHold .latch) rfl hdead rfl, rfl⟩
  case refine_9 =>
    have hheld : s.rc.phase = .release ∧ s.rc.turn.contains 0x90 = true ∧ (!s.rc.clockOk 0x90) = true :=
      ⟨hphase, by rw [hturn]; rfl, by rw [ResetCtl.clockOk, if_neg (by decide), hbad]; rfl⟩
    have henter : s.clockHold .warden
        = State.enterLatch { s with mn := s.mn.heldWarden, rc := { s.rc with phase := s.rc.phase, wait := s.rc.wait } } 1 := by
      simp only [State.clockHold, holdCode, if_pos hheld, if_true, if_neg (by decide : ¬(0x90 : Nat) = 0xB0)]
      rfl
    obtain ⟨hentered, hregs, -⟩ := State.latchEntered_of_enterLatch (s := s) (f := fun s => s.clockHold .warden) henter s.mn.onlyRegs_heldWarden hcand
      (s.mn.fld_heldWarden F.BOOT_STATUS_error (by decide)) (s.mn.fld_heldWarden F.ERR_STATUS_latch_run (by decide))
    obtain ⟨hclock, hcause⟩ := s.mn.heldWarden_warmed
    exact ⟨_, rfl, hentered, (Main.fld_of_regs hregs _).trans hclock, (Main.fld_of_regs hregs _).trans hcause⟩
  case refine_10 =>
    have hup : s.hostLinkUp = { s with rc := { s.rc with linkUp := true } } := by
      rw [State.hostLinkUp, if_neg (by simp [hlink]; omega)]
      exact State.drainRecords_of_empty hfifo
    exact ⟨_, congrArg _ hup, rfl⟩

end Sys2Proof
end

section
/-! SUPPORT AND PROOF. Latch mode, Latch resets, forced releases and block resets (spec/18_reset.md R388, R395 to R401, spec/20_faults.md
R440 to R443). -/

namespace Sys2Proof
open Machine

/-! ## A reset of the Latch island (Table 18-7) -/

/-- Beyond a warm reset the error log and registers alone are reset. -/
theorem Main.onlyRegs_latchReset (m : Main) : Main.OnlyRegs { m.warmed with err := {} } m.latchReset :=
  (Main.OnlyRegs.setFld ⟨_, rfl⟩ _ _).setFld _ _

/-- The Warden's side once a Latch reset has begun. -/
def Main.latchStarted (m : Main) (cause isl run : Nat) : Main :=
  (m.latchReset.noteReset 2 cause isl).setFld F.ERR_STATUS_latch_run run

theorem Main.onlyRegs_latchStarted (m : Main) (cause isl run : Nat) : m.latchReset.OnlyRegs (m.latchStarted cause isl run) :=
  (m.latchReset.onlyRegs_noteReset _ _ _).setFld _ _

theorem Main.latchStarted_fields (m : Main) {cause isl : Nat} (hcause : cause < 16) (hisl : isl < 256) (run : Nat) :
    (m.latchStarted cause isl run).fld F.RESET_CAUSE_class = 2 ∧ (m.latchStarted cause isl run).fld F.RESET_CAUSE_cause = cause
      ∧ (m.latchStarted cause isl run).fld F.RESET_CAUSE_island = isl := by
  obtain ⟨hclass, hcauses, hislands⟩ := m.latchReset.noteReset_fields (cls := 2) (by decide) hcause hisl
  have hother (g : Fld) (hg : g.off ≠ F.ERR_STATUS_latch_run.off) :
      (m.latchStarted cause isl run).fld g = (m.latchReset.noteReset 2 cause isl).fld g := Main.fld_setFld_other _ _ _ _ hg
  exact ⟨(hother _ (by decide)).trans hclass, (hother _ (by decide)).trans hcauses, (hother _ (by decide)).trans hislands⟩

/-- The reset controller once a Latch reset has begun: Latch mode stays, and nothing is due to be logged (R388, R443). -/
def Machine.State.latchResetCtl (s : State) : ResetCtl :=
  { s.rc with
    phase := if s.rc.railsGood then .stretch else .rails
    enables := if s.rc.railsGood then s.rc.enables else 0 :: 1 :: s.rc.enables.filter (2 ≤ ·)
    cls := 2, wait := [], good := [], linkHeld := true, linkUp := false, imem := if 3 ≤ s.mn.sleepState then none else s.rc.imem
    reload := false, untrained := [], ready := false, fetching := false, queue := [], blk := none
    wakeBoot := false, retLost := false, fuseBad := false, perstDue := false, logDue := false, latchDue := false }

theorem Machine.State.beginReset_latch (s : State) (cause isl : Nat) :
    s.beginReset 2 cause isl false false
      = s.restarted (s.mn.latchStarted cause isl (s.mn.fld F.ERR_STATUS_latch_run)) s.la.cleared s.latchResetCtl := by
  have hcls : ((2 : Nat) == 1) = false := rfl
  unfold State.beginReset
  simp only [hcls, beq_self_eq_true, Bool.and_true, Bool.and_false, Bool.false_and, Bool.false_eq_true, if_false, if_true,
    if_neg (by decide : ¬(2 : Nat) = 1), decide_eq_true_eq, ResetCtl.railsGood_eq]
  rfl

/-! ## Latch mode and what is refused -/

theorem Main.strike_of_off {m : Main} {src : Nat} (h : m.strikeOn src = false) (origin : Nat) : m.strike src origin = m := by
  simp [Main.strike, h]

/-- An event that is no source of strikes changes the error log alone (R434). -/
theorem Main.logErr_of_unstruck {m : Main} (h : m.strikeOn 3 = false) (e : ErrArgs) :
    ∃ g, m.logErr e = { m with err := g } ∧ g.next = nextIndex m.err.next
      ∧ Tab.get winDef g.window (m.err.next % 64) = errBytes m.err.next e := by
  unfold Main.logErr
  extract_lets g n old logged fires struck
  have hoff : logged.strikeOn 3 = false := h
  have hfires : fires = false := by simp only [fires, hoff, Bool.and_false]
  have hstruck : struck = logged := Main.strike_of_off hoff _
  rw [hfires, if_neg Bool.false_ne_true, hstruck]
  exact ⟨logged.err, rfl, rfl, Tab.get_put_same winDef (m.err.next % 64) (errBytes m.err.next e) m.err.window⟩

/-- Held wards forced out of reset (R395). -/
def Main.forced (m : Main) (left : Nat) : Main := (m.setFld F.CLK_HELD_wards left).setFld F.RESET_CAUSE_forced 1

theorem Main.forced_fields (m : Main) {left : Nat} (h : left < 2 ^ 16) :
    m.OnlyRegs (m.forced left) ∧ m.RegsBut (m.forced left) [0x4000, 0x4004] ∧ (m.forced left).fld F.CLK_HELD_wards = left
      ∧ (m.forced left).fld F.RESET_CAUSE_forced = 1 ∧ (m.forced left).fld F.BOOT_STATUS_stage = m.fld F.BOOT_STATUS_stage
      ∧ (m.forced left).fld F.BOOT_STATUS_error = m.fld F.BOOT_STATUS_error := by
  have hregs : m.RegsBut (m.forced left) [0x4000, 0x4004] :=
    (Main.RegsBut.refl.setFld (f := F.CLK_HELD_wards) (by decide) _).setFld (f := F.RESET_CAUSE_forced) (by decide) _
  have hcause : (m.forced left).fld F.RESET_CAUSE_forced = 1 :=
    Main.fld_setFld_of_lt (m.setFld F.CLK_HELD_wards left) (f := F.RESET_CAUSE_forced) (by decide) (by decide)
  refine ⟨(Main.OnlyRegs.refl.setFld _ _).setFld _ _, hregs, ?_, hcause,
    congrArg F.BOOT_STATUS_stage.of (hregs _ (by decide)), congrArg F.BOOT_STATUS_error.of (hregs _ (by decide))⟩
  unfold Main.forced
  rw [Main.fld_setFld_other _ _ _ _ (by decide), Main.fld_setFld_of_lt _ (by decide) h]

/-- Settles O60: Latch mode's entry and retry, a Latch reset, forced releases, and what is refused. -/
theorem latchModeAndForcing : Obligations.LatchModeAndForcing := by
  refine ⟨fun s hphase hdue hcand => ?_, fun s viaSdio hmode hphase hawake hlatch hlink => ?_, fun s viaSdio hmode hawake => ?_,
    fun s hphase hlatch => ?_, fun s mask held go hup hconf hheld hgo hsome => ?_, fun s mask hup hconf => ?_,
    fun s viaBar4 target hup hconf hstrike => ?_, fun s c hc => ?_⟩
  case refine_1 =>
    have henter : s.stretchEnd = State.enterLatch { s with
        mn := s.mn.setWord 0x4004 0#32, rc := { s.rc with phase := .release, wait := if s.rc.latchMode then [0xB0] else releaseOrder s.rc.cls } } 5 := by
      simp [State.stretchEnd, hphase, hdue]
    obtain ⟨hentered, -, hlink⟩ := State.latchEntered_of_enterLatch (s := s) (f := fun s => s.stretchEnd) henter ⟨_, rfl⟩ hcand
      (s.mn.fld_setWord_other 0x4004 0#32 F.BOOT_STATUS_error (by decide)) (s.mn.fld_setWord_other 0x4004 0#32 F.ERR_STATUS_latch_run (by decide))
    exact ⟨_, rfl, hentered, hlink⟩
  case refine_2 =>
    refine ⟨_, rfl, State.warmReset_of_takeReset hphase (by decide) (by decide) ?_⟩
    cases viaSdio with
    | true => exact (State.viaSdio_up _ _ hlatch hawake).trans (if_pos hmode)
    | false => simp [State.cfgUp, State.latchRetry, hlink, hawake, hmode]
  case refine_3 =>
    refine next_markFwl (f := fun s => if viaSdio then s.viaSdio fun s => s.latchRetry else if s.cfgUp then s.latchRetry else s) rfl ?_ rfl
    have hretry : s.latchRetry = s := by rw [State.latchRetry, hmode]; rfl
    simp [State.viaSdio, hawake, hretry]
  case refine_4 =>
    have hbegin : s.clockFailure .latch = s.beginReset 2 7 0xB0 false false := by
      rw [← State.takeReset_run hphase]
      exact if_neg (by rw [hlatch]; decide)
    rw [State.beginReset_latch] at hbegin
    obtain ⟨hframe, hm, hr, ha⟩ := State.markFwl_restarted (f := fun s => s.clockFailure .latch) hbegin
    refine ⟨_, rfl, hframe, ?_⟩
    generalize State.markFwl s _ = t at hm hr ha ⊢
    have hrun := s.mn.onlyRegs_latchStarted 7 0xB0 (s.mn.fld F.ERR_STATUS_latch_run)
    obtain ⟨hclass, hcause, hisland⟩ := s.mn.latchStarted_fields (cause := 7) (isl := 0xB0) (by decide) (by decide) (s.mn.fld F.ERR_STATUS_latch_run)
    have hregs : t.mn.regs = (s.mn.latchStarted 7 0xB0 (s.mn.fld F.ERR_STATUS_latch_run)).regs := by rw [hm]
    have hblank : t.mn.err = {} ∧ t.mn.host = s.mn.host ∧ t.mn.ctxs = [] := by
      obtain ⟨g, hreset⟩ := s.mn.onlyRegs_latchReset
      obtain ⟨g', hstart⟩ := hrun
      rw [hm, hstart, hreset]
      exact ⟨rfl, rfl, rfl⟩
    obtain ⟨herr, hhost, hctxs⟩ := hblank
    refine ⟨herr, hhost, hctxs, (Main.fld_of_regs hregs _).trans hclass, (Main.fld_of_regs hregs _).trans hcause,
      (Main.fld_of_regs hregs _).trans hisland, by rw [hr]; rfl, by rw [hr]; rfl, by rw [hr]; rfl, by rw [hr]; rfl, ?_⟩
    have hsdio : t.la.sdio = { s.la.cleared.sdio with int1 := t.la.sdio.int1 } := by
      obtain ⟨heq, -⟩ := ha
      exact congrArg Latch.sdio heq
    rw [hsdio]
    exact ha
  case refine_5 =>
    subst hheld
    have hof : F.CLK_HELD_wards.of mask = mask.toNat % 2 ^ 16 := congrArg (· % 2 ^ 16) (Nat.div_one _)
    have hlt : s.mn.fld F.CLK_HELD_wards ^^^ go < 2 ^ 16 :=
      Nat.xor_lt_two_pow (s.mn.fld_lt F.CLK_HELD_wards) (hgo ▸ Nat.and_lt_two_pow _ (Nat.mod_lt _ (by decide)))
    have hforce : s.resetForce mask = { s with mn := s.mn.forced (s.mn.fld F.CLK_HELD_wards ^^^ go) } := by
      simp only [State.resetForce, hconf, hof, ← hgo, Bool.false_eq_true, if_false, if_neg hsome]
      rfl
    obtain ⟨honly, hregs, hwards, hforced, hstage, herr⟩ := s.mn.forced_fields hlt
    exact ⟨_, next_markFwl (f := fun s => s.hostLatch fun s => s.resetForce mask) rfl
      ((State.hostLatch_up _ _ hup.1 hup.2).trans hforce) (State.fwlStatus_congr hstage herr rfl), honly.eq, hregs, hwards, hforced⟩
  case refine_6 =>
    have hrefused : s.resetForce mask = { s with mn := s.mn.setFld F.RESET_FORCE_refused 1 } := if_pos hconf
    have hstays := State.fwlStatus_congr (s := s) (t := { s with mn := s.mn.setFld F.RESET_FORCE_refused 1 })
      (s.mn.fld_setFld_other F.RESET_FORCE_refused F.BOOT_STATUS_stage 1 (by decide))
      (s.mn.fld_setFld_other F.RESET_FORCE_refused F.BOOT_STATUS_error 1 (by decide)) rfl
    exact ⟨_, next_markFwl (f := fun s => s.hostLatch fun s => s.resetForce mask) rfl
      ((State.hostLatch_up _ _ hup.1 hup.2).trans hrefused) hstays,
      (Main.OnlyRegs.refl.setFld F.RESET_FORCE_refused 1).eq, Main.RegsBut.refl.setFld (f := F.RESET_FORCE_refused) (by decide) 1,
      Main.fld_setFld_of_lt s.mn (f := F.RESET_FORCE_refused) (v := 1) ⟨by decide, by decide⟩ (by decide)⟩
  case refine_7 =>
    obtain ⟨g, hlog, hnext, hwindow⟩ := Main.logErr_of_unstruck hstrike { code := 0x63, aux1 := b2n viaBar4 }
    have hreached : (viaBar4 && !(s.rc.barUp && s.mn.sleepState == 0)) = false := by rw [hup.1, hup.2]; simp
    have hwarden : s.wardenUp = true := by
      have hbar := hup.1
      rw [ResetCtl.barUp, Bool.and_eq_true] at hbar
      rw [State.wardenUp, hbar.1, hup.2]; rfl
    have hrefused : s.debugReset viaBar4 target = (s.onMn fun _ => { s.mn with err := g }).sync := by
      simp only [State.debugReset, hreached, hconf, Bool.false_eq_true, if_false, if_true]
      rw [State.warden_up _ _ hwarden, ← hlog]
      rfl
    exact ⟨_, next_markFwl (f := fun s => s.debugReset viaBar4 target) rfl hrefused rfl, rfl, hnext, hwindow⟩
  case refine_8 =>
    simp only [List.mem_cons, List.not_mem_nil, or_false] at hc
    rcases hc with rfl | rfl | rfl | rfl | rfl | rfl <;> exact congrArg _ (State.markFwl_of_id rfl)

/-! ## Block resets -/

/-- A ward set aside for a lane that R251 does not number, lane 4, which runs; a block reset of its first cylinder asks for idle. -/
def strayLane : State :=
  { pending := [], free := 0, la := {}, rc := { blk := some ({ isl := 0, cause := 5 }, .idleReq) }
    mn := { wards := [(0, { lane := some 4 })], lanes := [(4, { st := .running })] } }

/-- The model cuts that lane short, and its resync record goes to host memory (R262). -/
theorem blockIdle_strayLane : ∃ t, exec .blockIdle strayLane = .next t ∧ t.mn.host ≠ strayLane.mn.host := ⟨_, rfl, by decide +kernel⟩

/-- Refutes O59: its sixth clause asks that lanes 0 to 3 stand idle and that host memory stays, but a ward may be set aside for a lane of
another number, which no clause holds idle. -/
theorem not_blocksAreReset : ¬ Obligations.BlocksAreReset := by
  rintro ⟨-, -, -, -, -, hhold, -, -⟩
  obtain ⟨t, hclaim, -, -, -, -, -, -, -, -, hhost, -⟩ := hhold strayLane .blockIdle false { isl := 0, cause := 5 } (by simp) rfl (by decide)
    (by decide) (by decide +kernel) rfl (by decide +kernel)
  obtain ⟨u, hmodel, hchanged⟩ := blockIdle_strayLane
  have hsame : t = u := Host.Outcome.next.inj (hclaim.symm.trans hmodel)
  exact hchanged (hsame ▸ hhost)

end Sys2Proof
end

section
/-! SUPPORT AND PROOF. Firmware images and loads over SDIO (spec/18_reset.md R404 to R406, spec/19_security.md R411, R412,
spec/22_registers.md R474). -/

namespace Sys2Proof
open Machine

/-! ## The state after an effect that F1_INT.fwl follows -/

/-- Beyond the effect itself F1_INT alone can change. -/
theorem Machine.State.markFwl_frame (s : State) (f : State → State) : s.markFwl f = { f s with la := (s.markFwl f).la } := by
  unfold State.markFwl; dsimp only; split <;> rfl

/-- An effect on what the card has sent. -/
theorem Machine.State.markFwl_fwl {s : State} {f : State → State} {g : FwLoad}
    (h : f s = s.onLa fun a => { a with sdio := { a.sdio with fwl := g } }) :
    s.markFwl f = { s with la := (s.markFwl f).la } ∧ s.MarkedFwl (s.markFwl f)
      ∧ (s.markFwl f).la = { s.la with sdio := { s.la.sdio with fwl := g, int1 := (s.markFwl f).la.sdio.int1 } } := by
  have hframe := s.markFwl_frame f
  have hla := State.markFwl_la (s := s) f
  have hmark : s.MarkedFwl (s.markFwl f) := State.markedFwl_markFwl (h ▸ rfl)
  rw [h] at hframe hla
  exact ⟨hframe, hmark, hla⟩

/-! ## An image that is taken (R411, R412) -/

theorem imageCheck_lt (r : ResetCtl) (bs : List Byte) : imageCheck r bs < 256 := by
  unfold imageCheck
  dsimp only
  split_ifs <;> decide

/-- An image that passes every check names one of the two key slots. -/
theorem keySlot_lt_of_checked {r : ResetCtl} {bs : List Byte} (h : imageCheck r bs = 0) : imgNat bs 6 1 < 2 := by
  unfold imageCheck at h
  dsimp only at h
  split_ifs at h with hsize hboth hslot
  omega

theorem Main.OnlyRegs.setWord {m n : Main} (h : m.OnlyRegs n) (o : Nat) (w : Word) : m.OnlyRegs (n.setWord o w) := by
  obtain ⟨g, rfl⟩ := h
  exact ⟨_, rfl⟩

/-- The registers once an image is installed and firmware runs from it (Table 18-8, orders 4 to 6). -/
def Main.imageRuns (m : Main) (slot code version : Nat) : Main :=
  (((((m.setFld F.BOOT_STATUS_error 0).setFld F.BOOT_STATUS_key_slot slot).setFld F.SEC_CTL_raise_arm 0).setFld
    F.BOOT_STATUS_stage 3).setFld F.BOOT_STATUS_source code).setWord 0x4 (BitVec.ofNat 32 version)

/-- Outside an exit from sleep recovery is needed. -/
def Main.recoveryAsked (m : Main) (wakeBoot : Bool) : Main := if wakeBoot then m else m.setFld F.HOST_STATUS_recovery_needed 1

theorem Main.onlyRegs_imageRuns (m : Main) (slot code version : Nat) (wakeBoot : Bool) :
    m.OnlyRegs ((m.imageRuns slot code version).recoveryAsked wakeBoot) := by
  have hruns : m.OnlyRegs (m.imageRuns slot code version) :=
    (((((Main.OnlyRegs.refl.setFld _ _).setFld _ _).setFld _ _).setFld _ _).setFld _ _).setWord _ _
  cases wakeBoot with
  | true => exact hruns
  | false => exact hruns.setFld F.HOST_STATUS_recovery_needed 1

/-- The offsets that the boot flow writes. -/
abbrev imageOffsets : List Nat := [0x4, F.BOOT_STATUS_stage.off, F.SEC_CTL_raise_arm.off, F.HOST_STATUS_recovery_needed.off]

theorem Main.regsBut_imageRuns (m : Main) (slot code version : Nat) (wakeBoot : Bool) :
    m.RegsBut ((m.imageRuns slot code version).recoveryAsked wakeBoot) imageOffsets := by
  have hset : m.RegsBut (((((m.setFld F.BOOT_STATUS_error 0).setFld F.BOOT_STATUS_key_slot slot).setFld F.SEC_CTL_raise_arm 0).setFld
      F.BOOT_STATUS_stage 3).setFld F.BOOT_STATUS_source code) imageOffsets :=
    ((((Main.RegsBut.refl.setFld (f := F.BOOT_STATUS_error) (by decide) 0).setFld (f := F.BOOT_STATUS_key_slot) (by decide) slot).setFld
      (f := F.SEC_CTL_raise_arm) (by decide) 0).setFld (f := F.BOOT_STATUS_stage) (by decide) 3).setFld (f := F.BOOT_STATUS_source) (by decide) code
  have hruns : m.RegsBut (m.imageRuns slot code version) imageOffsets := fun o ho =>
    (Main.word_setWord_other _ 0x4 o _ fun h => ho (h ▸ List.mem_cons_self)).trans (hset o ho)
  cases wakeBoot with
  | true => exact hruns
  | false => exact hruns.setFld (f := F.HOST_STATUS_recovery_needed) (by decide) 1

theorem Main.imageRuns_fields (m : Main) {slot code : Nat} (hslot : slot < 2) (hcode : code < 4) (version : Nat) :
    (m.imageRuns slot code version).fld F.BOOT_STATUS_stage = 3 ∧ (m.imageRuns slot code version).fld F.BOOT_STATUS_error = 0
      ∧ (m.imageRuns slot code version).fld F.BOOT_STATUS_source = code ∧ (m.imageRuns slot code version).fld F.BOOT_STATUS_key_slot = slot := by
  unfold Main.imageRuns
  refine ⟨?_, ?_, ?_, ?_⟩
  · rw [Main.fld_setWord_other _ _ _ _ (by decide), Main.fld_setFld_of_apart _ (by decide), Main.fld_setFld_of_lt _ (by decide) (by decide)]
  · rw [Main.fld_setWord_other _ _ _ _ (by decide), Main.fld_setFld_of_apart _ (by decide), Main.fld_setFld_of_apart _ (by decide),
      Main.fld_setFld_of_apart _ (by decide), Main.fld_setFld_of_apart _ (by decide), Main.fld_setFld_of_lt _ (by decide) (by decide)]
  · rw [Main.fld_setWord_other _ _ _ _ (by decide), Main.fld_setFld_of_lt _ (by decide) hcode]
  · rw [Main.fld_setWord_other _ _ _ _ (by decide), Main.fld_setFld_of_apart _ (by decide), Main.fld_setFld_of_apart _ (by decide),
      Main.fld_setFld_of_apart _ (by decide), Main.fld_setFld_of_lt _ (by decide) hslot]

theorem Main.recoveryAsked_word (m : Main) (wakeBoot : Bool) {o : Nat} (h : o ≠ F.HOST_STATUS_recovery_needed.off) :
    (m.recoveryAsked wakeBoot).word o = m.word o := by
  cases wakeBoot with
  | true => rfl
  | false => exact Main.word_setWord_other _ _ _ _ h

/-- The reset controller once an image is installed: fuses blown where SEC_CTL.raise_arm says so (R412). -/
def ResetCtl.installed (r : ResetCtl) (arm : Bool) (bs : List Byte) : ResetCtl :=
  let flags := imgNat bs 7 1
  let kill := arm && flags / 2 % 2 == 1
  { r with
    imem := some ((bs.drop 0x600).take (imgNat bs 0xC 4)), measure := sha512 ((bs.drop 0x600).take (imgNat bs 0xC 4))
    fwVer := imgNat bs 8 4, reload := false, fetching := false, ready := true
    blown := r.blown + if arm && flags % 2 == 1 then max r.counter (min (imgNat bs 8 4) 64) - r.counter else 0
    revoked0 := r.revoked0 || (kill && imgNat bs 6 1 == 1), revoked1 := r.revoked1 || (kill && imgNat bs 6 1 == 0) }

theorem ResetCtl.installed_of_unarmed (r : ResetCtl) (bs : List Byte) :
    (r.installed false bs).blown = r.blown ∧ (r.installed false bs).revoked0 = r.revoked0 ∧ (r.installed false bs).revoked1 = r.revoked1 :=
  ⟨rfl, Bool.or_false _, Bool.or_false _⟩

theorem Machine.State.afterBoot_of_quiet {s : State} (htrained : s.rc.untrained = []) (hlog : s.rc.logDue = false) : s.afterBoot = s := by
  simp [State.afterBoot, htrained, hlog]

theorem Machine.State.cacheWrite_of_disabled {s : State} (h : s.mn.bit F.FW_CACHE_enable = false) (bs : List Byte) : s.cacheWrite bs = s := by
  simp [State.cacheWrite, h]

theorem Machine.State.bootRun_of_quiet {s : State} (htrained : s.rc.untrained = []) (hlog : s.rc.logDue = false) (code : Nat) :
    s.bootRun code = { s with
      mn := (((s.mn.setFld F.BOOT_STATUS_stage 3).setFld F.BOOT_STATUS_source code).setWord 0x4
        (BitVec.ofNat 32 s.rc.fwVer)).recoveryAsked s.rc.wakeBoot
      rc := { s.rc with ready := true, fetching := false } } :=
  State.afterBoot_of_quiet htrained hlog

/-- Past the check with nothing left to train or to log, taking an image ends with firmware running. -/
theorem Machine.State.takeImage_of_passed {s : State} {src : ImgSource} {data bs : List Byte} (hsrc : src ≠ .psram)
    (hbs : bs = data.take (max 0x600 (imgNat data 0x14 4))) (hpass : imageCheck s.rc bs = 0) (htrained : s.rc.untrained = [])
    (hlog : s.rc.logDue = false) (hcache : s.mn.bit F.FW_CACHE_enable = false) :
    s.takeImage src data = { s with
      mn := (s.mn.imageRuns (imgNat bs 6 1) (sourceCode src) (imgNat bs 8 4)).recoveryAsked s.rc.wakeBoot
      rc := s.rc.installed (s.mn.bit F.SEC_CTL_raise_arm) bs
      la := { s.la with sdio := { s.la.sdio with fwl := {} }, image := some ((bs.drop (0x600 + imgNat bs 0xC 4)).take (imgNat bs 0x10 4)) } } := by
  have hsame : imageCheck { s.rc with fetching := false } bs = 0 := hpass
  have hdisabled : Main.bit (((s.mn.setFld F.BOOT_STATUS_error 0).setFld F.BOOT_STATUS_key_slot (imgNat bs 6 1)).setFld F.SEC_CTL_raise_arm 0)
      F.FW_CACHE_enable = false := by
    unfold Main.bit
    rw [Main.fld_setFld_other _ _ _ _ (by decide), Main.fld_setFld_other _ _ _ _ (by decide), Main.fld_setFld_other _ _ _ _ (by decide)]
    exact hcache
  unfold State.takeImage
  dsimp only
  rw [← hbs, if_neg (not_not.2 hsame), if_neg hsrc, State.cacheWrite_of_disabled, State.bootRun_of_quiet]
  · rfl
  · exact htrained
  · exact hlog
  · exact hdisabled

/-- An image that fails a check changes what BOOT_STATUS shows. -/
theorem Machine.State.takeImage_of_failed {s : State} {src : ImgSource} {data bs : List Byte} (hsrc : src ≠ .psram)
    (hbs : bs = data.take (max 0x600 (imgNat data 0x14 4))) (hfail : imageCheck s.rc bs ≠ 0) :
    s.takeImage src data = { s with
      mn := s.mn.setFld F.BOOT_STATUS_error (imageCheck s.rc bs), rc := { s.rc with fetching := false }
      la := { s.la with sdio := { s.la.sdio with fwl := {} } } } := by
  have hsame : imageCheck { s.rc with fetching := false } bs = imageCheck s.rc bs := rfl
  simp only [State.takeImage, ← hbs, hsame, if_pos hfail, if_neg hsrc]
  rfl

theorem Machine.State.stage_of_awaitsImage {s : State} (h : s.awaitsImage = true) : s.mn.fld F.BOOT_STATUS_stage = 1 := by
  simp only [State.awaitsImage, Bool.and_eq_true, beq_iff_eq] at h
  exact h.2

/-- Settles O54: BOOT_CTL.go, the load over SDIO, and what becomes of an image that is complete. -/
theorem imagesAreTaken : Obligations.ImagesAreTaken := by
  refine ⟨fun s hup hwait => ?_, fun s hup hwait => ?_, fun s n hup hwait hmin hmax => ?_, fun s n hup hnone => ?_,
    fun s bs data n hup hwait hn hsome hopen hdata => ?_, fun s hup => ?_,
    fun s src bs ws hwait htrained hlog hcache hsrc hws => ?_, fun s src hnone => ?_⟩
  case refine_1 =>
    have hgo : s.hostLatch (fun s => s.bootGo) = { s with rc := { s.rc with fetching := true } } :=
      (State.hostLatch_up _ _ hup.1 hup.2).trans (if_pos hwait)
    exact ⟨_, next_markFwl (f := fun s => s.hostLatch fun s => s.bootGo) rfl hgo rfl, rfl⟩
  case refine_2 =>
    have hgo : s.hostLatch (fun s => s.bootGo) = s := (State.hostLatch_up _ _ hup.1 hup.2).trans (if_neg (by rw [hwait]; decide))
    exact next_markFwl (f := fun s => s.hostLatch fun s => s.bootGo) rfl hgo rfl
  case refine_3 =>
    have hstart : s.viaSdio (fun s => s.fwlStart n) = s.onLa fun a => { a with sdio := { a.sdio with fwl := { granules := n } } } :=
      (State.viaSdio_up _ _ hup.1 hup.2).trans (if_pos (by simp [hwait, hmin, hmax]))
    exact ⟨_, rfl, State.markFwl_fwl hstart⟩
  case refine_4 =>
    have hstart : s.viaSdio (fun s => s.fwlStart n) = s := (State.viaSdio_up _ _ hup.1 hup.2).trans (if_neg (by
      rcases hnone with h | h <;> simp [h]))
    exact next_markFwl (f := fun s => s.viaSdio fun s => s.fwlStart n) rfl hstart rfl
  case refine_5 =>
    have htake : s.viaSdio (fun s => s.fwlData bs) = s.onLa fun a => { a with sdio := { a.sdio with
        fwl := { granules := n, data := data, done := decide (data.length = n * 4096) } } } := by
      refine (State.viaSdio_up _ _ hup.1 hup.2).trans ((if_neg ?_).trans ?_)
      · rw [← hn, hopen, hwait]; simpa using hsome
      · subst hn hdata; rfl
    exact ⟨_, rfl, State.markFwl_fwl htake⟩
  case refine_6 =>
    exact ⟨_, rfl, State.markFwl_fwl (f := fun s => s.viaSdio fun s => s.fwlAbort) (State.viaSdio_up _ _ hup.1 hup.2)⟩
  case refine_7 =>
    subst hws
    obtain ⟨data, hnot, hbs, htake⟩ : ∃ data, src ≠ .psram ∧ bs = data.take (max 0x600 (imgNat data 0x14 4))
        ∧ s.bootImage src = s.takeImage src data := by
      rcases hsrc with ⟨rfl, hdone, hbs⟩ | ⟨rfl, hfetch, hbs⟩
      · exact ⟨_, by decide, hbs, by simp [State.bootImage, hwait, hdone]⟩
      · exact ⟨_, by decide, hbs, by simp [State.bootImage, hwait, hfetch]⟩
    refine ⟨_, rfl, ?_⟩
    have hframe := s.markFwl_frame fun s => s.bootImage src
    have hla := State.markFwl_la (s := s) fun s => s.bootImage src
    have hmn := State.markFwl_mn (s := s) fun s => s.bootImage src
    have hrc := State.markFwl_rc (s := s) fun s => s.bootImage src
    have hstage := State.stage_of_awaitsImage hwait
    by_cases hcheck : imageCheck s.rc bs = 0
    · have himage := htake.trans (State.takeImage_of_passed hnot hbs hcheck htrained hlog hcache)
      have hmark : s.MarkedFwl (s.markFwl fun s => s.bootImage src) := State.markedFwl_markFwl (by rw [himage])
      dsimp only at hframe hla hmn hrc
      rw [himage] at hframe hla hmn hrc
      generalize s.markFwl _ = t at hframe hla hmn hrc hmark ⊢
      have honly := s.mn.onlyRegs_imageRuns (imgNat bs 6 1) (sourceCode src) (imgNat bs 8 4) s.rc.wakeBoot
      have hregs := s.mn.regsBut_imageRuns (imgNat bs 6 1) (sourceCode src) (imgNat bs 8 4) s.rc.wakeBoot
      have hcode : sourceCode src < 4 := by cases src <;> decide
      obtain ⟨hrun, herr, hsource, hkey⟩ := s.mn.imageRuns_fields (keySlot_lt_of_checked hcheck) hcode (imgNat bs 8 4)
      have hword {o : Nat} (ho : o ≠ F.HOST_STATUS_recovery_needed.off) :
          t.mn.word o = (s.mn.imageRuns (imgNat bs 6 1) (sourceCode src) (imgNat bs 8 4)).word o := by
        rw [hmn]; exact Main.recoveryAsked_word _ _ ho
      have hfld {f : Fld} (hf : f.off ≠ F.HOST_STATUS_recovery_needed.off) :
          t.mn.fld f = (s.mn.imageRuns (imgNat bs 6 1) (sourceCode src) (imgNat bs 8 4)).fld f := congrArg f.of (hword hf)
      refine ⟨?_, hmn ▸ hregs, ?_, hmark, ?_⟩
      · rw [hframe, honly.eq]
      · rw [hla]
      rw [if_pos hcheck]
      refine ⟨by rw [hrc]; rfl, by rw [hla], (hfld (by decide)).trans hrun, (hfld (by decide)).trans herr, (hfld (by decide)).trans hsource,
        (hfld (by decide)).trans hkey, (hword (by decide)).trans (Main.word_setWord_same _ 0x4 _), fun hwake => ?_, ?_, fun harm => ?_⟩
      · rw [hmn, hwake]
        exact Main.fld_setFld_of_lt _ (by decide) (by decide)
      · rw [hrc]; exact Nat.le_add_right _ _
      · rw [hrc, harm]; exact s.rc.installed_of_unarmed bs
    · have himage := htake.trans (State.takeImage_of_failed hnot hbs hcheck)
      have hmark : s.MarkedFwl (s.markFwl fun s => s.bootImage src) := State.markedFwl_markFwl (by rw [himage])
      dsimp only at hframe hla hmn hrc
      rw [himage] at hframe hla hmn hrc
      generalize s.markFwl _ = t at hframe hla hmn hrc hmark ⊢
      have honly : s.mn.OnlyRegs (s.mn.setFld F.BOOT_STATUS_error (imageCheck s.rc bs)) := Main.OnlyRegs.refl.setFld _ _
      refine ⟨?_, ?_, ?_, hmark, ?_⟩
      · rw [hframe, honly.eq]
      · rw [hmn]; exact Main.RegsBut.refl.setFld (f := F.BOOT_STATUS_error) (by decide) _
      · rw [hla]
      rw [if_neg hcheck]
      refine ⟨hrc, by rw [hla], ?_, ?_⟩
      · rw [hmn]; exact Main.fld_setFld_of_lt _ (by decide) (imageCheck_lt _ _)
      · rw [hmn]; exact (Main.fld_setFld_of_apart _ (by decide) _).trans hstage
  case refine_8 =>
    refine next_markFwl (f := fun s => s.bootImage src) rfl ?_ rfl
    by_cases hwait : s.awaitsImage = true
    · rcases hnone with h | ⟨rfl, h⟩ | ⟨rfl, h⟩ | ⟨rfl, h⟩
      · exact absurd hwait (by simp [h])
      · simp [State.bootImage, h]
      · simp [State.bootImage, h]
      · simp [State.bootImage, h]
    · simp [State.bootImage, hwait]

end Sys2Proof
end

section
/-! SUPPORT AND PROOF. The SDIO mailbox (spec/22_registers.md R473, Table 22-7). -/

namespace Sys2Proof
open Machine

/-! ## Fields of merged words -/

theorem Fld.testBit_of (f : Fld) (w : Word) (i : Nat) :
    (f.of w).testBit i = (decide (i < f.hi + 1 - f.lo) && w.getLsbD (f.lo + i)) := by
  rw [Fld.of, Nat.testBit_mod_two_pow, Nat.testBit_div_two_pow, BitVec.testBit_toNat, Nat.add_comm i]

theorem getLsbD_maskMerge (mask : Nat) (old v : Word) {i : Nat} (hi : i < 32) :
    (maskMerge mask old v).getLsbD i = if mask.testBit i then v.getLsbD i else old.getLsbD i := by
  have hmask : (BitVec.ofNat 32 mask)[i] = mask.testBit i := by rw [← BitVec.getLsbD_eq_getElem, BitVec.getLsbD_ofNat]; simp [hi]
  unfold maskMerge
  cases h : mask.testBit i <;> simp [hi, hmask, h]

/-- A field that a merge takes from the new word. -/
theorem Fld.of_maskMerge {f : Fld} {mask : Nat} (hf : f.hi < 32) (hmask : ∀ i < f.hi + 1 - f.lo, mask.testBit (f.lo + i) = true)
    (old v : Word) : f.of (maskMerge mask old v) = f.of v := by
  refine Nat.eq_of_testBit_eq fun i => ?_
  rw [Fld.testBit_of, Fld.testBit_of]
  by_cases hi : i < f.hi + 1 - f.lo
  · rw [getLsbD_maskMerge _ _ _ (by omega), if_pos (hmask i hi)]
  · simp [hi]

/-! ## Replies -/

/-- The Latch island once the mailbox has answered. -/
def Latch.answered (a : Latch) (req : List Byte) (status : Nat) (payload : List Byte) : Latch :=
  { a with sdio := a.sdio.answered req status payload }

/-- A payload that the reply's window holds is sent whole. -/
theorem Machine.State.reply_eq (s : State) (req : List Byte) (status : Nat) {payload : List Byte} (h : payload.length ≤ 500) :
    s.reply req status payload = { s with la := s.la.answered req status payload } := by
  unfold State.reply
  rw [List.take_of_length_le h]
  rfl

theorem Machine.State.reply_empty (s : State) (req : List Byte) (status : Nat) :
    s.reply req status [] = { s with la := s.la.answered req status [] } := s.reply_eq req status (Nat.zero_le _)

theorem Machine.State.reply_word (s : State) (req : List Byte) (status n : Nat) :
    s.reply req status (leBytes 4 n) = { s with la := s.la.answered req status (leBytes 4 n) } :=
  s.reply_eq req status (by rw [leBytes_length]; decide)

theorem Machine.State.reply_status (s : State) (req : List Byte) :
    s.reply req 0 (s.statusWords.flatMap fun w => leBytes 4 w.toNat)
      = { s with la := s.la.answered req 0 (s.statusWords.flatMap fun w => leBytes 4 w.toNat) } :=
  s.reply_eq req 0 (by simp [State.statusWords])

/-! ## Requests -/

section
variable {s : State} {req : List Byte}

theorem Machine.State.mbxDo_status (h : mbxCmd req = (1, 0)) :
    s.mbxDo req = s.reply req 0 (s.statusWords.flatMap fun w => leBytes 4 w.toNat) := by
  rw [State.mbxDo, h]; rfl

theorem Machine.State.mbxDo_retry (h : mbxCmd req = (3, 0)) : s.mbxDo req = s.mbxRetry req := by
  rw [State.mbxDo, h]; rfl

theorem Machine.State.mbxDo_readReg (h : mbxCmd req = (4, 4)) : s.mbxDo req = s.mbxReadReg req (mbxPayload req) := by
  rw [State.mbxDo, h]; rfl

theorem Machine.State.mbxDo_writeReg (h : mbxCmd req = (5, 8)) : s.mbxDo req = s.mbxWriteReg req (mbxPayload req) := by
  rw [State.mbxDo, h]; rfl

/-- A known command of a wrong length. -/
theorem Machine.State.mbxDo_of_length (hk : mbxKnown (mbxCmd req).1 = true)
    (hn : (mbxCmd req).2 ≠ [0, 0, 1, 0, 4, 8].getD (mbxCmd req).1 0) : s.mbxDo req = s.reply req 4 [] := by
  have hbad : mbxLenOk (mbxCmd req).1 (mbxCmd req).2 = false := beq_eq_false_iff_ne.2 hn
  simp only [State.mbxDo, hk, hbad, Bool.not_true, Bool.not_false, Bool.false_eq_true, if_false, if_true]

theorem Machine.State.mbxDo_of_unknown (h : mbxKnown (mbxCmd req).1 = false) :
    s.mbxDo req = s.reply req 1 [] := by
  simp only [State.mbxDo, h, Bool.not_false, if_true]

end

/-- The commands whose requests name a number, with that number. -/
theorem exec_mbx {c : Instr} {bytes : List Byte} {k : Nat}
    (h : (c, k) ∈ [(Instr.mbxStatus bytes, 1), (.mbxMute bytes, 2), (.mbxRetry bytes, 3), (.mbxReadReg bytes, 4), (.mbxWriteReg bytes, 5)])
    (s : State) : mbxKnown k = true ∧ (exec c s = .next (s.mbx k bytes) ∨ exec c s = .next (s.markFwl fun s => s.mbx k bytes)) := by
  simp only [List.mem_cons, Prod.mk.injEq, List.not_mem_nil, or_false] at h
  rcases h with ⟨rfl, rfl⟩ | ⟨rfl, rfl⟩ | ⟨rfl, rfl⟩ | ⟨rfl, rfl⟩ | ⟨rfl, rfl⟩
  · exact ⟨rfl, .inl rfl⟩
  · exact ⟨rfl, .inl rfl⟩
  · exact ⟨rfl, .inr rfl⟩
  · exact ⟨rfl, .inl rfl⟩
  · exact ⟨rfl, .inr rfl⟩

/-- A request of such a command whose effect leaves FWL_STATUS alone. -/
theorem next_mbx {c : Instr} {bytes : List Byte} {k : Nat} {s t : State}
    (h : (c, k) ∈ [(Instr.mbxStatus bytes, 1), (.mbxMute bytes, 2), (.mbxRetry bytes, 3), (.mbxReadReg bytes, 4), (.mbxWriteReg bytes, 5)])
    (ht : s.mbx k bytes = t) (hs : t.fwlStatus = s.fwlStatus) : exec c s = .next t := by
  rcases (exec_mbx h s).2 with he | he
  · rw [he, ht]
  · exact next_markFwl he ht hs

/-! ## READ_REG and WRITE_REG -/

/-- Of the registers that READ_REG reaches, WAKE_FRAME_LO alone latches another. -/
theorem hiOf_of_mbxMayRead {off : Nat} (h : mbxMayRead off = true) (hoff : off ≠ 0xa040) : hiOf off = none := by
  simp only [mbxMayRead, Bool.or_eq_true, decide_eq_true_eq] at h
  unfold hiOf
  rw [if_neg (by simp; omega), if_neg (by omega), if_neg (by omega)]

theorem Machine.State.readEffect_of_mbxMayRead {s : State} {off : Nat} (h : mbxMayRead off = true) :
    s.readEffect off = { s with la := { s.la with
      hiLatch := if off = 0xa040 then some (BitVec.ofNat 32 (s.la.wake.next / 2 ^ 32 % 2 ^ 16)) else s.la.hiLatch } } := by
  have hrange : ¬(0xbe00 ≤ off ∧ off < 0xbf00 ∧ off % 0x40 = 8) := by
    simp only [mbxMayRead, Bool.or_eq_true, decide_eq_true_eq] at h; omega
  unfold State.readEffect
  by_cases hoff : off = 0xa040
  · rw [if_pos hoff, if_pos hoff]; rfl
  · rw [if_neg hoff, if_neg hoff, if_neg hrange, hiOf_of_mbxMayRead h hoff]

/-- A write of a register all of whose fields are plain (RW). -/
theorem RegDef.after_of_rw {d : RegDef} (hrwl : d.rwl = 0) (hw1c : d.w1c = 0) (locked : Bool) (old v : Word) :
    d.after locked old v = maskMerge d.rw old v := by
  have hclear : ~~~(v &&& BitVec.ofNat 32 d.w1c) = BitVec.allOnes 32 := by rw [hw1c, BitVec.and_zero, BitVec.not_zero]
  have hmask : (if locked then d.rw else d.rw ||| d.rwl) = d.rw := by rw [hrwl, Nat.or_zero, ite_self]
  rw [RegDef.after, hclear, hmask]
  exact BitVec.and_allOnes

/-- WAKE_EN written through the mailbox. -/
theorem Machine.State.putLatch_wakeEn (s : State) (v : Word) :
    ∃ w, s.putLatch 0x3010 v = { s with mn := s.mn.setWord 0x3010 w } ∧ F.WAKE_EN_enable.of w = v.toNat % 64 := by
  have hreg : regAt 0x3010 = some ⟨"WAKE_EN", 0x3010, 1, 0x0, 0x3f, 0x0, 0x0, 0x0, 0x3f⟩ := by decide +kernel
  have hput : s.putLatch 0x3010 v = { s with mn := s.mn.putReg 0x3010 v } := rfl
  refine ⟨maskMerge 0x3f (s.mn.word 0x3010) v, ?_, ?_⟩
  · rw [hput, Main.putReg, hreg]
    exact congrArg (fun w => { s with mn := s.mn.setWord 0x3010 w }) (RegDef.after_of_rw (d := ⟨"WAKE_EN", 0x3010, 1, 0x0, 0x3f, 0x0, 0x0, 0x0, 0x3f⟩) rfl rfl _ _ v)
  · rw [Fld.of_maskMerge (by decide) (by decide)]
    exact congrArg (· % 64) (Nat.div_one _)

/-! ## RETRY -/

/-- What a reply sets in F1_INT stands beside what FWL_STATUS sets there. -/
theorem or_four_and_three (n : Nat) : (n ||| 4) &&& 3 = n &&& 3 := by
  rw [Nat.and_or_distrib_right]; exact Nat.or_zero _

/-- RETRY in Latch mode is answered, and a warm reset begins with the answer in place (R443). -/
theorem Machine.State.mbxRetry_inLatch {s : State} {f : State → State} {req : List Byte} (hmode : s.rc.latchMode = true)
    (hphase : s.rc.phase = .run) (hrails : s.rc.railsGood = true) (hf : f s = s.mbxRetry req) :
    (s.markFwl f).rc.latchMode = false ∧ (s.markFwl f).rc.phase = .stretch ∧ (s.markFwl f).rc.cls = 1
      ∧ (s.markFwl f).mn.fld F.RESET_CAUSE_cause = 5
      ∧ { (s.markFwl f).la.sdio with int1 := 0 } = { s.la.sdio.answered req 0 [] with int1 := 0 }
      ∧ (s.markFwl f).la.sdio.int1 &&& 3 = (s.la.sdio.int1 ||| 2) &&& 3 := by
  have hstart : f s = State.beginReset { s with la := s.la.answered req 0 [] } 1 5 0 false false := by
    rw [hf, State.mbxRetry, if_pos hmode, State.reply_empty, State.latchRetry, if_pos hmode]
    exact State.takeReset_run (s := { s with la := s.la.answered req 0 [] }) hphase 1 5 0 false false
  rw [State.beginReset_warm] at hstart
  obtain ⟨-, hm, hr, ha⟩ := State.markFwl_restarted hstart
  have hint := s.markFwl_int1 f
  rw [hstart, State.restarted_sdio] at hint
  generalize s.markFwl f = t at hm hr ha hint ⊢
  obtain ⟨-, hnote, -⟩ := s.mn.warmed.noteReset_fields (cls := 1) (cause := 5) (isl := 0) (by decide) (by decide) (by decide)
  have hregs : t.mn.regs
      = (s.mn.warmStarted 5 0 (State.runAfter { s with la := s.la.answered req 0 [] } 5 false)).regs := by rw [hm]
  refine ⟨by rw [hr]; rfl, ?_, by rw [hr]; rfl, ?_, ?_, ?_⟩
  · rw [hr]; exact if_pos hrails
  · exact (Main.fld_of_regs hregs _).trans ((Main.fld_setFld_other (s.mn.warmed.noteReset 1 5 0) F.ERR_STATUS_latch_run
      F.RESET_CAUSE_cause _ (by decide)).trans hnote)
  · obtain ⟨hla, -⟩ := ha
    rw [hla]; rfl
  · rcases hint with h | h
    · rw [h]; rfl
    · rw [h, or_four_and_three]; rfl

/-! ## MUTE -/

theorem Latch.Redriven.sdio {a b : Latch} (h : a.Redriven b) : b.sdio = a.sdio := by
  obtain ⟨heq, -⟩ := h
  rw [heq]

/-- The mailbox stands apart from what the hasp and the clocks change. -/
theorem Latch.Redriven.withSdio {a b : Latch} (h : a.Redriven b) (x : Sdio) :
    Latch.Redriven { a with sdio := x } { b with sdio := x } := by
  obtain ⟨heq, hrest⟩ := h
  exact ⟨congrArg (fun c : Latch => { c with sdio := x }) heq, hrest⟩

/-- HASP_CTL written by MUTE, while the pre-roll cascade is idle: answered with what the hasp then shows. -/
theorem Machine.State.muteWrite_reply {s : State} (hcand : s.la.cand = none) (hspool : s.la.spool = none) (hw0 : s.la.w0On = false)
    (hfifo : s.la.fifo = []) (v : Word) (req : List Byte) (status : Nat) :
    ∃ a, (s.muteWrite v).reply req status (leBytes 4 (s.muteWrite v).la.hasp.status.toNat) = { s with la := a }
      ∧ a.hasp = (s.muteWrite v).la.hasp ∧ a.sdio = s.la.sdio.answered req status (leBytes 4 a.hasp.status.toNat)
      ∧ Latch.Redriven { s.la with sdio := a.sdio } a := by
  have hwrite : s.muteWrite v = { s with la := s.la.haspTake (s.la.hasp.write v) s.g1Off } :=
    State.haspTake_of_idle hcand hspool hw0 hfifo _
  have hdriven : s.la.Redriven (s.la.haspTake (s.la.hasp.write v) s.g1Off) := by
    rw [Latch.haspTake_of_idle hcand hspool hw0]
    exact Latch.redriven_redrive ..
  rw [State.reply_word, hwrite]
  generalize s.la.haspTake _ _ = b at hdriven ⊢
  exact ⟨b.answered req status (leBytes 4 b.hasp.status.toNat), rfl, rfl,
    congrArg (fun x : Sdio => x.answered req status (leBytes 4 b.hasp.status.toNat)) hdriven.sdio, hdriven.withSdio _⟩

/-- Settles O53: what each command answers, and what is refused. -/
theorem theMailboxAnswers : Obligations.TheMailboxAnswers := by
  refine ⟨fun s bytes req hup hreq hcmd => ?_, fun s bytes req c k hup hreq hc hk hlen => ?_,
    fun s bytes req hup hreq hcmd hval hcand hspool hw0 hfifo => ?_, fun s bytes req hup hreq hcmd hval hcand hspool hw0 hfifo => ?_,
    fun s bytes req hup hreq hcmd hmode => ?_, fun s bytes req hup hreq hcmd hmode hphase hen hpg => ?_,
    fun s bytes req off hup hreq hcmd hoff hmay => ?_, fun s bytes req hup hreq hcmd hmay => ?_,
    fun s bytes req hup hreq hcmd hmay => ?_, fun s bytes req hup hreq hcmd hoff => ?_,
    fun s bytes req hup hreq hcmd => ?_, fun s bytes req c k hreq hc hk => ?_⟩
  all_goals subst hreq
  case refine_1 =>
    have hstep : s.mbx 1 bytes = _ :=
      (State.mbx_of_cmd hup (congrArg Prod.fst hcmd)).trans ((State.mbxDo_status hcmd).trans (s.reply_status _))
    exact ⟨_, congrArg Host.Outcome.next hstep, rfl⟩
  case refine_2 =>
    have hknown := (exec_mbx hc s).1
    have hstep : s.mbx k bytes = _ :=
      (State.mbx_of_cmd hup hk).trans ((State.mbxDo_of_length (hk ▸ hknown) (hk ▸ hlen)).trans (s.reply_empty _ _))
    exact ⟨_, next_mbx hc hstep rfl, rfl⟩
  case refine_3 =>
    obtain ⟨a, hreply, hhasp, hsdio, hredriven⟩ := State.muteWrite_reply hcand hspool hw0 hfifo
      (BitVec.ofNat 32 (1 + 256 * s.la.hasp.settle)) (mbxPad bytes) 0
    have hstep : s.mbx 2 bytes = { s with la := a } := by
      rw [State.mbx_of_cmd hup (congrArg Prod.fst hcmd), State.mbxDo_mute hcmd, ← hreply]
      simp [State.mbxMute, hval]
    refine ⟨_, congrArg Host.Outcome.next hstep, rfl, ?_, hsdio, hredriven⟩
    rw [hhasp, State.hasp_muteWrite]
    refine (Hasp.write_mute _ _).trans ?_
    rw [getLsbD_zero_settle]; rfl
  case refine_4 =>
    obtain ⟨a, hreply, hhasp, hsdio, hredriven⟩ := State.muteWrite_reply hcand hspool hw0 hfifo
      (BitVec.ofNat 32 (256 * s.la.hasp.settle)) (mbxPad bytes) (if s.la.hasp.pin then 2 else 0)
    have hzero : (BitVec.ofNat 32 (256 * s.la.hasp.settle)).getLsbD 0 = false := by
      rw [← Nat.zero_add (256 * _), getLsbD_zero_settle]; rfl
    have hstep : s.mbx 2 bytes = { s with la := a } := by
      rw [State.mbx_of_cmd hup (congrArg Prod.fst hcmd), State.mbxDo_mute hcmd, State.mbxMute_zero hval, ← hreply]
    refine ⟨_, congrArg Host.Outcome.next hstep, rfl, ?_, ?_, hsdio, hredriven⟩
    · rw [hhasp, State.hasp_muteWrite]
      exact (Hasp.write_mute _ _).trans (by rw [hzero, Bool.false_or])
    · rw [hhasp, State.hasp_muteWrite]
      exact (Hasp.write_unmuteRefused _ _).trans (by rw [hzero, Bool.not_false, Bool.true_and])
  case refine_5 =>
    have hstep : s.mbx 3 bytes = { s with la := s.la.answered (mbxPad bytes) 2 [] } := by
      rw [State.mbx_of_cmd hup (congrArg Prod.fst hcmd), State.mbxDo_retry hcmd, State.mbxRetry, hmode, if_neg (by decide), State.reply_empty]
    exact ⟨_, next_markFwl (f := fun s => s.mbx 3 bytes) rfl hstep rfl, rfl⟩
  case refine_6 =>
    have hrails : s.rc.railsGood = true := by rw [ResetCtl.railsGood, hen, hpg]; decide
    exact ⟨_, rfl, State.mbxRetry_inLatch hmode hphase hrails
      ((State.mbx_of_cmd hup (congrArg Prod.fst hcmd)).trans (State.mbxDo_retry hcmd))⟩
  case refine_7 =>
    subst hoff
    refine ⟨_, congrArg Host.Outcome.next ((State.mbx_of_cmd hup (congrArg Prod.fst hcmd)).trans ((State.mbxDo_readReg hcmd).trans ?_)), rfl⟩
    rw [State.mbxReadReg, hmay, State.readEffect_of_mbxMayRead hmay, State.reply_word]
    rfl
  case refine_8 =>
    refine ⟨_, congrArg Host.Outcome.next ((State.mbx_of_cmd hup (congrArg Prod.fst hcmd)).trans ((State.mbxDo_readReg hcmd).trans ?_)), rfl⟩
    rw [State.mbxReadReg, hmay, State.reply_empty]
    rfl
  case refine_9 =>
    have hstep : s.mbx 5 bytes = { s with la := s.la.answered (mbxPad bytes) 3 [] } := by
      rw [State.mbx_of_cmd hup (congrArg Prod.fst hcmd), State.mbxDo_writeReg hcmd, State.mbxWriteReg, hmay, State.reply_empty]
      rfl
    exact ⟨_, next_markFwl (f := fun s => s.mbx 5 bytes) rfl hstep rfl, rfl⟩
  case refine_10 =>
    obtain ⟨w, hput, hw⟩ := s.putLatch_wakeEn (BitVec.ofNat 32 (leNat ((mbxPayload (mbxPad bytes)).drop 4)))
    have hok : ¬((0x3010 : Nat) % 4 ≠ 0 ∨ (regAt 0x3010).isNone = true) := by decide +kernel
    have hstep : s.mbx 5 bytes = { s with mn := s.mn.setWord 0x3010 w, la := s.la.answered (mbxPad bytes) 0 [] } := by
      rw [State.mbx_of_cmd hup (congrArg Prod.fst hcmd), State.mbxDo_writeReg hcmd, State.mbxWriteReg, hoff]
      rw [if_neg (by decide), if_neg hok, hput, State.reply_empty]
    have hstays : Machine.State.fwlStatus { s with mn := s.mn.setWord 0x3010 w, la := s.la.answered (mbxPad bytes) 0 [] } = s.fwlStatus :=
      State.fwlStatus_congr (Main.fld_setWord_other s.mn 0x3010 w F.BOOT_STATUS_stage (by decide))
        (Main.fld_setWord_other s.mn 0x3010 w F.BOOT_STATUS_error (by decide)) rfl
    refine ⟨_, next_markFwl (f := fun s => s.mbx 5 bytes) rfl hstep hstays, rfl, s.mn.regsBut_setWord 0x3010 w, ?_, rfl⟩
    show F.WAKE_EN_enable.of ((s.mn.setWord 0x3010 w).word 0x3010) = _
    rw [Main.word_setWord_same, hw, BitVec.toNat_ofNat, Nat.mod_mod_of_dvd _ (by decide)]
  case refine_11 =>
    have hunknown : mbxKnown (mbxCmd (mbxPad bytes)).1 = false := by
      rw [mbxKnown, decide_eq_false_iff_not]; omega
    refine ⟨_, congrArg Host.Outcome.next (Eq.trans ?_ ((State.mbxDo_of_unknown hunknown).trans (s.reply_empty _ _))), rfl⟩
    rw [State.mbxUnknown, hunknown, State.viaSdio_up _ _ hup.1 hup.2]
    rfl
  case refine_12 =>
    exact next_mbx hc (if_pos hk) rfl

end Sys2Proof
end

section
/-! SUPPORT AND PROOF. Sleep entered, refused or given up (spec/17_power.md R375 to R382). -/

namespace Sys2Proof
open Machine

theorem Main.sleepState_of_free {m : Main} (h : m.wakeHeld = false) : m.sleepState = m.fld F.SLEEP_STATUS_state := by
  rw [Main.sleepState, h]; rfl

theorem Main.sleepBusy_of_free {m : Main} (h : m.wakeHeld = false) : m.sleepBusy = m.bit F.SLEEP_STATUS_busy := by
  rw [Main.sleepBusy, h]; rfl

theorem Main.wakeHeld_of_sleepBusy {m : Main} (h : m.sleepBusy = true) : m.wakeHeld = false := by
  rw [Main.sleepBusy, Bool.and_eq_true, Bool.not_eq_true'] at h
  exact h.1

/-- Neither reads more than SLEEP_STATUS and whether a wake is held. -/
theorem Main.sleepBusy_congr {m n : Main} (hword : n.word F.SLEEP_STATUS_busy.off = m.word F.SLEEP_STATUS_busy.off)
    (hheld : n.wakeHeld = m.wakeHeld) : n.sleepBusy = m.sleepBusy := by
  rw [Main.sleepBusy, Main.sleepBusy, hheld, Main.bit, Main.bit, Main.fld, Main.fld, hword]

/-! ## What SLEEP_STATUS shows of an entry -/

/-- SLEEP_STATUS of an entry that goes on or has ended. -/
def Main.sleepShown (m : Main) (busy result blocker : Nat) : Main :=
  ((m.setFld F.SLEEP_STATUS_busy busy).setFld F.SLEEP_STATUS_result result).setFld F.SLEEP_STATUS_blocker blocker

section
variable (m : Main) {busy result blocker : Nat}

theorem Main.onlyRegs_sleepShown : m.OnlyRegs (m.sleepShown busy result blocker) :=
  ((Main.OnlyRegs.refl.setFld _ _).setFld _ _).setFld _ _

theorem Main.regsBut_sleepShown : m.RegsBut (m.sleepShown busy result blocker) [F.SLEEP_STATUS_busy.off] :=
  ((Main.RegsBut.refl.setFld (f := F.SLEEP_STATUS_busy) (by decide) _).setFld (f := F.SLEEP_STATUS_result) (by decide) _).setFld
    (f := F.SLEEP_STATUS_blocker) (by decide) _

theorem Main.sleepShown_fields (hbusy : busy < 2) (hresult : result < 8) (blocker : Nat) :
    (m.sleepShown busy result blocker).fld F.SLEEP_STATUS_busy = busy ∧ (m.sleepShown busy result blocker).fld F.SLEEP_STATUS_result = result
      ∧ (m.sleepShown busy result blocker).fld F.SLEEP_STATUS_blocker = blocker % 256
      ∧ (m.sleepShown busy result blocker).fld F.SLEEP_STATUS_state = m.fld F.SLEEP_STATUS_state := by
  unfold Main.sleepShown
  refine ⟨?_, ?_, Main.fld_setFld_same _ _ _ ⟨by decide, by decide⟩, ?_⟩
  · rw [Main.fld_setFld_of_apart _ (by decide), Main.fld_setFld_of_apart _ (by decide), Main.fld_setFld_of_lt _ (by decide) hbusy]
  · rw [Main.fld_setFld_of_apart _ (by decide), Main.fld_setFld_of_lt _ (by decide) hresult]
  · rw [Main.fld_setFld_of_apart _ (by decide), Main.fld_setFld_of_apart _ (by decide), Main.fld_setFld_of_apart _ (by decide)]

end

/-! ## An entry given up -/

theorem Main.sleepAbandon_eq (m : Main) (result blocker : Nat) :
    m.sleepAbandon result blocker
      = { m with regs := (m.sleepShown 0 result blocker).regs, acceptStop := false, kr := { m.kr with event := true } } := by
  have honly := (m.onlyRegs_sleepShown (busy := 0) (result := result) (blocker := blocker)).eq
  have habandon : m.sleepAbandon result blocker = { m.sleepShown 0 result blocker with
      acceptStop := false, kr := { (m.sleepShown 0 result blocker).kr with event := true } } := rfl
  generalize m.sleepShown 0 result blocker = n at honly habandon ⊢
  rw [habandon, honly]

/-- Where no wake is held, an abandoned entry is over. -/
theorem Main.sleepAbandon_fields {m : Main} {result : Nat} (hresult : result < 8) (blocker : Nat) :
    m.RegsBut (m.sleepAbandon result blocker) [F.SLEEP_STATUS_busy.off] ∧ (m.sleepAbandon result blocker).sleepBusy = false
      ∧ (m.sleepAbandon result blocker).fld F.SLEEP_STATUS_result = result
      ∧ (m.sleepAbandon result blocker).fld F.SLEEP_STATUS_blocker = blocker % 256 := by
  obtain ⟨hbusy, hres, hblock, -⟩ := m.sleepShown_fields (busy := 0) (by decide) hresult blocker
  rw [Main.sleepAbandon_eq]
  refine ⟨m.regsBut_sleepShown (busy := 0), ?_, hres, hblock⟩
  have hclear : Main.bit { m with regs := (m.sleepShown 0 result blocker).regs, acceptStop := false, kr := { m.kr with event := true } }
      F.SLEEP_STATUS_busy = false := bne_eq_false_iff_eq.2 hbusy
  rw [Main.sleepBusy, hclear, Bool.and_false]

/-! ## SLEEP_GO (R378) -/

/-- The registers once an entry begins. -/
def Main.sleepAsked (m : Main) (v : Word) : Main :=
  (m.setWord 0x3004 (maskMerge 0xffff07 (m.word 0x3004) v)).sleepShown 1 0 0

theorem sleepTarget_eq (v : Word) : F.SLEEP_CTL_target.of v = v.toNat % 8 := congrArg (· % 8) (Nat.div_one _)

theorem Main.sleepAsked_fields (m : Main) (v : Word) :
    m.OnlyRegs (m.sleepAsked v) ∧ m.RegsBut (m.sleepAsked v) [0x3004, F.SLEEP_STATUS_busy.off]
      ∧ (m.sleepAsked v).fld F.SLEEP_CTL_target = v.toNat % 8 ∧ (m.sleepAsked v).fld F.SLEEP_STATUS_busy = 1
      ∧ (m.sleepAsked v).fld F.SLEEP_STATUS_result = 0 ∧ (m.sleepAsked v).fld F.SLEEP_STATUS_blocker = 0 := by
  unfold Main.sleepAsked
  generalize hn : m.setWord 0x3004 (maskMerge 0xffff07 (m.word 0x3004) v) = n
  have honly : m.OnlyRegs n := hn ▸ ⟨_, rfl⟩
  have hregs : m.RegsBut n [0x3004] := hn ▸ m.regsBut_setWord _ _
  have htarget : n.fld F.SLEEP_CTL_target = v.toNat % 8 := by
    rw [Main.fld, ← hn]
    exact (congrArg F.SLEEP_CTL_target.of (Main.word_setWord_same m 0x3004 _)).trans
      ((Fld.of_maskMerge (by decide) (by decide) _ _).trans (sleepTarget_eq v))
  obtain ⟨hbusy, hresult, hblocker, -⟩ := n.sleepShown_fields (busy := 1) (result := 0) (by decide) (by decide) 0
  have hshown := n.regsBut_sleepShown (busy := 1) (result := 0) (blocker := 0)
  refine ⟨?_, fun o ho => ?_, (congrArg F.SLEEP_CTL_target.of (hshown _ (by decide))).trans htarget, hbusy, hresult, hblocker⟩
  · exact ((honly.setFld _ _).setFld _ _).setFld _ _
  · simp only [List.mem_cons, List.not_mem_nil, or_false, not_or] at ho
    exact (hshown o (by simpa using ho.2)).trans (hregs o (by simpa using ho.1))

/-- A state that is asked for and may be entered. -/
theorem Machine.State.sleepGo_of_ok {s : State} {v : Word} (hawake : s.mn.sleepState = 0) (hbusy : s.mn.sleepBusy = false)
    (hheld : s.mn.wakeHeld = false) (hmin : 1 ≤ v.toNat % 8) (hmax : v.toNat % 8 ≤ 4)
    (himg : v.toNat % 8 = 3 → s.mn.bit F.SLEEP_IMG_enable = true) :
    s.sleepGo v = match Main.sleepRefuse { s.mn.sleepAsked v with acceptStop := true } (v.toNat % 8) with
      | some b => { s with mn := Main.sleepAbandon { s.mn.sleepAsked v with acceptStop := true } 2 b }
      | none => { s with mn := { s.mn.sleepAsked v with acceptStop := true } } := by
  have hgo : (s.mn.sleepBusy || s.mn.wakeHeld || s.mn.sleepState != 0 || v.toNat % 8 == 0 || decide (4 < v.toNat % 8)
      || (v.toNat % 8 == 3 && !s.mn.bit F.SLEEP_IMG_enable)) = false := by
    by_cases h3 : v.toNat % 8 = 3
    · simp [hbusy, hheld, hawake, h3, himg h3]
    · simp [hbusy, hheld, hawake, h3]; omega
  unfold State.sleepGo
  dsimp only
  rw [sleepTarget_eq, hgo, if_neg Bool.false_ne_true]
  rfl

/-- One that is not there, or that has no image, is refused. -/
theorem Machine.State.sleepGo_of_bad {s : State} {v : Word}
    (h : v.toNat % 8 = 0 ∨ 4 < v.toNat % 8 ∨ v.toNat % 8 = 3 ∧ s.mn.bit F.SLEEP_IMG_enable = false) :
    s.sleepGo v = { s with mn := s.mn.setFld F.SLEEP_STATUS_result 5 } := by
  refine if_pos ?_
  rw [sleepTarget_eq]
  rcases h with h | h | ⟨h, himg⟩
  · simp [h]
  · simp [h]
  · simp [h, himg]

/-- With no lane running and nothing loading no block refuses. -/
theorem Main.sleepRefuse_of_quiet {m : Main} (hlane : ∀ l < 4, (m.lane l).st = .idle) (hload : ∀ p ∈ m.regions, p.2.st ≠ .loading)
    (target : Nat) : m.sleepRefuse target = none := by
  have hnone : ((List.range 4).find? fun l => (m.lane l).st == .running || (m.lane l).st == .stopping) = none :=
    List.find?_eq_none.2 fun l hl => by rw [hlane l (List.mem_range.1 hl)]; decide
  have hfree : (m.regions.any fun p => p.2.st == .loading) = false :=
    List.any_eq_false.2 fun p hp => by simpa using hload p hp
  unfold Main.sleepRefuse
  rw [hnone, hfree]
  simp

/-- Lane 0 is the first block that can refuse. -/
theorem Main.sleepRefuse_of_lane {m : Main} (h : (m.lane 0).st = .running) (target : Nat) : m.sleepRefuse target = some 0xA0 := by
  have hfirst : ((List.range 4).find? fun l => (m.lane l).st == .running || (m.lane l).st == .stopping) = some 0 := by
    rw [List.range_succ_eq_map, List.find?_cons, h]; rfl
  unfold Main.sleepRefuse
  rw [hfirst]

/-! ## The state entered (R379) -/

/-- Entry to S2 or deeper leaves of each sensor all but its reference (Table 16-8). -/
theorem Main.sensor_camSlept (m : Main) (x : List (Nat × I3c)) (i : Nat) :
    Main.sensor { m with cam := { m.cam with sensors := m.cam.sensors.map fun p => (p.1, { p.2 with ref := none }), i3c := x } } i
      = { m.sensor i with ref := none } :=
  Tab.get_map camDef (fun y => { y with ref := none }) m.cam.sensors i rfl

theorem Main.saveAll_of_none {m : Main} (h : ∀ p ∈ m.ctxs, p.2.resident = false) : m.saveAll = m := by
  have hnone : m.ctxs.filter (fun p => p.2.resident) = [] := List.filter_eq_nil_iff.2 fun p hp => by rw [h p hp]; decide
  unfold Main.saveAll
  rw [hnone]
  rfl

/-- With no frame in progress entry to sleep makes references invalid and stops the I3C controllers. -/
theorem Main.camSleep_of_idle {m : Main} (h : ∀ i < 16, (m.sensor i).inFrame = false) :
    m.camSleep = { m with cam := { m.cam with sensors := m.cam.sensors.map fun p => (p.1, { p.2 with ref := none }), i3c := [] } } := by
  have hnone : (List.range 16).foldl (fun m s => if (m.sensor s).inFrame then m.camClose s true [] else m) m = m :=
    List.foldlRecOn (motive := (· = m)) _ _ rfl fun n hn i hi => by
      rw [hn, h i (List.mem_range.1 hi)]; rfl
  unfold Main.camSleep
  rw [hnone]

/-- SLEEP_STATUS once a state is entered. -/
def Main.sleepEntered (m : Main) (g : Nat) : Main :=
  ((m.setFld F.SLEEP_STATUS_state g).setFld F.SLEEP_STATUS_busy 0).setFld F.SLEEP_STATUS_result 1

theorem Main.sleepEntered_fields (m : Main) {g : Nat} (hg : g < 8) :
    m.OnlyRegs (m.sleepEntered g) ∧ m.RegsBut (m.sleepEntered g) [F.SLEEP_STATUS_state.off]
      ∧ (m.sleepEntered g).fld F.SLEEP_STATUS_state = g ∧ (m.sleepEntered g).fld F.SLEEP_STATUS_busy = 0
      ∧ (m.sleepEntered g).fld F.SLEEP_STATUS_result = 1 := by
  unfold Main.sleepEntered
  refine ⟨((Main.OnlyRegs.refl.setFld _ _).setFld _ _).setFld _ _, ?_, ?_, ?_, ?_⟩
  · exact ((Main.RegsBut.refl.setFld (f := F.SLEEP_STATUS_state) (by decide) _).setFld (f := F.SLEEP_STATUS_busy) (by decide) _).setFld
      (f := F.SLEEP_STATUS_result) (by decide) _
  · rw [Main.fld_setFld_of_apart _ (by decide), Main.fld_setFld_of_apart _ (by decide), Main.fld_setFld_of_lt _ (by decide) hg]
  · rw [Main.fld_setFld_of_apart _ (by decide), Main.fld_setFld_of_lt _ (by decide) (by decide)]
  · rw [Main.fld_setFld_of_lt _ (by decide) (by decide)]

/-- The camera as sleep leaves it: from S2 on without references. -/
def Main.camStilled (m : Main) (g : Nat) : Main :=
  if 2 ≤ g then { m with cam := { m.cam with sensors := m.cam.sensors.map fun p => (p.1, { p.2 with ref := none }), i3c := [] } } else m

/-- The reset controller once a sleep state is entered (Tables 17-4 and 23-2). -/
def ResetCtl.slept (r : ResetCtl) (g : Nat) : ResetCtl :=
  { r with
    enables := railsIn g, pgs := railsIn g, retLost := false, imem := if 3 ≤ g then none else r.imem
    ready := decide (g < 3) && r.ready, linkUp := decide (g < 3) && r.linkUp }

theorem Machine.State.enterSleep_of_idle {s : State} (hres : ∀ p ∈ s.mn.ctxs, p.2.resident = false)
    (hcam : ∀ i < 16, (s.mn.sensor i).inFrame = false) (g : Nat) :
    s.enterSleep g = State.sync { s with mn := (s.mn.camStilled g).sleepEntered g, rc := s.rc.slept g } := by
  have hmain : (if 2 ≤ g then Main.camSleep (if 2 ≤ g then s.mn.saveAll else s.mn) else (if 2 ≤ g then s.mn.saveAll else s.mn))
      = s.mn.camStilled g := by
    rw [Main.saveAll_of_none hres, ite_self, Main.camSleep_of_idle hcam]
    rfl
  have hctl : (if 3 ≤ g then { s.rc with enables := railsIn g, pgs := railsIn g, retLost := false, imem := none, ready := false, linkUp := false }
      else ({ s.rc with enables := railsIn g, pgs := railsIn g, retLost := false } : ResetCtl)) = s.rc.slept g := by
    by_cases h : 3 ≤ g
    · simp [ResetCtl.slept, h, Nat.not_lt.2 h]
    · simp [ResetCtl.slept, h, Nat.not_le.1 h]
  unfold State.enterSleep
  dsimp only
  rw [hmain, hctl]
  rfl

theorem Main.camStilled_frame (m : Main) (g : Nat) : m.camStilled g = { m with cam := (m.camStilled g).cam } := by
  unfold Main.camStilled; split <;> rfl

theorem Main.sensor_camStilled (m : Main) (g i : Nat) :
    (m.camStilled g).sensor i = if 2 ≤ g then { m.sensor i with ref := none } else m.sensor i := by
  unfold Main.camStilled
  split
  · exact m.sensor_camSlept _ i
  · rfl

theorem Machine.State.lapseH6_of_none {s : State} (h : s.la.cand = none) : s.lapseH6 = s := by
  rw [State.lapseH6, h]

/-- The Warden's side once a sleep state is entered with no frame in progress: registers and the camera alone have changed. -/
theorem Main.slept_fields (m : Main) {g : Nat} (hg : g < 8) :
    let n := (m.camStilled g).sleepEntered g
    n = { m with regs := n.regs, cam := n.cam } ∧ m.RegsBut n [F.SLEEP_STATUS_state.off] ∧ n.wakeHeld = m.wakeHeld
      ∧ n.fld F.SLEEP_STATUS_state = g ∧ n.fld F.SLEEP_STATUS_busy = 0 ∧ n.fld F.SLEEP_STATUS_result = 1
      ∧ ∀ i, n.sensor i = if 2 ≤ g then { m.sensor i with ref := none } else m.sensor i := by
  intro n
  obtain ⟨honly, hregs, hstate, hclear, hresult⟩ := (m.camStilled g).sleepEntered_fields hg
  have hcamera := m.camStilled_frame g
  have hsensor := m.sensor_camStilled g
  obtain ⟨r, hshown⟩ := honly
  have hn : n = { m.camStilled g with regs := r } := hshown
  have hwords : m.RegsBut (m.camStilled g) [] := fun o _ => by rw [hcamera]; rfl
  clear_value n
  subst hn
  refine ⟨?_, fun o ho => ?_, ?_, ?_, ?_, ?_, hsensor⟩
  · rw [hcamera]
  · rw [← hshown]; exact (hregs o ho).trans (hwords o List.not_mem_nil)
  · rw [hcamera]
  · rw [← hshown]; exact hstate
  · rw [← hshown]; exact hclear
  · rw [← hshown]; exact hresult

theorem Machine.State.sleepProceed_of_idle {s : State} (hup : s.wardenUp = true) (hbusy : s.mn.sleepBusy = true)
    (hdelay : s.mn.sleepDelays s.rc.blkWard = []) (hres : ∀ p ∈ s.mn.ctxs, p.2.resident = false)
    (hcam : ∀ i < 16, (s.mn.sensor i).inFrame = false) (hcand : s.la.cand = none) :
    s.sleepProceed = State.redrive (State.sync { s with
      mn := (s.mn.camStilled (s.mn.fld F.SLEEP_CTL_target)).sleepEntered (s.mn.fld F.SLEEP_CTL_target)
      rc := s.rc.slept (s.mn.fld F.SLEEP_CTL_target) }) := by
  have hproceed : s.sleepProceed = State.lapseH6 (State.redrive (s.enterSleep (s.mn.fld F.SLEEP_CTL_target))) := by
    simp [State.sleepProceed, hbusy, State.awake_of_wardenUp hup, hdelay]
  rw [hproceed, State.enterSleep_of_idle hres hcam]
  exact State.lapseH6_of_none hcand

/-- Settles O46: a go that is permitted, one that asks what is not allowed, one that a lane refuses, and an entry's two ends. -/
theorem sleepIsEntered : Obligations.SleepIsEntered := by
  refine ⟨fun s v hup hbusy hheld hmin hmax himg hlane hload => ?_, fun s v hup hbad => ?_,
    fun s v hup hbusy hheld hmin hmax hlane => ?_, fun s g hup hbusy hdelay hg hlt hres hcam hcand => ?_,
    fun s b bs hup hbusy hdelay => ?_⟩
  case refine_1 =>
    obtain ⟨honly, hregs, htarget, hset, hresult, hblocker⟩ := s.mn.sleepAsked_fields v
    have hgo := State.sleepGo_of_ok hup.2 hbusy hheld hmin hmax himg
    have hframe := honly.eq
    have hfree : (s.mn.sleepAsked v).wakeHeld = false := honly.wakeHeld.trans hheld
    generalize s.mn.sleepAsked v = n at hgo hframe hregs htarget hset hresult hblocker hfree
    have hnone : Main.sleepRefuse { n with acceptStop := true } (v.toNat % 8) = none := by
      rw [hframe]; exact Main.sleepRefuse_of_quiet hlane hload _
    rw [hnone] at hgo
    refine ⟨_, congrArg Host.Outcome.next ((State.hostLatch_up _ _ hup.1 hup.2).trans hgo), ?_, hregs, htarget, ?_, hresult, hblocker⟩
    · rw [hframe]
    · exact (Main.sleepBusy_of_free hfree).trans (bne_iff_ne.2 (by rw [hset]; decide))
  case refine_2 =>
    refine ⟨_, congrArg Host.Outcome.next ((State.hostLatch_up _ _ hup.1 hup.2).trans (State.sleepGo_of_bad hbad)),
      (Main.OnlyRegs.refl.setFld _ _).eq, s.mn.regsBut_setFld _ _, Main.fld_setFld_of_lt _ (by decide) (by decide), ?_⟩
    rw [Main.sleepBusy, Main.sleepBusy, Main.bit, Main.fld_setFld_of_apart _ (by decide)]
    rfl
  case refine_3 =>
    obtain ⟨honly, hregs, -⟩ := s.mn.sleepAsked_fields v
    have hgo := State.sleepGo_of_ok (v := v) hup.2 hbusy hheld hmin (by omega) (fun h => by omega)
    have hframe := honly.eq
    generalize s.mn.sleepAsked v = n at hgo hframe
    have hsome : Main.sleepRefuse { n with acceptStop := true } (v.toNat % 8) = some 0xA0 := by
      rw [hframe]; exact Main.sleepRefuse_of_lane hlane _
    rw [hsome] at hgo
    obtain ⟨-, hover, hresult, hblocker⟩ := Main.sleepAbandon_fields (m := { n with acceptStop := true }) (result := 2) (by decide) 0xA0
    refine ⟨_, congrArg Host.Outcome.next ((State.hostLatch_up _ _ hup.1 hup.2).trans hgo), ?_, hover, hresult, hblocker⟩
    rw [Main.sleepAbandon_eq, hframe]
  case refine_4 =>
    subst hg
    have hgo : (if s.wardenUp then s.sleepProceed else s) = _ :=
      (if_pos hup).trans (State.sleepProceed_of_idle hup hbusy hdelay hres hcam hcand)
    generalize s.mn.fld F.SLEEP_CTL_target = g at hlt hgo ⊢
    obtain ⟨hframe, hregs, hheld, hstate, hclear, hresult, hsensor⟩ := s.mn.slept_fields (g := g) (by omega)
    have hfree := hheld.trans (Main.wakeHeld_of_sleepBusy hbusy)
    generalize (s.mn.camStilled g).sleepEntered g = n at hgo hframe hregs hheld hstate hclear hresult hsensor hfree
    have hstays : Machine.State.fwlStatus { s with mn := n } = s.fwlStatus :=
      State.fwlStatus_congr (congrArg F.BOOT_STATUS_stage.of (hregs _ (by decide))) (congrArg F.BOOT_STATUS_error.of (hregs _ (by decide))) rfl
    refine ⟨_, next_markFwl (f := fun s => if s.wardenUp then s.sleepProceed else s) rfl hgo hstays, rfl, ?_, hregs, ?_, ?_, hresult,
      Latch.redriven_redrive_self _ _, rfl, fun i _ => hsensor i⟩
    · show { n with absent := _ } = _
      rw [hframe]
      rfl
    · exact (Main.sleepState_of_free hfree).trans hstate
    · exact (Main.sleepBusy_of_free hfree).trans (bne_eq_false_iff_eq.2 hclear)
  case refine_5 =>
    have hheld := Main.wakeHeld_of_sleepBusy hbusy
    have hawake := State.awake_of_wardenUp hup
    have htimeout : s.sleepTimeout = { s with mn := s.mn.sleepAbandon 3 b } := by
      simp [State.sleepTimeout, hbusy, hawake, hdelay]
    obtain ⟨hregs, hover, hresult, hblocker⟩ := Main.sleepAbandon_fields (m := s.mn) (result := 3) (by decide) b
    refine ⟨_, congrArg Host.Outcome.next ((if_pos hup).trans htimeout), ?_, hregs, hover, hresult, hblocker⟩
    rw [Main.sleepAbandon_eq]

end Sys2Proof
end

section
/-! SUPPORT AND PROOF. Waking (spec/17_power.md R375 to R377, R383 to R386). -/

namespace Sys2Proof
open Machine

/-! ## A wake source found (R383, R384) -/

theorem Main.onlyRegs_waking (m : Main) (src : Nat) : m.OnlyRegs (m.waking src) :=
  (Main.OnlyRegs.refl.setWord _ _).setFld _ _

theorem Main.sleepState_waking (m : Main) (src : Nat) : (m.waking src).sleepState = m.sleepState := by
  have hstate : (m.waking src).fld F.SLEEP_STATUS_state = m.fld F.SLEEP_STATUS_state :=
    (Main.fld_setFld_of_apart _ (by decide) _).trans (Main.fld_setWord_other _ _ _ _ (by decide))
  rw [Main.sleepState, Main.sleepState, hstate, (m.onlyRegs_waking src).wakeHeld]

/-- What LAST_WAKE says of a wake from a sleep state besides its source. -/
theorem Main.waking_count (m : Main) {src : Nat} (hsrc : src < 16) (hst : m.sleepState < 8) :
    (m.waking src).fld F.LAST_WAKE_aborted = 0 ∧ (m.waking src).fld F.LAST_WAKE_count = satAdd 8 (m.fld F.LAST_WAKE_count) 1 := by
  obtain ⟨-, -, haborted, hcount⟩ := m.noteWake_fields (aborted := 0) hsrc hst (by decide)
  exact ⟨(Main.fld_setFld_of_apart _ (by decide) _).trans haborted, (Main.fld_setFld_of_apart _ (by decide) _).trans hcount⟩

theorem Main.sleepState_lt (m : Main) : m.sleepState < 8 := by
  have hfld := m.fld_lt F.SLEEP_STATUS_state
  unfold Main.sleepState
  split
  · decide
  · exact hfld

/-- During an entry a source gives the entry up. -/
theorem Machine.State.wakeFrom_entering {s : State} {src : Nat} (henabled : s.mn.wakeEnabled src = true) (hheld : s.rc.wardenHeld = false)
    (hawake : s.mn.sleepState = 0) (hbusy : s.mn.sleepBusy = true) :
    s.wakeFrom src = { s with mn := (s.mn.noteWake src 0 1).sleepAbandon 4 0 } := by
  simp [State.wakeFrom, henabled, hheld, hawake, hbusy, Main.wakeHeld_of_sleepBusy hbusy]

/-- From S3 and S4 the boot flow runs. -/
theorem Machine.State.wakeFrom_deep {s : State} {src : Nat} (henabled : s.mn.wakeEnabled src = true) (hheld : s.rc.wardenHeld = false)
    (hdeep : 3 ≤ s.mn.sleepState) (hin : wakeIn src s.mn.sleepState = true) (hbusy : s.mn.sleepBusy = false) :
    s.wakeFrom src = { s with
      mn := (s.mn.waking src).setFld F.BOOT_STATUS_stage 1, rc := { s.rc with wakeBoot := true, ready := false, fetching := false } } := by
  have hasleep : s.mn.sleepState ≠ 0 := by omega
  simp [State.wakeFrom, henabled, hheld, hasleep, hin, hbusy, hdeep, Main.waking]

theorem wakeIn_of_le {src st : Nat} (h : 2 ≤ st ∨ st = 1 ∧ 3 ≤ src) : wakeIn src st = true := by
  unfold wakeIn
  split
  · exact decide_eq_true (by omega)
  · exact decide_eq_true (by omega)

/-! ## The wake complete (R385) -/

/-- Whether a boundary finds anything waiting depends on wards, fences, contexts and the protection set-up alone. -/
theorem Main.Quiet.congr {m n : Main} (h : m.Quiet) (hwards : n.wards = m.wards) (hfence : n.fence = m.fence) (hctxs : n.ctxs = m.ctxs)
    (hprot : n.prot = m.prot) : n.Quiet := by
  unfold Main.Quiet Main.fencedWard Main.ward at *
  rw [hwards, hfence, hctxs, hprot]
  exact h

/-- After a warm reset nothing waits: the fenced wards are off. -/
theorem Main.quiet_warmed (m : Main) : m.warmed.Quiet := by
  refine ⟨fun w hw => ?_, fun p hp => absurd hp List.not_mem_nil, rfl⟩
  have hlisted {x : Ward} (h : (w, x) ∈ m.warmed.wards) : x = { ({} : Ward) with powered := false } := by
    obtain ⟨v, -, heq⟩ := List.mem_map.1 h
    exact (congrArg Prod.snd heq).symm
  by_cases hfenced : m.warmed.fencedWard w = true
  · have hmem : (w, { ({} : Ward) with powered := false }) ∈ m.warmed.wards :=
      List.mem_map_of_mem (List.mem_filter.2 ⟨List.mem_range.2 hw, hfenced⟩)
    have hoff : m.warmed.ward w = { ({} : Ward) with powered := false } := hlisted (Tab.get_mem wardDef _ hmem)
    rw [hoff]
    exact ⟨rfl, fun _ => rfl⟩
  · refine ⟨?_, fun h => absurd h hfenced⟩
    rcases Tab.get_mem_or_default wardDef m.warmed.wards w with h | h
    · exact congrArg Ward.fencePending (hlisted h)
    · exact congrArg Ward.fencePending h

/-- The Warden's side after SRAM was lost waits for nothing where it waited for nothing before. -/
theorem Main.Quiet.sramLost {m : Main} (h : m.Quiet) (keep : Bool) : (m.sramLost keep).Quiet := by
  obtain ⟨hward, hctx, hprot⟩ := h
  refine ⟨fun w hw => ?_, hctx, hprot⟩
  have hw := hward w hw
  have hlost : (m.sramLost keep).ward w = { m.ward w with
      loaded := none, holds := [], openUnits := [], tenants := if keep then (m.ward w).tenants else [] } :=
    Tab.get_map wardDef (fun x => { x with loaded := none, holds := [], openUnits := [], tenants := if keep then x.tenants else [] }) m.wards w
      (by cases keep <;> rfl)
  rw [hlost]
  exact hw

/-- The state at the end of a wake: what its orders leave, with the part awake again. -/
def Machine.State.woken (s : State) (m : Main) (r : ResetCtl) : State :=
  (((State.sync { s with mn := m, rc := r, la := { s.la with wakePin := false } }).onMn Main.settle).redrive).drainRecords.nowAwake

theorem Machine.State.woken_of_idle {s : State} (hfifo : s.la.fifo = []) (hcand : s.la.cand = none) {m : Main} (h : m.Quiet) (r : ResetCtl) :
    s.woken m r = { s with mn := (s.woken m r).mn, la := (s.woken m r).la, rc := r }
      ∧ (s.woken m r).mn = { m with regs := (s.woken m r).mn.regs, absent := (s.woken m r).mn.absent }
      ∧ m.RegsBut (s.woken m r).mn [F.HINGE_NOW_in_force.off] ∧ (s.woken m r).la.wakePin = false
      ∧ Latch.Redriven { s.la with wakePin := false } (s.woken m r).la := by
  generalize hu : ((State.sync { s with mn := m, rc := r, la := { s.la with wakePin := false } }).onMn Main.settle).redrive = u
  have hwoken : s.woken m r = u := by
    have hempty : u.la.fifo = [] := by rw [← hu]; exact hfifo
    have hnone : u.la.cand = none := by rw [← hu]; exact hcand
    unfold State.woken
    rw [hu, State.drainRecords_of_empty hempty, State.nowAwake, hnone]
  rw [hwoken]
  subst hu
  have hquiet : Main.Quiet { m with absent := (State.sync { s with mn := m, rc := r, la := { s.la with wakePin := false } }).mn.absent } := h
  obtain ⟨g, hg, hregs⟩ := Main.settleH3_regs
    { m with absent := (State.sync { s with mn := m, rc := r, la := { s.la with wakePin := false } }).mn.absent }
  have hsettle := (Main.settle_of_quiet _ hquiet).trans hg
  have hmn : (((State.sync { s with mn := m, rc := r, la := { s.la with wakePin := false } }).onMn Main.settle).redrive).mn = _ := hsettle
  refine ⟨rfl, ?_, ?_, rfl, Latch.redriven_redrive_self _ _⟩
  · rw [hmn]
  · rw [hmn]; exact hregs

/-- The wake passed on over LaNiza where LANIZA_CTL.wake_fwd is set (R322). -/
def Main.wakePassed (m : Main) : Main := if m.bit F.LANIZA_CTL_wake_fwd then m.sendWake true true else m

/-- Acceptance and list points restart. -/
def Main.resumed (m : Main) : Main := { m with acceptStop := false, kr := { m.kr with event := true } }

/-- The reset controller once a wake is complete. -/
def ResetCtl.woken (r : ResetCtl) (st : Nat) : ResetCtl :=
  { r with enables := [0, 1, 2, 3, 4], pgs := [0, 1, 2, 3, 4], linkUp := r.linkUp || decide (3 ≤ st), wakeBoot := false, retLost := false }

/-- After S4 the wake is held until recovery completes (Table 17-7, order 8). -/
def Main.wakeAwaits (m : Main) : Main :=
  { (m.setFld F.SLEEP_STATUS_state 4).setFld F.SLEEP_STATUS_busy 1 with wakeHeld := true }

theorem Main.wakeAwaits_fields (m : Main) :
    m.wakeAwaits.fld F.SLEEP_STATUS_state = 4 ∧ m.wakeAwaits.fld F.SLEEP_STATUS_busy = 1
      ∧ m.wakeAwaits.fld F.HOST_STATUS_recovery_needed = m.fld F.HOST_STATUS_recovery_needed := by
  refine ⟨?_, ?_, ?_⟩
  · exact (Main.fld_setFld_of_apart (m.setFld F.SLEEP_STATUS_state 4) (f := F.SLEEP_STATUS_busy) (by decide) 1).trans
      (Main.fld_setFld_of_lt m (f := F.SLEEP_STATUS_state) (by decide) (by decide))
  · exact Main.fld_setFld_of_lt (m.setFld F.SLEEP_STATUS_state 4) (f := F.SLEEP_STATUS_busy) (by decide) (by decide)
  · exact (Main.fld_setFld_other (m.setFld F.SLEEP_STATUS_state 4) F.SLEEP_STATUS_busy F.HOST_STATUS_recovery_needed 1 (by decide)).trans
      (Main.fld_setFld_other m F.SLEEP_STATUS_state F.HOST_STATUS_recovery_needed 4 (by decide))

section
variable {s : State} (hbusy : s.mn.sleepBusy = true) (hw0 : s.la.w0On = false) (bad : Bool)
include hbusy hw0

theorem Machine.State.wakeComplete_fromS1 (hst : s.mn.sleepState = 1) :
    s.wakeComplete bad = s.woken s.mn.camWake.wakePassed.wakeEnd.resumed (s.rc.woken s.mn.sleepState) := by
  have hgo : ¬(s.mn.sleepState = 0 ∨ (!s.mn.sleepBusy) = true ∨ s.la.w0On = true ∨ (3 ≤ s.mn.sleepState ∧ (!s.rc.ready) = true)) := by
    simp [hbusy, hw0, hst]
  unfold State.wakeComplete
  dsimp only
  rw [if_neg hgo]
  simp only [hst, if_neg (by decide : ¬((1 : Nat) = 2)), if_neg (by simp : ¬((1 : Nat) = 4 ∨ (1 : Nat) = 3 ∧ bad = true)),
    if_neg (by simp : ¬((1 : Nat) = 3)), if_neg (by simp : ¬(((1 : Nat) = 4 ∨ (1 : Nat) = 3 ∧ bad = true) ∧ (1 : Nat) = 3)),
    if_neg (by simp : ¬((1 : Nat) = 2 ∧ s.rc.retLost = true))]
  rfl

theorem Machine.State.wakeComplete_fromS2 (hst : s.mn.sleepState = 2) (hret : s.rc.retLost = false) :
    s.wakeComplete bad = s.woken (s.mn.sramLost true).wakePassed.wakeEnd.resumed (s.rc.woken s.mn.sleepState) := by
  have hgo : ¬(s.mn.sleepState = 0 ∨ (!s.mn.sleepBusy) = true ∨ s.la.w0On = true ∨ (3 ≤ s.mn.sleepState ∧ (!s.rc.ready) = true)) := by
    simp [hbusy, hw0, hst]
  unfold State.wakeComplete
  dsimp only
  rw [if_neg hgo]
  simp only [hst, hret, if_true, Bool.not_false, Bool.false_eq_true, and_false,
    if_neg (by simp : ¬((2 : Nat) = 4 ∨ (2 : Nat) = 3 ∧ bad = true)), if_neg (by simp : ¬((2 : Nat) = 3)),
    if_neg (by simp : ¬(((2 : Nat) = 4 ∨ (2 : Nat) = 3 ∧ bad = true) ∧ (2 : Nat) = 3)), if_neg (by simp : ¬False)]
  rfl

theorem Machine.State.wakeComplete_fromS4 (hst : s.mn.sleepState = 4) (hready : s.rc.ready = true) :
    s.wakeComplete bad = s.woken ((s.mn.wardenLost.setFld F.HOST_STATUS_recovery_needed 1).wakePassed.wakeAwaits.resumed)
      (s.rc.woken s.mn.sleepState) := by
  have hgo : ¬(s.mn.sleepState = 0 ∨ (!s.mn.sleepBusy) = true ∨ s.la.w0On = true ∨ (3 ≤ s.mn.sleepState ∧ (!s.rc.ready) = true)) := by
    simp [hbusy, hw0, hst, hready]
  unfold State.wakeComplete
  dsimp only
  rw [if_neg hgo]
  simp only [hst, if_neg (by simp : ¬((4 : Nat) = 2 ∧ s.rc.retLost = true))]
  rfl

end

/-- Without a frame in progress an exit from S1 leaves the camera alone. -/
theorem Main.camWake_of_idle {m : Main} (h : ∀ i < 16, (m.sensor i).inFrame = false) : m.camWake = m :=
  List.foldlRecOn (motive := (· = m)) _ _ rfl fun n hn i hi => by
    rw [hn, h i (List.mem_range.1 hi)]; rfl

theorem Main.wakePassed_eq (m : Main) : m.wakePassed = { m with
    lz := { m.lz with sent := m.lz.sent ++ if m.bit F.LANIZA_CTL_wake_fwd then [(0, .wake), (1, .wake)] else [] } } := by
  unfold Main.wakePassed
  split
  · simp [Main.sendWake]
  · rw [List.append_nil]

/-- SLEEP_STATUS shows the part awake, and nothing else of the registers changes. -/
theorem Main.wakeEnd_fields (m : Main) :
    m.wakeEnd = { m with regs := m.wakeEnd.regs, wakeHeld := false } ∧ m.RegsBut m.wakeEnd [F.SLEEP_STATUS_state.off]
      ∧ m.wakeEnd.sleepState = 0 ∧ m.wakeEnd.sleepBusy = false := by
  have hbusy : m.wakeEnd.fld F.SLEEP_STATUS_busy = 0 :=
    Main.fld_setFld_of_lt (m.setFld F.SLEEP_STATUS_state 0) (f := F.SLEEP_STATUS_busy) (by decide) (by decide)
  have hstate : m.wakeEnd.fld F.SLEEP_STATUS_state = 0 :=
    (Main.fld_setFld_of_apart (m.setFld F.SLEEP_STATUS_state 0) (f := F.SLEEP_STATUS_busy) (by decide) 0).trans
      (Main.fld_setFld_of_lt m (f := F.SLEEP_STATUS_state) (by decide) (by decide))
  refine ⟨rfl, ?_, ?_, ?_⟩
  · exact (Main.RegsBut.refl.setFld (f := F.SLEEP_STATUS_state) (by decide) _).setFld (f := F.SLEEP_STATUS_busy) (by decide) _
  · exact (Main.sleepState_of_free rfl).trans hstate
  · exact (Main.sleepBusy_of_free rfl).trans (bne_eq_false_iff_eq.2 hbusy)

/-- The Warden's side of a wake that is not held: from `m` the part is awake. -/
theorem Main.awake_fields (m : Main) :
    let n := m.wakePassed.wakeEnd.resumed
    n = { m with
        regs := n.regs, wakeHeld := false, acceptStop := false, kr := { m.kr with event := true }
        lz := { m.lz with sent := m.lz.sent ++ if m.bit F.LANIZA_CTL_wake_fwd then [(0, .wake), (1, .wake)] else [] } }
      ∧ m.RegsBut n [F.SLEEP_STATUS_state.off] ∧ n.sleepState = 0 ∧ n.sleepBusy = false := by
  intro n
  obtain ⟨hframe, hregs, hstate, hbusy⟩ := m.wakePassed.wakeEnd_fields
  have hpassed := m.wakePassed_eq
  have hwords : m.RegsBut m.wakePassed [] := fun o _ => by rw [hpassed]; rfl
  refine ⟨?_, fun o ho => (hregs o ho).trans (hwords o List.not_mem_nil), hstate, hbusy⟩
  have hn : n = { m.wakePassed.wakeEnd with acceptStop := false, kr := { m.wakePassed.wakeEnd.kr with event := true } } := rfl
  clear_value n
  generalize m.wakePassed.wakeEnd = e at hframe hn
  rw [hn, hframe, hpassed]

/-! ## What sleep loses (R375, R376) -/

theorem Tab.get_filter {α : Type} (d : Nat → α) (f : Nat → Bool) (t : Tab α) (k : Nat) :
    Tab.get d (t.filter fun p => f p.1) k = if f k then Tab.get d t k else d k := by
  induction t with
  | nil => simp [Tab.get]
  | cons p t ih =>
    obtain ⟨j, v⟩ := p
    rw [List.filter_cons]
    by_cases hj : j = k
    · subst hj
      cases hf : f j with
      | true => simp [Tab.get]
      | false => simpa [hf] using ih
    · cases hf : f j with
      | true => simpa [Tab.get, hj] using ih
      | false => simpa [Tab.get, hj] using ih

/-- The retention banks alone are kept. -/
theorem Main.sp_sramLost (m : Main) (a : Nat) :
    (m.sramLost true).sp.rd a = if 0x160000 ≤ a % 0x200000 then m.sp.rd a else 0#8 := by
  refine (Tab.get_filter memZero (fun i => decide (0x160000 ≤ i % 0x200000)) m.sp a).trans ?_
  simp only [decide_eq_true_eq]
  rfl

/-- The Warden's side of a wake from S4, which waits for recovery: its contexts and the stacks are gone. -/
theorem Main.awaiting_fields (m : Main) :
    let n := ((m.wardenLost.setFld F.HOST_STATUS_recovery_needed 1).wakePassed.wakeAwaits.resumed)
    n.Quiet ∧ n.recoveryNeeded = true ∧ n.wakeHeld = true ∧ n.fld F.SLEEP_STATUS_state = 4 ∧ n.fld F.SLEEP_STATUS_busy = 1
      ∧ n.ctxs = [] ∧ n.stack = [] ∧ n.host = m.host := by
  intro n
  have hlost : m.wardenLost.Quiet ∧ m.wardenLost.ctxs = [] ∧ m.wardenLost.stack = [] ∧ m.wardenLost.host = m.host :=
    ⟨m.quiet_warmed.congr rfl rfl rfl rfl, rfl, rfl, rfl⟩
  obtain ⟨hquiet, hctxs, hstack, hhost⟩ := hlost
  have hasked : Main.fld (m.wardenLost.setFld F.HOST_STATUS_recovery_needed 1) F.HOST_STATUS_recovery_needed = 1 :=
    Main.fld_setFld_of_lt _ (by decide) (by decide)
  have hn : n = (m.wardenLost.setFld F.HOST_STATUS_recovery_needed 1).wakePassed.wakeAwaits.resumed := rfl
  clear_value n
  rw [Main.wakePassed_eq] at hn
  obtain ⟨r, hr⟩ : m.wardenLost.OnlyRegs (m.wardenLost.setFld F.HOST_STATUS_recovery_needed 1) := Main.OnlyRegs.refl.setFld _ _
  generalize m.wardenLost.setFld F.HOST_STATUS_recovery_needed 1 = k at hn hasked hr
  generalize m.wardenLost = w at hquiet hctxs hstack hhost hr
  subst hr hn
  obtain ⟨hstate, hbusy, hneeded⟩ := Main.wakeAwaits_fields { w with
    regs := r, lz := { w.lz with sent := w.lz.sent ++ if Main.bit { w with regs := r } F.LANIZA_CTL_wake_fwd then [(0, .wake), (1, .wake)] else [] } }
  exact ⟨hquiet.congr rfl rfl rfl rfl, bne_iff_ne.2 (ne_of_eq_of_ne (hneeded.trans hasked) (by decide)), rfl, hstate, hbusy, hctxs, hstack,
    hhost⟩

theorem Machine.State.latch_up {s : State} (h : s.rc.latchHeld = false) (f : State → State) : s.latch f = f s :=
  if_neg (by rw [h]; decide)

/-- Settles O47: a source that is found, the end of the wakes from S1, S2 and S4, and a lost retention supply. -/
theorem wakingIsRecorded : Obligations.WakingIsRecorded := by
  refine ⟨fun s src hlatch hheld henabled hawake hbusy => ?_, fun s src hlatch hheld henabled hstate hbusy => ?_,
    fun s src hlatch hheld henabled hdeep hmax hbusy => ?_,
    fun s bad hlatch hheld hst hbusy hw0 hfifo hcand hquiet hcam => ?_,
    fun s bad hlatch hheld hst hbusy hret hw0 hfifo hcand hquiet => ?_,
    fun s bad hlatch hheld hst hbusy hready hw0 hfifo hcand => ?_, fun s hlatch hst => ?_⟩
  case refine_1 =>
    have hsrc := src.isLt
    have hwake : s.latch (fun s => s.wakeFrom (src.val + 1)) = _ :=
      (State.latch_up hlatch _).trans (State.wakeFrom_entering henabled hheld hawake hbusy)
    obtain ⟨hsource, -, haborted, hcount⟩ := s.mn.noteWake_fields (src := src.val + 1) (st := 0) (aborted := 1) (by omega) (by decide) (by decide)
    have hnoted : s.mn.OnlyRegs (s.mn.noteWake (src.val + 1) 0 1) := Main.OnlyRegs.refl.setWord _ _
    have hnotes : s.mn.RegsBut (s.mn.noteWake (src.val + 1) 0 1) [F.LAST_WAKE_source.off] := s.mn.regsBut_setWord _ _
    have hframe := hnoted.eq
    generalize s.mn.noteWake (src.val + 1) 0 1 = n at hwake hsource haborted hcount hnotes hframe
    obtain ⟨hregs, hover, hresult, -⟩ := Main.sleepAbandon_fields (m := n) (result := 4) (by decide) 0
    have hlast (f : Fld) (hf : f.off ∉ [F.SLEEP_STATUS_busy.off]) : (n.sleepAbandon 4 0).fld f = n.fld f := congrArg f.of (hregs _ hf)
    have hall : s.mn.RegsBut (n.sleepAbandon 4 0) [F.LAST_WAKE_source.off, F.SLEEP_STATUS_busy.off] := fun o ho => by
      simp only [List.mem_cons, List.not_mem_nil, or_false, not_or] at ho
      exact (hregs o (by simpa using ho.2)).trans (hnotes o (by simpa using ho.1))
    have hstays : Machine.State.fwlStatus { s with mn := n.sleepAbandon 4 0 } = s.fwlStatus :=
      State.fwlStatus_congr (congrArg F.BOOT_STATUS_stage.of (hall _ (by decide))) (congrArg F.BOOT_STATUS_error.of (hall _ (by decide))) rfl
    refine ⟨_, next_markFwl (f := fun s => s.latch fun s => s.wakeFrom (src.val + 1)) rfl hwake hstays, ?_, hall, hover, hresult,
      (hlast _ (by decide)).trans hsource, (hlast _ (by decide)).trans haborted, (hlast _ (by decide)).trans hcount⟩
    rw [Main.sleepAbandon_eq, hframe]
  case refine_2 =>
    have hsrc := src.isLt
    have hasleep : s.mn.sleepState ≠ 0 := by omega
    have hwake : s.latch (fun s => s.wakeFrom (src.val + 1)) = _ :=
      (State.latch_up hlatch _).trans (State.wakeFrom_shallow henabled hheld hasleep (by omega) (wakeIn_of_le (by omega)) hbusy)
    have hregs := s.mn.regsBut_waking (src.val + 1)
    obtain ⟨hsource, hfrom⟩ := s.mn.waking_fields (src := src.val + 1) (by omega) s.mn.sleepState_lt
    obtain ⟨haborted, hcount⟩ := s.mn.waking_count (src := src.val + 1) (by omega) s.mn.sleepState_lt
    have hstays : Machine.State.fwlStatus { s with mn := s.mn.waking (src.val + 1) } = s.fwlStatus :=
      State.fwlStatus_congr (congrArg F.BOOT_STATUS_stage.of (hregs _ (by decide))) (congrArg F.BOOT_STATUS_error.of (hregs _ (by decide))) rfl
    exact ⟨_, next_markFwl (f := fun s => s.latch fun s => s.wakeFrom (src.val + 1)) rfl hwake hstays, (s.mn.onlyRegs_waking _).eq, hregs,
      Main.sleepBusy_waking hasleep _, s.mn.sleepState_waking _, hsource, hfrom, haborted, hcount⟩
  case refine_3 =>
    have hsrc := src.isLt
    have hwake : s.latch (fun s => s.wakeFrom (src.val + 1)) = _ :=
      (State.latch_up hlatch _).trans (State.wakeFrom_deep henabled hheld hdeep (wakeIn_of_le (by omega)) hbusy)
    obtain ⟨hsource, hfrom⟩ := s.mn.waking_fields (src := src.val + 1) (by omega) s.mn.sleepState_lt
    have hbusy' := Main.sleepBusy_waking (m := s.mn) (by omega) (src.val + 1)
    have honly := s.mn.onlyRegs_waking (src.val + 1)
    have hframe := s.markFwl_frame fun s => s.latch fun s => s.wakeFrom (src.val + 1)
    dsimp only at hframe
    rw [hwake] at hframe
    generalize s.mn.waking (src.val + 1) = n at hframe hsource hfrom hbusy' honly
    have hmn : (s.markFwl fun s => s.latch fun s => s.wakeFrom (src.val + 1)).mn = n.setFld F.BOOT_STATUS_stage 1 := by rw [hframe]
    have hother (f : Fld) (hf : f.off ≠ F.BOOT_STATUS_stage.off) :
        (s.markFwl fun s => s.latch fun s => s.wakeFrom (src.val + 1)).mn.fld f = n.fld f := by
      rw [hmn]; exact Main.fld_setFld_other _ _ _ _ hf
    refine ⟨_, rfl, ?_, ?_, (hother _ (by decide)).trans hsource, ?_, (hother _ (by decide)).trans hfrom⟩
    · rw [hmn]
      refine hframe.trans ?_
      rw [(honly.setFld _ _).eq]
    · rw [hmn]; exact Main.fld_setFld_of_lt _ (by decide) (by decide)
    · rw [hmn, ← hbusy']
      exact Main.sleepBusy_congr (Main.word_setWord_other _ _ _ _ (by decide)) rfl
  case refine_4 =>
    have hwake : s.latch (fun s => s.wakeComplete bad) = _ := (State.latch_up hlatch _).trans (State.wakeComplete_fromS1 hbusy hw0 bad hst)
    rw [Main.camWake_of_idle hcam, hst] at hwake
    have hheld := Main.wakeHeld_of_sleepBusy hbusy
    obtain ⟨hframe, hwords, hstate, hover⟩ := s.mn.awake_fields
    generalize s.mn.wakePassed.wakeEnd.resumed = n at hwake hframe hwords hstate hover
    have hready : n.Quiet := hquiet.congr (by rw [hframe]) (by rw [hframe]) (by rw [hframe]) (by rw [hframe])
    obtain ⟨hs, hm, hregs, hpin, hla⟩ := State.woken_of_idle hfifo hcand hready (s.rc.woken 1)
    generalize s.woken n (s.rc.woken 1) = t at hwake hs hm hregs hpin hla
    have hall : s.mn.RegsBut t.mn [F.SLEEP_STATUS_state.off, F.HINGE_NOW_in_force.off] := fun o ho => by
      simp only [List.mem_cons, List.not_mem_nil, or_false, not_or] at ho
      exact (hregs o (by simpa using ho.2)).trans (hwords o (by simpa using ho.1))
    have hslept : t.mn.wakeHeld = n.wakeHeld := by rw [hm]
    have hnfree : n.wakeHeld = false := by rw [hframe]
    have hstays : t.fwlStatus = s.fwlStatus :=
      State.fwlStatus_congr (congrArg F.BOOT_STATUS_stage.of (hall _ (by decide))) (congrArg F.BOOT_STATUS_error.of (hall _ (by decide)))
        (congrArg Sdio.fwl hla.sdio)
    refine ⟨t, next_markFwl (f := fun s => s.latch fun s => s.wakeComplete bad) rfl hwake hstays, ?_, ?_, ?_, ?_, ?_, hall, ?_, hpin, hla⟩
    · rw [hs]
    · rw [hm, hframe]; simp only [hheld]
    · rw [hm, hframe]
    · rw [Main.sleepState_of_free (hslept.trans hnfree), ← hstate, Main.sleepState_of_free hnfree]
      exact congrArg F.SLEEP_STATUS_state.of (hregs _ (by decide))
    · exact (Main.sleepBusy_congr (hregs _ (by decide)) hslept).trans hover
    · rw [hs, ResetCtl.woken]; simp
  case refine_5 =>
    have hwake : s.latch (fun s => s.wakeComplete bad) = _ := (State.latch_up hlatch _).trans (State.wakeComplete_fromS2 hbusy hw0 bad hst hret)
    obtain ⟨hframe, -, hstate, hover⟩ := (s.mn.sramLost true).awake_fields
    have hsp := s.mn.sp_sramLost
    generalize (s.mn.sramLost true).wakePassed.wakeEnd.resumed = n at hwake hframe hstate hover
    have hready : n.Quiet :=
      (hquiet.sramLost true).congr (by rw [hframe]) (by rw [hframe]) (by rw [hframe]) (by rw [hframe])
    obtain ⟨-, hm, hregs, hpin, -⟩ := State.woken_of_idle hfifo hcand hready (s.rc.woken s.mn.sleepState)
    have hmn := State.markFwl_mn (s := s) fun s => s.latch fun s => s.wakeComplete bad
    have hla := State.markFwl_la (s := s) fun s => s.latch fun s => s.wakeComplete bad
    dsimp only at hmn hla
    rw [hwake] at hmn hla
    rw [← hmn] at hm hregs
    refine ⟨_, rfl, ?_⟩
    generalize s.markFwl _ = t at hm hregs hmn hla ⊢
    have hslept : t.mn.wakeHeld = n.wakeHeld := by rw [hm]
    have hnfree : n.wakeHeld = false := by rw [hframe]
    have hbanks : t.mn.sp = (s.mn.sramLost true).sp := by rw [hm, hframe]
    refine ⟨?_, ?_, ?_, ?_, ?_, ?_, ?_, ?_, fun a ha => ?_, fun a ha => ?_, ?_⟩
    · rw [Main.sleepState_of_free (hslept.trans hnfree), ← hstate, Main.sleepState_of_free hnfree]
      exact congrArg F.SLEEP_STATUS_state.of (hregs _ (by decide))
    · exact (Main.sleepBusy_congr (hregs _ (by decide)) hslept).trans hover
    · rw [hm, hframe]
    · rw [hm, hframe]; rfl
    · rw [hm, hframe]; rfl
    · rw [hm, hframe]; rfl
    · rw [hm, hframe]; rfl
    · rw [hm, hframe]; rfl
    · rw [hbanks, hsp, if_neg (Nat.not_le.2 ha)]
    · rw [hbanks, hsp, if_pos ha]
    · rw [hla]; exact hpin
  case refine_6 =>
    have hwake : s.latch (fun s => s.wakeComplete bad) = _ := (State.latch_up hlatch _).trans (State.wakeComplete_fromS4 hbusy hw0 bad hst hready)
    obtain ⟨hquiet, hneeded, hheld, hstate, hset, hctxs, hstack, hhost⟩ := s.mn.awaiting_fields
    generalize (s.mn.wardenLost.setFld F.HOST_STATUS_recovery_needed 1).wakePassed.wakeAwaits.resumed = n at *
    obtain ⟨-, hm, hregs, -, -⟩ := State.woken_of_idle hfifo hcand hquiet (s.rc.woken s.mn.sleepState)
    have hmn := State.markFwl_mn (s := s) fun s => s.latch fun s => s.wakeComplete bad
    rw [hwake] at hmn
    rw [← hmn] at hm hregs
    refine ⟨_, rfl, ?_⟩
    generalize s.markFwl _ = t at hm hregs hmn ⊢
    have hfld (f : Fld) (hf : f.off ∉ [F.HINGE_NOW_in_force.off]) : t.mn.fld f = n.fld f := congrArg f.of (hregs _ hf)
    refine ⟨?_, ?_, (hfld _ (by decide)).trans hstate, (hfld _ (by decide)).trans hset, ?_, ?_, ?_⟩
    · rw [Main.recoveryNeeded, Main.bit, hfld _ (by decide)]; exact hneeded
    · rw [hm]; exact hheld
    · rw [hm]; exact hctxs
    · rw [hm]; exact hstack
    · rw [hm]; exact hhost
  case refine_7 =>
    exact ⟨_, congrArg Host.Outcome.next ((State.latch_up hlatch _).trans (if_pos hst)), rfl⟩

end Sys2Proof
end

section
/-! SUPPORT AND PROOF. Attestation (spec/19_security.md R426, R427). -/

namespace Sys2Proof
open Machine

/-- Two parts written one behind the other read back as written. -/
theorem Mem.two_parts (m : Mem) (a n : Nat) (xs ys : List Byte) (hxs : xs.length = n) :
    (Mem.wrN a (xs ++ ys) m).rdN a n = xs ∧ (Mem.wrN a (xs ++ ys) m).rdN (a + n) ys.length = ys := by
  subst hxs
  constructor
  · refine List.ext_getElem (by simp [Mem.rdN]) fun i hi _ => ?_
    have hlt : i < xs.length := by simpa [Mem.rdN] using hi
    simp [Mem.rdN, Mem.rd_wrN_in _ _ _ _ (show i < (xs ++ ys).length by simp; omega), List.getElem?_append_left hlt, List.getElem?_eq_getElem hlt]
  · refine List.ext_getElem (by simp [Mem.rdN]) fun i hi _ => ?_
    have hlt : i < ys.length := by simpa [Mem.rdN] using hi
    simp [Mem.rdN, Nat.add_assoc, Mem.rd_wrN_in _ _ _ _ (show xs.length + i < (xs ++ ys).length by simp; omega), List.getElem?_append_right,
      List.getElem?_eq_getElem hlt]

/-- The 512 bytes of signature behind a report's head. -/
def signature (free : Nat) (head : List Byte) : List Byte := (List.range 512).map fun i => (Config.attestSign free head).getD i 0#8

theorem length_signature (free : Nat) (head : List Byte) : (signature free head).length = 512 := by simp [signature]

/-- The Warden's side once a report is in host memory. -/
def Main.reported (m : Main) (free : Nat) (head : List Byte) : Main :=
  { (m.hostWr (m.pair 0xd014 0xd018 10) (head.take 512 ++ signature free head)).setFld F.ATTEST_CTL_done 1 with attest := .none }

theorem Machine.State.attestDone_of_due {s : State} {head : List Byte}
    (h : s.mn.attest = .sampled head ∨ s.mn.attest = .waiting ∧ s.mn.protPending = false ∧ s.mn.sleepBusy = false ∧ s.reportHead = head) :
    s.attestDone = { s with free := s.free + 1, mn := s.mn.reported s.free head } := by
  rcases h with h | ⟨h, hprot, hbusy, rfl⟩
  · rw [State.attestDone, h]; rfl
  · rw [State.attestDone, h, hprot, hbusy]; rfl

/-- Settles O50: when a report is sampled, and what becomes of it. -/
theorem reportsAreAttested : Obligations.ReportsAreAttested := by
  refine ⟨fun s hup hidle hprot hbusy => ?_, fun s hup hidle hwait => ?_, fun s hup hbusy => ?_,
    fun s head a hup hlen ha hroom hdue => ?_, fun s hnone => ?_⟩
  case refine_1 =>
    refine (next_hostDo rfl hup).trans (congrArg Host.Outcome.next ?_)
    rw [State.attestGo, if_neg (not_not.2 hidle), hprot, hbusy]
    rfl
  case refine_2 =>
    have hpending : (s.mn.protPending || s.mn.sleepBusy) = true := by simpa using hwait
    refine (next_hostDo rfl hup).trans (congrArg Host.Outcome.next ?_)
    rw [State.attestGo, if_neg (not_not.2 hidle), if_pos hpending]
    rfl
  case refine_3 =>
    exact (next_hostDo (f := fun s => s.attestGo) rfl hup).trans (congrArg Host.Outcome.next (if_pos hbusy))
  case refine_4 =>
    have hplace : hostKey 0 (s.mn.pair 0xd014 0xd018 10) = hostKey 0 a := by rw [ha]
    have hbytes : (s.mn.reported s.free head).host = Mem.wrN (hostKey 0 a) (head ++ signature s.free head) s.mn.host := by
      show Mem.wrN (hostKey 0 (s.mn.pair 0xd014 0xd018 10)) (head.take 512 ++ signature s.free head) s.mn.host = _
      rw [hplace, List.take_of_length_le hlen.le]
    obtain ⟨hhead, hsig⟩ := s.mn.host.two_parts (hostKey 0 a) 512 head (signature s.free head) hlen
    rw [length_signature] at hsig
    refine ⟨_, congrArg Host.Outcome.next ((if_pos hup).trans (State.attestDone_of_due hdue)), rfl, rfl, ?_, ?_, ?_, ?_, ?_⟩
    · exact Main.regsBut_setFld _ F.ATTEST_CTL_done 1
    · exact Main.fld_setFld_of_lt _ (f := F.ATTEST_CTL_done) (by decide) (by decide)
    · have hbut := s.mn.host.but_wrN (hostKey 0 a) (head ++ signature s.free head)
      rwa [List.length_append, hlen, length_signature, ← hbytes] at hbut
    · rw [hbytes]; exact hhead
    · rw [hbytes]; exact hsig
  case refine_5 =>
    refine congrArg Host.Outcome.next ?_
    rcases hnone with h | h | ⟨h, hwait⟩
    · rw [h]; rfl
    · rw [State.attestDone, h, ite_self]
    · have hpending : (s.mn.protPending || s.mn.sleepBusy) = true := by simpa using hwait
      rw [State.attestDone, h]
      dsimp only
      rw [if_pos hpending, ite_self]

end Sys2Proof
end

section
/-! SUPPORT AND PROOF. The protection set-up and confidential mode (spec/19_security.md R415, R416, R425, R431). -/

namespace Sys2Proof
open Machine

/-! ## Writes that R416 forbids -/

/-- What a write that R416 forbids does. -/
theorem Main.protWrite_of_refused {m : Main} {off : Nat} {v : Word} (h : m.tenantRefused off v = true) :
    m.protWrite off v = m.setFld F.PROT_STATUS_cfg_err 1 := if_pos h

/-- A host write of the Warden's side that is ignored and shows in PROT_STATUS. -/
theorem onWarden_cfgErr {c : Instr} {s : State} {f : Main → Main} (e : exec c s = .next (s.hostWarden fun m => (f m).lapseNew m))
    (hup : s.HostUp) (hf : f s.mn = s.mn.setFld F.PROT_STATUS_cfg_err 1) :
    OnWarden c s fun n => n = { s.mn with regs := n.regs, absent := n.absent } ∧ s.mn.RegsBut n [0x1004] ∧ n.fld F.PROT_STATUS_cfg_err = 1 :=
  onWarden_hostLapse e hup hf rfl fun k a hk => by
    subst hk
    exact ⟨rfl, s.mn.regsBut_setFld F.PROT_STATUS_cfg_err 1, s.mn.fld_setFld_of_lt (f := F.PROT_STATUS_cfg_err) (by decide) (by decide)⟩

theorem Main.tenantRefused_of_bound {m : Main} {off : Nat} {v : Word} (hbound : ∃ p ∈ m.ctxs, p.2.slot = some m.tenantSlot)
    (h : m.tenantWritten.valid = true ∧ (m.tenantAfter off v).valid = false ∨ m.tenantWritten.pasid ≠ (m.tenantAfter off v).pasid) :
    m.tenantRefused off v = true := by
  obtain ⟨p, hp, hslot⟩ := hbound
  have hany : (m.ctxs.any fun p => p.2.slot == some m.tenantSlot) = true := List.any_eq_true.2 ⟨p, hp, beq_iff_eq.2 hslot⟩
  have hlost : ((m.tenantWritten.valid && !(m.tenantAfter off v).valid) || m.tenantWritten.pasid != (m.tenantAfter off v).pasid) = true := by
    simpa using h
  unfold Main.tenantRefused
  dsimp only
  rw [hany, hlost]
  rfl

theorem Main.tenantRefused_of_twin {m : Main} {off : Nat} {v : Word} (hvalid : (m.tenantAfter off v).valid = true)
    (h : ∃ p ∈ m.prot.written, p.1 ≠ m.tenantSlot ∧ p.2.valid = true ∧ p.2.pasid = (m.tenantAfter off v).pasid) :
    m.tenantRefused off v = true := by
  obtain ⟨p, hp, hother, hlive, hpasid⟩ := h
  have hany : (m.prot.written.any fun p => p.1 != m.tenantSlot && p.2.valid && p.2.pasid == (m.tenantAfter off v).pasid) = true :=
    List.any_eq_true.2 ⟨p, hp, by simp [hother, hlive, hpasid]⟩
  unfold Main.tenantRefused
  dsimp only
  rw [hany, hvalid, Bool.and_self, Bool.or_true, Bool.true_or]

theorem Main.tenantRefused_of_window {m : Main} {v : Word} (hon : v.getLsbD 0 = true)
    (h : m.windowWritten.limit / 2 ^ 32 * 2 ^ 32 + v.toNat / 4096 * 4096 < m.windowWritten.base) : m.tenantRefused 0x102c v = true := by
  have hwindow : Tab.get windowDef (m.tenantAfter 0x102c v).windows (m.fld F.WIN_SELECT_window) = { m.windowWritten with
      limit := m.windowWritten.limit / 2 ^ 32 * 2 ^ 32 + v.toNat / 4096 * 4096, enable := v.getLsbD 0 } := Tab.get_put_same _ _ _ _
  unfold Main.tenantRefused
  dsimp only
  rw [hwindow, hon, decide_eq_true h]
  exact Bool.or_true _

/-- Settles O48: each of R416's cases. -/
theorem forbiddenProtectionWritesAreIgnored : Obligations.ForbiddenProtectionWritesAreIgnored := by
  refine ⟨fun s v hup hbound h => ?_, fun s v hup hvalid h => ?_, fun s v c hup hop hc hlt h => ?_, fun s v hup hon h => ?_⟩
  case refine_1 =>
    refine onWarden_cfgErr (f := fun m => m.protWrite 0x1014 v) rfl hup (Main.protWrite_of_refused (Main.tenantRefused_of_bound hbound ?_))
    exact h.imp_right Ne.symm
  case refine_2 =>
    exact onWarden_cfgErr (f := fun m => m.protWrite 0x1014 v) rfl hup (Main.protWrite_of_refused (Main.tenantRefused_of_twin hvalid h))
  case refine_3 =>
    subst hc
    refine onWarden_cfgErr (f := fun m => if F.CTX_BIND_op.of v = 1 then m.ctxBind v else m) rfl hup ((if_pos hop).trans (if_pos ?_))
    rcases h with h | h
    · exact .inr (.inl h)
    · exact .inr (.inr (by rw [h]; rfl))
  case refine_4 =>
    exact onWarden_cfgErr (f := fun m => m.protWrite 0x102c v) rfl hup (Main.protWrite_of_refused (Main.tenantRefused_of_window hon h))

/-! ## The set-up in force (R415) -/

/-- HINGE_NOW's bit of hinge H3 as HINGE_CTL asks. -/
theorem Main.settleH3_of_idle {m : Main} (h : m.insts = []) :
    ∃ r, m.settleH3 = { m with regs := r } ∧ m.RegsBut { m with regs := r } [F.HINGE_NOW_in_force.off]
      ∧ Main.fld { m with regs := r } F.HINGE_NOW_in_force / 4 % 2 = m.fld F.HINGE_CTL_assist / 4 % 2 := by
  have hlt : m.fld F.HINGE_NOW_in_force < 1024 := m.fld_lt _
  have hvalue : m.fld F.HINGE_NOW_in_force - m.fld F.HINGE_NOW_in_force / 4 % 2 * 4 + m.fld F.HINGE_CTL_assist / 4 % 2 * 4 < 2 ^ F.HINGE_NOW_in_force.width := by
    have hwidth : F.HINGE_NOW_in_force.width = 10 := rfl
    rw [hwidth]; omega
  have hset := m.fld_setFld_of_lt (f := F.HINGE_NOW_in_force) (by decide) hvalue
  have hregs := m.regsBut_setFld F.HINGE_NOW_in_force
    (m.fld F.HINGE_NOW_in_force - m.fld F.HINGE_NOW_in_force / 4 % 2 * 4 + m.fld F.HINGE_CTL_assist / 4 % 2 * 4)
  have hstep : m.settleH3 = m.setFld F.HINGE_NOW_in_force
      (m.fld F.HINGE_NOW_in_force - m.fld F.HINGE_NOW_in_force / 4 % 2 * 4 + m.fld F.HINGE_CTL_assist / 4 % 2 * 4) := by
    simp [Main.settleH3, h]
  refine ⟨_, hstep, hregs, ?_⟩
  exact (congrArg (fun n => n / 4 % 2) hset).trans (by omega)

/-- A set-up written while no ward runs is in force at once; with no plan stored and no tenant gone it changes nothing else (R418, R423). -/
theorem Main.settleProt_of_idle {m : Main} (hidle : m.insts = []) (hplans : m.plans = [])
    (hlive : ∀ p ∈ m.prot.force, p.2.valid = true → (Tab.get tenantDef m.prot.written p.1).valid = true) :
    m.settleProt = { m with prot := { m.prot with force := m.prot.written } } := by
  have hpending : m.protPending = false := by rw [Main.protPending, hidle]; rfl
  unfold Main.settleProt
  by_cases hsame : m.prot.force = m.prot.written
  · rw [if_pos (by rw [hpending, hsame, beq_self_eq_true]; rfl), ← hsame]
  · have hgone : m.prot.force.filter (fun p => p.2.valid && !(Tab.get tenantDef m.prot.written p.1).valid) = [] :=
      List.filter_eq_nil_iff.2 fun p hp hbad => by
        rw [Bool.and_eq_true, Bool.not_eq_true'] at hbad
        exact Bool.false_ne_true (hbad.2.symm.trans (hlive p hp hbad.1))
    rw [if_neg (by rw [hpending]; simpa using hsame)]
    dsimp only
    rw [hgone, hplans]
    simp only [List.map_nil, List.filter_nil, List.foldl_nil]
    refine (if_pos ?_).trans ?_
    · have hnever (x : Option Nat) : (x.map ([] : List Nat).contains).getD false = false := by cases x <;> rfl
      rw [List.filter_eq_nil_iff.2 fun p _ => by simp only [hnever, Bool.false_and, Bool.false_eq_true, not_false_eq_true]]
      rfl
    · refine congrArg (fun x => { m with prot := { m.prot with force := m.prot.written }, plans := [], pages := x })
        (List.map_id'' (fun p => ?_) m.pages) |>.trans ?_
      · split
        · rfl
        · rfl
      · rw [← hplans]

/-- A write of the selected slot that leaves it valid, with no ward pending: it is in force at once (R415). -/
theorem Main.protWrite_of_idle {m : Main} {off : Nat} {v : Word} (hquiet : m.Quiet) (hidle : m.insts = []) (hplans : m.plans = [])
    (hnodup : (m.prot.written.map (·.1)).Nodup) (hchange : m.tenantAfter off v ≠ m.tenantWritten) (hvalid : (m.tenantAfter off v).valid = true)
    (hok : m.tenantRefused off v = false) {ts : Tab Tenant} (hts : ts = Tab.put tenantDef m.tenantSlot (m.tenantAfter off v) m.prot.written) :
    ∃ r, m.protWrite off v
        = { m with regs := r, prot := { m.prot with written := ts, force := ts, gen := (m.prot.gen + 1) % 2 ^ 32 } }
      ∧ m.RegsBut { m with regs := r } [F.HINGE_NOW_in_force.off]
      ∧ Main.fld { m with regs := r } F.HINGE_NOW_in_force / 4 % 2 = m.fld F.HINGE_CTL_assist / 4 % 2 := by
  obtain ⟨hwards, hctxs, hprot⟩ := hquiet
  have hwrite : m.protWrite off v
      = Main.settle { m with prot := { m.prot with written := ts, gen := (m.prot.gen + 1) % 2 ^ 32 } } := by
    rw [Main.protWrite]
    dsimp only
    rw [hok, if_neg Bool.false_ne_true, if_neg hchange, hts]
  have hlive : ∀ p ∈ m.prot.force, p.2.valid = true → (Tab.get tenantDef ts p.1).valid = true := fun p hp hp' => by
    by_cases hslot : p.1 = m.tenantSlot
    · rw [hts, hslot, Tab.get_put_same]; exact hvalid
    · rw [hts, Tab.get_put_other _ _ _ _ _ hslot, Tab.get_of_mem _ hnodup (hprot ▸ hp)]; exact hp'
  have hturns : (m.ctxs.map (·.1)).foldl Main.settleCtx { m with prot := { m.prot with written := ts, gen := (m.prot.gen + 1) % 2 ^ 32 } }
      = { m with prot := { m.prot with written := ts, gen := (m.prot.gen + 1) % 2 ^ 32 } } :=
    List.foldlRecOn (motive := (· = { m with prot := { m.prot with written := ts, gen := (m.prot.gen + 1) % 2 ^ 32 } })) _ _ rfl
      fun x hx c _ => by
        rw [hx]
        exact Main.settleCtx_of_atRest (Main.atRest_of_quiet ⟨hwards, hctxs, hprot⟩ c)
  have hfold : (fun m c => ((Main.settleShare m c).settleChain c).settleUnbind c) = Main.settleCtx := rfl
  have hforce := Main.settleProt_of_idle (m := { m with prot := { m.prot with written := ts, gen := (m.prot.gen + 1) % 2 ^ 32 } }) hidle hplans hlive
  obtain ⟨r, hr, hregs, hnow⟩ := Main.settleH3_of_idle
    (m := { m with prot := { m.prot with written := ts, force := ts, gen := (m.prot.gen + 1) % 2 ^ 32 } }) hidle
  refine ⟨r, ?_, hregs, hnow⟩
  have hrest := Main.settleWards_of_none (m := { m with prot := { m.prot with written := ts, gen := (m.prot.gen + 1) % 2 ^ 32 } }) hwards
  rw [hwrite]
  simp only [Main.settle, hrest, hfold, hturns]
  rw [hforce]
  exact hr

/-- Settles O49: the locks, and a write of the selected slot that changes it, that is refused, or that leaves it as it is. -/
theorem protectionIsWritten : Obligations.ProtectionIsWritten := by
  refine ⟨fun s v hup hset => ?_, fun s v hup hclear => ?_, fun s hup => ?_,
    fun s off v x ts hup hquiet hidle hplans hnodup hx hchange hvalid hok hts => ?_, fun s off v hup hrefused => ?_,
    fun s off v hup hok hsame => ?_⟩
  case refine_1 =>
    have hconf : s.mn.confSet v = s.mn.setFld F.CONF_MODE_enable 1 := if_pos hset
    refine ⟨_, (next_hostLatch rfl hup).trans (congrArg (fun m => Host.Outcome.next { s with mn := m }) hconf),
      (Main.OnlyRegs.refl.setFld _ _).eq, s.mn.regsBut_setFld _ _, ?_⟩
    exact bne_iff_ne.2 (ne_of_eq_of_ne (s.mn.fld_setFld_of_lt (f := F.CONF_MODE_enable) (by decide) (by decide)) (by decide))
  case refine_2 =>
    have hconf : s.mn.confSet v = s.mn := if_neg (by rw [hclear]; decide)
    exact (next_hostLatch rfl hup).trans (congrArg (fun m => Host.Outcome.next { s with mn := m }) hconf)
  case refine_3 =>
    refine onWarden_hostLapse (f := fun m => m.protLock) rfl hup rfl rfl fun k a hk => ?_
    subst hk
    exact ⟨rfl, s.mn.regsBut_setFld F.PROT_CTL_lock 1, s.mn.fld_setFld_of_lt (f := F.PROT_CTL_lock) (by decide) (by decide),
      s.mn.fld_setFld_of_apart (f := F.PROT_CTL_lock) (by decide) 1⟩
  case refine_4 =>
    subst hx
    obtain ⟨r, hwrite, hregs, hnow⟩ := Main.protWrite_of_idle hquiet hidle hplans hnodup hchange hvalid hok hts
    refine onWarden_hostLapse (f := fun m => m.protWrite off v) rfl hup hwrite rfl fun k a hk => ?_
    subst hk
    exact ⟨rfl, rfl, hts ▸ Tab.get_put_same _ _ _ _, hregs, hnow⟩
  case refine_5 =>
    exact onWarden_cfgErr (f := fun m => m.protWrite off v) rfl hup (Main.protWrite_of_refused hrefused)
  case refine_6 =>
    have hwrite : s.mn.protWrite off v = s.mn := by
      rw [Main.protWrite]
      dsimp only
      rw [hok, if_neg Bool.false_ne_true, if_pos hsame]
    refine onWarden_hostLapse (f := fun m => m.protWrite off v) rfl hup hwrite rfl fun k a hk => ?_
    subst hk
    rfl

end Sys2Proof
end

section
/-! SUPPORT AND PROOF. Scrubbing (spec/19_security.md R421, R423). -/

namespace Sys2Proof
open Machine

theorem Mem.rd_zero (m : Mem) (a n x : Nat) : (Mem.zero a n m).rd x = if x < a ∨ a + n ≤ x then m.rd x else 0#8 := by
  refine (Tab.get_filter memZero (fun i => decide (i < a) || decide (a + n ≤ i)) m x).trans ?_
  simp only [Bool.or_eq_true, decide_eq_true_eq]
  rfl

theorem Mem.rdN_zero (m : Mem) (a n : Nat) : (Mem.zero a n m).rdN a n = List.replicate n 0#8 := by
  refine List.eq_replicate_iff.2 ⟨by simp [Mem.rdN], fun b hb => ?_⟩
  obtain ⟨i, hi, rfl⟩ := List.mem_map.1 hb
  have hlt := List.mem_range.1 hi
  rw [Mem.rd_zero, if_neg (by omega)]

theorem Mem.but_zero (m : Mem) (a n : Nat) : m.But (Mem.zero a n m) a n := fun x hx => by
  rw [Mem.rd_zero, if_pos hx]

/-- A unit that waits and may go is begun. -/
theorem Main.scrubStart_of_waiting {m : Main} {u : Nat} (hnew : u ∉ m.scrub) (hwait : m.scrubWant.find? (fun p => p.1 == u) = some (u, true)) :
    m.scrubStart u = { m with scrub := m.scrub ++ [u] } := by
  unfold Main.scrubStart
  rw [if_neg (by simpa using hnew), hwait]
  rfl

/-- The unit zeroed, counted and no longer waited for. -/
def Main.unitZeroed (m : Main) (u : Nat) (us : List Nat) : Main :=
  Main.count { m with
    scrub := us, stack := Mem.zero (u * 0x10000) 0x10000 m.stack, scrubbed := u :: m.scrubbed.erase u
    scrubWant := m.scrubWant.filter fun p => p.1 != u } 0x58 0 1

/-- The end of a unit that is a page in SCRUB, where no region waits to be opened. -/
theorem Main.scrubDone_of_page {m : Main} {u p : Nat} {us : List Nat} (hscrub : m.scrub = u :: us) (hpage : m.pageOfUnit u = some p)
    (hst : (m.page p).st = .scrub) (hregion : ∀ q ∈ m.regions, q.2.ctx = none) : m.scrubDone = (m.unitZeroed u us).freePage p none := by
  have hnone : m.regions.filter (fun q => q.2.ctx.isSome) = [] := List.filter_eq_nil_iff.2 fun q hq => by rw [hregion q hq]; decide
  have hpage' : (m.unitZeroed u us).pageOfUnit u = some p := hpage
  have hst' : ((m.unitZeroed u us).page p).st = .scrub := hst
  unfold Main.scrubDone
  rw [hscrub]
  dsimp only
  rw [← Main.unitZeroed, hpage']
  dsimp only
  rw [hst']
  exact congrArg (fun rs : List (Nat × Region) => (rs.map (·.1)).foldl Main.openRegion ((m.unitZeroed u us).freePage p none)) hnone

/-- Settles O28: a unit begun, and a unit that ends. -/
theorem scrubbingZeroes : Obligations.ScrubbingZeroes := by
  refine ⟨fun s u hup hnew hwait => ?_, fun s u p us hup hscrub hpage hst hregion => ?_⟩
  · have hstart := Main.scrubStart_of_waiting hnew hwait
    exact onWarden_lapse (f := fun m => m.scrubStart u) rfl hup hstart rfl fun k a hk => by rw [hk]
  · have hdone := Main.scrubDone_of_page hscrub hpage hst hregion
    refine onWarden_lapse (f := fun m => m.scrubDone) rfl hup hdone rfl fun k a hk => ?_
    subst hk
    exact ⟨rfl, s.mn.stack.rdN_zero _ _, s.mn.stack.but_zero _ _, (s.mn.unitZeroed u us).page_freePage_same p none,
      fun j hj => (s.mn.unitZeroed u us).page_freePage_other none hj, List.mem_cons_self, Main.counter_of_count rfl,
      Main.countersBut_of_count (by decide) rfl⟩

end Sys2Proof
end

section
/-! SUPPORT AND PROOF. Camera receivers and I3C controllers (spec/16_camera.md R351 to R353, R365, R366). -/

namespace Sys2Proof
open Machine

/-! ## Sensors and controllers replaced -/

section
variable (m : Main)

theorem Main.sensor_setSensor_same (s : Nat) (x : CamSensor) : (m.setSensor s x).sensor s = x := Tab.get_put_same _ _ _ _

theorem Main.sensor_setSensor_other {j s : Nat} (x : CamSensor) (h : j ≠ s) : (m.setSensor s x).sensor j = m.sensor j :=
  Tab.get_put_other _ _ _ _ _ h

theorem Main.i3c_setI3c_same (c : Nat) (x : I3c) : (m.setI3c c x).i3c c = x := Tab.get_put_same _ _ _ _

theorem Main.i3c_setI3c_other {j c : Nat} (x : I3c) (h : j ≠ c) : (m.setI3c c x).i3c j = m.i3c j := Tab.get_put_other _ _ _ _ _ h

end

/-! ## Enabling a sensor (R352, R354) -/

theorem odd_of_getLsbD_zero {v : Word} (h : v.getLsbD 0 = true) : v.toNat % 2 ≠ 0 := by
  rw [← BitVec.testBit_toNat, Nat.testBit_zero, decide_eq_true_eq] at h
  omega

/-- An enable that is allowed. -/
theorem Main.lsEnable_of_ok {m : Main} {sn : Nat} {v : Word} (hon : v.getLsbD 0 = true)
    (hok : m.camMayEnable sn (v.toNat :: (m.camWords sn).drop 1) = true) :
    m.lsEnable sn v = if m.bit (F.CAM_LS_SRC_enable sn) then m.setWord (0xb100 + 0x40 * sn) v
      else (m.setWord (0xb100 + 0x40 * sn) v).setSensor sn { m.sensor sn with frame := 0, ref := none, inFrame := false } := by
  unfold Main.lsEnable
  dsimp only
  rw [if_neg (odd_of_getLsbD_zero hon), if_pos hok]
  rfl

/-- One that is not. -/
theorem Main.lsEnable_of_bad {m : Main} {sn : Nat} {v : Word} (hon : v.getLsbD 0 = true)
    (hbad : m.camMayEnable sn (v.toNat :: (m.camWords sn).drop 1) = false) : m.lsEnable sn v = m.setFld F.CAM_STATUS_cfg_err 1 := by
  unfold Main.lsEnable
  dsimp only
  rw [if_neg (odd_of_getLsbD_zero hon), if_neg (by rw [hbad]; decide)]

/-! ## I3C commands and events (R365, R366) -/

/-- A flag of one bit is set. -/
theorem Main.fld_setFld_flag (m : Main) {f : Fld} (hbit : f.hi = f.lo) (hhi : f.hi < 32) : (m.setFld f 1).fld f = 1 :=
  m.fld_setFld_of_lt ⟨hbit.ge, hhi⟩ (by rw [Fld.width, hbit, Nat.add_sub_cancel_left]; decide)

theorem Main.i3cFlags_set (m : Main) (c : Nat) :
    (m.setFld (F.I3C_STAT_err c) 1).fld (F.I3C_STAT_err c) = 1 ∧ (m.setFld (F.I3C_STAT_ibi c) 1).fld (F.I3C_STAT_ibi c) = 1
      ∧ (m.setFld (F.I3C_STAT_hot_join c) 1).fld (F.I3C_STAT_hot_join c) = 1 :=
  ⟨m.fld_setFld_flag rfl (by decide : 1 < 32), m.fld_setFld_flag rfl (by decide : 2 < 32), m.fld_setFld_flag rfl (by decide : 3 < 32)⟩

/-- An in-band interrupt of an enabled controller. -/
theorem Main.i3cIbi_of_enabled {m : Main} {c : Nat} (hen : m.bit (F.I3C_CTL_enable c) = true) (a : Nat) (bs : List Byte) :
    m.i3cIbi c a bs = ((m.setI3c c { m.i3c c with ibi := bs.take 4 }).setWord (0xbe10 + 0x40 * c)
      (BitVec.ofNat 32 (a % 128 + leNat ((bs.take 4).take 3) * 256))).setFld (F.I3C_STAT_ibi c) 1 :=
  if_neg (by rw [hen]; decide)

section
variable {m : Main} {c : Nat} {e : I3cEntry} {q : List I3cEntry} (hq : (m.i3c c).cmds = e :: q) (hfree : m.i3cHeld e = false)
include hq hfree

theorem Main.i3cDone_of_ok (data : List Byte) :
    m.i3cDone c true data = m.setI3c c (if bitsOf e.word 7 7 = 1 then
        { m.i3c c with cmds := q, rx := ((m.i3c c).rx ++ data.take (bitsOf e.word 15 8)).take 64 }
      else { m.i3c c with cmds := q, tx := (m.i3c c).tx.drop (bitsOf e.word 15 8) }) := by
  unfold Main.i3cDone
  simp only [hq, hfree, Bool.false_eq_true, if_false, Bool.not_true]
  exact (apply_ite (m.setI3c c) _ _ _).symm

theorem Main.i3cDone_of_failed (data : List Byte) :
    m.i3cDone c false data = (m.setI3c c { m.i3c c with cmds := [] }).setFld (F.I3C_STAT_err c) 1 := by
  unfold Main.i3cDone
  simp only [hq, hfree, Bool.false_eq_true, if_false, Bool.not_false, if_true]

end

/-- Settles O44: header errors, the enables of sensors, and the commands and events of the controllers. -/
theorem sensorsAndControllersAnswer : Obligations.SensorsAndControllersAnswer := by
  refine ⟨fun s port corrected id hup hid => ?_, fun s sn v off hup hoff hon hok => ?_, fun s sn v hup hon hbad => ?_,
    fun s p v hup hen hroom => ?_, fun s p data e q k hup hq hfree hk => ?_, fun s p data e q hup hq hfree => ?_,
    fun s p a bs hup hen => ?_, fun s p hup hen => ?_⟩
  case refine_1 =>
    subst hid
    refine onWarden_eq rfl hup rfl fun k a hk => ?_
    subst hk
    have hport := port.isLt
    exact ⟨rfl, Main.countersBut_of_count (by omega) rfl, Main.counter_of_count rfl⟩
  case refine_2 =>
    subst hoff
    refine onWarden_hostEq rfl hup (Main.lsEnable_of_ok hon hok) fun k a hk => ?_
    cases hwas : s.mn.bit (F.CAM_LS_SRC_enable sn.val) with
    | true =>
      rw [hwas] at hk
      subst hk
      exact ⟨rfl, s.mn.regsBut_setWord _ _, s.mn.word_setWord_same _ _, fun _ _ => rfl, rfl⟩
    | false =>
      rw [hwas] at hk
      subst hk
      exact ⟨rfl, s.mn.regsBut_setWord _ _, s.mn.word_setWord_same _ _, fun j hj => Main.sensor_setSensor_other _ _ hj,
        Main.sensor_setSensor_same _ _ _⟩
  case refine_3 =>
    refine onWarden_hostEq rfl hup (Main.lsEnable_of_bad hon hbad) fun k a hk => ?_
    subst hk
    exact ⟨rfl, s.mn.regsBut_setFld _ _, s.mn.fld_setFld_of_lt (f := F.CAM_STATUS_cfg_err) (by decide) (by decide)⟩
  case refine_4 =>
    have hcmd : s.mn.i3cCmd p.val v = s.mn.setI3c p.val { s.mn.i3c p.val with
        cmds := (s.mn.i3c p.val).cmds ++ [{ word := v.toNat % 2 ^ 24 }] } := if_pos (by rw [hen, decide_eq_true hroom]; rfl)
    refine onWarden_hostEq rfl hup hcmd fun k a hk => ?_
    subst hk
    exact ⟨rfl, Main.i3c_setI3c_same _ _ _, fun c hc => Main.i3c_setI3c_other _ _ hc⟩
  case refine_5 =>
    subst hk
    refine onWarden_eq rfl hup (Main.i3cDone_of_ok hq hfree data) fun k a hk => ?_
    subst hk
    exact ⟨rfl, Main.i3c_setI3c_same _ _ _, fun c hc => Main.i3c_setI3c_other _ _ hc⟩
  case refine_6 =>
    refine onWarden_eq rfl hup (Main.i3cDone_of_failed hq hfree data) fun k x hk => ?_
    subst hk
    generalize hn : s.mn.setI3c p.val { s.mn.i3c p.val with cmds := [] } = n
    have hregs := n.regsBut_setFld (F.I3C_STAT_err p.val) 1
    obtain ⟨hflag, -, -⟩ := n.i3cFlags_set p.val
    have honly := (Main.OnlyRegs.refl (m := n)).setFld (F.I3C_STAT_err p.val) 1
    generalize n.setFld (F.I3C_STAT_err p.val) 1 = r at hregs hflag honly
    obtain ⟨g, rfl⟩ := honly
    subst hn
    exact ⟨rfl, Main.i3c_setI3c_same _ _ _, fun c hc => Main.i3c_setI3c_other _ _ hc, hregs, hflag⟩
  case refine_7 =>
    refine onWarden_eq rfl hup (Main.i3cIbi_of_enabled hen a bs) fun k x hk => ?_
    subst hk
    generalize hn : s.mn.setI3c p.val { s.mn.i3c p.val with ibi := bs.take 4 } = n
    generalize hw : BitVec.ofNat 32 (a % 128 + leNat ((bs.take 4).take 3) * 256) = w
    have hapart : 0xbe10 + 0x40 * p.val ≠ (F.I3C_STAT_ibi p.val).off := by simp only [F.I3C_STAT_ibi]; omega
    have hregs : n.RegsBut ((n.setWord (0xbe10 + 0x40 * p.val) w).setFld (F.I3C_STAT_ibi p.val) 1)
        [0xbe10 + 0x40 * p.val, (F.I3C_STAT_ibi p.val).off] := fun o ho => by
      simp only [List.mem_cons, List.not_mem_nil, or_false, not_or] at ho
      exact (Main.word_setWord_other _ _ _ _ ho.2).trans (Main.word_setWord_other _ _ _ _ ho.1)
    have hword : Main.word ((n.setWord (0xbe10 + 0x40 * p.val) w).setFld (F.I3C_STAT_ibi p.val) 1) (0xbe10 + 0x40 * p.val) = w :=
      (Main.word_setWord_other _ _ _ _ hapart).trans (n.word_setWord_same _ _)
    obtain ⟨-, hflag, -⟩ := Main.i3cFlags_set (n.setWord (0xbe10 + 0x40 * p.val) w) p.val
    have honly := ((Main.OnlyRegs.refl (m := n)).setWord (0xbe10 + 0x40 * p.val) w).setFld (F.I3C_STAT_ibi p.val) 1
    generalize (n.setWord (0xbe10 + 0x40 * p.val) w).setFld (F.I3C_STAT_ibi p.val) 1 = r at hregs hword hflag honly
    obtain ⟨g, rfl⟩ := honly
    subst hn
    exact ⟨rfl, Main.i3c_setI3c_same _ _ _, fun c hc => Main.i3c_setI3c_other _ _ hc, hregs, hflag, hword⟩
  case refine_8 =>
    have hjoin : s.mn.i3cHotJoin p.val = s.mn.setFld (F.I3C_STAT_hot_join p.val) 1 := if_pos hen
    obtain ⟨-, -, hflag⟩ := s.mn.i3cFlags_set p.val
    have hregs := s.mn.regsBut_setFld (F.I3C_STAT_hot_join p.val) 1
    have honly := (Main.OnlyRegs.refl (m := s.mn)).setFld (F.I3C_STAT_hot_join p.val) 1
    refine onWarden_eq rfl hup hjoin fun k a hk => ?_
    subst hk
    generalize s.mn.setFld (F.I3C_STAT_hot_join p.val) 1 = r at hregs hflag honly
    obtain ⟨g, rfl⟩ := honly
    exact ⟨rfl, hregs, hflag⟩

end Sys2Proof
end

section
/-! SUPPORT AND PROOF. Camera frames (spec/16_camera.md R351 to R355, R357, R362, R363). -/

namespace Sys2Proof
open Machine

/-! ## Sensors served and types -/

theorem Main.camSensorAt_lt {m : Main} {port vc sn : Nat} (h : m.camSensorAt port vc = some sn) : sn < 16 := by
  unfold Main.camSensorAt at h
  dsimp only at h
  split at h
  · have hserved := List.mem_of_find?_eq_some h
    have hon : sn ∈ (List.range 16).filter fun s => m.bit (F.CAM_LS_SRC_enable s) && m.fld (F.CAM_LS_SRC_port s) == port := by
      split at hserved
      · exact hserved
      · exact List.mem_of_mem_take hserved
    exact List.mem_range.1 (List.mem_filter.1 hon).1
  · cases h

/-- A pixel data type is one that the receivers know, and is not that of embedded data (Table 16-1). -/
theorem typeDt_known {t dt : Nat} (h : typeDt t = some dt) : [0x2A, 0x2B, 0x2C, 0x2D, 0x1E, 0x12].contains dt = true ∧ dt ≠ 0x12 := by
  have hmem := List.mem_of_getElem? h
  simp only [List.mem_cons, List.not_mem_nil, or_false] at hmem
  rcases hmem with rfl | rfl | rfl | rfl | rfl <;> decide

/-! ## The statistics record (Tables 16-3 to 16-5) -/

theorem length_camHeader (frame s flags rows tflags ow oh emb idx phase : Nat) :
    (camHeader frame s flags rows tflags ow oh emb idx phase).length = 64 := by simp [camHeader]

theorem length_zoneBytes (c : List Nat) (chans : List (List (Nat × Nat × Nat))) (sat : List (Nat × Nat)) (zx zy : Nat) :
    (zoneBytes c chans sat zx zy).length = 8 := by
  unfold zoneBytes
  dsimp only
  split <;> simp

/-- Pieces of one length, one behind the other. -/
theorem length_flatMap_of_const {α β : Type} {l : List α} {f : α → List β} {n : Nat} (h : ∀ a ∈ l, (f a).length = n) :
    (l.flatMap f).length = l.length * n := by
  rw [List.length_flatMap, List.map_congr_left h, List.map_const', List.sum_replicate, smul_eq_mul]

theorem length_statsRecord (c : List Nat) {header : List Byte} (hheader : header.length = 64) (raw : List (List Nat))
    (ps : List (List (List Nat))) (emb : List Byte) : (statsRecord c header raw ps emb).length = 16384 := by
  have hhist (l : List (Nat × Nat × Nat)) : ((histogram (l.map fun p => p.2.2)).flatMap (leBytes 4)).length = 1024 := by
    rw [length_flatMap_of_const (n := 4) fun _ _ => leBytes_length _ _]
    simp [histogram]
  have hrow (chans : List (List (Nat × Nat × Nat))) (sat : List (Nat × Nat)) (zy : Nat) :
      ((List.range 32).flatMap fun zx => zoneBytes c chans sat zx zy).length = 256 := by
    rw [length_flatMap_of_const (n := 8) fun _ _ => length_zoneBytes ..]
    simp
  unfold statsRecord
  dsimp only
  rw [List.length_append, List.length_append, List.length_append, List.length_append, List.length_append,
    length_flatMap_of_const (n := 1024) fun _ _ => hhist _, length_flatMap_of_const (n := 256) fun _ _ => hrow _ _ _, hheader]
  simp only [List.length_map, List.length_range, List.length_replicate, List.length_take]
  omega

/-! ## Frames that close -/

section
variable {m : Main} {sn : Nat} {x : CamSensor} (hx : m.sensor sn = x) (hframe : x.inFrame = true)
include hx hframe

/-- Without statistics an unclaimed frame that ends short is counted, and its lines are dropped. -/
theorem Main.camClose_short (hclaim : x.claim = none) (hstats : m.bit F.CAM_CTL_stats_en = false) (late : List Nat) :
    m.camClose sn true late = (m.count 0x54 sn 1).setSensor sn { x with inFrame := false, rows := [], emb := [], ref := none } := by
  have hstats' : (m.count 0x54 sn 1).bit F.CAM_CTL_stats_en = false := hstats
  unfold Main.camClose
  simp only [hx, hframe, hclaim, Option.filter_none, Option.isNone_none, if_true, hstats', Bool.not_true, Bool.false_eq_true, if_false,
    Bool.not_false, Option.map_none, Option.none_or, Bool.true_or, Bool.and_false]

/-- The same for one that ends whole, whose statistics record goes to its place in the ring. -/
theorem Main.camClose_recorded {header : List Byte} (hclaim : x.claim = none) (hrows : x.rows.length = csH x.cfg) (htnr : csTnr x.cfg = false)
    (hstats : m.bit F.CAM_CTL_stats_en = true) (hirq : m.bit F.CAM_CTL_stats_irq = false)
    (hroom : ringFull (ringOrder (m.fld F.CAM_STATS_LO_order) 4 12 6) m.cam.stats.head (m.fld F.CAM_STATS_IDX_tail) = false)
    (hheader : header = camHeader x.frame sn (b2n x.bad + 4 * b2n x.long + 8 * b2n x.ovf + 128) (csH x.cfg) 0 (csOutW x.cfg) (csOutH x.cfg)
      (x.emb.take 4096).length m.cam.stats.head (b2n m.cam.stats.phase)) :
    m.camClose sn false [] = Main.setSensor { (m.count 0x54 sn 1).hostWr (m.pair 0xb020 0xb024 14 + m.cam.stats.head * 16384)
          (statsRecord x.cfg header x.rows (statPlanes x.cfg (frontStages x.cfg x.ref x.rows).1) (x.emb.take 4096)) with
        cam := { m.cam with stats := ringNext (ringOrder (m.fld F.CAM_STATS_LO_order) 4 12 6) m.cam.stats } } sn
      { x with inFrame := false, rows := [], emb := [], ref := none } := by
  have hfld (f : Fld) : (m.count 0x54 sn 1).fld f = m.fld f := rfl
  have hcam : (m.count 0x54 sn 1).cam = m.cam := rfl
  have hplace : (m.count 0x54 sn 1).pair 0xb020 0xb024 14 = m.pair 0xb020 0xb024 14 := rfl
  have hon : (m.count 0x54 sn 1).bit F.CAM_CTL_stats_en = true := hstats
  have hquiet (a : Nat) (bs : List Byte) (c : Cam) :
      Main.bit { (m.count 0x54 sn 1).hostWr a bs with cam := c } F.CAM_CTL_stats_irq = false := hirq
  have hother (a : Nat) (bs : List Byte) : ((m.count 0x54 sn 1).hostWr a bs).cam = m.cam := rfl
  subst hheader
  unfold Main.camClose
  simp only [hx, hframe, hclaim, hrows, htnr, hon, hfld, hcam, hplace, hroom, hquiet, hother, Option.filter_none, Option.isNone_none,
    Option.isSome_none, Nat.sub_self, List.replicate_zero, List.append_nil, Bool.not_true, Bool.false_eq_true, if_false, Bool.not_false, if_true,
    List.isEmpty_nil, Bool.false_and, Bool.and_self, Option.map_none, Option.none_or, Nat.lt_irrefl, decide_false, Bool.or_self, b2n,
    Nat.mul_zero, Nat.mul_one, Nat.add_zero]

/-- A claimed frame's lines wait for the run that claimed it. -/
theorem Main.camClose_claimed {header : List Byte} {l st rd : Nat} (hclaim : x.claim = some (l, st, rd)) (hlive : m.runLive (l, st, rd) = true)
    (hrows : x.rows.length = csH x.cfg) (htnr : csTnr x.cfg = false) (hstats : m.bit F.CAM_CTL_stats_en = false)
    (hheader : header = camHeader x.frame sn (b2n x.bad + 4 * b2n x.long + 8 * b2n x.ovf) (csH x.cfg) 0 (csOutW x.cfg) (csOutH x.cfg)
      (x.emb.take 4096).length 0xFFFF (b2n m.cam.stats.phase)) :
    m.camClose sn false [] = m.setSensor sn { x with
      inFrame := false, rows := [], emb := [], ref := none, claim := none
      out := some { lead := l, step := st, round := rd, header := header
                    lines := m.outLines x.cfg (statPlanes x.cfg (frontStages x.cfg x.ref x.rows).1) } } := by
  have hkept : x.claim.filter m.runLive = some (l, st, rd) := by rw [hclaim, Option.filter_some, hlive]; rfl
  have hlines (ls : List (List Byte)) : (ls.zipIdx.map fun p => if ([] : List Nat).contains p.2 then List.replicate 64 0#8 else p.1) = ls :=
    List.zipIdx_map_fst 0 ls
  subst hheader
  unfold Main.camClose
  simp only [hx, hframe, hkept, hrows, htnr, hstats, Nat.sub_self, List.replicate_zero, List.append_nil, Bool.not_true, Bool.false_eq_true,
    if_false, Bool.not_false, if_true, Option.isNone_some, Option.isSome_some, List.isEmpty_nil, Bool.and_false, Bool.false_and,
    Option.map_some, hlines, Nat.lt_irrefl, decide_false, Bool.or_self, Option.some_or, b2n, Nat.mul_zero, Nat.add_zero]

end

/-! ## Frames that begin and their lines -/

/-- The commands that a frame start of a sensor frees (R366). -/
theorem Main.i3c_i3cFrame (m : Main) (sn c : Nat) :
    (m.i3cFrame sn).i3c c = { m.i3c c with
      cmds := (m.i3c c).cmds.map fun e => if bitsOf e.word 23 20 = sn then { e with freed := true } else e } :=
  Tab.get_map i3cDef (fun y => { y with cmds := y.cmds.map fun e => if bitsOf e.word 23 20 = sn then { e with freed := true } else e })
    m.cam.i3c c rfl

section
variable {m : Main} {port vc sn : Nat} {x : CamSensor} (hserved : m.camSensorAt port vc = some sn) (hx : m.sensor sn = x)
include hserved hx

theorem Main.frameStart_of_idle (hidle : x.inFrame = false) (hout : x.out = none) :
    m.frameStart port vc = (m.setSensor sn { x with
      frame := (x.frame + 1) % 2 ^ 48, cfg := m.camWords sn, owner := m.fld (F.CAM_LS_OWNER_pasid sn), inFrame := true
      line := 0, rows := [], bad := false, long := false, ovf := false, emb := [], claim := x.waiting.filter m.runLive
      waiting := none }).i3cFrame sn := by
  have hclosed : m.camClose sn true [] = m := by
    unfold Main.camClose
    dsimp only
    rw [hx, hidle]
    rfl
  have hwait (w : Option (Nat × Nat × Nat)) : (if w.isSome then none else w) = none := by cases w <;> rfl
  unfold Main.frameStart
  rw [hserved]
  dsimp only
  rw [hclosed]
  simp only [hx, hout, Option.isSome_none, Bool.false_eq_true, if_false, hwait]

/-- A line inside the window is cropped; one whose CRC failed takes the row two above (R355). -/
theorem Main.longPacket_inside {dt : Nat} {bs : List Byte} {ok : Bool} (hframe : x.inFrame = true) (hovf : x.ovf = false)
    (hdt : typeDt (csType (m.camWords sn)) = some dt) (hlow : csY0 x.cfg ≤ x.line) (hhigh : x.line < csY0 x.cfg + csH x.cfg)
    (hrows : 2 ≤ x.rows.length) :
    m.longPacket port vc dt bs ok false = (if ok then m else m.count 0x52 port 1).setSensor sn { x with
      line := x.line + 1, bad := x.bad || !ok
      rows := x.rows ++ [if ok then cropLine x.cfg (unpackLine (csType x.cfg) bs) else x.rows.getD (x.rows.length - 2) (zeroRow x.cfg)] } := by
  obtain ⟨hknown, hpixel⟩ := typeDt_known hdt
  unfold Main.longPacket
  rw [hserved]
  simp only [hx, hknown, hdt, hframe, hpixel, hovf, Bool.not_true, Bool.false_eq_true, ne_eq, not_true_eq_false, not_false_eq_true, and_false,
    or_self, if_false, if_neg (Nat.not_le.2 hhigh), if_neg (Nat.not_lt.2 hrows)]
  exact if_neg (not_or.2 ⟨Nat.not_lt.2 hlow, by decide⟩)

end

/-! ## What such a command leaves -/

theorem Main.sensor_of_put {m n : Main} {sn : Nat} {y : CamSensor} (e : n.cam.sensors = Tab.put camDef sn y m.cam.sensors) :
    n.sensor sn = y ∧ ∀ j, j ≠ sn → n.sensor j = m.sensor j := by
  unfold Main.sensor
  rw [e]
  exact ⟨Tab.get_put_same .., fun j hj => Tab.get_put_other _ _ _ _ _ hj⟩

section
variable {i : Instr} {s : State} {f : Main → Main} {sn : Nat} {y : CamSensor} (he : exec i s = .next (s.warden f)) (hup : s.wardenUp = true)
include he hup

theorem Machine.onWarden_setSensor (hf : f s.mn = s.mn.setSensor sn y) :
    OnWarden i s fun n => n = { s.mn with cam := { s.mn.cam with sensors := n.cam.sensors }, absent := n.absent }
      ∧ n.sensor sn = y ∧ ∀ j, j ≠ sn → n.sensor j = s.mn.sensor j := by
  refine onWarden_eq he hup hf fun k a hk => ?_
  subst hk
  exact ⟨rfl, Main.sensor_of_put rfl⟩

theorem Machine.onWarden_count_setSensor {id k : Nat} (hk : k < 4096) (hf : f s.mn = (s.mn.count id k 1).setSensor sn y) :
    OnWarden i s fun n => n = { s.mn with cam := { s.mn.cam with sensors := n.cam.sensors }, ctr := n.ctr, absent := n.absent }
      ∧ n.sensor sn = y ∧ (∀ j, j ≠ sn → n.sensor j = s.mn.sensor j) ∧ s.mn.CountersBut n [(id, k)]
      ∧ n.counter id k = satAdd 48 (s.mn.counter id k) 1 := by
  refine onWarden_eq he hup hf fun n a hn => ?_
  have hctr : n.ctr = (s.mn.count id k 1).ctr := by subst hn; rfl
  obtain ⟨hsame, hother⟩ := Main.sensor_of_put (m := s.mn) (n := n) (sn := sn) (y := y) (by subst hn; rfl)
  exact ⟨by subst hn; rfl, hsame, hother, Main.countersBut_of_count hk hctr, Main.counter_of_count hctr⟩

theorem Machine.onWarden_setSensor_i3cFrame (hf : f s.mn = (s.mn.setSensor sn y).i3cFrame sn) :
    OnWarden i s fun n => n = { s.mn with absent := n.absent, cam := { s.mn.cam with sensors := n.cam.sensors, i3c := n.cam.i3c } }
      ∧ n.sensor sn = y ∧ (∀ j, j ≠ sn → n.sensor j = s.mn.sensor j)
      ∧ ∀ c < 4, n.i3c c = { s.mn.i3c c with
          cmds := (s.mn.i3c c).cmds.map fun e => if bitsOf e.word 23 20 = sn then { e with freed := true } else e } := by
  refine onWarden_eq he hup hf fun n a hn => ?_
  obtain ⟨hsame, hother⟩ := Main.sensor_of_put (m := s.mn) (n := n) (sn := sn) (y := y) (by subst hn; rfl)
  have hi3c (c : Nat) : n.i3c c = ((s.mn.setSensor sn y).i3cFrame sn).i3c c := by subst hn; rfl
  exact ⟨by subst hn; rfl, hsame, hother, fun c _ => (hi3c c).trans ((s.mn.setSensor sn y).i3c_i3cFrame sn c)⟩

/-- A frame counted, its record of statistics in place and the ring moved on. -/
theorem Machine.onWarden_recorded {a : Nat} {bs : List Byte} {r : RingPos} (hsn : sn < 4096)
    (hf : f s.mn = Main.setSensor { (s.mn.count 0x54 sn 1).hostWr a bs with cam := { s.mn.cam with stats := r } } sn y) :
    OnWarden i s fun n => n = { s.mn with cam := n.cam, host := n.host, ctr := n.ctr, absent := n.absent }
      ∧ n.sensor sn = y ∧ (∀ j, j ≠ sn → n.sensor j = s.mn.sensor j) ∧ n.cam.i3c = s.mn.cam.i3c ∧ n.cam.stats = r
      ∧ n.host.rdN (hostKey 0 a) bs.length = bs ∧ s.mn.host.But n.host (hostKey 0 a) bs.length
      ∧ s.mn.CountersBut n [(0x54, sn)] ∧ n.counter 0x54 sn = satAdd 48 (s.mn.counter 0x54 sn) 1 := by
  refine onWarden_eq he hup hf fun n b hn => ?_
  have hctr : n.ctr = (s.mn.count 0x54 sn 1).ctr := by subst hn; rfl
  have hhost : n.host = Mem.wrN (hostKey 0 a) bs s.mn.host := by subst hn; rfl
  obtain ⟨hsame, hother⟩ := Main.sensor_of_put (m := s.mn) (n := n) (sn := sn) (y := y) (by subst hn; rfl)
  refine ⟨by subst hn; rfl, hsame, hother, by subst hn; rfl, by subst hn; rfl, ?_, ?_, Main.countersBut_of_count hsn hctr,
    Main.counter_of_count hctr⟩
  · rw [hhost, Mem.rdN_wrN]
  · rw [hhost]; exact s.mn.host.but_wrN _ _

end

/-- Settles O43: a frame's start, its lines, its end for the run that claimed it and for none, and the two timeouts. -/
theorem framesAreTaken : Obligations.FramesAreTaken := by
  refine ⟨fun s port vc sn x w hup hserved hx hidle hout hw => ?_,
    fun s port vc sn dt x c bs ok hup hserved hx hc hframe hovf hdt hlow hhigh hrows => ?_,
    fun s port vc sn at_ x c header hup hserved hx hc hframe hclaim hrows htnr hstats hirq hroom hat hheader => ?_,
    fun s port vc sn l st rd x c header hup hserved hx hc hframe hclaim hlive hrows htnr hstats hheader => ?_,
    fun s sn late x hup hx hframe hclaim hstats => ?_, fun s sn x c l st rd hup hx hwait hlive hc => ?_⟩
  case refine_1 =>
    subst hw
    exact onWarden_setSensor_i3cFrame rfl hup (Main.frameStart_of_idle hserved hx hidle hout)
  case refine_2 =>
    subst hc
    have hline := Main.longPacket_inside (bs := bs) (ok := ok) hserved hx hframe hovf hdt hlow hhigh hrows
    have hport := port.isLt
    cases ok with
    | true =>
      obtain ⟨n, hnext, hn, hsame, hother⟩ := onWarden_setSensor (i := .csiLongPacket port vc dt bs true false) rfl hup hline
      refine ⟨n, hnext, ?_, hsame, hother, ?_, ?_⟩ <;> rw [hn]
      · exact s.mn.countersBut_refl _
      · rfl
    | false => exact onWarden_count_setSensor rfl hup (by omega) hline
  case refine_3 =>
    subst hc hat
    have hsn := Main.camSensorAt_lt hserved
    have hend : s.mn.frameEnd port.val vc.val [] = s.mn.camClose sn false [] := by rw [Main.frameEnd, hserved]
    have hlen := length_statsRecord x.cfg (header := header) (by rw [hheader]; exact length_camHeader ..) x.rows
      (statPlanes x.cfg (frontStages x.cfg x.ref x.rows).1) (x.emb.take 4096)
    have hrecorded := onWarden_recorded (i := .csiFrameEnd port vc []) rfl hup (by omega)
      (hend.trans (Main.camClose_recorded hx hframe hclaim hrows htnr hstats hirq hroom hheader))
    rwa [hlen] at hrecorded
  case refine_4 =>
    subst hc
    have hend : s.mn.frameEnd port.val vc.val [] = s.mn.camClose sn false [] := by rw [Main.frameEnd, hserved]
    exact onWarden_setSensor rfl hup (hend.trans (Main.camClose_claimed hx hframe hclaim hlive hrows htnr hstats hheader))
  case refine_5 =>
    have hsn := sn.isLt
    exact onWarden_count_setSensor rfl hup (by omega) (Main.camClose_short hx hframe hclaim hstats late)
  case refine_6 =>
    subst hc
    have hkept : x.waiting.filter s.mn.runLive = some (l, st, rd) := by rw [hwait, Option.filter_some, hlive]; rfl
    refine onWarden_setSensor rfl hup ?_
    unfold Main.recvTimeout
    dsimp only
    rw [hx, hkept]

end Sys2Proof
end
